-- ==== Sys2Proof/Word.lean ====
section
/-! DEFINITION. The word types of the block (R9, R10) and the type of a sparse table.
Bit 0 is the least significant bit; multi-byte values are little-endian (R10). -/

namespace Sys2Proof

/-- One byte (R10). -/
abbrev Byte := BitVec 8
/-- A 32-bit word. -/
abbrev W32 := BitVec 32
/-- A 64-bit word: the width of a register of the global window (R555). -/
abbrev W64 := BitVec 64
/-- A 512-bit unit: one packet unit, one descriptor, one ISSUE beat (R78, R165). -/
abbrev W512 := BitVec 512
/-- A packet of up to four units, bit 0 of unit 0 lowest (R165). -/
abbrev Packet := BitVec 2048

/-- A sparse table: key and value pairs, keys strictly rising, no value equal to the table's default. -/
abbrev Tbl (α : Type) := List (Nat × α)

/-- Bits `hi:lo` of a word as a number. -/
def bits {w : Nat} (x : BitVec w) (hi lo : Nat) : Nat := (x.toNat >>> lo) % 2 ^ (hi + 1 - lo)

/-- Bit `i` of a word. -/
def bit {w : Nat} (x : BitVec w) (i : Nat) : Bool := x.getLsbD i

end Sys2Proof
end

