-- ==== Sys2Proof/Syntax.lean ====
section
/-! DEFINITION. The commands of the block: one constructor per row of spec/opcode_table.json, in the table's order,
with the operands of its row; and the types of those operands. A command is a whole, indivisible step
(spec/95_what_each_step_holds.md). Durations counted in a clock other than fclk come as operands (notes/assumptions/4). -/

namespace Sys2Proof

/-- An AXI5 response (R42). -/
inductive Resp | okay | exokay | slverr | decerr
deriving DecidableEq, Repr

/-- AxSIZE of a host access: 4, 8 or 64 bytes, or any other size, which R28 refuses. -/
inductive HostSize | b4 | b8 | b64 | other
deriving DecidableEq, Repr

/-- A write presented at the host subordinate port (R27, R28), with its AWID (R26). `data` holds the written bytes from
bit 0. -/
structure HostWrite where
  addr : BitVec 27
  size : HostSize := .b8
  lenZero : Bool := true
  strobesExact : Bool := true
  atop : BitVec 6 := 0
  lock : Bool := false
  data : W512
  id : BitVec 16 := 0
deriving DecidableEq, Repr

/-- A read presented at the host subordinate port (R27, R28), with its ARID (R26). -/
structure HostRead where
  addr : BitVec 27
  size : HostSize := .b8
  lenZero : Bool := true
  id : BitVec 16 := 0
deriving DecidableEq, Repr

/-- A host access. -/
inductive HostAccess
  | write (w : HostWrite)
  | read (r : HostRead)
deriving DecidableEq, Repr

/-- Which step of a packet opcode happens: its shipped routine on the packet a Bucking-unit thread holds (checks 5
to 7 and the commit, R154, R203), or its executor's act on the Landing entry (R221). -/
inductive OpStep
  | routine (t : BitVec 4)
  | execute (e : Nat)
deriving DecidableEq, Repr

/-- Who asks the Deck (R395). -/
inductive DeckKind | begun | narrow | wide | scrub
deriving DecidableEq, Repr

/-- What a Deck request does (R394): it reads its row, or it writes data rows of its stripe, bit j for data position j of R393;
`whole` is false where it writes only a part of them and keeps the other bytes. -/
inductive DeckOp
  | read
  | write (rows : BitVec 7) (whole : Bool)
deriving DecidableEq, Repr

/-- A request waiting at a Deck bank: its kind, its age in dclk, its row and its operation (R394, R395). -/
structure DeckReq where
  kind : DeckKind
  age : Nat
  row : BitVec 10
  op : DeckOp
deriving DecidableEq, Repr

/-- What the codes find in the rows that one access reads (R401, R402): no error; single-bit errors corrected in `words` words;
or, with `words` corrected in the other rows, an uncorrectable row in bank `first` of the group, which a read's own bank is,
and perhaps a second uncorrectable row of the stripe in bank `second`. -/
inductive RowEcc
  | clean
  | corrected (words : Nat)
  | uncorrectable (first : BitVec 3) (words : Nat) (second : Option (BitVec 3))
deriving DecidableEq, Repr

/-- The steps of SELF_TEST (R191, R548, R549): routine, start of the test at issue, the end of a cluster's drain, the end of
the test with what it found; and, while a Deck test makes its pass, the read of one row, and a stripe, named by one of its
rows, whose parity is wrong. -/
inductive TestStep
  | routine (t : BitVec 4)
  | execute (e : Nat)
  | leave (e : Nat)
  | finish (e : Nat) (pass : Bool)
  | row (e : Nat) (bank : BitVec 7) (row : BitVec 10) (ecc : RowEcc)
  | parity (e : Nat) (bank : BitVec 7) (row : BitVec 10)
deriving DecidableEq, Repr

/-- The sender of a late Deck write (R407). -/
inductive LateSource
  | stream (engine : BitVec 4) (slot : BitVec 6)
  | save (cluster : BitVec 6)
deriving DecidableEq, Repr

/-- A late Deck write (R407): who sends it, and the context that it is for. -/
structure LateWrite where
  sender : LateSource
  ctx : BitVec 20
deriving DecidableEq, Repr

/-- The steps of a command whose image is read by transactions (R472, R484): it starts and its reads are issued, and it is carried
out once they have been answered. -/
inductive ImageStep | read | check
deriving DecidableEq, Repr

/-- A hand-over to a thread (R193): the queue, and whether the packet's dispatch entry is uncorrectable (R208). -/
structure HandOver where
  queue : BitVec 14
  uncorr : Bool
deriving DecidableEq, Repr

/-- A reset or clock input of R72; `t` is TRST_N and TCK of the test access port (R68). -/
inductive Domain
  | ao | f | d | h
  | m (port : BitVec 3)
  | c (cluster : BitVec 6)
  | t
deriving DecidableEq, Repr

/-- What happens to a clock input (R563): it stops, it leaves its range, or it changes frequency within it. -/
inductive ClockEvent | stops | leavesRange | changes
deriving DecidableEq, Repr

/-- What a memory BIST run found (R569). -/
structure BistResult where
  failClass : BitVec 4
  failInstance : BitVec 8
  failAddr : BitVec 20
  failCount : BitVec 16
deriving DecidableEq, Repr

/-- The commands: one constructor per row of spec/opcode_table.json, in its order. -/
inductive Instr
  -- host port, registers (R33, R138 to R141, R229, R499 to R505, R439, R493, R347, R400, R471, R538, R556)
  | inlineDoorbell (q : BitVec 14) (unit : W512)
  | writePointerDoorbell (q : BitVec 14) (wp : W32)
  | completionReadPointerDoorbell (q : BitVec 14) (rp : W32)
  | sleepHostAccess (a : HostAccess)
  | hostSignal (n : BitVec 16) (v : W64)
  | irqClaim (v : BitVec 3)
  | irqComplete (v : BitVec 3) (value : W64)
  | irqSync
  | irqPendingWrite (k : BitVec 4) (value events : W64)
  | irqEnableWrite (k : BitVec 4) (value : W64)
  | xltFltRingWrite (value : W64)
  | xltFltRpWrite (value : W64)
  | fwcLogRingWrite (value : W64)
  | fwcLogRpWrite (value : W64)
  | lndProgBackingWrite (value : W64)
  | dckSwrCfgWrite (r : BitVec 6) (value : W64)
  | deckRegionZeroed (r : BitVec 6)
  | start (value : W64)
  | fwcResetWhole
  | fwcResetFrontEnd
  | registerWrite (w : HostWrite)
  | mailboxAccessTimeout (page : BitVec 8)
  -- mailbox requests: a write of `v` to MBX_GO of `page` whose request has the row's code (R482, R484)
  | hello (page : BitVec 8) (v : W64)
  | rtTableLoad (page : BitVec 8) (v : W64) (image : ImageStep)
  | tableActivation
  | shareCfg (page : BitVec 8) (v : W64)
  | sgCfg (page : BitVec 8) (v : W64)
  | partAssign (page : BitVec 8) (v : W64)
  | partitionJoin (c : BitVec 6)
  | partRegulate (page : BitVec 8) (v : W64)
  | progQuery (page : BitVec 8) (v : W64)
  | ucodePatch (page : BitVec 8) (v : W64) (image : ImageStep)
  | ledgerRestore (page : BitVec 8) (v : W64)
  | ledgerFlush (page : BitVec 8) (v : W64)
  | wallclock (page : BitVec 8) (v : W64)
  | dumpArea (page : BitVec 8) (v : W64)
  | powerPolicy (page : BitVec 8) (v : W64)
  -- fetcher and Bucking unit (R150, R195, R200 to R208)
  | fetchTurn
  | threadDispatch (q : HandOver)
  | uopNop (t : BitVec 4)
  | uopAdd (t : BitVec 4)
  | uopSub (t : BitVec 4)
  | uopAnd (t : BitVec 4)
  | uopOr (t : BitVec 4)
  | uopXor (t : BitVec 4)
  | uopShl (t : BitVec 4)
  | uopShr (t : BitVec 4)
  | uopAddi (t : BitVec 4)
  | uopAndi (t : BitVec 4)
  | uopShli (t : BitVec 4)
  | uopMovi (t : BitVec 4)
  | uopFld (t : BitVec 4)
  | uopBr (t : BitVec 4)
  | uopDrd (t : BitVec 4)
  | uopObj (t : BitVec 4)
  | uopBlz (t : BitVec 4)
  | uopSte (t : BitVec 4)
  | uopAdmit (t : BitVec 4)
  | uopRej (t : BitVec 4)
  | uopRejif (t : BitVec 4)
  | deckWait (t : BitVec 4)
  | xltMiss (t : BitVec 4)
  | order (t : BitVec 4)
  | header (t : BitVec 4)
  | lock (t : BitVec 4)
  | runaway (t : BitVec 4) (uncorr : Bool)
  -- Landing (R220, R222, R232, R236)
  | rejectionPassage (q : BitVec 14)
  | entryReady (e : Nat)
  | retirement (e : Nat)
  | mirrorWrite (n : BitVec 16)
  -- packet opcodes (R169 to R191, R284, R292, R294)
  | nop (st : OpStep)
  | launch (st : OpStep)
  | haul (st : OpStep)
  | signal (st : OpStep)
  | wait (st : OpStep)
  | programLoad (st : OpStep)
  | graphLoad (st : OpStep)
  | graphLaunch (st : OpStep)
  | graphNodeAdmission (e : Nat)
  | graphPatch (st : OpStep)
  | graphRelease (st : OpStep)
  | contextCreate (st : OpStep)
  | contextDestroy (st : OpStep)
  | queueBind (st : OpStep)
  | queueUnbind (st : OpStep)
  | objectFree (st : OpStep)
  | tlbInvalidate (st : OpStep)
  | faultResume (st : OpStep)
  | contextKill (st : OpStep)
  | blazeConfig (st : OpStep)
  | selfTestCluster (st : TestStep)
  | selfTestFrontEnd (st : TestStep)
  | selfTestDeck (st : TestStep)
  | microcodeDefinedOpcode (t : BitVec 4)
  -- haul engines, translation, manager ports (R42, R355, R359, R360, R438, R523, R48)
  | haulTake
  | chunkStart (engine : BitVec 4) (slot : BitVec 6)
  | lineLockAcquire (engine : BitVec 4) (slot : BitVec 6)
  | slashRingRetry
  | managerReadResponse (ifc : BitVec 6) (id : BitVec 12) (resp : Resp) (poison : Bool) (data : List Byte)
  | managerWriteResponse (ifc : BitVec 6) (id : BitVec 12) (resp : Resp)
  | portTimeout
  | drainTimeout
  | loaderRun (e : Nat)
  -- Yarder (R111, R249, R255 to R276)
  | sharePlacement (c : BitVec 6)
  | bestEffortDispatch
  | dequeTake (c : BitVec 6)
  | steal (c : BitVec 6)
  | residencyLoad (ctx : BitVec 20)
  | reservationWindowOpen (i : BitVec 12) (m : BitVec 8)
  | rtRelease (i : BitVec 12)
  | windowClose (i : BitVec 12)
  | majorFrame
  | accountingTick
  | queueTimerFire (q : BitVec 14)
  | waitGraphProbe
  -- sequencer and switches (R299, R327 to R330, R447, R454, R455)
  | launchStart (c : BitVec 6)
  | bundleIssue (c : BitVec 6) (stream : BitVec 2) (cclk : Nat)
  | launchComplete (c : BitVec 6)
  | chainedLaunchStart (c : BitVec 6)
  | preemptStop (c : BitVec 6)
  | switchOut (c : BitVec 6)
  | switchIn (c : BitVec 6)
  -- engine link (R84 to R101)
  | doneToken (c : BitVec 6) (valid : BitVec 4) (data : W64) (epoch : BitVec 8)
  | creditReturn (c : BitVec 6) (pools : BitVec 5)
  | flushed (c : BitVec 6) (msg : W32)
  | yielded (c : BitVec 6) (msg : W32)
  | syncError (c : BitVec 6) (msg : W32)
  | ctrlResponse (c : BitVec 6) (data : W32) (err : Bool)
  | saveBeat (c : BitVec 6) (data : BitVec 1024) (last : Bool)
  | restoreBeat (c : BitVec 6)
  | engineReady (c : BitVec 6)
  | engineReadyFall (c : BitVec 6)
  | readyTimeout (c : BitVec 6) (elapsed : Nat)
  | ctrlTimeout (c : BitVec 6) (elapsed : Nat)
  -- Deck (R395, R405, R407)
  | deckRowAccess (bank : BitVec 7) (reqs : List DeckReq) (ecc : RowEcc)
  | scrubRead (ecc : RowEcc)
  | lateWrite (group : BitVec 4) (gen : BitVec 8) (src : LateWrite)
  -- interrupts (R501, R502, R54)
  | vectorMessage (v : BitVec 3)
  | irqMessageResend (v : BitVec 3)
  | firmwareClaim (p : BitVec 7)
  | firmwareComplete (p : BitVec 7) (source : BitVec 10)
  -- firmware processors (R472 to R478)
  | bundleCheck (bundle : ImageStep)
  | processorFailure (p : BitVec 7) (cause : BitVec 4)
  | fwWatchdogExpiry (p : BitVec 7) (elapsed : Nat)
  | processorRestart (p : BitVec 7)
  | restartTimeout (p : BitVec 7)
  -- power (R513 to R519, R63, R65, R66)
  | idleEntry
  | idleExit
  | autoPowerEntry
  | powerPoll
  | pollTimeout
  | powerEntry
  | pwrAck (ack deny : Bool)
  | pdPwrAck (k : BitVec 7) (good : Bool)
  | wakeN (level : Bool)
  | wakeConsume
  | powerExit
  -- recovery (R525 to R537)
  | clusterWatchdogExpiry (c : BitVec 6) (elapsed : Nat)
  | suspectReplay (c : BitVec 6)
  | frontEndReset
  | wholeBlockReset
  | outOfService
  -- fabric notices, test access, resets and clocks (R57, R58, R69, R568 to R570, R74, R562, R71, R563)
  | tokenReceive (data : W64)
  | tokenSend
  | idcode
  | bypass (ir : BitVec 8)
  | mbistCtrl (value : W32)
  | mbistStatus
  | mbistRunEnd (result : Option BistResult)
  | resetAssert (dom : Domain)
  | resetRelease (dom : Domain)
  | testModeChange (level : Bool)
  | clockChange (dom : Domain) (ev : ClockEvent)
  -- the rest of the table (R276, R507, R89, R483)
  | regulatorBucketRefill (p : BitVec 3)
  | messageAwaitTimeout (v : BitVec 3)
  | syncRequestTaken (c : BitVec 6)
  | mbxGoReservedCode (page : BitVec 8) (v : W64)
deriving DecidableEq, Repr

end Sys2Proof
end

