-- ==== Sys2Proof/Decode.lean ====
section
/-! DEFINITION. The commands that spec/opcode_table.json spells by bits. It gives no row any bits: commands come to the block
as events at its ports, and none is encoded as a word. (The packet opcodes, microwords and sequencer bundles that the block
itself reads are data of these commands: Machine/Bucking.lean, Machine/Routines.lean, Machine/Sequencer.lean.) -/

namespace Sys2Proof

/-- The command that a word spells by the table's bits. -/
def decodeTableWord (_nbits _w : Nat) : Option Instr := none

end Sys2Proof
end

