-- ==== Sys2Proof/Config.lean ====
section
/-! DEFINITION. What an implementation fixes, and the free values of the model: constants with no body, so that
nothing can evaluate one or prove a value of it. Each is named in a row of notes/assumptions. -/

namespace Sys2Proof.Config

/-- The licensee's manufacturer code in IDCODE bits 11:1, a build value (R69). -/
opaque idManufacturer : BitVec 11

/-- The digest that the integrator ties to KEY_HASH, one value for the life of the part (R67). -/
opaque keyHash : BitVec 384

/-- SHA-384 of a byte string, as the standard that R470 names defines it: uninterpreted here. -/
opaque sha384 : List Byte → BitVec 384

/-- ECDSA over P-384 with SHA-384 (R470): key, signature, message. Uninterpreted here. -/
opaque ecdsaVerify : List Byte → List Byte → List Byte → Bool

/-- The microcode section of a bundle or patch (R210, R211): the spec gives no layout of it. The microwords by
address, the dispatch entries by opcode and the reserved masks by index that a section's bytes hold. -/
opaque ucodeWords : List Byte → List (Nat × BitVec 40)
/-- Dispatch entries of a microcode section (R196, R210). -/
opaque ucodeDispatch : List Byte → List (Nat × BitVec 32)
/-- Reserved masks of a microcode section (R196, R210). -/
opaque ucodeMasks : List Byte → List (Nat × BitVec 2048)
/-- Major, minor and build number, and the patch identity of a microcode section (R210, R212). -/
opaque ucodeVersion : List Byte → BitVec 8 × BitVec 8 × BitVec 16 × BitVec 16

/-- A 64-bit word of a Deck record whose layout the spec does not give (R201: PROGRAM when bound, GRAPH, QUEUE,
FWSHARED): region code, key, word offset, and the free-value counter of the state. -/
opaque deckRecord : Nat → Nat → Nat → Nat → W64

/-- Which chunk in flight of an engine, in the order of its slots, a row of its staging region holds; past the last, a
buffer that holds none (R404 gives no layout): engine, row, and the free-value counter. -/
opaque stagedIn : Nat → Nat → Nat → Nat
/-- Which graph in use a row of the graph store holds, in table order; past the last, none (R404). -/
opaque graphIn : Nat → Nat → Nat
/-- What a row of the firmware-shared region holds, by the lines of R479, and which processor, context slot or page. -/
opaque sharedIn : Nat → Nat → Nat × Nat

/-- The firmware fields of IRQ_ROUTEs, bits 10:0, as the scheduler core writes them when it starts (R497 gives no values):
free-value counter and source. -/
opaque firmwareRoute : Nat → Nat → BitVec 11
/-- The firmware enable words of a processor as its firmware writes them (R498): free-value counter and processor. -/
opaque firmwareEnable : Nat → Nat → BitVec 1024

/-- A plain free value of 64 bits, fresh for each value of the state's free-value counter. -/
opaque freeWord : Nat → W64
/-- A free byte for the destination bytes that R356 leaves without a result. -/
opaque freeByte : Nat → Byte

/-- The leaf-cache set of a context and virtual address bits 56:21 (R422 names a hash and does not give it). -/
opaque leafSet : BitVec 20 → Nat → Nat
/-- The walk-cache set (R421 gives sets and ways, not the index). -/
opaque walkSet : BitVec 20 → Nat → Nat
/-- The object-cache set (R421). -/
opaque objSet : BitVec 20 → Nat → Nat

/-- The magnitude `2^(L/16)` that the block forms from an NL8 code, as a multiple of 2^-40; R386 bounds it. -/
opaque nl8Magnitude : Int → Nat
/-- The NL8 code the block chooses for a magnitude given as mantissa and exponent; R386 bounds it. -/
opaque nl8Code : Nat → Int → Int
/-- Whether a magnitude within 2^-8 of the ZERO threshold becomes ZERO (R386). -/
opaque nl8BecomesZero : Nat → Int → Bool


/-- Beat `n` that the cluster self-test drives on path `p` (R98): a 31-bit LFSR, whose polynomial and seed the spec does not
give. -/
opaque loopBeat : Nat → Nat → BitVec 1024

end Sys2Proof.Config
end

