-- ==== Sys2Proof/Machine/Table.lean ====
section
/-! DEFINITION. Sparse tables (keys strictly rising, no default value listed), plain keyed lists (keys strictly rising),
byte lists and words, and small list helpers used by every meaning. -/

namespace Sys2Proof.Machine

/-- Read of a sparse table: the default where the key is not listed. -/
def tget {α : Type} (d : α) : Tbl α → Nat → α
  | [], _ => d
  | (j, v) :: r, k => if j = k then v else tget d r k

/-- Write of a sparse table, keeping keys rising and listing no default. -/
def tset {α : Type} [DecidableEq α] (d : α) : Tbl α → Nat → α → Tbl α
  | [], k, v => if v = d then [] else [(k, v)]
  | (j, w) :: r, k, v =>
    if j = k then (if v = d then r else (j, v) :: r)
    else if k < j then (if v = d then (j, w) :: r else (k, v) :: (j, w) :: r)
    else (j, w) :: tset d r k v

/-- Update of one value of a sparse table. -/
def tupd {α : Type} [DecidableEq α] (d : α) (t : Tbl α) (k : Nat) (f : α → α) : Tbl α :=
  tset d t k (f (tget d t k))

/-- Every value mapped, defaults dropped. -/
def tmap {α : Type} [DecidableEq α] (d : α) (f : Nat → α → α) (t : Tbl α) : Tbl α :=
  (t.map (fun p => (p.1, f p.1 p.2))).filter (fun p => p.2 ≠ d)

/-- Keys strictly rising. -/
def keysRise {α : Type} : List (Nat × α) → Bool
  | [] => true
  | [_] => true
  | (j, _) :: (k, w) :: r => decide (j < k) && keysRise ((k, w) :: r)

/-- The canonical form of a sparse table. -/
def tblWf {α : Type} [DecidableEq α] (d : α) (t : Tbl α) : Bool :=
  keysRise t && t.all (fun p => decide (p.2 ≠ d))

/-- Look up in a keyed list. -/
def lget {α : Type} : List (Nat × α) → Nat → Option α
  | [], _ => none
  | (j, v) :: r, k => if j = k then some v else lget r k

/-- Insert or replace in a keyed list, keeping keys rising. -/
def lset {α : Type} : List (Nat × α) → Nat → α → List (Nat × α)
  | [], k, v => [(k, v)]
  | (j, w) :: r, k, v =>
    if j = k then (k, v) :: r else if k < j then (k, v) :: (j, w) :: r else (j, w) :: lset r k v

/-- Drop a key of a keyed list. -/
def ldel {α : Type} (t : List (Nat × α)) (k : Nat) : List (Nat × α) := t.filter (fun p => p.1 ≠ k)

/-- Update an element of a keyed list, if present. -/
def lupd {α : Type} (t : List (Nat × α)) (k : Nat) (f : α → α) : List (Nat × α) :=
  t.map (fun p => if p.1 = k then (p.1, f p.2) else p)

/-- The lowest number from `n` on, at most `fuel` further, that is no key. -/
def freeKey {α : Type} (t : List (Nat × α)) : Nat → Nat → Nat
  | _, n => t.foldl (fun m p => if p.1 = m then m + 1 else m) n

/-- The element with the least measure, the first of equals. -/
def leastBy {α : Type} (m : α → Nat) : List α → Option α
  | [] => none
  | x :: r =>
    match leastBy m r with
    | none => some x
    | some y => if m x ≤ m y then some x else some y

/-- Bytes of a number, least significant first (R10). -/
def toBytes : Nat → Nat → List Byte
  | 0, _ => []
  | n + 1, v => BitVec.ofNat 8 v :: toBytes n (v / 256)

/-- Number of a byte list, least significant byte first (R10). -/
def ofBytes : List Byte → Nat
  | [] => 0
  | b :: r => b.toNat + 256 * ofBytes r

/-- `n` bytes of a list from an offset; bytes past its end read zero. -/
def slice (l : List Byte) (off n : Nat) : List Byte :=
  let t := (l.drop off).take n
  t ++ List.replicate (n - t.length) 0

/-- Little-endian number at a byte offset. -/
def le (l : List Byte) (off n : Nat) : Nat := ofBytes (slice l off n)

/-- Bytes written over a list at an offset. -/
def putBytes (l : List Byte) (off : Nat) (b : List Byte) : List Byte :=
  l.take off ++ b ++ l.drop (off + b.length)

/-- Bytes gathered by offset. -/
def gathered (l : List (Nat × List Byte)) : List Byte :=
  ((l.mergeSort (fun a b => a.1 ≤ b.1)).map (·.2)).flatten

/-- Element of a list of numbers, zero past its end. -/
def nth (l : List Nat) (i : Nat) : Nat := l.getD i 0

/-- A list with element `i` changed. -/
def listUpd {α : Type} (l : List α) (i : Nat) (f : α → α) : List α := l.modify i f

/-- No duplicates, keeping first occurrences in order. -/
def dedup {α : Type} [DecidableEq α] (l : List α) : List α :=
  (l.foldl (fun (a : List α) x => if x ∈ a then a else x :: a) []).reverse

/-- A signed number of a 32-bit difference (R139, R152). -/
def sdiff32 (a b : W32) : Int := (a - b).toInt

/-- Value `a` has reached value `b` (R223). -/
def reached (a b : W64) : Bool := decide (0 ≤ (a - b).toInt)

/-- A field of a word written: bits `hi:lo` replaced. -/
def putBits {w : Nat} (x : BitVec w) (hi lo : Nat) (v : Nat) : BitVec w :=
  let m := (2 ^ (hi + 1 - lo) - 1) <<< lo
  BitVec.ofNat w (((x.toNat ||| m) ^^^ m) ||| ((v % 2 ^ (hi + 1 - lo)) <<< lo))

/-- Clamp of a register's logarithm field. -/
def clamp (lo hi n : Nat) : Nat := if n < lo then lo else if hi < n then hi else n

/-- One if true. -/
def b2n (b : Bool) : Nat := if b then 1 else 0

end Sys2Proof.Machine
end

