-- ==== Sys2Proof/Machine/Formats.lean ====
section
/-! DEFINITION. Number formats and conversion (R374 to R390): exact values, rounding to a floating format, integers, NL8,
MX blocks, and the sum of REDUCE. -/

namespace Sys2Proof.Machine

/-- An exact element value (R383): NaN, an infinity, or (−1)^neg × m × 2^e. -/
inductive FVal
  | nan
  | inf (neg : Bool)
  | fin (neg : Bool) (m : Nat) (e : Int)
deriving DecidableEq, Repr

/-- A result with its flags: an element code, OVERFLOW and FLUSHED (R389). -/
structure FRes where
  /-- The element's code. -/
  code : Nat
  /-- OVERFLOW is set. -/
  ovf : Bool := false
  /-- FLUSHED is set. -/
  flush : Bool := false
deriving DecidableEq, Repr

/-- The parameters of a floating element (R376). `nan` is 0 for none, 1 for IEEE, 2 for E4M3's single code. -/
structure FFmt where
  /-- Exponent bits. -/
  ebits : Nat
  /-- Fraction bits. -/
  fbits : Nat
  /-- Bias. -/
  bias : Nat
  /-- The format has infinities. -/
  hasInf : Bool
  /-- NaN encodings. -/
  nan : Nat
deriving DecidableEq, Repr

/-- BINARY32 (R376). -/
def fBinary32 : FFmt := { ebits := 8, fbits := 23, bias := 127, hasInf := true, nan := 1 }
/-- E4M3 (R376). -/
def fE4M3 : FFmt := { ebits := 4, fbits := 3, bias := 7, hasInf := false, nan := 2 }
/-- E5M2 (R376). -/
def fE5M2 : FFmt := { ebits := 5, fbits := 2, bias := 15, hasInf := true, nan := 1 }

/-- The floating element of a format code, its own or its MX element (R374, R376); none for integers, NL8 and MXINT8. -/
def floatOf (f : Nat) : Option FFmt :=
  match f with
  | 0x00 => some fBinary32
  | 0x01 => some { ebits := 5, fbits := 10, bias := 15, hasInf := true, nan := 1 }
  | 0x02 => some { ebits := 8, fbits := 7, bias := 127, hasInf := true, nan := 1 }
  | 0x03 => some fE4M3
  | 0x04 => some fE5M2
  | 0x05 => some fE4M3
  | 0x06 => some fE5M2
  | 0x07 => some { ebits := 3, fbits := 2, bias := 3, hasInf := false, nan := 0 }
  | 0x08 => some { ebits := 2, fbits := 3, bias := 1, hasInf := false, nan := 0 }
  | 0x09 => some { ebits := 2, fbits := 1, bias := 1, hasInf := false, nan := 0 }
  | 0x10 => some { ebits := 5, fbits := 6, bias := 15, hasInf := true, nan := 1 }
  | _ => none

/-- Width in bits of an element (R374). -/
def fmtWidth (f : Nat) : Nat :=
  match f with
  | 0x00 => 32 | 0x01 => 16 | 0x02 => 16 | 0x07 => 6 | 0x08 => 6 | 0x09 => 4
  | 0x0B => 32 | 0x0C => 16 | 0x0E => 4 | 0x10 => 12 | _ => 8

/-- An MX format (R374, R380). -/
def isMx (f : Nat) : Bool := 0x05 ≤ f && f ≤ 0x0A
/-- A format code that R374 assigns. -/
def fmtOk (f : Nat) : Bool := f ≤ 0x11
/-- MX_BS as a block size (R309). -/
def mxBlock (b : Nat) : Nat := match b with | 0 => 32 | 1 => 8 | 2 => 16 | 3 => 64 | _ => 128

/-- The range of an integer format (R385). -/
def intRange (f : Nat) : Int × Int :=
  match f with
  | 0x0B => (-2 ^ 31, 2 ^ 31 - 1)
  | 0x0C => (-32768, 32767)
  | 0x0D => (-128, 127)
  | 0x0E => (-8, 7)
  | _ => (0, 255)

/-- An integer format (R374). -/
def isInt (f : Nat) : Bool := 0x0B ≤ f && f ≤ 0x0F

/-- The code of the largest finite value, without its sign. -/
def FFmt.maxCode (p : FFmt) : Nat :=
  if p.nan = 1 then (2 ^ p.ebits - 1) * 2 ^ p.fbits - 1
  else if p.nan = 2 then 2 ^ (p.ebits + p.fbits) - 2 else 2 ^ (p.ebits + p.fbits) - 1
/-- The code of +infinity. -/
def FFmt.infCode (p : FFmt) : Nat := (2 ^ p.ebits - 1) * 2 ^ p.fbits
/-- The canonical NaN (R376). -/
def FFmt.nanCode (p : FFmt) : Nat :=
  if p.nan = 1 then p.infCode + 2 ^ (p.fbits - 1) else 2 ^ (p.ebits + p.fbits) - 1
/-- The sign bit's weight. -/
def FFmt.sign (p : FFmt) (neg : Bool) : Nat := if neg then 2 ^ (p.ebits + p.fbits) else 0
/-- Exponent of the smallest subnormal. -/
def FFmt.qmin (p : FFmt) : Int := 1 - (p.bias : Int) - p.fbits

/-- The value of a floating element, and whether it is subnormal (R376). -/
def FFmt.decode (p : FFmt) (c : Nat) : FVal × Bool :=
  let neg := (c >>> (p.ebits + p.fbits)) % 2 = 1
  let mag := c % 2 ^ (p.ebits + p.fbits)
  let e := mag >>> p.fbits
  let f := mag % 2 ^ p.fbits
  if p.nan = 1 && e = 2 ^ p.ebits - 1 then (if f = 0 then .inf neg else .nan, false)
  else if p.nan = 2 && mag = 2 ^ (p.ebits + p.fbits) - 1 then (.nan, false)
  else if e = 0 then (.fin neg f p.qmin, decide (f ≠ 0))
  else (.fin neg (2 ^ p.fbits + f) (p.qmin + (e : Int) - 1), false)

/-- `m × 2^d` rounded to an integer: to nearest with ties to even, or toward zero (R377). -/
def roundShift (m : Nat) (d : Int) (trunc : Bool) : Nat :=
  if 0 ≤ d then m <<< d.toNat
  else
    let k := (-d).toNat
    let q := m >>> k
    let r := m % 2 ^ k
    let half := 2 ^ (k - 1)
    if trunc then q else if half < r || (r = half && q % 2 = 1) then q + 1 else q

/-- Floor of log2 of `m × 2^e`, for m not zero. -/
def floorLog (m : Nat) (e : Int) : Int := (Nat.log2 m : Int) + e

/-- The magnitude code of `m × 2^e` rounded to the format over its whole exponent range (R383); it may exceed
`maxCode`. -/
def FFmt.roundMag (p : FFmt) (m : Nat) (e : Int) (trunc : Bool) : Nat :=
  if m = 0 then 0
  else
    let q := max (floorLog m e - p.fbits) p.qmin
    (q - p.qmin).toNat * 2 ^ p.fbits + roundShift m (e - q) trunc

/-- A value into a floating format (R383, R384, R388). -/
def FFmt.encode (p : FFmt) (v : FVal) (trunc sat subn : Bool) : FRes :=
  let big (neg : Bool) : FRes := { code := p.sign neg + p.maxCode, ovf := true }
  let past (neg : Bool) : FRes :=
    if p.hasInf then { code := p.sign neg + p.infCode } else { code := p.nanCode, ovf := true }
  match v with
  | .nan => { code := p.nanCode }
  | .inf neg => if sat then big neg else past neg
  | .fin neg m e =>
    let c := p.roundMag m e trunc
    if p.maxCode < c then (if sat then big neg else if trunc then { code := p.sign neg + p.maxCode, ovf := true } else past neg)
    else if subn && decide (0 < c) && decide (c < 2 ^ p.fbits) then { code := p.sign neg, flush := true }
    else { code := p.sign neg + c }

/-- A two's-complement code of width `w`. -/
def intCode (w : Nat) (n : Int) : Nat := (n % (2 ^ w : Nat)).toNat

/-- `(−1)^neg × m × 2^e` rounded to an integer (R385). -/
def roundInt (neg : Bool) (m : Nat) (e : Int) (trunc : Bool) : Int :=
  let n : Int := roundShift m e trunc
  if neg then -n else n

/-- A value into an integer format (R385): clamped, NaN becomes 0; each clamp and NaN sets OVERFLOW. -/
def intEncode (f : Nat) (v : FVal) (trunc : Bool) : FRes :=
  let r := intRange f
  let w := fmtWidth f
  match v with
  | .nan => { code := 0, ovf := true }
  | .inf neg => { code := intCode w (if neg then r.1 else r.2), ovf := true }
  | .fin neg m e =>
    -- a magnitude of 2^40 or more is past every range
    let n := if m ≠ 0 && decide (40 ≤ floorLog m e) then (if neg then -2 ^ 40 else 2 ^ 40) else roundInt neg m e trunc
    if n < r.1 then { code := intCode w r.1, ovf := true }
    else if r.2 < n then { code := intCode w r.2, ovf := true }
    else { code := intCode w n }

/-! ## NL8 (R379, R386) -/

/-- `m × 2^-40` lies within a relative 2^-22 of `2^(L/16)`: R386's bound, as 16th powers. -/
def nl8Near (l : Int) (m : Nat) : Bool :=
  decide ((2 ^ 22 - 1) ^ 16 * 2 ^ (640 + 64 + l).toNat ≤ m ^ 16 * 2 ^ (352 + 64)) &&
  decide (m ^ 16 * 2 ^ (352 + 64) ≤ (2 ^ 22 + 1) ^ 16 * 2 ^ (640 + 64 + l).toNat)

/-- The magnitude formed from an NL8 code, as a multiple of 2^-40: the implementation's, held within R386's bound. -/
def nl8Mag (l : Int) : Nat :=
  let m := Config.nl8Magnitude l
  if nl8Near l m then m else Nat.sqrt (Nat.sqrt (Nat.sqrt (Nat.sqrt (2 ^ (640 + l).toNat))))

/-- The value of an NL8 code (R379, R386). -/
def nl8Decode (c : Nat) : FVal :=
  if c = 0x40 then .fin false 0 0 else if c = 0xC0 then .nan
  else
    let l : Int := (BitVec.ofNat 7 c).toInt
    .fin (c / 128 % 2 = 1) (nl8Mag l) (-40)

/-- `(m × 2^e)^k` compared with `2^t`: true where it is at least `2^t`. -/
def powGe (m : Nat) (e : Int) (k : Nat) (t : Int) : Bool :=
  let d := e * k - t
  if 0 ≤ d then decide (1 ≤ m) else decide (2 ^ (-d).toNat ≤ m ^ k)
/-- True where it is at most `2^t`. -/
def powLe (m : Nat) (e : Int) (k : Nat) (t : Int) : Bool :=
  let d := e * k - t
  if 0 ≤ d then decide (m ^ k * 2 ^ d.toNat ≤ 1) else decide (m ^ k ≤ 2 ^ (-d).toNat)

/-- R386's bound on a code: within 0.5 + 2^-8 of 16 × log2 to nearest; at most it, by less than 1 + 2^-8, toward zero. -/
def nl8CodeOk (trunc : Bool) (m : Nat) (e : Int) (l : Int) : Bool :=
  if trunc then powGe m e 4096 (256 * l) && !powGe m e 4096 (256 * l + 257)
  else powGe m e 4096 (256 * l - 129) && powLe m e 4096 (256 * l + 129)

/-- The code L for a magnitude: the implementation's, held within R386's bound. -/
def nl8L (trunc : Bool) (m : Nat) (e : Int) : Int :=
  let l := Config.nl8Code m e
  if nl8CodeOk trunc m e l then l
  else
    let k := floorLog (m ^ 16) (16 * e)
    if trunc || !powGe m e 32 (2 * k + 1) then k else k + 1

/-- A value into NL8 (R379, R384, R386). -/
def nl8Encode (v : FVal) (trunc sat : Bool) : FRes :=
  let past (neg : Bool) : FRes :=
    if sat || trunc then { code := (if neg then 128 else 0) + 63, ovf := true } else { code := 0xC0, ovf := true }
  match v with
  | .nan => { code := 0xC0 }
  | .inf neg => if sat then { code := (if neg then 128 else 0) + 63, ovf := true } else { code := 0xC0, ovf := true }
  | .fin neg m e =>
    if m = 0 then { code := 0x40 }
    else
      let zero := if trunc then !powGe m e 16 (-63)
        else !powGe m e 4096 (-16257) || (powLe m e 4096 (-16255) && Config.nl8BecomesZero m e)
      if zero then { code := 0x40 }
      else
        let l := max (-63) (nl8L trunc m e)
        if 63 < l then past neg else { code := (if neg then 128 else 0) + intCode 7 l }

/-! ## Elements -/

/-- A source element's value before its scale, with the input flush of R388 and its flag. -/
def elemIn (f c : Nat) (subn : Bool) : FVal × Bool :=
  match floatOf f with
  | some p =>
    let d := p.decode c
    if subn && d.2 then (match d.1 with | .fin neg _ _ => (.fin neg 0 0, true) | v => (v, false)) else (d.1, false)
  | none =>
    if f = 0x11 then (nl8Decode c, false)
    else if f = 0x0A then
      let n : Int := (BitVec.ofNat 8 c).toInt
      (.fin (decide (n < 0)) n.natAbs (-6), false)
    else
      let n : Int := if f = 0x0F then (c : Int) else
        if 2 ^ (fmtWidth f - 1) ≤ c then (c : Int) - (2 ^ fmtWidth f : Nat) else c
      (.fin (decide (n < 0)) n.natAbs 0, false)

/-- A value multiplied by the scale X of its block (R380): 0xFF is NaN. -/
def scaleVal (v : FVal) (x : Nat) : FVal :=
  if x = 0xFF then .nan else match v with | .fin neg m e => .fin neg m (e + x - 127) | u => u

/-- A value into an element of a format that is not MX (R383 to R386). -/
def elemOut (f : Nat) (v : FVal) (trunc sat subn : Bool) : FRes :=
  match floatOf f with
  | some p => p.encode v trunc sat subn
  | none => if f = 0x11 then nl8Encode v trunc sat else intEncode f v trunc

/-! ## MX blocks (R387) -/

/-- emax of an MX element (R387). -/
def mxEmax (f : Nat) : Int :=
  match f with | 0x05 => 8 | 0x06 => 15 | 0x07 => 4 | 0x08 => 2 | 0x09 => 2 | _ => 0

/-- An MX block as written: its scale, and its element codes; an element of a block with scale 0xFF has no code. -/
structure MxBlock where
  /-- The scale byte. -/
  scale : Nat
  /-- Element codes. -/
  elems : List (Option Nat)
  /-- OVERFLOW is set. -/
  ovf : Bool
  /-- FLUSHED is set. -/
  flush : Bool
deriving DecidableEq, Repr

/-- amax of a block: the largest finite magnitude, as mantissa and exponent (R387). -/
def blockMax (l : List FVal) : Nat × Int :=
  l.foldl (fun (a : Nat × Int) v => match v with
    | .fin _ m e =>
      let k := min a.2 e
      if a.1 <<< (a.2 - k).toNat < m <<< (e - k).toNat then (m, e) else a
    | _ => a) (0, 0)

/-- An element of an MX block with exponent `e` (R387, R388): code, OVERFLOW, FLUSHED; none where the block becomes NaN. -/
def mxElem (f : Nat) (e : Int) (v : FVal) (trunc sat subn : Bool) : Option FRes :=
  match floatOf f with
  | some p =>
    (match v with
     | .nan => if p.nan = 0 then none else some { code := p.nanCode }
     | .inf neg =>
       if p.hasInf then some { code := p.sign neg + p.infCode }
       else if sat then some { code := p.sign neg + p.maxCode, ovf := true }
       else if p.nan = 0 then none else some { code := p.nanCode, ovf := true }
     | .fin neg m x =>
       let c := min (p.roundMag m (x - e) trunc) p.maxCode
       if subn && decide (0 < c) && decide (c < 2 ^ p.fbits) then some { code := p.sign neg, flush := true }
       else some { code := p.sign neg + c })
  | none =>
    (match v with
     | .nan => none
     | .inf neg => if sat then some { code := intCode 8 (if neg then -127 else 127), ovf := true } else none
     | .fin neg m x =>
       let n := min (roundShift m (x - e + 6) trunc) 127
       some { code := intCode 8 (if neg then -(n : Int) else n) })

/-- A block of an MX destination (R387). -/
def mxEncode (f : Nat) (l : List FVal) (trunc sat subn : Bool) : MxBlock :=
  let a := blockMax l
  let e0 : Int := if a.1 = 0 then -127 else max (-127) (floorLog a.1 a.2 - mxEmax f)
  let e := min e0 127
  let r := l.map (fun v => mxElem f e v trunc sat subn)
  if (127 < e0 && !sat) || r.any (·.isNone) then
    { scale := 0xFF, elems := l.map (fun _ => none), ovf := l.any (fun v => v ≠ .nan), flush := false }
  else
    { scale := (e + 127).toNat, elems := r.map (fun x => x.map (·.code))
      ovf := decide (127 < e0) || r.any (fun x => match x with | some y => y.ovf | none => false)
      flush := r.any (fun x => match x with | some y => y.flush | none => false) }

/-! ## REDUCE (R390) -/

/-- The sum of two values: exact, an exact zero of unlike signs being +0. -/
def addVal (a b : FVal) : FVal :=
  match a, b with
  | .nan, _ => .nan
  | _, .nan => .nan
  | .inf x, .inf y => if x = y then .inf x else .nan
  | .inf x, _ => .inf x
  | _, .inf y => .inf y
  | .fin x m e, .fin y n g =>
    let k := min e g
    let p : Int := (m <<< (e - k).toNat : Nat)
    let q : Int := (n <<< (g - k).toNat : Nat)
    let t := (if x then -p else p) + (if y then -q else q)
    if t = 0 then .fin (x && y) 0 0 else .fin (decide (t < 0)) t.natAbs k

/-- A value converted to binary32 (R390, R383), with OVERFLOW. SAT is for the rounded result alone (R384). -/
def toBinary32 (v : FVal) (trunc : Bool) : FVal × Bool :=
  let r := fBinary32.encode v trunc false false
  ((fBinary32.decode r.code).1, r.ovf)

/-- The binary32 sum of R390: flushed with SUBN 1 (R388); with `round` rounded to binary32 first, as for an MX
destination. Value, OVERFLOW, FLUSHED. -/
def sumVal (d x : FVal) (trunc subn round : Bool) : FVal × Bool × Bool :=
  let a := toBinary32 d trunc
  let b := toBinary32 x trunc
  let t := addVal a.1 b.1
  let r : FVal × Bool := if round then toBinary32 t trunc else (t, false)
  match r.1 with
  | .fin neg m e =>
    if subn && m ≠ 0 && decide (floorLog m e < -126) then (.fin neg 0 0, a.2 || b.2 || r.2, true)
    else (r.1, a.2 || b.2 || r.2, false)
  | v => (v, a.2 || b.2 || r.2, false)

end Sys2Proof.Machine
end

