-- ==== Sys2Proof/Machine/State.lean ====
section
/-! DEFINITION. The state of the block as plain data, its faults and refusals, and the state after reset.
Every field's docstring names the rule of spec/ that gives it; a field whose docstring says MODEL is the model's
own bookkeeping (notes/assumptions/3). Default values are the Reset columns of the field maps (R559). -/

namespace Sys2Proof.Machine

/-- The build parameters of R3, constant in every run. -/
structure Build where
  /-- CLUSTERS: 16, 32 or 64 (R3). -/
  clusters : Nat := 64
  /-- MEM_PORTS: 4 or 8 (R3). -/
  memPorts : Nat := 8
  /-- DECK_RAW_MIB: 32 or 64 (R3). -/
  deckMiB : Nat := 64
  /-- HAUL_ENGINES: 8 or 16 (R3). -/
  haulEngines : Nat := 16
deriving DecidableEq, Repr

/-- STATE of a context record (R104). -/
inductive CtxState | free | active | faulted
deriving DecidableEq, Repr

/-- A context record (R104) with the block's own notes on the context. -/
structure Context where
  /-- STATE (R104). -/
  state : CtxState := .free
  /-- RESIDENT (R104). -/
  resident : Bool := false
  /-- RES_SLOT (R104). -/
  resSlot : BitVec 6 := 0
  /-- PARTITION (R104). -/
  partition : BitVec 3 := 0
  /-- SHARE_GROUP (R104). -/
  shareGroup : BitVec 8 := 0
  /-- TEARDOWN_STATUS (R104). -/
  teardown : BitVec 8 := 0
  /-- JOB_TAG (R104). -/
  jobTag : BitVec 32 := 0
  /-- DESC_PFN (R104). -/
  descPfn : BitVec 40 := 0
  /-- QUOTA (R104). -/
  quota : BitVec 18 := 0
  /-- OBJ_TABLE_PA and OBJ_TABLE_LEN kept from the first object miss until CONTEXT_DESTROY (R425). -/
  objTable : Option (BitVec 64 × BitVec 32) := none
  /-- FE_CYCLES when the context was last placed on a cluster (R112). -/
  lastPlaced : Nat := 0
  /-- The cluster that last held the context (R272). -/
  lastCluster : Option (BitVec 6) := none
  /-- The CONTEXT_DESTROY entries that wait until the context is drained (R108). -/
  destroys : List Nat := []
deriving DecidableEq, Repr

/-- The fields of a context descriptor page that a residency slot keeps (R106, R415, R427). -/
structure Descriptor where
  /-- ROOT_PFN (R415). -/
  rootPfn : BitVec 40 := 0
  /-- LEVELS5 (R415). -/
  levels5 : Bool := false
  /-- OBJ_TABLE_PA (R106). -/
  objPa : BitVec 64 := 0
  /-- OBJ_TABLE_LEN (R106). -/
  objLen : BitVec 32 := 0
  /-- SAVE_PA (R106). -/
  savePa : BitVec 64 := 0
  /-- SAVE_SPAN (R106). -/
  saveSpan : BitVec 8 := 0
  /-- SAVE_ATTR (R106). -/
  saveAttr : BitVec 8 := 0
  /-- The six window entries in the form of R82 (R427). -/
  windows : List W64 := []
deriving DecidableEq, Repr

/-- State of a residency slot (R110). -/
inductive ResState | free | loading | resident | evicting
deriving DecidableEq, Repr

/-- State of one slice of a save area (R452). -/
inductive SliceState | empty | held | image | launch
deriving DecidableEq, Repr

/-- A residency slot (R110) with the epochs of R429 and the slices of R452. -/
structure ResSlot where
  /-- The slot's state (R110). -/
  state : ResState := .free
  /-- The context it holds (R110). -/
  ctx : BitVec 20 := 0
  /-- FE_CYCLES when the context was loaded (R112). -/
  loadedAt : Nat := 0
  /-- The copy of the descriptor page (R110). -/
  desc : Descriptor := {}
  /-- The current epoch (R429). -/
  epoch : BitVec 2 := 0
  /-- The in-flight counts of the four epochs (R429). -/
  inFlight : List Nat := [0, 0, 0, 0]
  /-- The state of each slice below SAVE_SPAN (R452). -/
  slices : List SliceState := []
  /-- A cluster has switched the context in since its load (R453). -/
  switchedIn : Bool := false
  /-- IMAGE_MASK and LAUNCH_MASK have been read since the load (R453). -/
  masksRead : Bool := false
deriving DecidableEq, Repr

/-- State of a queue slot (R116). -/
inductive QState | free | open_ | draining | failed
deriving DecidableEq, Repr

/-- Fetcher state of a queue (R148). -/
inductive FState | parked | woken | fetching | blocked | gap | stopped
deriving DecidableEq, Repr

/-- BLOCK of FE_QV_STATE (R146). -/
inductive BlockWhy | none_ | landing | quota | refs | cpl | serial
deriving DecidableEq, Repr

/-- A rejection the Landing holds in its queue's order until it passes the retirement port (R236). -/
structure Rejection where
  /-- Serial of the packet (R162). -/
  serial : BitVec 32
  /-- Opcode of the packet (R162). -/
  opcode : BitVec 8
  /-- The rejection status (R155). -/
  status : BitVec 8
  /-- The completion Blaze to put into ERROR, if the conditions of R236 hold. -/
  blaze : Option (BitVec 16)
  /-- FE_CYCLES of the rejection (R162). -/
  fc : Nat
  /-- Admission order, shared with the entries (R236). -/
  ord : Nat
  /-- A completion entry is reserved for it (R161). -/
  cplReserved : Bool
deriving DecidableEq, Repr

/-- A queue slot record (R115, R116, R134, R136, R144 to R148). -/
structure Queue where
  /-- QSTATE (R116). -/
  state : QState := .free
  /-- CONTEXT (R115). -/
  ctx : BitVec 20 := 0
  /-- PRIV: true for KERNEL (R115). -/
  kernel : Bool := false
  /-- ORDER: true for RETIRE (R115). -/
  retire : Bool := false
  /-- CLASS (R115, R187). -/
  cls : BitVec 2 := 0
  /-- DIAG (R115). -/
  diag : Bool := false
  /-- RING_PA bits 51:12 (R134). -/
  ringPfn : BitVec 40 := 0
  /-- RING_LOG2 (R134). -/
  ringLog2 : BitVec 5 := 0
  /-- RING_ATTR (R134). -/
  ringAttr : BitVec 8 := 0
  /-- CPL_PA bits 51:12 (R134). -/
  cplPfn : BitVec 40 := 0
  /-- CPL_LOG2 (R134). -/
  cplLog2 : BitVec 5 := 0
  /-- TMO_LOG2 (R134). -/
  tmoLog2 : BitVec 6 := 0
  /-- WP (R136, R144). -/
  wp : W32 := 0
  /-- RP (R136, R144). -/
  rp : W32 := 0
  /-- DB_SEEN (R146, R149). -/
  dbSeen : Bool := false
  /-- EXP_SERIAL (R145). -/
  expSerial : W32 := 0
  /-- The inline cell: CELL_FULL, and the packet whose serial is CELL_SERIAL (R141, R145). -/
  cell : Option W512 := none
  /-- Inline packets sent on by the fetcher and not yet handed to a thread, oldest first; their serials are in flight (R152,
  R193). -/
  inl : List W512 := []
  /-- FE_DUP_CNT.COUNT (R147). -/
  dupCnt : W32 := 0
  /-- FE_QV_REFUSED.STALE_WP (R147). -/
  staleWp : W32 := 0
  /-- FE_QV_REFUSED.INL_REFUSED (R147). -/
  inlRefused : W32 := 0
  /-- FE_QV_CPL.CPL_RP (R147). -/
  cplRp : W32 := 0
  /-- FE_QV_CPL.CPL_WP (R147). -/
  cplWp : W32 := 0
  /-- CPL_LOST (R146). -/
  cplLost : Bool := false
  /-- Completion entries answered before an earlier one, which CPL_WP has still to pass (R163). -/
  cplAhead : List W32 := []
  /-- FSTATE (R148). -/
  fstate : FState := .parked
  /-- BLOCK (R146). -/
  block : BlockWhy := .none_
  /-- FAILED and marked for release (R116). -/
  release : Bool := false
  /-- The QUEUE_UNBIND entries that wait for FREE (R116). -/
  unbinds : List Nat := []
  /-- FE_CYCLES at which the queue timer last restarted (R159). -/
  timerFc : Nat := 0
  /-- Fired, waiting for the wait-graph probe (R237). -/
  fired : Bool := false
  /-- Admitted packets not yet given a completion entry (R161). -/
  cplReserved : Nat := 0
  /-- Order in which the queue blocked (R156). -/
  blockSeq : Nat := 0
  /-- What the packet that waits under R156 needs: its Landing entries and its distinct handles. -/
  need : Nat × List W32 := (1, [])
  /-- The fetcher has made step 1 of the park rule and not yet step 2 (R149). -/
  parking : Bool := false
  /-- Ring units read and not yet handed to a thread; the first is at unit count `rp` plus the units in threads (R150). -/
  units : List W512 := []
  /-- A ring read is outstanding (R150). -/
  reading : Bool := false
  /-- Rejections waiting for their turn at the retirement port (R236). -/
  rejections : List Rejection := []
  /-- Packets taken in the present turn (R150). -/
  turn : Nat := 0
  /-- `ord` of the operation admitted last on the queue (R220). MODEL. -/
  lastOrd : Nat := 0
deriving DecidableEq, Repr

/-- State of a Landing entry other than FREE (R219). -/
inductive EState | pending | ready | issued
deriving DecidableEq, Repr

/-- Where the Yarder, a deque or a cluster holds a launch. MODEL, for R221, R248, R250, R272. -/
inductive Place
  | none_
  | deque (c : BitVec 6)
  | shadow (c : BitVec 6)
  | active (c : BitVec 6)
  | chained (c : BitVec 6)
  | returned
  | stopped
deriving DecidableEq, Repr

/-- An object-table entry as cached (R118, R119, R421). -/
structure ObjEntry where
  /-- GEN (R118). -/
  gen : BitVec 12 := 0
  /-- WR (R118). -/
  wr : Bool := false
  /-- RD (R118). -/
  rd : Bool := false
  /-- PAGES (R118). -/
  pages : BitVec 36 := 0
  /-- VA_PFN (R118). -/
  vaPfn : BitVec 45 := 0
deriving DecidableEq, Repr

/-- A Landing entry: its operation image and its control state (R215, R216). -/
structure Entry where
  /-- The eight image words, word k at bits 64k+63:64k (R216). -/
  img : W512 := 0
  /-- The packet as committed: the private payload of the kernel kinds (R216), and unit 1 to 3 of the others. -/
  pkt : Packet := 0
  /-- The entry's state (R219). -/
  state : EState := .pending
  /-- Its queue (R215). -/
  queue : BitVec 14 := 0
  /-- Its context (R216). -/
  ctx : BitVec 20 := 0
  /-- On a KERNEL queue (R156). -/
  kernelQ : Bool := false
  /-- CLASS of its queue (R115). -/
  cls : BitVec 2 := 0
  /-- Opcode of its packet (R162). -/
  opcode : BitVec 8 := 0
  /-- Admission order, block-wide (R220, R238). -/
  ord : Nat := 0
  /-- `ord` of its queue predecessor, 0 when it has none (R220). MODEL. -/
  pred : Nat := 0
  /-- FE_CYCLES at which it became READY (R268 'oldest'). -/
  readyAt : Nat := 0
  /-- Waits already met, one bit each in the order WAIT0, WAIT1, records (R219). -/
  met : BitVec 16 := 0
  /-- Reference-table records it holds (R121). -/
  refs : List Nat := []
  /-- Charged to its context's quota (R104, R284). -/
  charged : Bool := true
  /-- The start fc (R22) or the fc at which it began (R162). -/
  startFc : W64 := 0
  /-- Its executor's end report: status and PROPAGATED (R219, R226). -/
  report : Option (BitVec 8 × Bool) := none
  /-- Its launch has issued its first bundle (R22). -/
  begun : Bool := false
  /-- The report of that issue waits for the end of a front-end reset (R533). -/
  unstamped : Bool := false
  /-- It has been stopped for a teardown, and its executor has not yet reported (R235). -/
  torn : Bool := false
  /-- Where the launch is (R221, R248, R250). -/
  place : Place := .none_
  /-- The LAUNCH slice of a pre-empted launch (R454). -/
  slice : Option Nat := none
  /-- The WAIT this WAIT_EXT entry extends (R218). -/
  extOf : Option Nat := none
  /-- Admission order of the PROGRAM_LOAD whose binding a launch took (R337). MODEL. -/
  bind : Nat := 0
  /-- The cluster whose control core runs the loader for a load (R339). -/
  loader : Option (BitVec 6) := none
  /-- The CHAINED entry of a LAUNCH with LEN 3 (R218). -/
  chain : Option Nat := none
  /-- The first launch of a CHAINED entry (R218). -/
  chainOf : Option Nat := none
  /-- Status of the first launch, kept for the completion entry of R162; on a first launch, that of the chained launch when it
  retired first (R240, R241). -/
  firstStatus : Option (BitVec 8) := none
  /-- Start fc of the first launch, kept for the completion entry of R162; on a first launch, the fc at which the chained
  launch retired. -/
  firstFc : W64 := 0
  /-- The GRAPH_LAUNCH of a GRAPH_NODE (R295). -/
  parent : Option Nat := none
  /-- Node index of a GRAPH_NODE (R295). -/
  node : Nat := 0
  /-- The version a GRAPH_LAUNCH pins or a GRAPH_NODE runs (R284). -/
  version : Nat := 0
  /-- The next node a GRAPH_LAUNCH admits (R284). -/
  nextNode : Nat := 0
  /-- Status of the first node to retire with a status other than OK (R288). -/
  nodeStatus : Option (BitVec 8) := none
  /-- FE_CYCLES and index of that node's retirement (R288). -/
  nodeFirst : Nat × Nat := (0, 0)
  /-- Nodes that have retired, with their status and ERR_CONTEXT, in order (R285, R287). -/
  nodesDone : List (Nat × BitVec 8 × BitVec 20) := []
  /-- Sync-slot signals the launch passed to the Landing before a hang (R529). -/
  passed : Nat := 0
  /-- Bytes staged by a load's image read (R340, R358). -/
  staged : List Byte := []
  /-- Handles of a graph image that have resolved so far, with their objects (check 9 of R281). -/
  objs : List (W32 × ObjEntry) := []
  /-- A step of the command's effect that must complete before it retires has begun. MODEL: the command's own phase. -/
  phase : Nat := 0
  /-- A completion entry is reserved for it (R161). -/
  cplReserved : Bool := false
deriving DecidableEq, Repr

/-- What one update does to a Blaze (R224, R226). -/
inductive BlazeOp
  /-- An increment. -/
  | inc (v : W64)
  /-- A set. -/
  | set (v : W64)
  /-- Entry into ERROR with a status, a context and PROPAGATED. -/
  | err (status : BitVec 8) (c : BitVec 20) (prop : Bool)
deriving DecidableEq, Repr

/-- An update with its place in the list of R225: the step, and within a step the admission order of a retirement or the
number of a cluster. -/
structure BlazeUp where
  /-- Step of R225; 0 for a loss of the record (R404). -/
  rank : Nat
  /-- Place within the step. -/
  sub : Nat
  /-- What it does. -/
  op : BlazeOp
deriving DecidableEq, Repr

/-- The updates that a Blaze has had in one fclk cycle (R225), and what it was before them. MODEL. -/
structure BlazeCycle where
  /-- FE_CYCLES of the cycle. -/
  fc : Nat
  /-- VALUE before them. -/
  value : W64
  /-- ERROR before them. -/
  error : Bool
  /-- ERR_STATUS before them. -/
  errStatus : BitVec 8
  /-- ERR_CONTEXT before them. -/
  errContext : BitVec 20
  /-- PROPAGATED before them. -/
  propagated : Bool
  /-- BLZ_STALE_CNT.LAST_BLAZE before them. -/
  staleLast : BitVec 16
  /-- The updates, in the order of R225. -/
  ups : List BlazeUp := []
  /-- BLAZE_CONFIG, the last step, has written the Blaze. -/
  config : Bool := false
deriving DecidableEq, Repr

/-- A Blaze record (R229, R230, R190). -/
structure Blaze where
  /-- VALUE (R229). -/
  value : W64 := 0
  /-- CONFIGURED (R230). -/
  configured : Bool := false
  /-- ERROR (R230). -/
  error : Bool := false
  /-- ERR_STATUS (R230). -/
  errStatus : BitVec 8 := 0
  /-- ERR_CONTEXT (R230). -/
  errContext : BitVec 20 := 0
  /-- PROPAGATED (R226, R230). -/
  propagated : Bool := false
  /-- OWNER (R230). -/
  owner : BitVec 20 := 0
  /-- ANY_PART (R230). -/
  anyPart : Bool := false
  /-- The valid USER entries (R190). -/
  users : List (BitVec 20) := []
  /-- MIRROR_EN (R230). -/
  mirrorEn : Bool := false
  /-- MIRROR_LOST (R230). -/
  mirrorLost : Bool := false
  /-- MIRROR_PA (R190). -/
  mirrorPa : W64 := 0
  /-- A mirror write is outstanding (R232). -/
  mirrorOut : Bool := false
  /-- The value has changed since the last mirror write was issued (R232). -/
  mirrorDue : Bool := false
  /-- The record was lost in the Deck: every wait on it fails (R404). -/
  lost : Bool := false
  /-- Its updates of one fclk cycle (R225). MODEL. -/
  cycle : Option BlazeCycle := none
deriving DecidableEq, Repr

/-- A record of the reference table (R121), with the object it names as admission found it. -/
structure RefRec where
  /-- Context of the object (R121). -/
  ctx : BitVec 20 := 0
  /-- Handle of the object (R117). -/
  handle : W32 := 0
  /-- The count, 24 bits (R121). -/
  count : Nat := 0
  /-- Virtual page of the object's base (R118). -/
  vaPfn : BitVec 45 := 0
  /-- Length in pages (R118). -/
  pages : BitVec 36 := 0
  /-- RD (R118). -/
  rd : Bool := false
  /-- WR (R118). -/
  wr : Bool := false
  /-- Held on a KERNEL queue's behalf only (R121 reserve). MODEL. -/
  kernelOnly : Bool := false
deriving DecidableEq, Repr

/-- Why a Bucking-unit thread is parked (R206). -/
inductive Trap | deckWait | xltMiss | order | header | lock
deriving DecidableEq, Repr

/-- A handle-list entry of a thread: the handle and the object it resolved to (R193, R200). -/
structure Resolved where
  /-- The handle (R117). -/
  handle : W32
  /-- The object (R118). -/
  obj : ObjEntry
deriving DecidableEq, Repr

/-- A Bucking-unit thread (R193). -/
structure Thread where
  /-- It holds a packet (R193). -/
  busy : Bool := false
  /-- Queue of the packet (R193). -/
  queue : BitVec 14 := 0
  /-- The packet buffer (R193). -/
  pkt : Packet := 0
  /-- T0 to T31 (R198). -/
  regs : Vector W64 32 := Vector.replicate 32 0
  /-- The operation image (R193, R216). -/
  img : W512 := 0
  /-- The handle list of eight entries (R193). -/
  handles : List (Option Resolved) := List.replicate 8 none
  /-- The micro-PC (R193). -/
  upc : BitVec 14 := 0
  /-- START taken at dispatch (R203, R211). -/
  startPc : BitVec 14 := 0
  /-- Microwords executed since START (R208). -/
  count : Nat := 0
  /-- The trap that parks it (R206). -/
  trap : Option Trap := none
  /-- The pending stale mark (R202). -/
  stale : Bool := false
  /-- Conflict restarts (R205). -/
  restarts : Nat := 0
  /-- The header checker's Blaze reads have finished (R202). -/
  headerDone : Bool := false
  /-- Failure of a header Blaze: PRIVILEGE or MALFORMED (R202). -/
  headerFail : Option (BitVec 8) := none
  /-- Dispatch order (R194). -/
  seq : Nat := 0
  /-- Units it occupies in the ring; 0 for an inline packet (R137, R140). -/
  ringUnits : Nat := 0
  /-- What the routine has read: region and key of a PROGRAM or GRAPH record or of an object (regions 2, 3 and 5), or a
  parameter Blaze of a shipped routine (region 6), with the commit stamp seen (R203). -/
  reads : List (Nat × Nat × Nat) := []
  /-- The object the thread waits for under XLT_MISS: handle and handle-list entry (R206). -/
  miss : Option (W32 × Nat × Nat) := none
  /-- Status with which the packet is to be rejected at its queue turn, for a failure found outside a microword (R195,
  R206). -/
  reject : Option (BitVec 8) := none
  /-- That failure is one of checks 2 to 4, found before the routine (R195). -/
  early : Bool := false
  /-- The packet passed check 2 (R236). -/
  passed2 : Bool := true
  /-- Handles that OBJ found not to resolve (R202). -/
  unresolved : List W32 := []
  /-- The value DRD asked for, delivered when the Deck data arrives: register and word (R201). -/
  drd : Option (Nat × W64) := none
deriving DecidableEq, Repr

/-- State of a program binding (R337). -/
inductive BindState | loading | ready | failed
deriving DecidableEq, Repr

/-- A native image (R343): private to the block. -/
structure Image where
  /-- MODE: true for lane (R343). -/
  lane : Bool := false
  /-- INIT_0 to INIT_3 (R343). -/
  init : List Nat := [0, 0, 0, 0]
  /-- The handle map (R343). -/
  hmap : List (BitVec 16) := []
  /-- The four lists, as 16-bit units (R301, R343). -/
  lists : List (List (BitVec 16)) := [[], [], [], []]
deriving DecidableEq, Repr

/-- A binding of a program number (R337). -/
structure Binding where
  /-- Its context (R337). -/
  ctx : BitVec 20
  /-- Its program number (R337). -/
  program : BitVec 16
  /-- The binding value (R337). -/
  binding : BitVec 16
  /-- Its state (R337). -/
  state : BindState
  /-- Status of a failed load (R337). -/
  status : BitVec 8 := 0
  /-- Reject code (R341). -/
  code : BitVec 8 := 0
  /-- RECORD of R347. -/
  record : BitVec 20 := 0
  /-- The native image, once READY (R337). -/
  image : Image := {}
  /-- The pages of the backing area that its image takes (R344). -/
  pages : List Nat := []
  /-- Admission order of its PROGRAM_LOAD: a binding value returns after the count has wrapped (R337, R340). MODEL. -/
  ord : Nat := 0
deriving DecidableEq, Repr

/-- One live version of a stored graph: its number and its node records (R290, R292). -/
structure GVersion where
  /-- Version number, 0 for GRAPH_LOAD's (R292). -/
  number : Nat
  /-- Its node-map slot, of the graph's four (R282, R295). -/
  slot : Nat := 0
  /-- The 128-byte node records (R279). -/
  nodes : List (BitVec 1024)
deriving DecidableEq, Repr

/-- A graph number of a context (R184, R282, R292, R294). -/
structure Graph where
  /-- Claimed (R184). -/
  claimed : Bool := false
  /-- Releasing (R184). -/
  releasing : Bool := false
  /-- Its GRAPH_LOAD has retired (R293). -/
  loaded : Bool := false
  /-- It holds a stored graph (R184). -/
  holds : Bool := false
  /-- Status of a failed GRAPH_LOAD (R184). -/
  failStatus : BitVec 8 := 0
  /-- The live versions, oldest first; the last is the one that the next patch replaces (R292). -/
  versions : List GVersion := []
  /-- Number the next version takes (R292). -/
  nextVersion : Nat := 0
  /-- The version that a GRAPH_LAUNCH pins: the newest whose patch has retired (R292). -/
  shown : Nat := 0
  /-- The edge array (R280). -/
  edges : List (BitVec 16) := []
  /-- PATCH_NODES (R278). -/
  patchNodes : Nat := 0
  /-- The footprint in units (R282). -/
  footprint : Nat := 0
  /-- Reference records the graph holds (R290). -/
  refs : List Nat := []
  /-- The GRAPH_RELEASE entries that wait (R294). -/
  releases : List Nat := []
  /-- GRAPH_PATCHes that had issued and not retired when the number became releasing (R294). -/
  patches : List Nat := []
deriving DecidableEq, Repr

/-- A held operand copy (R312). -/
structure OpCopy where
  /-- Its context (R312). -/
  ctx : BitVec 20
  /-- Descriptor-table handle, offset and count (R312). -/
  desc : W32 × Nat × Nat
  /-- Scalar-image handle, offset and length (R312). -/
  sdata : W32 × Nat × Nat
  /-- The DESC_COUNT descriptors (R312). -/
  descs : List Byte
  /-- The SDATA_LEN bytes (R312). -/
  image : List Byte
  /-- Virtual pages it was read from (R312, R430). -/
  pages : List Nat
  /-- Parts still to be read: 0 the descriptors, 1 the scalar image. -/
  missing : List Nat
  /-- Order of its last use, among the operand copies and cached pages of the program cache (R345). -/
  stamp : Nat := 0
deriving DecidableEq, Repr

/-- A page's translation as a chunk uses it (R417). -/
structure Xlat where
  /-- Virtual page. -/
  vpn : Nat
  /-- Physical page. -/
  pfn : BitVec 40
  /-- Memory attribute (R414). -/
  attr : BitVec 8
deriving DecidableEq, Repr

/-- One piece of a chunk's access: virtual or Deck address and length in bytes, at an offset of the chunk's data. -/
structure Piece where
  /-- In a software-managed Deck region (R399). -/
  deck : Bool
  /-- Virtual address, or byte address in the software-managed region. -/
  addr : Nat
  /-- Length in bytes. -/
  len : Nat
  /-- Offset within the chunk's bytes of its operand. -/
  off : Nat
  /-- Order in which the chunk's elements first need it (R363). -/
  key : Nat
deriving DecidableEq, Repr

/-- Where a chunk stands among the steps of R360. -/
inductive ChunkPhase | translating | waitingLock | reading | writing
deriving DecidableEq, Repr

/-- A chunk in flight (R360). -/
structure Chunk where
  /-- Chunk number (R360). -/
  n : Nat
  /-- Its step (R360). -/
  phase : ChunkPhase
  /-- Epoch it counts under (R429). -/
  epoch : BitVec 2
  /-- Translations taken at step 1 (R362). -/
  xlats : List Xlat := []
  /-- Pages still to translate, with need of RD and WR, in the order of R363. -/
  need : List (Nat × Bool × Bool) := []
  /-- Source bytes read so far: offset and bytes (R360). -/
  src : List (Nat × List Byte) := []
  /-- Destination bytes read so far, for REDUCE (R360); once writing, the staged result (R367). -/
  dst : List (Nat × List Byte) := []
  /-- Reads outstanding. -/
  reads : Nat := 0
  /-- Writes outstanding (R360 step 6). -/
  writes : Nat := 0
  /-- A burst of the chunk failed: it writes nothing more (R364). -/
  bad : Bool := false
  /-- Bytes of `src` that came from a lost row of the Deck, as offset and length (R43, R404). -/
  lostSrc : List (Nat × Nat) := []
  /-- The same for `dst`, and once writing for the result: WPOISON, and nothing to a Deck destination (R43, R404). -/
  lostDst : List (Nat × Nat) := []
deriving DecidableEq, Repr

/-- What a haul stream carries (R349, R359). -/
inductive StreamKind
  | haul
  | load
  | copy (launch : Nat)
  | descriptor (ctx : BitVec 20)
  | reclaim (entry : Nat)
deriving DecidableEq, Repr

/-- A fault record before it is posted (R434). -/
structure FaultRec where
  /-- CAUSE (R435). -/
  cause : BitVec 8
  /-- WRITE (R434). -/
  write : Bool
  /-- ADVICE (R434). -/
  advice : Bool
  /-- UNPOSTED (R434, R437). -/
  unposted : Bool
  /-- ENGINE (R434). -/
  engine : Nat
  /-- SLOT (R434). -/
  slot : Nat
  /-- VA (R434). -/
  va : Nat
  /-- CONTEXT (R434). -/
  ctx : BitVec 20
  /-- LEVEL (R434). -/
  level : Nat
  /-- QUEUE (R434). -/
  queue : BitVec 14
  /-- FC (R434). -/
  fc : W64
deriving DecidableEq, Repr

/-- An operand of a haul operation (R352). -/
structure Operand where
  /-- A software-managed Deck region. -/
  deck : Bool
  /-- Address of the first row: virtual, or in the software-managed regions. -/
  base : Nat
  /-- Bytes from row to row. -/
  pitch : Nat
  /-- Format code; raw bytes with `raw`. -/
  fmt : Nat
  /-- COPY and PREFETCH: bytes, not elements. -/
  raw : Bool
  /-- Bits of an element. -/
  width : Nat
  /-- MX block size, 0 for a format that is not MX. -/
  bs : Nat
  /-- MX blocks run across rows. -/
  dir : Bool
  /-- Elements of a row. -/
  rowLen : Nat
  /-- Rows. -/
  rows : Nat
deriving DecidableEq, Repr

/-- Another haul operation whose time in the engines overlaps (R356): its context, whether it is a REDUCE, and its
destination. -/
structure Rival where
  /-- Its context. -/
  ctx : BitVec 20
  /-- REDUCE. -/
  reduce : Bool
  /-- Its destination. -/
  dst : Operand
deriving DecidableEq, Repr

/-- A haul stream in a descriptor slot (R349). -/
structure Stream where
  /-- What it carries (R359). -/
  kind : StreamKind
  /-- The Landing entry it serves (R349). -/
  entry : Nat
  /-- Its context (R359). -/
  ctx : BitVec 20
  /-- OP, formats and modes of R350: the descriptor as executed. -/
  desc : W512
  /-- Virtual base and page count of the source object (R118). -/
  srcVa : Nat := 0
  /-- Virtual base of the destination object (R118). -/
  dstVa : Nat := 0
  /-- Number of chunks (R360). -/
  total : Nat
  /-- Next chunk to start (R360). -/
  next : Nat := 0
  /-- Chunks in flight (R361). -/
  chunks : List Chunk := []
  /-- Stalled at `next` under R363. -/
  stalled : Bool := false
  /-- FAULT_SEQ of its posted record (R436). -/
  seq : Option W32 := none
  /-- A failure other than translation (R364): the status it will end with. -/
  fail : Option (BitVec 8) := none
  /-- Stopping for a teardown (R365). -/
  stopping : Bool := false
  /-- The status with which a CONTEXT_KILL ends it, stalled as it was, once its chunks in flight have ended (R363). -/
  killed : Option (BitVec 8) := none
  /-- Parking for loss of residency (R365). -/
  parking : Bool := false
  /-- Bytes gathered by an internal stream or a load (R312, R340). -/
  staged : List Byte := []
  /-- Engine and slot of its fault record, kept when it has parked since (R365). -/
  ident : Option Nat := none
  /-- Chunks at or past `next` that are already complete, after a front-end reset (R367). -/
  skip : List Nat := []
  /-- An operand-copy read that a drop of R312 has overtaken: its bytes are read again. -/
  stale : Bool := false
  /-- The haul operations that have been in the engines together with it (R356). -/
  rivals : List Rival := []
deriving DecidableEq, Repr

/-- A stream that parked when its context left residency (R365). -/
structure Parked where
  /-- The engine and slot of its fault record, as 64 × engine + slot: its identity while it is parked (R365). -/
  key : Nat
  /-- The stream as it stood: its next chunk, whether it is stalled, and its fault sequence number (R365). -/
  stream : Stream
  /-- Marked for resumption by a FAULT_RESUME (R189, R365). -/
  marked : Bool
deriving DecidableEq, Repr

/-- An internal stream waiting for a descriptor slot (R359). -/
structure Internal where
  /-- What it carries (R359). -/
  kind : StreamKind
  /-- The operation it serves (R359). -/
  entry : Nat
  /-- Its context (R359). -/
  ctx : BitVec 20
  /-- Its descriptor (R350). -/
  desc : W512
  /-- Virtual base of its source object. -/
  srcVa : Nat
  /-- Length in bytes. -/
  len : Nat
deriving DecidableEq, Repr

/-- A leaf-cache entry (R421, R422). -/
structure Leaf where
  /-- Context. -/
  ctx : BitVec 20
  /-- Virtual page of its base, at its own size. -/
  vpn : Nat
  /-- Level of the leaf (R417). -/
  level : Nat
  /-- 2 MiB range in which it is cached (R422). -/
  range : Nat
  /-- PFN. -/
  pfn : BitVec 40
  /-- ATTR. -/
  attr : BitVec 8
  /-- RD. -/
  rd : Bool
  /-- WR. -/
  wr : Bool
  /-- Way within its set (R424). -/
  way : Nat
deriving DecidableEq, Repr

/-- A walk-cache entry: the table that a virtual address prefix leads to (R421). -/
structure WalkEnt where
  /-- Context. -/
  ctx : BitVec 20
  /-- Level of the table entry (1 to 4). -/
  level : Nat
  /-- Virtual address bits above and including the level's index. -/
  prefix_ : Nat
  /-- PFN of the next table. -/
  pfn : BitVec 40
  /-- Way within its set (R424). -/
  way : Nat
deriving DecidableEq, Repr

/-- A page-table walk in flight (R417). -/
structure Walk where
  /-- Its place among the walks in flight, which tells its reads from those of another walk for the same page. -/
  id : Nat
  /-- Context. -/
  ctx : BitVec 20
  /-- Virtual page wanted. -/
  vpn : Nat
  /-- Level being read. -/
  level : Nat
  /-- PFN of the table being read. -/
  table : BitVec 40
  /-- Epoch current when it began (R429). -/
  epoch : BitVec 2
  /-- A TLB_INVALIDATE has overtaken it: its result is not filled (R430). -/
  stale : Bool
  /-- The stream that asked: engine and slot. -/
  engine : Nat
  /-- Descriptor slot of the stream that asked. -/
  slot : Nat
deriving DecidableEq, Repr

/-- What a manager transaction is for: the source of its consequence under R42 and R572. -/
inductive Purpose
  | ringRead (q : BitVec 14) (units : Nat)
  | objEntry (t : Nat) (ctx : BitVec 20) (h : W32)
  | descFields (t : Nat) (ctx : BitVec 20) (h : W32)
  | ctxDesc (engine slot : Nat)
  | walk (id : Nat)
  | chunkRead (engine slot n : Nat) (isDst : Bool) (off : Nat)
  | chunkWrite (engine slot n : Nat)
  | cplEntry (q : BitVec 14) (k : W32)
  | cplPast (q : BitVec 14) (k : W32)
  | mirror (n : BitVec 16)
  | irqMessage (v : Nat)
  | faultRecord
  | reclaim (engine slot : Nat)
  | saveWrite (c : BitVec 6) (ctx : BitVec 20) (slice : Nat)
  | restoreRead (c : BitVec 6) (off : Nat)
  | maskRead (ctx : BitVec 20)
  | maskWrite (ctx : BitVec 20)
  | dump (section_ : Nat)
  | fwLog
  | backing (c : BitVec 6)
  | imageWrite (ord : Nat)
  | backPage (page : Nat)
  | spanRead (page : BitVec 8) (ctx : BitVec 20)
  | firmware (image : Option (BitVec 8)) (off : Nat)
deriving DecidableEq, Repr

/-- A manager transaction (R35 to R42). -/
structure Txn where
  /-- A write, else a read. -/
  write : Bool
  /-- Interface, 8 × port + i (R36). -/
  ifc : Nat
  /-- EPOCH of its ID (R38). -/
  epoch : Bool
  /-- SOURCE of its ID (R39). -/
  source : BitVec 6
  /-- SLOT of its ID (R40). -/
  slot : Nat
  /-- Physical address. -/
  pa : Nat
  /-- Bytes asked for. -/
  len : Nat
  /-- AxPROT (R41). -/
  prot : BitVec 3
  /-- AxCACHE (R41, R414). -/
  cache : BitVec 4
  /-- AxQOS (R41). -/
  qos : BitVec 4
  /-- Re-issues so far (R42). -/
  retries : Nat
  /-- Bytes of a write. -/
  data : List Byte
  /-- WPOISON by byte of `data`; empty when no byte is poisoned (R43). -/
  poison : List Bool := []
  /-- The partition whose traffic it is: routing and regulation (R36, R275); none for the block's own. -/
  part : Option (BitVec 3) := none
  /-- Its consequence. -/
  purpose : Purpose
  /-- FE_CYCLES at issue (R523). -/
  fc : Nat
deriving DecidableEq, Repr

/-- A table entry or slot word with its place: a real-time table (R252, R253). -/
structure RtTable where
  /-- TABLE_ID (R252). -/
  id : BitVec 16 := 0
  /-- MAJOR_FC (R252). -/
  majorFc : Nat := 0
  /-- MINORS (R252). -/
  minors : Nat := 0
  /-- START_FC (R252). -/
  startFc : Nat := 0
  /-- The entries (R253). -/
  entries : List (BitVec 128) := []
deriving DecidableEq, Repr

/-- A reservation window that is open (R253, R258). -/
structure Window where
  /-- Table entry. -/
  entry : Nat
  /-- The entry's two words, as the table that the firing belongs to has them (R253). -/
  row : BitVec 128
  /-- Another table has become active since the window opened (R255). -/
  old : Bool := false
  /-- Its instant I (R253). -/
  instant : Nat
  /-- Its cluster. -/
  cluster : Nat
  /-- LENGTH (R253). -/
  length : Nat
  /-- The launch preloaded or released by the firing (R258). -/
  launch : Option Nat
  /-- The launch has been released. -/
  released : Bool
  /-- The released launch and its chained launch have retired (R253). -/
  ended : Bool
  /-- The switch had finished by the instant (R259, R266). -/
  switched : Bool
  /-- The preload had finished by the instant (R259, R266). -/
  loaded : Bool
  /-- MISSED or OVERRUN already counted (R260). -/
  counted : Bool
  /-- The firing opened no window (R261): its cluster is not reserved. -/
  inert : Bool
deriving DecidableEq, Repr

/-- A share group (R267, R271). -/
structure ShareGroup where
  /-- DEFICIT, signed (R271). -/
  deficit : Int := 0
  /-- PARTITION (R271). -/
  partition : BitVec 3 := 0
  /-- WEIGHT (R271). -/
  weight : BitVec 16 := 1
  /-- TIME of YRD_SG_TIMEg (R271). -/
  time : W64 := 0
deriving DecidableEq, Repr

/-- A partition's settings (R277) and its regulators' buckets (R276). -/
structure Partition where
  /-- PORTS (R277): meaningful in T4/16. -/
  ports : BitVec 8 := 0
  /-- WAYS (R277): meaningful in T4/16. -/
  ways : BitVec 16 := 0
  /-- RD_SHARE (R277). -/
  rdShare : BitVec 8 := 0
  /-- WR_SHARE (R277). -/
  wrShare : BitVec 8 := 0
  /-- BURST (R277). -/
  burst : BitVec 8 := 0x10
  /-- BORROW (R277). -/
  borrow : Bool := true
  /-- The read bucket in bytes (R276). -/
  rdBucket : Int := 0x40000
  /-- The write bucket in bytes (R276). -/
  wrBucket : Int := 0x40000
  /-- Position of the round robin rr[p] (R268). -/
  rr : BitVec 8 := 0
  /-- FE_CYCLES of the buckets' last refill (R276). -/
  refillFc : Nat := 0
deriving DecidableEq, Repr

/-- Link state (R102). -/
inductive LinkState
  | down | waitReady | caps | held | active | saving | restoring | clearing | loopback | out
deriving DecidableEq, Repr

/-- Scheduling state of a cluster (R251). -/
inductive SchedState | out | idle | running | switching | reserved | draining | coreRestart
deriving DecidableEq, Repr

/-- An engine operation issued and not yet DONE (R84, R86). -/
structure EngOp where
  /-- Class: 0 V, 1 M, 2 LD, 3 ST. -/
  cls : Nat
  /-- SEQ (R81). -/
  seq : BitVec 12
  /-- Stream that issued it (R298). -/
  stream : Nat
  /-- Handles it reads (R307). -/
  reads : List (BitVec 16)
  /-- Handles it writes (R307). -/
  writes : List (BitVec 16)
  /-- Issue order on the cluster. -/
  ord : Nat
deriving DecidableEq, Repr

/-- A sync-slot signal on its way to the Landing (R319). -/
structure Sig where
  /-- BLAZE (R318). -/
  blaze : BitVec 16
  /-- A set (SIGNAL_SET), else an increment. -/
  set : Bool
  /-- Value or increment. -/
  value : W64
  /-- TAG of the FLUSH it waits for (R90). -/
  tag : Option (BitVec 16)
  /-- Launch entry that issued it. -/
  entry : Nat
  /-- Suppressed in a replay (R529). -/
  suppressed : Bool
deriving DecidableEq, Repr

/-- A SYNC request outstanding (R88). -/
structure SyncReq where
  /-- YIELD, else FLUSH. -/
  yield : Bool
  /-- CLASSES (R88). -/
  classes : BitVec 4
  /-- TAG (R88). -/
  tag : BitVec 16
  /-- Taken by the engine's handshake (R89). -/
  taken : Bool
  /-- Sent before a launch's completion report (R90). -/
  final : Bool
deriving DecidableEq, Repr

/-- An entry of a data queue (R321). -/
structure QEnt where
  /-- Its value. -/
  value : W32
  /-- Classes that must return DONE before it is valid (R321). -/
  classes : BitVec 4
  /-- Stream of the QPUSH. -/
  stream : Nat
  /-- Operations issued at or before this order are covered. -/
  upto : Nat
deriving DecidableEq, Repr

/-- A sequencer stream (R298, R322, R323). -/
structure SeqStream where
  /-- Unit offset of the next bundle in its list (R450). -/
  pc : Nat := 0
  /-- Replay index (R316). -/
  replay : Nat := 0
  /-- YIELD bundles issued in the replay (R322). -/
  yields : Nat := 0
  /-- cclk of its previous issue, if any (R300). -/
  last : Option Nat := none
  /-- cclk until which a divide holds it (R317). -/
  divUntil : Nat := 0
  /-- It has issued LAST of the final replay (R329). -/
  done : Bool := false
  /-- Stopped under R322. -/
  stopped : Bool := false
  /-- It waits in lane mode for the other lanes at the replay boundary (R328). -/
  atBoundary : Bool := false
  /-- Its next bundle's BARRIER was satisfied at this cclk (R320). -/
  barrierAt : Option Nat := none
deriving DecidableEq, Repr

/-- A launch held by a cluster (R248, R327). -/
structure Launch where
  /-- Its Landing entry. -/
  entry : Nat
  /-- Its context. -/
  ctx : BitVec 20
  /-- Replays to run (R174). -/
  replays : Nat
  /-- SERIAL of its LAUNCH beat (R82). -/
  serial : W32
  /-- Its image (R343). -/
  image : Image
  /-- s0 to s31 (R313). -/
  regs : Vector W32 32 := Vector.replicate 32 0
  /-- Its data-memory bank, by word (R313). -/
  mem : Tbl W32 := []
  /-- The four data queues, head first (R321). -/
  queues : List (List QEnt) := [[], [], [], []]
  /-- The four streams (R298). -/
  streams : List SeqStream := []
  /-- Its descriptors, by handle-set index (R311). -/
  descs : List W512 := []
  /-- Pages of the backing area that hold its image, in order (R344). -/
  pages : List Nat := []
  /-- Those of them that have still to be read before the bank takes them (R345, R346). -/
  wait : List Nat := []
  /-- Bytes of the fill order that had reached the bank at the cclk `fillAt` after the swap (R327, R346). -/
  fill : Nat := 0
  /-- The cclk from which the fill goes on. -/
  fillAt : Nat := 0
  /-- A page of its image could not be read (R42). -/
  failed : Bool := false
  /-- A pre-emption has stopped it: its engine time has ended (R267). -/
  halted : Bool := false
  /-- It resumes from a LAUNCH slice (R455). -/
  resumed : Bool := false
  /-- Tabled: released by the real-time table (R258). -/
  tabled : Bool := false
  /-- Placed as share work and so charged to DEFICIT (R267). -/
  share : Bool := false
  /-- A replay of hang recovery (R529). -/
  suspect : Bool := false
  /-- Signals left to suppress in a replay (R529). -/
  suppress : Nat := 0
  /-- First bundle issued: the start fc (R22). -/
  startFc : Option Nat := none
  /-- FE_CYCLES up to which its engine time has been charged (R267). -/
  chargedFc : Nat := 0
  /-- The final FLUSH has been sent (R329). -/
  flushSent : Bool := false
  /-- The final FLUSHED has arrived (R329). -/
  flushDone : Bool := false
  /-- Chained launch of its packet, pending (R330). -/
  chain : Option Nat := none
deriving DecidableEq, Repr

/-- Why a switch-out happens (R446, R466). -/
inductive SwCause | none_ | window | evict | change | teardown | quiet
deriving DecidableEq, Repr

/-- Where a switch stands (R447, R454, R455). -/
inductive SwPhase | stopping | yielding | yielded | saving | saved | header | restoring | clearing | enabling
deriving DecidableEq, Repr

/-- A switch in progress on a cluster (R454, R455). -/
structure Switch where
  /-- Its phase. -/
  phase : SwPhase
  /-- Its cause (R446). -/
  cause : SwCause
  /-- The incoming context, if any. -/
  into : Option (BitVec 20)
  /-- The launch entry that the incoming context will run, if any. -/
  entry : Option Nat
  /-- Slice being saved. -/
  outSlice : Option Nat
  /-- Slice being restored. -/
  inSlice : Option Nat
  /-- Save writes outstanding (R452). -/
  writes : Nat
  /-- Save writes are suppressed: the context was torn down (R462). -/
  suppressed : Bool
  /-- A restore read failed: status (R463). -/
  fail : Option (BitVec 8)
deriving DecidableEq, Repr

/-- Position of a suspect (R528). -/
inductive Position | running | retiring | shadow | chained
deriving DecidableEq, Repr

/-- Hang recovery in progress on a cluster (R527 to R530). -/
structure Recovery where
  /-- Cause, as FWC_RCV_STATUS.CAUSE (R532). -/
  cause : BitVec 8
  /-- Suspects at detection: positions (R532). -/
  held : List Position
  /-- Suspects still to replay: position and launch entry (R529). -/
  todo : List (Position × Nat)
  /-- The suspect being replayed (R529). -/
  now : Option (Position × Nat)
  /-- The guilty launch found so far: position and context (R530). -/
  guilty : Option (Position × BitVec 20)
  /-- Consecutive resets ended by READY_TIMEOUT (R530). -/
  fails : Nat
  /-- CLEAR has been answered since the last link reset (R529). -/
  cleared : Bool := false
deriving DecidableEq, Repr

/-- The loopback part of a cluster self-test (R98, R548). -/
structure LoopTest where
  /-- The path driven: 0 ISSUE with DONE, 1 downward SAVE, 2 SYNC. -/
  path : Nat := 0
  /-- Beats or requests driven on the path. -/
  sent : Nat := 0
  /-- Of them, those that have returned. -/
  back : Nat := 0
  /-- The upward beats that are to return, oldest first, with LAST. -/
  beats : List (BitVec 1024 × Bool) := []
  /-- The SEQ numbers that are to return as DONE tokens, by class. -/
  tokens : List (List (BitVec 12)) := [[], [], [], []]
deriving DecidableEq, Repr

/-- A cluster: engine link, sequencer, control core's scheduling state (R102, R251, R332, R465, R526). -/
structure Cluster where
  /-- Link state (R102). -/
  link : LinkState := .down
  /-- EL_RST_N (R78). -/
  rstN : Bool := false
  /-- EL_EPOCH (R94, R102). -/
  epoch : BitVec 8 := 0
  /-- CAP_OK (R102). -/
  capOk : Bool := false
  /-- DROP_LATE (R102). -/
  dropLate : W32 := 0
  /-- CLS_ELINK_ERR.CODE while VALID (R103). -/
  err : Option (BitVec 8) := none
  /-- Credit counters V, M, LD, ST, AUX (R84). -/
  credits : List Nat := [0, 0, 0, 0, 0]
  /-- Next SEQ of each class (R81). -/
  seqs : List (BitVec 12) := [0, 0, 0, 0]
  /-- Operations issued without DONE, oldest first (R84, R87). -/
  ops : List EngOp := []
  /-- Issue order of the next operation. MODEL. -/
  opOrd : Nat := 0
  /-- SYNC requests outstanding, oldest first (R88). -/
  sync : List SyncReq := []
  /-- TAG of the next SYNC request (R88). -/
  tag : BitVec 16 := 0
  /-- Signals not yet passed to the Landing, in issue order (R319). -/
  sigs : List Sig := []
  /-- The outstanding CTRL command (R91). -/
  ctrl : Option (BitVec 32) := none
  /-- Capability words read since the link reset (R93). -/
  caps : List W32 := []
  /-- Save beats taken or restore beats sent (R95). -/
  beats : Nat := 0
  /-- Restore data waiting to go down (R368). -/
  down : List (BitVec 1024) := []
  /-- Save beats gathered and not yet written (R368). -/
  up : List (BitVec 1024) := []
  /-- Rows of 512 bytes of the gathered beats that were lost in the save channel: their bytes are written with WPOISON (R43,
  R368). -/
  upLost : List Nat := []
  /-- EL_IS_KIND of the last ISSUE beat (R80). -/
  isKind : BitVec 2 := 0
  /-- EL_IS_AUX of the last ISSUE beat (R78). -/
  isAux : BitVec 16 := 0
  /-- EL_IS_DATA of the last ISSUE beat (R81, R82, R83). -/
  isData : W512 := 0
  /-- ISSUE beats presented. MODEL. -/
  isBeats : Nat := 0
  /-- DESC beats still owed to the active launch: slot and data (R311). -/
  descQ : List (BitVec 16 × W512) := []
  /-- In service (R130). -/
  inService : Bool := false
  /-- It failed R100 at block start with CAP_CHECK or CAP_MISMATCH (R101, R191). -/
  startFail : Bool := false
  /-- Held context (R248, R251). -/
  ctx : Option (BitVec 20) := none
  /-- The slice that the held context uses here (R452). -/
  slice : Option Nat := none
  /-- Partition (R131, R274). -/
  partition : BitVec 3 := 0
  /-- Partition it moves to while DRAINING (R274). -/
  moveTo : Option (BitVec 3) := none
  /-- DRAINING for a SELF_TEST, by its entry (R548). -/
  testing : Option Nat := none
  /-- The run deque, head first (R272). -/
  deque : List Nat := []
  /-- STEALS (R251). -/
  steals : BitVec 16 := 0
  /-- The active launch (R248). -/
  active : Option Launch := none
  /-- The launch in the shadow bank (R248). -/
  shadow : Option Launch := none
  /-- ACTIVE_BANK (R332). -/
  bank : Bool := false
  /-- STALL (R332). -/
  stall : BitVec 4 := 0
  /-- PREEMPT (R332): a stop in progress. -/
  preempt : Bool := false
  /-- Stop target: k-th YIELD in lane mode, replay r in decoupled mode (R322). -/
  target : Nat := 0
  /-- Stream that issued last (R299). -/
  lastStream : Nat := 0
  /-- BUNDLES (R333). -/
  bundles : W32 := 0
  /-- SIG_DENIED (R333). -/
  sigDenied : W32 := 0
  /-- Status of a WINDOW or POISON token accepted (R87). -/
  tokenFail : Bool := false
  /-- The switch in progress (R454). -/
  switch : Option Switch := none
  /-- STOP_CCLK, SAVE_CCLK and RESTORE_CCLK (R465). -/
  switchTime : W64 := 0
  /-- CLEARS (R466). -/
  clears : BitVec 16 := 0
  /-- RESTORES (R466). -/
  restores : BitVec 16 := 0
  /-- SAVES (R466). -/
  saves : BitVec 16 := 0
  /-- CAUSE of the last switch-out (R466). -/
  swCause : SwCause := .none_
  /-- A hang found during a front-end reset, whose recovery starts when that ends: its cause (R531). -/
  hangWait : Option (BitVec 8) := none
  /-- The chained launch whose first launch has reported OK, and which starts next (R330). -/
  chainNext : Option Nat := none
  /-- Chained launches that stay on this cluster and could not start before it switched (R177, R447). -/
  chainWait : List Nat := []
  /-- The self-test has left service and tests the cluster (R548). -/
  inTest : Bool := false
  /-- The loopback of a self-test in progress (R98). -/
  loop : Option LoopTest := none
  /-- HOLD: the context whose window follows next, and no other may be taken (R262). -/
  hold : Option (BitVec 20) := none
  /-- Launches that ended with OK while the control core restarts: their reports are held (R477). -/
  heldEnds : List Nat := []
  /-- WDOG_LOG2 of CLS_WDOG_CFG (R526). -/
  wdogLog2 : BitVec 8 := 0x18
  /-- Hang recovery in progress (R527). -/
  recovery : Option Recovery := none
  /-- CLS_HANG_LOG (R532). -/
  hangLog : W64 := 0
  /-- Bytes read back for a switch-in (R455). -/
  header : List Byte := []
deriving DecidableEq, Repr

/-- State of a host vector (R502). -/
inductive VecState | idle | sent | serving
deriving DecidableEq, Repr

/-- A host vector (R510). -/
structure Vec where
  /-- ADDR, bits 51:2 (R510). -/
  addr : BitVec 50 := 0
  /-- EN (R510). -/
  en : Bool := false
  /-- STATE (R502). -/
  state : VecState := .idle
  /-- HELD (R510); none for 0x3FF. -/
  held : Option (BitVec 10) := none
  /-- MSG_OUT (R510). -/
  msgOut : Bool := false
  /-- Source the last message carried (R52). -/
  msgSource : BitVec 10 := 0
  /-- FE_CYCLES of the message's issue (R507). -/
  msgFc : Nat := 0
  /-- FE_CYCLES of a message's failure, waiting for the re-send (R54). -/
  failedFc : Option Nat := none
deriving DecidableEq, Repr

/-- A route (R497). -/
structure Route where
  /-- HOST (R497). -/
  host : BitVec 8 := 0
  /-- SEC (R497). -/
  sec : Bool := false
  /-- PWR (R497). -/
  pwr : Bool := false
  /-- SCHED (R497). -/
  sched : Bool := false
  /-- CLS_EN (R497). -/
  clsEn : Bool := false
  /-- CLUSTER (R497). -/
  cluster : BitVec 6 := 0
deriving DecidableEq, Repr

/-- State of a mailbox page (R483). -/
inductive MbxState | idle | busy | done
deriving DecidableEq, Repr

/-- A mailbox page (R480 to R483). -/
structure Mbx where
  /-- MBX_REQ words 0 to 7 (R480). -/
  req : W512 := 0
  /-- MBX_STATUS.SEQ (R483). -/
  seq : W32 := 0
  /-- MBX_STATUS.STATUS (R483). -/
  status : BitVec 8 := 0
  /-- MBX_STATUS.STATE (R483). -/
  state : MbxState := .idle
  /-- MBX_RESP words 0 to 7 (R480). -/
  resp : W512 := 0
  /-- The request has started, and the image that it names is still to be read. -/
  awaiting : Bool := false
deriving DecidableEq, Repr

/-- State of a firmware processor (R492). -/
inductive ProcState | off | running | restarting
deriving DecidableEq, Repr

/-- A firmware processor (R492, R494). -/
structure Proc where
  /-- STATE (R492). -/
  state : ProcState := .off
  /-- CAUSE (R475, R492). -/
  cause : BitVec 4 := 0
  /-- RESTARTS (R492). -/
  restarts : BitVec 16 := 0
  /-- RESTART_FC (R492). -/
  restartFc : W32 := 0
  /-- FE_CYCLES of the last failure, whole (R478). -/
  failFc : Nat := 0
  /-- WDOG_LOG2 of SEC_PROC_CFGn (R494). -/
  wdogLog2 : BitVec 8 := 0
  /-- CONTAIN of SEC_PROC_CFGn (R494). -/
  contain : BitVec 2 := 0
  /-- The source it holds in service (R501). -/
  held : Option (BitVec 10) := none
  /-- The image copy it restarts from has been lost (R479). -/
  imageLost : Bool := false
  /-- Its firmware enable words (R498). -/
  enable : BitVec 1024 := 0
deriving DecidableEq, Repr

/-- FWC_STATUS.STATE (R491). -/
inductive FwState | idle | verifying | starting | ready | refused | outOfService
deriving DecidableEq, Repr

/-- A power state (R512). -/
inductive PState | run | idle | sleep | deep | off
deriving DecidableEq, Repr

/-- How far an entry to a lower power state has come (R514, R515, R518). -/
inductive PPhase | none_ | polling | carrying | handshake | exiting
deriving DecidableEq, Repr

/-- A software-managed Deck region's configuration (R400). -/
structure SwRegion where
  /-- VALID (R400). -/
  valid : Bool := false
  /-- ZEROING (R400). -/
  zeroing : Bool := false
  /-- CONTEXT (R400). -/
  ctx : BitVec 20 := 0
deriving DecidableEq, Repr

/-- A TLB_INVALIDATE that waits for old epochs (R430). -/
structure Inval where
  /-- Its entry. -/
  entry : Nat
  /-- Its context. -/
  ctx : BitVec 20
  /-- Epochs that have not yet drained (R430). -/
  epochs : List (BitVec 2)
deriving DecidableEq, Repr

/-- The last response the host port gave (R31, R32). -/
structure HostResp where
  /-- The AXI5 response. -/
  resp : Resp := .okay
  /-- Read data; zero for a write. -/
  data : W512 := 0
  /-- FE_CYCLES before which the response is not returned (R505). -/
  notBefore : Nat := 0
  /-- BID or RID: the ID of the access, echoed unchanged (R26). -/
  id : BitVec 16 := 0
deriving DecidableEq, Repr

/-- A firmware image being read by the security core with SOURCE FWLOAD (R472, R211), or a table image (R254). -/
structure FwRead where
  /-- The mailbox page whose request names the image; none for the firmware bundle. -/
  page : Option (BitVec 8)
  /-- Its physical address (R485, R490). -/
  pa : Nat
  /-- Bytes asked for so far. -/
  len : Nat
  /-- The bytes that have arrived, by offset. -/
  parts : List (Nat × List Byte) := []
  /-- Bursts that have no response yet. -/
  left : Nat := 0
  /-- A burst has failed (R42). -/
  failed : Bool := false
  /-- Its length is known, and every burst has been asked for. -/
  whole : Bool := false
  /-- SAVE_SPAN of the contexts whose descriptors have been read for check 6 of R254. -/
  spans : List (BitVec 20 × Nat) := []
deriving DecidableEq, Repr

/-- The W1C flags of the register map (R214, R389, R438, R103). -/
inductive HwFlag
  /-- FE_UCODE_STATUS.CS_UNCORR. -/
  | csUncorr
  /-- FE_UCODE_STATUS.RUNAWAY. -/
  | runaway
  /-- HAU_FMT_FLAGS.OVERFLOW. -/
  | fmtOverflow
  /-- HAU_FMT_FLAGS.FLUSHED. -/
  | fmtFlushed
  /-- XLT_FLT_STATUS.OVERFLOW. -/
  | fltOverflow
  /-- XLT_FLT_STATUS.RING_ERR. -/
  | fltRingErr
  /-- CLS_ELINK_ERR.VALID of a cluster. -/
  | elinkErr (c : Nat)
deriving DecidableEq, Repr

/-- Front-end registers and the fabric notice port (R20, R55 to R60). -/
structure Fe where
  /-- FE_CYCLES (R21). -/
  cycles : W64 := 0
  /-- FE_CYCLES of the last setting of a W1C flag by hardware, and the flags set in that cycle (R558). MODEL. -/
  flagsFc : Nat := 0
  /-- Those flags. MODEL. -/
  flagsSet : List HwFlag := []
  /-- FE_FN_CFG.CHIP_NUM (R59). -/
  chipNum : BitVec 16 := 0
  /-- FE_FN_CFG.ENABLE (R59). -/
  fnEnable : Bool := false
  /-- TX_SENT (R60). -/
  txSent : W32 := 0
  /-- RX_ACCEPTED (R60). -/
  rxAccepted : BitVec 16 := 0
  /-- RX_DISCARDED (R60). -/
  rxDiscarded : BitVec 16 := 0
  /-- The 64-entry token queue (R57). -/
  txq : List W64 := []
  /-- Tokens waiting in the fault path for room (R57). -/
  txWait : List W64 := []
  /-- FE_CYCLES at which the last received token passed, if any (R58). -/
  rxFc : Option Nat := none
  /-- A token accepted during a front-end reset, applied at its step 5 (R534). -/
  rxHeld : List W64 := []
  /-- The last response of the host port (R31). -/
  resp : HostResp := {}
  /-- AWID or ARID of the access that the host port serves (R26). -/
  hostId : BitVec 16 := 0
  /-- The queue served last by the round robin (R150). -/
  rrQueue : Nat := 0
  /-- Order of the next queue to block (R156). MODEL. -/
  blockSeq : Nat := 0
deriving DecidableEq, Repr

/-- The Bucking unit (R193 to R214). -/
structure Uc where
  /-- UC_MAJOR (R212). -/
  major : BitVec 8 := 0
  /-- UC_MINOR (R212). -/
  minor : BitVec 8 := 0
  /-- UC_BUILD (R212). -/
  build : BitVec 16 := 0
  /-- PATCH_ID (R212). -/
  patchId : BitVec 16 := 0
  /-- FREE_WORDS (R212). -/
  freeWords : BitVec 15 := 0
  /-- RESTARTS (R213). -/
  restarts : BitVec 16 := 0
  /-- CS_UNCORR (R213). -/
  csUncorr : Bool := false
  /-- RUNAWAY (R213). -/
  runaway : Bool := false
  /-- PATCHING (R213): the replaced words that still wait for older threads. -/
  patching : List (BitVec 14) := []
  /-- The patch being applied waits for step 4 of R211: its mailbox page. -/
  patchPage : Option (BitVec 8) := none
  /-- Dispatch order at which the patch changed its entries: earlier threads run the old routines (R211). -/
  patchSeq : Nat := 0
  /-- Patch requests that wait for PATCHING to clear, oldest first: page and image (R211). -/
  patchWait : List (BitVec 8 × List Byte) := []
  /-- LOADED (R213). -/
  loaded : Bool := false
  /-- XLT_MISS traps (R214). -/
  trapXlt : BitVec 16 := 0
  /-- ORDER traps (R214). -/
  trapOrder : BitVec 16 := 0
  /-- DECK_WAIT traps (R214). -/
  trapDeck : W32 := 0
  /-- The control store: the words that the loaded microcode and the patches applied occupy (R212). -/
  store : List (Nat × BitVec 40) := []
  /-- The dispatch table (R196). -/
  dispatch : Tbl (BitVec 32) := []
  /-- The reserved-mask table (R196). -/
  masks : Tbl Packet := []
  /-- The 16 threads (R193). -/
  threads : Tbl Thread := []
  /-- Dispatch order of the next packet (R194). -/
  seq : Nat := 0
  /-- The thread that holds the commit lock (R205). -/
  lockHolder : Option Nat := none
  /-- Microcode patches applied since block start, as images (R533). -/
  patches : List (List Byte) := []
  /-- The microcode section of the bundle, as bytes (R533). -/
  section_ : List Byte := []
deriving DecidableEq, Repr

/-- The Landing, Blazes, programs and graphs (R215 to R246, R296, R347). -/
structure Lnd where
  /-- The entries that are not FREE (R219). -/
  entries : List (Nat × Entry) := []
  /-- Admission order of the next entry. MODEL. -/
  ord : Nat := 1
  /-- The Blazes (R229). -/
  blazes : Tbl Blaze := []
  /-- BLZ_STALE_CNT (R244). -/
  staleCount : W32 := 0
  /-- BLZ_STALE_CNT.LAST_BLAZE (R244). -/
  staleLast : BitVec 16 := 0
  /-- BLZ_ERR_LOG (R245). -/
  errLog : W64 := 0
  /-- BLZ_DROP_CNT.UNCONF (R246). -/
  dropUnconf : W32 := 0
  /-- BLZ_DROP_CNT.ERROR (R246). -/
  dropError : W32 := 0
  /-- LND_PROBE_LOG (R243). -/
  probeLog : W64 := 0
  /-- Fired queues waiting for the probe, in the order they fired (R237). -/
  fired : List (BitVec 14) := []
  /-- Current binding counts by context and program number, keyed 65536 × context + program (R337). -/
  current : Tbl (BitVec 16) := []
  /-- The bindings that live (R337). -/
  bindings : List Binding := []
  /-- Pages of the backing area that the program cache holds, with the order of their last use (R345). -/
  cached : List (Nat × Nat) := []
  /-- The order of the next use of a cached page or operand copy. MODEL. -/
  cacheStamp : Nat := 0
  /-- LND_PROG_BACKING.BASE_PFN (R347). -/
  backPfn : BitVec 40 := 0
  /-- LND_PROG_BACKING.PAGES (R347). -/
  backPages : BitVec 24 := 0
  /-- FREE_PAGES (R347). -/
  freePages : BitVec 24 := 0
  /-- REJECTS (R347). -/
  rejects : BitVec 24 := 0
  /-- LND_PROG_REJECT (R347). -/
  progReject : W64 := 0
  /-- The graph numbers in use, keyed 4096 × context + number (R184). -/
  graphs : Tbl Graph := []
  /-- NODES_ADMITTED (R297). -/
  nodesAdmitted : W32 := 0
  /-- VERSION_LIMITS (R297). -/
  versionLimits : BitVec 16 := 0
  /-- NO_ROOM (R297). -/
  noRoom : BitVec 16 := 0
  /-- Commits so far: the stamp that conflicts compare (R203). MODEL. -/
  commits : Nat := 0
  /-- Stamp of the last commit that changed a PROGRAM or GRAPH record: region and key (R203). -/
  changed : List (Nat × Nat × Nat) := []
deriving DecidableEq, Repr

/-- The Yarder (R251 to R277). -/
structure Yrd where
  /-- The active table (R255); none when no table is active. -/
  table : Option RtTable := none
  /-- The accepted table awaiting its base, with its mailbox page (R255). -/
  pendingTable : Option (RtTable × BitVec 8) := none
  /-- REFUSE (R263). -/
  refuse : BitVec 4 := 0
  /-- YRD_RT_BASE (R264). -/
  base : W64 := 0
  /-- RELEASED (R265). -/
  released : W32 := 0
  /-- LATE (R265). -/
  late : W32 := 0
  /-- MISSED (R265). -/
  missed : W32 := 0
  /-- OVERRUN (R265). -/
  overrun : BitVec 16 := 0
  /-- UNTABLED (R265). -/
  untabled : BitVec 16 := 0
  /-- YRD_RT_LATE_LOG (R266). -/
  lateLog : W64 := 0
  /-- The open windows (R258). -/
  windows : List Window := []
  /-- FE_CYCLES of the last release, if any: one goes out per fc (R258). -/
  releaseFc : Option Nat := none
  /-- CAP_FC (R270). -/
  capFc : W32 := 0x00100000
  /-- QUANTUM_FC (R270). -/
  quantumFc : W32 := 0x00010000
  /-- The share groups (R271). -/
  groups : Tbl ShareGroup := []
  /-- Partitions 0 to 7 (R277). -/
  parts : Vector Partition 8 := (Vector.replicate 8 {}).set 0 { ports := 0xFF, ways := 0xFFFF }
  /-- FE_CYCLES of the last accounting tick (R267). -/
  accountFc : Nat := 0
  /-- PART_ASSIGN requests waiting for their clusters: page and clusters (R274). -/
  moves : List (BitVec 8 × List Nat) := []
deriving DecidableEq, Repr

/-- Residency (R110). -/
structure Res where
  /-- The 64 residency slots (R110). -/
  slots : Tbl ResSlot := []
  /-- Contexts whose load waits for a slot or an eviction (R111, R114). -/
  waiting : List (BitVec 20) := []
deriving DecidableEq, Repr

/-- Memory manager ports (R36 to R51). -/
structure Mp where
  /-- DRAIN_LOG2 (R49). -/
  drainLog2 : BitVec 8 := 0x18
  /-- RETRY_LIMIT (R49). -/
  retryLimit : BitVec 4 := 2
  /-- HUNG (R50). -/
  hung : BitVec 8 := 0
  /-- EPOCH, retained (R46, R50). -/
  epoch : Bool := false
  /-- STRAY (R51). -/
  stray : W32 := 0
  /-- LATE (R51). -/
  late : W32 := 0
  /-- Transactions outstanding (R40). -/
  txns : List Txn := []
  /-- Requests that wait for a free SLOT (R40). -/
  waiting : List Txn := []
  /-- Transactions a reset abandoned, still outstanding from the previous epoch (R48). -/
  abandoned : List Txn := []
  /-- FE_CYCLES when the reset that waits for the drain began, below zero when FE_CYCLES has been reset since (R48). -/
  drainFc : Option Int := none
  /-- A front-end reset has abandoned its transactions, and the epoch bit inverts once those of the previous epoch have
  drained (R46, R48). -/
  invertDue : Bool := false
  /-- The stream slot whose burst each haul engine sent last, for the round robin of R361. -/
  rr : Tbl Nat := []
deriving DecidableEq, Repr

/-- The haul engines (R349 to R373, R389). -/
structure Hau where
  /-- Streams by 64 × engine + slot (R349). -/
  streams : List (Nat × Stream) := []
  /-- Internal streams that wait for a slot (R359). -/
  internal : List Internal := []
  /-- Parked streams (R365). -/
  parked : List Parked := []
  /-- RETIRED (R371). -/
  retired : W32 := 0
  /-- STALLS (R371). -/
  stalls : W32 := 0
  /-- HAU_ERR_LOG (R372). -/
  errLog : W64 := 0
  /-- LOCK_WAITS by engine (R373). -/
  lockWaits : Tbl (BitVec 16) := []
  /-- Line locks held: destination line (with a Deck mark), stream key and chunk (R355). -/
  locks : List (Nat × Nat × Nat) := []
  /-- Chunks waiting for locks, in the order in which they first asked (R355). -/
  lockQueue : List (Nat × Nat) := []
  /-- HAU_FMT_FLAGS.LAST_CONTEXT (R389). -/
  lastContext : BitVec 20 := 0
  /-- HAU_FMT_FLAGS.LAST_ENGINE (R389). -/
  lastEngine : BitVec 4 := 0
  /-- OVERFLOW (R389). -/
  overflow : Bool := false
  /-- FLUSHED (R389). -/
  flushed : Bool := false
  /-- The operand copies held (R312). -/
  copies : List OpCopy := []
deriving DecidableEq, Repr

/-- A stripe held from the first access of a part-stripe write or of a rebuild to its last (R394, R402). -/
structure DeckHold where
  /-- The group. -/
  group : Nat
  /-- The stripe, which is the row of each of its banks. -/
  stripe : Nat
  /-- Accesses still to come. -/
  left : Nat
  /-- Rows, as bank and row, that are whole again at the last access. -/
  mends : List (Nat × Nat)
deriving DecidableEq, Repr

/-- The Deck (R392 to R412). -/
structure Dck where
  /-- OPEN (R408). -/
  open_ : BitVec 16 := 0
  /-- READY (R408). -/
  ready : Bool := false
  /-- PASS_LOG2 (R409). -/
  passLog2 : BitVec 8 := 0x20
  /-- FAIL_THRESH (R409). -/
  failThresh : BitVec 8 := 0x10
  /-- DCK_BANK_FAILED0 and 1, bank k at bit k (R412). -/
  failed : BitVec 128 := 0
  /-- Rebuilds of each bank in this pass (R403). -/
  rebuilds : Tbl Nat := []
  /-- Generation of each group (R406). -/
  gens : Tbl (BitVec 8) := []
  /-- DCK_LATE_LOG (R410). -/
  lateLog : W64 := 0
  /-- DCK_ERR_LOG (R411). -/
  errLog : W64 := 0
  /-- Rows lost, until a requester reads them: bank and row (R404, R405). -/
  lostRows : List (Nat × Nat) := []
  /-- The software-managed regions' configuration (R400). -/
  regions : Tbl SwRegion := []
  /-- The bytes of the software-managed regions; an unlisted byte reads zero (R399, R405). -/
  mem : List Host.Cell := []
  /-- The next row of the scrub pass: bank and row as 1024 × bank + row (R405). -/
  scrubNext : Nat := 0
  /-- A scrub pass is in progress (R408). -/
  scrubbing : Bool := false
  /-- FE_CYCLES of the last scrub read (R405). -/
  scrubFc : Nat := 0
  /-- The row a bank granted last, with its cost in accesses: bank, row, cost (R394, R395). -/
  lastGrant : Nat × Nat × Nat := (0, 0, 0)
  /-- The stripes held by a part-stripe write or a rebuild (R394, R402). -/
  holds : List DeckHold := []
  /-- The Deck self-test that runs has met a row that cannot be read (R191, R549). -/
  testLost : Bool := false
deriving DecidableEq, Repr

/-- An object marked retiring by the admission of an OBJECT_FREE (R122). -/
structure Retiring where
  /-- Its context. -/
  ctx : BitVec 20
  /-- Its handle. -/
  handle : W32
  /-- The OBJECT_FREE entry that reclaims it; none once that has ended and the object stays retiring. -/
  entry : Option Nat
  /-- WR of the table entry, written back by the reclaim. -/
  wr : Bool
  /-- RD of the table entry, written back by the reclaim. -/
  rd : Bool
deriving DecidableEq, Repr

/-- Translation (R413 to R445). -/
structure Xlt where
  /-- XLT_FLT_RING.BASE_PFN (R441). -/
  ringPfn : BitVec 40 := 0
  /-- XLT_FLT_RING.LOG2 (R441). -/
  ringLog2 : BitVec 5 := 0
  /-- RP (R442). -/
  rp : W32 := 0
  /-- WP (R442). -/
  wp : W32 := 0
  /-- Records held, oldest first (R437). -/
  held : List FaultRec := []
  /-- The record whose write is outstanding (R436). -/
  posting : Option FaultRec := none
  /-- FE_CYCLES of the last failure of its write (R438). -/
  failedFc : Option Nat := none
  /-- ADVICE_DROPPED (R443). -/
  adviceDropped : BitVec 16 := 0
  /-- RING_ERR (R443). -/
  ringErr : Bool := false
  /-- OVERFLOW (R443). -/
  overflow : Bool := false
  /-- DONE (R444). -/
  invDone : W32 := 0
  /-- Invalidations draining (R430). -/
  invals : List Inval := []
  /-- LEAF_MISSES (R445). -/
  leafMisses : W32 := 0
  /-- WALK_READS (R445). -/
  walkReads : W32 := 0
  /-- The leaf cache, most recently used first (R421, R422). -/
  leaves : List Leaf := []
  /-- The walk cache, most recently used first (R421). -/
  walkEnts : List WalkEnt := []
  /-- The object cache, most recently used first: context, index and entry (R421). -/
  objects : List (BitVec 20 × BitVec 20 × ObjEntry) := []
  /-- Walks in flight (R417). -/
  walks : List Walk := []
  /-- The reference table (R121). -/
  refs : Tbl RefRec := []
  /-- Objects retiring (R122). -/
  retiring : List Retiring := []
deriving DecidableEq, Repr

/-- The interrupt controller (R495 to R511). -/
structure Irq where
  /-- Pending bits of sources 0x000 to 0x3FE (R508). -/
  pending : BitVec 1024 := 0
  /-- Enables for host vectors (R508). -/
  enable : BitVec 1024 := 0
  /-- In-service bits (R508). -/
  inService : BitVec 1024 := 0
  /-- Sources disabled less than 12 fc ago that may still be delivered once: source and last fc (R504). -/
  grace : List (Nat × Nat) := []
  /-- FE_CYCLES of the last IRQ block write, if any (R505). -/
  writeFc : Option Nat := none
  /-- The host vectors (R510). -/
  vecs : Vector Vec 8 := Vector.replicate 8 {}
  /-- The routes (R497). -/
  routes : Tbl Route := []
deriving DecidableEq, Repr

/-- Power states, handshake and domain controls (R61 to R66, R512 to R522). -/
structure Pwr where
  /-- The power state (R512, R520). -/
  state : PState := .run
  /-- PHASE (R520). -/
  phase : PPhase := .none_
  /-- AUTO (R520). -/
  auto : BitVec 2 := 0
  /-- SLEEP_LOG2 (R520). -/
  sleepLog2 : BitVec 8 := 0x28
  /-- DEEP_LOG2 (R520). -/
  deepLog2 : BitVec 8 := 0x28
  /-- TARGET, REASON and COUNT of PWR_REFUSE_LOG (R521). -/
  refuseLog : W64 := 0
  /-- PWR_COUNTS.DEEP_ENTRIES (R522). -/
  deepEntries : BitVec 16 := 0
  /-- PWR_COUNTS.SLEEP_ENTRIES (R522). -/
  sleepEntries : BitVec 16 := 0
  /-- PWR_COUNTS.REPLAYED (R522). -/
  replayed : BitVec 16 := 0
  /-- PWR_COUNTS.OFF_ENTRIES (R522). -/
  offEntries : BitVec 16 := 0
  /-- PWR_STATE (R62). -/
  pwrState : BitVec 3 := 0
  /-- PWR_REQ (R61). -/
  pwrReq : Bool := false
  /-- PWR_ACK as synchronised (R63). -/
  pwrAck : Bool := false
  /-- PD_PWR_REQ (R64). -/
  pdReq : BitVec 90 := 0
  /-- PD_ISO (R64). -/
  pdIso : BitVec 90 := 0
  /-- PD_RET (R64). -/
  pdRet : BitVec 90 := 0
  /-- PD_PWR_ACK (R64). -/
  pdAck : BitVec 90 := 0
  /-- WAKE_N as synchronised (R66). -/
  wakeN : Bool := true
  /-- The latched wake event (R66, R516). -/
  wake : Bool := false
  /-- The wake event was latched from step 5 of the entry on (R517). -/
  wakeLate : Bool := false
  /-- Target of the request in progress and its mailbox page, none when automatic (R515). -/
  request : Option (PState × Option (BitVec 8)) := none
  /-- FE_CYCLES when the poll began (R514). -/
  pollFc : Nat := 0
  /-- FE_CYCLES since which the conditions of IDLE have held (R513), or the block has been IDLE (R519). -/
  quietFc : Nat := 0
  /-- Admission is closed (R515 step 1). -/
  admitClosed : Bool := false
  /-- The host port holds accesses (R515 step 6). -/
  hostHeld : Bool := false
  /-- The accesses held in SLEEP, oldest first (R33). -/
  held : List HostAccess := []
  /-- POWER_POLICY requests that wait for the entry in progress, oldest first: target and mailbox page (R519). -/
  later : List (PState × BitVec 8) := []
  /-- PWR_DENY as sampled with the rise of PWR_ACK (R63). -/
  denied : Bool := false
  /-- Steps that the sequence of R65 in progress has taken. -/
  pdStep : Nat := 0
  /-- A failure of the power core has abandoned an entry that had begun: the exit sequence follows (R477). -/
  undoing : Bool := false
deriving DecidableEq, Repr

/-- Firmware processors, security block, log, mailbox, recovery and dump registers (R467 to R494, R536 to R544). -/
structure Fwc where
  /-- FWC_BUNDLE.BASE_PFN (R490). -/
  bundlePfn : BitVec 40 := 0
  /-- FWC_BUNDLE.PAGES (R490). -/
  bundlePages : BitVec 13 := 0
  /-- FWC_CTRL.DRV_IF (R490). -/
  drvIf : BitVec 16 := 0
  /-- FWC_CTRL.START (R490). -/
  startBit : Bool := false
  /-- FWC_STATUS.STATE (R491). -/
  state : FwState := .idle
  /-- FWC_STATUS.REASON (R491). -/
  reason : BitVec 8 := 0
  /-- FW_VERSION of the accepted bundle (R468, R491). -/
  fwVersion : W64 := 0
  /-- IF_MIN of the accepted bundle (R484). -/
  ifMin : BitVec 16 := 0
  /-- IF_MAX of the accepted bundle (R484). -/
  ifMax : BitVec 16 := 0
  /-- SEC_STATUS.KEY_PROVISIONED (R494). -/
  keyProvisioned : Bool := false
  /-- SEC_STATUS.LOCKED (R494). -/
  locked : Bool := false
  /-- The capability descriptor accepted at block start (R100, R126). -/
  caps : List W32 := []
  /-- The firmware processors (R467). -/
  procs : Tbl Proc := []
  /-- Processors that failed and wait for reload, in the order they failed (R476). -/
  failedOrder : List Nat := []
  /-- FWC_LOG_RING.BASE_PFN (R493). -/
  logPfn : BitVec 40 := 0
  /-- FWC_LOG_RING.LOG2 as written (R493). -/
  logLog2 : BitVec 5 := 0
  /-- FWC_LOG_PTRS.RP (R493). -/
  logRp : W32 := 0
  /-- FWC_LOG_PTRS.WP (R493). -/
  logWp : W32 := 0
  /-- LOST_OTHER (R493). -/
  lostOther : W32 := 0
  /-- LOST_ERROR (R493). -/
  lostError : W32 := 0
  /-- FWC_TRACE_EN.CLASSES (R493). -/
  trace : BitVec 8 := 0
  /-- The mailbox pages (R480). -/
  mbx : Tbl Mbx := []
  /-- Accesses that wait, oldest first, with FE_CYCLES of their arrival: mailbox accesses for the scheduler core (R32), and
  accesses that follow one on its channel (R30, R31). -/
  mbxWait : List (HostAccess × Nat) := []
  /-- Firmware and table images being read (R472, R211, R254). -/
  reads : List FwRead := []
  /-- FWC_RESET.WHOLE (R538). -/
  resetWhole : Bool := false
  /-- FWC_RESET.FRONT_END (R538). -/
  resetFe : Bool := false
  /-- Resets that detectors have asked for: KIND and CAUSE (R523). -/
  asked : List (BitVec 4 × BitVec 8) := []
  /-- FWC_RCV_STATUS.START_FC (R539). -/
  rcvStartFc : W32 := 0
  /-- FWC_RCV_STATUS.CAUSE (R539). -/
  rcvCause : BitVec 8 := 0
  /-- FWC_RCV_STATUS.KIND (R539). -/
  rcvKind : BitVec 4 := 0
  /-- FWC_RCV_STATUS.FE_BUSY (R539). -/
  feBusy : Bool := false
  /-- FWC_RCV_STATUS.CLUSTER (R539). -/
  rcvCluster : BitVec 6 := 0
  /-- FWC_ESC_CFG.WIN_LOG2 (R540). -/
  winLog2 : BitVec 6 := 0x24
  /-- FWC_ESC_CFG.LIMIT (R540). -/
  limit : BitVec 4 := 8
  /-- FWC_ESC_STATUS.TOTAL (R540). -/
  escTotal : BitVec 16 := 0
  /-- The last 15 service-time stamps, newest first (R536). -/
  stamps : List Nat := []
  /-- The service-time base (R536). -/
  svcBase : Nat := 0
  /-- FWC_DUMP_AREA.BASE_PFN (R544). -/
  dumpPfn : BitVec 40 := 0
  /-- FWC_DUMP_AREA.PAGES (R544). -/
  dumpPages : BitVec 15 := 0
  /-- FE_CYCLES at the trigger of the dump that is being written (R542). -/
  dumpFc : W64 := 0
  /-- FWC_DUMP_STATUS.SEQ (R544). -/
  dumpSeq : BitVec 16 := 0
  /-- FWC_DUMP_STATUS.CAUSE (R544). -/
  dumpCause : BitVec 8 := 0
  /-- FWC_DUMP_STATUS.COMPLETE (R544). -/
  dumpComplete : Bool := false
  /-- FWC_DUMP_STATUS.ARMED (R544). -/
  armed : Bool := false
  /-- The dump being written: sections still to finish and their status (R541, R542). -/
  dumping : Option (List (Nat × BitVec 8)) := none
  /-- A whole-block reset is in progress: its cause (R535). -/
  wholeBusy : Option (BitVec 8) := none
  /-- The FRONT_END or DECK self-test that runs, by its entry (R160, R191). -/
  selfTest : Option Nat := none
deriving DecidableEq, Repr

/-- The always-on ledger and error log (R545, R550 to R552). -/
structure Lgr where
  /-- The 128 counters (R550). -/
  counts : Tbl W64 := []
  /-- LGR_SNAPn (R552). -/
  snaps : Tbl W64 := []
  /-- LGR_RESTORED0 and 1 (R552). -/
  restored : BitVec 128 := 0
  /-- LGR_WALLCLOCK (R552). -/
  wallclock : W64 := 0
  /-- LGR_WALLCLOCK_FC (R552). -/
  wallclockFc : W64 := 0
  /-- LGR_ERR_STATUS.WP (R552). -/
  wp : W32 := 0
  /-- The error-log records by k mod 128, byte 0 at bits 7:0 (R545). -/
  records : Tbl (BitVec 256) := []
deriving DecidableEq, Repr

/-- State of the TAP controller (R68, IEEE 1149.1). -/
inductive TapState
  | testLogicReset | runTestIdle | selectDr | captureDr | shiftDr | exit1Dr | pauseDr | exit2Dr | updateDr
  | selectIr | captureIr | shiftIr | exit1Ir | pauseIr | exit2Ir | updateIr
deriving DecidableEq, Repr

/-- Pins, resets and test access (R67 to R74, R568, R569). -/
structure Pins where
  /-- KEY_HASH (R67). -/
  keyHash : BitVec 384 := 0
  /-- TEST_MODE (R71). -/
  testMode : Bool := false
  /-- SCAN_EN (R71). -/
  scanEn : Bool := false
  /-- State of the TAP controller (R68). -/
  tap : TapState := .testLogicReset
  /-- The TAP instruction register (R68). -/
  ir : BitVec 8 := 0x01
  /-- The shift stage of the instruction register (R68). -/
  irShift : BitVec 8 := 0x01
  /-- The shift stage of the selected data register (R69). -/
  dr : W64 := 0
  /-- Length in bits of the selected data register (R69). -/
  drLen : Nat := 32
  /-- The bits that the present or last scan has shifted out on TDO, the first one first (R68). -/
  tdo : List Bool := []
  /-- TRST_N is asserted (R68). -/
  trst : Bool := false
  /-- MBIST_CTRL bits 31:1 (R568). -/
  mbistCtrl : W32 := 0x0FF00000
  /-- MBIST_STATUS (R569). -/
  mbistStatus : W64 := 0
  /-- A BIST run is in progress (R570). -/
  bistRun : Bool := false
  /-- AORST_N is asserted (R74). -/
  aoRst : Bool := false
  /-- FRST_N is asserted. -/
  fRst : Bool := false
  /-- DRST_N is asserted. -/
  dRst : Bool := false
  /-- HRST_N is asserted. -/
  hRst : Bool := false
  /-- MRST_N asserted, by memory port. -/
  mRst : BitVec 8 := 0
  /-- CRST_N asserted, by cluster. -/
  cRst : BitVec 64 := 0
deriving DecidableEq, Repr

/-- The state of the block. -/
structure State where
  /-- The build parameters (R3). -/
  build : Build := {}
  /-- The context directory (R104). -/
  ctxs : Tbl Context := []
  /-- The queue slots (R115). -/
  queues : Tbl Queue := []
  /-- Front-end registers, fabric notice port, host port (R21, R59). -/
  fe : Fe := {}
  /-- The Bucking unit (R193). -/
  uc : Uc := {}
  /-- The Landing (R215). -/
  lnd : Lnd := {}
  /-- The Yarder (R263 to R277). -/
  yrd : Yrd := {}
  /-- Residency (R110). -/
  res : Res := {}
  /-- The memory manager ports (R49). -/
  mp : Mp := {}
  /-- The haul engines (R370). -/
  hau : Hau := {}
  /-- The Deck (R408). -/
  dck : Dck := {}
  /-- Translation (R441). -/
  xlt : Xlt := {}
  /-- The interrupt controller (R508). -/
  irq : Irq := {}
  /-- Power (R520). -/
  pwr : Pwr := {}
  /-- Firmware and recovery (R490, R539). -/
  fwc : Fwc := {}
  /-- The ledger (R552). -/
  lgr : Lgr := {}
  /-- The clusters (R102, R251). -/
  clusters : Tbl Cluster := []
  /-- CRZ_GEN (R133). -/
  crzGen : W64 := 0
  /-- Pins and resets (R72). -/
  pins : Pins := {}
  /-- MODEL: the counter that free values are applied to. -/
  free : Nat := 0
  /-- The commands waiting, first in, first out. -/
  pending : List Instr := []
deriving DecidableEq, Repr

/-- Why the machine stops. -/
inductive Fault where
  /-- Raised by TEST_MODE_CHANGE and CLOCK_CHANGE when R71 or R563 leaves the block's state undefined. Safe: the
  spec gives no state to go on from. -/
  | stateUndefined
deriving DecidableEq, Repr

/-- Why a command has no meaning. -/
inductive Refusal where
  /-- Raised by an arm of exec whose command has no meaning yet; no arm does. Safe. -/
  | notModelled (mnemonic : String)
deriving DecidableEq, Repr

/-- The domain positions present in a build (R64), bit k for position k. -/
def Build.domains (b : Build) : BitVec 90 :=
  BitVec.ofNat 90 (3 + (2 ^ b.memPorts - 1) * 2 ^ 2 + (2 ^ (b.deckMiB / 4) - 1) * 2 ^ 10
    + (2 ^ b.clusters - 1) * 2 ^ 26)

/-- The block right after a start in a build (R565): every register at its Reset column, the Deck initialised and open,
contexts and queues FREE, Blazes unconfigured at zero, every engine link held in reset, every present domain supplied. -/
def State.atStart (b : Build) : State :=
  { build := b
    dck := { ready := true, open_ := BitVec.ofNat 16 (2 ^ (b.deckMiB / 4) - 1), scrubbing := true }
    pwr := { pdReq := b.domains, pdAck := b.domains }
    pins := { keyHash := Config.keyHash } }

/-- The block right after reset: the reference build with every reset input released, after the start-up actions of
R565 (notes/assumptions/2). -/
def State.reset : State := State.atStart {}

end Sys2Proof.Machine
end

