-- ==== Sys2Proof/Machine/Ops.lean ====
section
/-! DEFINITION. Named operations over the state that several meanings share: reading and updating one record of a
table, the error log, interrupt sources, the ledger, manager transactions, fabric tokens and the Deck's bytes. -/

namespace Sys2Proof.Machine

/-! ## Counts of the build -/

/-- FE_CYCLES as a number (R21). -/
def State.fc (s : State) : Nat := s.fe.cycles.toNat

/-- CRZ_LIMITS.LANDING_ENTRIES (R127, R398). -/
def Build.landingEntries (b : Build) : Nat := if b.deckMiB = 64 then 131072 else 65536
/-- CRZ_LIMITS.CONTEXTS (R127, R398). -/
def Build.contexts (b : Build) : Nat := if b.deckMiB = 64 then 1048576 else 262144
/-- CRZ_LIMITS.BLAZES (R127, R398). -/
def Build.blazes (b : Build) : Nat := if b.deckMiB = 64 then 65536 else 32768
/-- CRZ_LIMITS2.QUEUE_SLOTS (R128, R398). -/
def Build.queueSlots (b : Build) : Nat := if b.deckMiB = 64 then 16384 else 8192
/-- Records of the reference table (R121, R398). -/
def Build.refRecords (b : Build) : Nat := if b.deckMiB = 64 then 131072 else 65536
/-- Units of the graph store (R398). -/
def Build.graphUnits (b : Build) : Nat := if b.deckMiB = 64 then 32768 else 16384
/-- Deck stripe groups present (R64). -/
def Build.deckGroups (b : Build) : Nat := b.deckMiB / 4
/-- Software-managed Deck regions (R398). -/
def Build.swRegions (b : Build) : Nat := if b.deckMiB = 64 then 64 else 32
/-- KERNEL_RESERVE (R128). -/
def kernelReserve : Nat := 1024

/-! ## Records of tables -/

/-- The context record `c` (R104). -/
def State.ctx (s : State) (c : BitVec 20) : Context := tget {} s.ctxs c.toNat
/-- An update of context record `c`. -/
def State.updCtx (s : State) (c : BitVec 20) (f : Context → Context) : State :=
  { s with ctxs := tupd {} s.ctxs c.toNat f }
/-- The queue slot `q` (R115). -/
def State.queue (s : State) (q : BitVec 14) : Queue := tget {} s.queues q.toNat
/-- An update of queue slot `q`. -/
def State.updQueue (s : State) (q : BitVec 14) (f : Queue → Queue) : State :=
  { s with queues := tupd {} s.queues q.toNat f }
/-- The Landing entry `e`; none when it is FREE (R219). -/
def State.entry (s : State) (e : Nat) : Option Entry := lget s.lnd.entries e
/-- An update of Landing entry `e`. -/
def State.updEntry (s : State) (e : Nat) (f : Entry → Entry) : State :=
  { s with lnd := { s.lnd with entries := lupd s.lnd.entries e f } }
/-- The Blaze `n` (R229). -/
def State.blaze (s : State) (n : BitVec 16) : Blaze := tget {} s.lnd.blazes n.toNat
/-- An update of Blaze `n`. -/
def State.updBlaze (s : State) (n : BitVec 16) (f : Blaze → Blaze) : State :=
  { s with lnd := { s.lnd with blazes := tupd {} s.lnd.blazes n.toNat f } }
/-- The cluster `c` (R102, R251). -/
def State.cluster (s : State) (c : BitVec 6) : Cluster := tget {} s.clusters c.toNat
/-- An update of cluster `c`. -/
def State.updCluster (s : State) (c : BitVec 6) (f : Cluster → Cluster) : State :=
  { s with clusters := tupd {} s.clusters c.toNat f }
/-- Partition `p` of the Yarder (R277). -/
def State.part (s : State) (p : BitVec 3) : Partition := s.yrd.parts.get p.toFin
/-- An update of partition `p`. -/
def State.updPart (s : State) (p : BitVec 3) (f : Partition → Partition) : State :=
  { s with yrd := { s.yrd with parts := s.yrd.parts.set p.toFin (f (s.yrd.parts.get p.toFin)) } }
/-- The residency slot `r` (R110). -/
def State.resSlot (s : State) (r : Nat) : ResSlot := tget {} s.res.slots r
/-- An update of residency slot `r`. -/
def State.updRes (s : State) (r : Nat) (f : ResSlot → ResSlot) : State :=
  { s with res := { s.res with slots := tupd {} s.res.slots r f } }
/-- The mailbox page `m` (R480). -/
def State.mbx (s : State) (m : BitVec 8) : Mbx := tget {} s.fwc.mbx m.toNat
/-- An update of mailbox page `m`. -/
def State.updMbx (s : State) (m : BitVec 8) (f : Mbx → Mbx) : State :=
  { s with fwc := { s.fwc with mbx := tupd {} s.fwc.mbx m.toNat f } }
/-- The firmware processor `p` (R467). -/
def State.proc (s : State) (p : Nat) : Proc := tget {} s.fwc.procs p
/-- An update of firmware processor `p`. -/
def State.updProc (s : State) (p : Nat) (f : Proc → Proc) : State :=
  { s with fwc := { s.fwc with procs := tupd {} s.fwc.procs p f } }
/-- The Bucking-unit thread `t` (R193). -/
def State.thread (s : State) (t : BitVec 4) : Thread := tget {} s.uc.threads t.toNat
/-- An update of thread `t`. -/
def State.updThread (s : State) (t : BitVec 4) (f : Thread → Thread) : State :=
  { s with uc := { s.uc with threads := tupd {} s.uc.threads t.toNat f } }
/-- The host vector `v` (R510). -/
def State.vec (s : State) (v : BitVec 3) : Vec := s.irq.vecs.get v.toFin
/-- An update of host vector `v`. -/
def State.updVec (s : State) (v : BitVec 3) (f : Vec → Vec) : State :=
  { s with irq := { s.irq with vecs := s.irq.vecs.set v.toFin (f (s.irq.vecs.get v.toFin)) } }
/-- The haul stream in slot `k` = 64 × engine + slot (R349). -/
def State.stream (s : State) (k : Nat) : Option Stream := lget s.hau.streams k
/-- An update of the haul stream in slot `k`. -/
def State.updStream (s : State) (k : Nat) (f : Stream → Stream) : State :=
  { s with hau := { s.hau with streams := lupd s.hau.streams k f } }
/-- The current binding of program number `p` of context `c`: the one of the last load committed (R337). -/
def State.binding (s : State) (c : BitVec 20) (p : BitVec 16) : Option Binding :=
  (s.lnd.bindings.filter (fun x => x.ctx = c && x.program = p)).getLast?
/-- Admission order of the load that made the current binding. -/
def State.bindOrd (s : State) (c : BitVec 20) (p : BitVec 16) : Nat :=
  match s.binding c p with | some b => b.ord | none => 0
/-- The binding that a launch took (R337). -/
def State.bindingOf (s : State) (x : Entry) : Option Binding :=
  s.lnd.bindings.find? (fun b => b.ctx = x.ctx && b.ord = x.bind)
/-- The graph number `g` of context `c` (R184). -/
def State.graph (s : State) (c : BitVec 20) (g : BitVec 12) : Graph :=
  tget {} s.lnd.graphs (4096 * c.toNat + g.toNat)
/-- An update of graph number `g` of context `c`. -/
def State.updGraph (s : State) (c : BitVec 20) (g : BitVec 12) (f : Graph → Graph) : State :=
  { s with lnd := { s.lnd with graphs := tupd {} s.lnd.graphs (4096 * c.toNat + g.toNat) f } }

/-- The scheduler core's processor number (R467). -/
def procSched : Nat := 2
/-- The power core's processor number (R467). -/
def procPower : Nat := 1
/-- The security core's processor number (R467). -/
def procSec : Nat := 0

/-- The residency slot that a context holds while it is RESIDENT (R104). -/
def State.residentSlot (s : State) (c : BitVec 20) : Option Nat :=
  if (s.ctx c).resident then some (s.ctx c).resSlot.toNat else none

/-! ## The error log, interrupt sources and the ledger -/

/-- A record of the error log (R545), written at WP; the oldest record is overwritten first. -/
def State.logErr (s : State) (origin status : BitVec 8) (event : BitVec 16) (c q : W32) (detail : W64) : State :=
  let r : BitVec 256 := detail ++ q ++ c ++ event ++ status ++ origin ++ s.lgr.wp ++ s.fe.cycles
  { s with lgr := { s.lgr with
      wp := s.lgr.wp + 1
      records := tset 0 s.lgr.records (s.lgr.wp.toNat % 128) r } }

/-- A hardware record of the error log (R546): context and queue with their VALID bits. -/
def State.logHw (s : State) (event : BitVec 16) (status : BitVec 8) (c : Option (BitVec 20))
    (q : Option (BitVec 14)) (detail : Nat) : State :=
  s.logErr 0xFF status event
    (match c with | none => 0 | some x => 0x80000000#32 ||| x.setWidth 32)
    (match q with | none => 0 | some x => 0x80000000#32 ||| x.setWidth 32) (BitVec.ofNat 64 detail)

/-- A wake event is latched (R516); one latched while the handshake or the power-down runs does not abandon the entry
(R517). -/
def State.latchWake (s : State) : State :=
  { s with pwr := { s.pwr with wake := true, wakeLate := s.pwr.wakeLate || decide (s.pwr.phase = .handshake) } }

/-- An event of interrupt source `n`: its pending bit becomes 1; source 0x3FF is never raised (R495). During an entry to a
lower power state a source routed to the power core is a wake event (R516). -/
def State.raise (s : State) (n : Nat) : State :=
  if n < 0x3FF then
    let s : State := { s with irq := { s.irq with pending := s.irq.pending ||| BitVec.twoPow 1024 n } }
    if (tget {} s.irq.routes n).pwr && (s.pwr.phase = .carrying || s.pwr.phase = .handshake) &&
        (s.pwr.state = .run || s.pwr.state = .idle) then s.latchWake else s
  else s

/-- Hardware sets a W1C flag in the present cycle (R558). -/
def State.noteFlag (s : State) (g : HwFlag) : State :=
  { s with fe := { s.fe with
      flagsFc := s.fc, flagsSet := g :: (if s.fe.flagsFc = s.fc then s.fe.flagsSet else []) } }

/-- A W1C flag after a host write, `clear` being the bit written: a setting in the same fclk cycle prevails (R558). -/
def State.w1c (s : State) (g : HwFlag) (now clear : Bool) : Bool :=
  now && (!clear || (s.fe.flagsFc = s.fc && s.fe.flagsSet.contains g))

/-- One more for ledger counter `i`, saturating (R550). -/
def State.count (s : State) (i : Nat) : State :=
  { s with lgr := { s.lgr with
      counts := tupd 0 s.lgr.counts i (fun x => if x = BitVec.allOnes 64 then x else x + 1) } }

/-- Any other Cruise register has changed (R133). -/
def State.cruise (s : State) : State := { s with crzGen := s.crzGen + 1 }

/-- The next free value of 64 bits and the state that has used it up. -/
def State.freshWord (s : State) : W64 × State := (Config.freeWord s.free, { s with free := s.free + 1 })

/-- A fold over a list of effects. -/
def State.each {α : Type} (s : State) (l : List α) (f : State → α → State) : State := l.foldl f s

/-! ## Manager transactions -/

/-- AxCACHE of a write for a memory attribute (R414). -/
def awCache (attr : BitVec 8) : BitVec 4 :=
  if attr = 0 then 1 else if attr = 1 then 3 else if attr = 2 then 6 else 0xF
/-- AxCACHE of a read for a memory attribute (R414). -/
def arCache (attr : BitVec 8) : BitVec 4 :=
  if attr = 0 then 1 else if attr = 1 then 3 else if attr = 2 then 0xA else 0xF

/-- SOURCE values of R39. -/
def srcWalk : BitVec 6 := 0x10
/-- Slash-ring, completion-ring and submission-ring traffic (R39, R135). -/
def srcRing : BitVec 6 := 0x11
/-- Mirror writes (R39). -/
def srcMirror : BitVec 6 := 0x12
/-- Interrupt messages (R39). -/
def srcIrq : BitVec 6 := 0x13
/-- Firmware loads (R39). -/
def srcFwload : BitVec 6 := 0x14
/-- Crash dump (R39). -/
def srcDump : BitVec 6 := 0x15
/-- Firmware log (R39). -/
def srcFwlog : BitVec 6 := 0x16

/-- The interfaces available to a burst, in ascending order (R36): every present one, or in a build of 16 clusters those
of the ports assigned to the partition whose traffic it is. -/
def State.available (s : State) (part : Option (BitVec 3)) : List Nat :=
  let all := List.range (8 * s.build.memPorts)
  match part with
  | none => all
  | some p =>
    if s.build.clusters = 16 then
      all.filter (fun i => (s.yrd.parts.get p.toFin).ports.getLsbD (i / 8))
    else all

/-- The routing fold of R36. -/
def routeFold (pa : Nat) : Nat :=
  (pa >>> 12) % 256 ^^^ (pa >>> 20) % 256 ^^^ (pa >>> 28) % 256 ^^^ (pa >>> 36) % 256 ^^^ (pa >>> 44) % 256

/-- The interface that R36 selects for a physical address. -/
def State.route (s : State) (part : Option (BitVec 3)) (pa : Nat) : Nat :=
  let l := s.available part
  l.getD (routeFold pa % l.length) 0

/-- Every transaction that has no response yet, those abandoned by a reset among them (R40, R48). -/
def Mp.out (m : Mp) : List Txn := m.txns ++ m.abandoned

/-- The lowest SLOT not held by an outstanding transaction on an interface and channel (R40). -/
def Mp.freeSlot (m : Mp) (write : Bool) (ifc : Nat) : Option Nat :=
  (List.range 32).find? (fun k => !m.out.any (fun t => t.write == write && t.ifc == ifc && t.slot == k))

/-- An interrupt message, whose burst has the form of R52. -/
def Txn.isMessage (t : Txn) : Bool := t.source = srcIrq
/-- AxADDR (R35, R52): a 64-byte boundary, except for an interrupt message. -/
def Txn.axAddr (t : Txn) : Nat := if t.isMessage then t.pa else t.pa - t.pa % 64
/-- AxLEN (R35, R52): one less than the beats. -/
def Txn.axLen (t : Txn) : Nat := if t.isMessage then 0 else (t.pa % 64 + t.len + 63) / 64 - 1
/-- AxSIZE (R35, R52). -/
def Txn.axSize (t : Txn) : Nat := if t.isMessage then 2 else 6
/-- WSTRB of byte `i` of the burst's beats (R35, R52): the bytes written. -/
def Txn.wstrb (t : Txn) (i : Nat) : Bool := decide (t.pa % 64 ≤ i) && decide (i < t.pa % 64 + t.len)
/-- WPOISON of byte `i` of the burst's beats (R43). -/
def Txn.wpoison (t : Txn) (i : Nat) : Bool := t.wstrb i && t.poison.getD (i - t.pa % 64) false

/-- The haul engine that sends the burst (R39), if one does. -/
def Txn.engine (t : Txn) : Option Nat := if t.source.toNat < 16 then some t.source.toNat else none

/-- Bursts that a haul engine has outstanding in a direction (R349, R373). -/
def Mp.engineOut (m : Mp) (write : Bool) (e : Nat) : Nat :=
  m.out.countP (fun t => t.write == write && t.engine == some e)

/-- The burst's haul engine has fewer than 128 outstanding in its direction (R349). -/
def Mp.engineRoom (m : Mp) (t : Txn) : Bool :=
  match t.engine with | none => true | some e => decide (m.engineOut t.write e < 128)

/-- The rate share of a partition's regulator in a direction (R276). -/
def Partition.share (p : Partition) (write : Bool) : BitVec 8 := if write then p.wrShare else p.rdShare
/-- Its bucket. -/
def Partition.bucket (p : Partition) (write : Bool) : Int := if write then p.wrBucket else p.rdBucket

/-- A regulator lets the transaction issue (R275, R276): no regulator, a bucket above zero, or borrowing with no waiting
burst of a partition with a positive bucket at the interface. -/
def State.regulated (s : State) (t : Txn) : Bool :=
  match t.part with
  | none => true
  | some p =>
    let x := s.part p
    s.build.clusters = 16 || x.share t.write = 0 || decide (0 < x.bucket t.write) ||
    (x.borrow && !s.mp.waiting.any (fun u => u.write == t.write && u.ifc == t.ifc && (match u.part with
      | some q => decide (0 < (s.part q).bucket t.write) && decide (q ≠ p) | none => false)))

/-- The bytes of a burst are taken from its partition's bucket if that is above zero (R276); a borrowed burst takes none. -/
def State.drawBucket (s : State) (t : Txn) : State :=
  match t.part with
  | none => s
  | some p =>
    if s.build.clusters = 16 || (s.part p).share t.write = 0 || decide ((s.part p).bucket t.write ≤ 0) then s
    else s.updPart p (fun x => if t.write then { x with wrBucket := x.wrBucket - t.len } else { x with rdBucket := x.rdBucket - t.len })

/-- The interface's MRST_N is released (R75). -/
def State.portUp (s : State) (ifc : Nat) : Bool := !s.pins.mRst.getLsbD (ifc / 8)

/-- Nothing but a free SLOT holds the burst back (R48, R75, R276, R349). -/
def State.mayIssue (s : State) (t : Txn) : Bool :=
  s.regulated t && !s.mp.invertDue && s.portUp t.ifc && s.mp.engineRoom t

/-- The stream slot that a burst of a chunk serves (R361). -/
def Txn.streamSlot (t : Txn) : Option Nat :=
  match t.purpose with
  | .chunkRead _ k _ _ _ => some k
  | .chunkWrite _ k _ => some k
  | .ctxDesc _ k => some k
  | .reclaim _ k => some k
  | _ => none

/-- Precedence of a burst within its engine (R361): chunks of RT streams, then save and restore traffic, then the rest. -/
def Txn.rank (t : Txn) : Nat :=
  match t.streamSlot with
  | none => 1
  | some _ => if t.qos = 0xC then 0 else 2

/-- A burst goes out in a SLOT, in the current epoch (R38, R40); its engine's round robin moves to its stream (R361). -/
def State.sendTxn (s : State) (t : Txn) (k : Nat) : State :=
  State.drawBucket { s with mp := { s.mp with
    txns := s.mp.txns ++ [{ t with slot := k, epoch := s.mp.epoch, fc := s.fc }]
    rr := match t.engine, t.streamSlot with
      | some e, some k => if t.rank = 2 then tset 0 s.mp.rr e k else s.mp.rr
      | _, _ => s.mp.rr } } t

/-- A transaction takes a free SLOT of its interface, or waits for one, for its engine or its regulator, or for the inversion
of the epoch bit (R40, R48, R276, R349). -/
def State.issueTxn (s : State) (t : Txn) : State :=
  match s.mp.freeSlot t.write t.ifc, s.mayIssue t with
  | some k, true => s.sendTxn t k
  | _, _ => { s with mp := { s.mp with waiting := s.mp.waiting ++ [t] } }

/-- The waiting burst of a list that is least by `key`, the oldest of equal ones, with its place. -/
def leastOf (key : Txn → Nat) : List (Txn × Nat) → Option (Txn × Nat)
  | [] => none
  | x :: rest =>
    match leastOf key rest with
    | none => some x
    | some y => if key y.1 < key x.1 then some y else some x

/-- The waiting burst that goes out next on an interface and channel: QoS orders the units (R41, R361), and R361 orders the
bursts of one haul engine; the oldest goes first among equals. -/
def State.nextTxn (s : State) (write : Bool) (ifc : Nat) : Option (Txn × Nat) :=
  let l := s.mp.waiting.zipIdx.filter (fun p => p.1.write == write && p.1.ifc == ifc && s.mayIssue p.1)
  match leastOf (fun t => 16 - t.qos.toNat) l with
  | none => none
  | some x =>
    match x.1.engine with
    | none => some x
    | some e =>
      let turn (t : Txn) : Nat := match t.streamSlot with
        | some k => if t.rank = 2 then (k + 63 - tget 0 s.mp.rr e) % 64 else 0
        | none => 0
      leastOf (fun t => 64 * t.rank + turn t) (l.filter (fun p => p.1.engine == some e))

/-- A waiting transaction of an interface and channel takes the SLOT that has become free (R40, R361). -/
def State.promoteTxn (s : State) (write : Bool) (ifc : Nat) : State :=
  match s.mp.freeSlot write ifc, s.nextTxn write ifc with
  | some k, some x => State.sendTxn { s with mp := { s.mp with waiting := s.mp.waiting.eraseIdx x.2 } } x.1 k
  | _, _ => s

/-- Every waiting transaction that may issue now does, in order (R40, R276, R361). -/
def State.promoteAll (s : State) : State :=
  let l := s.mp.waiting
  s.each l (fun s t => s.promoteTxn t.write t.ifc)

/-- A write transaction with the attributes given (R41). -/
def State.mpWrite (s : State) (part : Option (BitVec 3)) (source : BitVec 6) (pa : Nat) (prot : BitVec 3)
    (cache qos : BitVec 4) (data : List Byte) (poison : List Bool) (p : Purpose) : State :=
  s.issueTxn { write := true, ifc := s.route part pa, epoch := s.mp.epoch, source, slot := 0, pa, len := data.length,
               prot, cache, qos, retries := 0, data, poison, part, purpose := p, fc := s.fc }

/-- A read transaction with the attributes given (R41). -/
def State.mpRead (s : State) (part : Option (BitVec 3)) (source : BitVec 6) (pa len : Nat) (prot : BitVec 3)
    (cache qos : BitVec 4) (p : Purpose) : State :=
  s.issueTxn { write := false, ifc := s.route part pa, epoch := s.mp.epoch, source, slot := 0, pa, len,
               prot, cache, qos, retries := 0, data := [], part, purpose := p, fc := s.fc }

/-- A write of the "RING otherwise" row of R41. -/
def State.ringWrite (s : State) (part : Option (BitVec 3)) (source : BitVec 6) (pa : Nat) (data : List Byte)
    (p : Purpose) : State :=
  s.mpWrite part source pa 3 3 8 data [] p

/-- The bursts that cover a range without crossing a 4 KiB boundary (R35): offset from its start and length. -/
def burstsOf (pa len : Nat) : List (Nat × Nat) :=
  if len = 0 then []
  else (List.range ((pa + len - 1) / 4096 - pa / 4096 + 1)).map (fun i =>
    let a := max pa (4096 * (pa / 4096 + i))
    (a - pa, min (pa + len) (4096 * (pa / 4096 + i + 1)) - a))

/-- Physical reads of bytes `off` to `off + n` of a firmware image by the security core, with the attributes of FWLOAD (R39,
R41). -/
def State.fwAsk (s : State) (r : FwRead) (off n : Nat) (whole : Bool) : State :=
  let l := burstsOf (r.pa + off) n
  let r : FwRead := { r with len := off + n, left := r.left + l.length, whole }
  let s : State := { s with fwc := { s.fwc with reads := s.fwc.reads.filter (fun x => x.page ≠ r.page) ++ [r] } }
  s.each l (fun s b => s.mpRead none srcFwload (r.pa + off + b.1) b.2 3 3 8 (.firmware r.page (off + b.1)))

/-- The read of an image. -/
def Fwc.readOf (f : Fwc) (page : Option (BitVec 8)) : Option FwRead := f.reads.find? (fun r => r.page = page)

/-- The bytes of an image that has been read; none while bursts are missing, and none inside when a burst has failed. -/
def Fwc.imageRead (f : Fwc) (page : Option (BitVec 8)) : Option (Option (List Byte)) :=
  match f.readOf page with
  | none => none
  | some r =>
    if r.left ≠ 0 || !r.whole then none
    else some (if r.failed then none else some (gathered r.parts))

/-- The image is no longer held. -/
def State.dropRead (s : State) (page : Option (BitVec 8)) : State :=
  { s with fwc := { s.fwc with reads := s.fwc.reads.filter (fun x => x.page ≠ page) } }

/-- A read of the WALK row of R41. -/
def State.walkRead (s : State) (pa len : Nat) (p : Purpose) : State :=
  s.mpRead none srcWalk pa len 3 3 0xA p

/-! ## Fabric tokens (R55 to R57) -/

/-- JOB_TAG of a token (R56). -/
def tokenTag (t : W64) : W32 := t.extractLsb' 32 32

/-- The token that the block sends for a context torn down with a status (R56). -/
def State.tokenFor (s : State) (tag : W32) (status : BitVec 8) : W64 :=
  tag ++ status ++ s.fe.chipNum ++ (0 : BitVec 8)

/-- A token joins the queue: not again while its tag is in the queue; it waits in the fault path when the queue of 64
is full (R57). -/
def Fe.queueToken (f : Fe) (t : W64) : Fe :=
  if f.txq.any (fun x => tokenTag x = tokenTag t) then f
  else if f.txq.length < 64 then { f with txq := f.txq ++ [t] }
  else { f with txWait := f.txWait ++ [t] }

/-! ## Rows and regions of the Deck (R393, R397) -/

/-- Usable row number of a bank's row (R393); none for a parity row. -/
def Build.usableRow (b : Build) (bank row : Nat) : Option Nat :=
  let g := b.deckGroups
  let p := row % 8
  let k := bank % 8
  if k = p then none
  else
    let t := row * g + ((bank / 8) ^^^ (row % g))
    some (7 * t + if k < p then k else k - 1)

/-- Sizes of the regions in KiB, in the order of R397 (R398). -/
def Build.regionSizes (b : Build) : List Nat :=
  let big := b.deckMiB = 64
  let stage := b.haulEngines * 512
  let m (x y : Nat) : Nat := 1024 * if big then x else y
  [m 16 4, m 8 4, m 2 1, m 2 1, m 4 2, m 8 4 + (8192 - stage), stage, m 2 1, m 4 2, m 2 1]

/-- The region of a usable byte address, with the offset in it (R397). -/
def regionOf : List Nat → Nat → Nat → Nat × Nat
  | [], i, a => (i, a)
  | n :: r, i, a => if a < 1024 * n then (i, a) else regionOf r (i + 1) (a - 1024 * n)

/-- Bank and row of a usable byte address (R393). -/
def Build.deckPlace (b : Build) (a : Nat) : Nat × Nat :=
  let g := b.deckGroups
  let n := a / 512
  let t := n / 7
  let j := n % 7
  let s := t / g
  let p := s % 8
  (8 * ((t % g) ^^^ (s % g)) + (if j < p then j else j + 1), s)

/-- Bank and row of a byte address of the software-managed regions. -/
def Build.swPlace (b : Build) (a : Nat) : Nat × Nat := b.deckPlace (1024 * (b.regionSizes.take 9).sum + a)

/-- The rows that a range of the software-managed regions touches. -/
def Build.swRows (b : Build) (a n : Nat) : List (Nat × Nat) :=
  if n = 0 then [] else (List.range ((a + n - 1) / 512 - a / 512 + 1)).map (fun i => b.swPlace (512 * (a / 512 + i)))

/-- A range of the software-managed regions lies in a lost row (R404). -/
def State.swLost (s : State) (a n : Nat) : Bool := (s.build.swRows a n).any (fun x => s.dck.lostRows.contains x)

/-- The parts of a range of the software-managed regions that lie in lost rows, as offset and length (R404). -/
def State.swLostIn (s : State) (a n : Nat) : List (Nat × Nat) :=
  if n = 0 then []
  else (List.range ((a + n - 1) / 512 - a / 512 + 1)).filterMap (fun i =>
    let r := a / 512 + i
    let lo := max a (512 * r)
    if s.dck.lostRows.contains (s.build.swPlace (512 * r)) then some (lo - a, min (a + n) (512 * (r + 1)) - lo) else none)

/-- The lost rows that are left after a range has been written: a row written whole is whole again. -/
def State.madeWhole (s : State) (a n : Nat) : List (Nat × Nat) :=
  let first := (a + 511) / 512
  let whole := (List.range ((a + n) / 512 - first)).map (fun i => s.build.swPlace (512 * (first + i)))
  s.dck.lostRows.filter (fun x => !whole.contains x)

/-! ## The Deck's software-managed bytes (R399, R405) -/

/-- A byte of the software-managed regions, by its byte address; a byte never written reads zero, since the start-up
initialisation writes every row as zero (R405). -/
def memRead (m : List Host.Cell) (a : Nat) : Byte := tget 0 m a
/-- A byte written. -/
def memWrite (m : List Host.Cell) (a : Nat) (b : Byte) : List Host.Cell := tset 0 m a b
/-- The canonical form of memory: addresses strictly rising, no listed byte zero. -/
def memWf (m : List Host.Cell) : Bool := tblWf (0 : Byte) m
/-- `n` bytes from an address. -/
def memReadBytes (m : List Host.Cell) (a : Nat) : Nat → List Byte
  | 0 => []
  | n + 1 => memRead m a :: memReadBytes m (a + 1) n
/-- Bytes written from an address. -/
def memWriteBytes (m : List Host.Cell) (a : Nat) : List Byte → List Host.Cell
  | [] => m
  | b :: r => memWriteBytes (memWrite m a b) (a + 1) r
/-- `n` bytes zeroed from an address. -/
def memZero (m : List Host.Cell) (a n : Nat) : List Host.Cell := m.filter (fun p => p.1 < a || a + n ≤ p.1)

/-! ## States of the whole block -/

/-- The block's own units run: in service, in no whole-block reset, not held in reset (R535, R537, R74). -/
def State.inRun (s : State) : Bool :=
  decide (s.fwc.state ≠ .outOfService) && s.fwc.wholeBusy.isNone && !s.pins.fRst && !s.pins.aoRst &&
  (s.pwr.state = .run || s.pwr.state = .idle)

/-- The front end runs: the block does, with no reset of the front end in progress, no crash dump being written and no
failed security core (R524, R541, R477). -/
def State.feRuns (s : State) : Bool :=
  s.inRun && !s.fwc.feBusy && s.fwc.dumping.isNone && decide ((s.proc procSec).state ≠ .restarting)

/-- Fetch and admission are open (R515, R533, R537); not once the block has left service on a failed front-end self-test (R191,
R472; DEDUCED, notes/assumptions/71). -/
def State.admits (s : State) : Bool := s.feRuns && !s.pwr.admitClosed && decide (s.fwc.state ≠ .refused)

/-- The completion-entry periods of R160 that hold for every queue with a ring: the start, a front-end or Deck self-test, and
a reset of R524 from its start until its recovery reports it complete. -/
def State.cplPeriod (s : State) : Bool :=
  s.fwc.state = .idle || s.fwc.state = .verifying || s.fwc.state = .starting ||
  s.fwc.selfTest.isSome || s.fwc.feBusy || s.fwc.wholeBusy.isSome ||
  s.clusters.any (fun p => p.2.recovery.isSome)

/-- The kernel context (R105). -/
def kernelCtx : BitVec 20 := 0

/-- Entries held by a queue (R146). -/
def State.queueEntries (s : State) (q : BitVec 14) : List (Nat × Entry) :=
  s.lnd.entries.filter (fun p => p.2.queue = q)

/-- Entries of a context. -/
def State.ctxEntries (s : State) (c : BitVec 20) : List (Nat × Entry) :=
  s.lnd.entries.filter (fun p => p.2.ctx = c)

/-- Entries held by USER queues (R156, R242). -/
def State.userHeld (s : State) : Nat := s.lnd.entries.countP (fun p => !p.2.kernelQ)

/-- Queues bound to a context. -/
def State.ctxQueues (s : State) (c : BitVec 20) : List (BitVec 14) :=
  (s.queues.filter (fun p => p.2.ctx = c && decide (p.2.state ≠ .free))).map (fun p => BitVec.ofNat 14 p.1)

/-! ## Accesses at the host port -/

/-- The response that the host port gives to an access (R28, R31). -/
def State.respond (s : State) (r : Resp) (data : W512) : State :=
  { s with fe := { s.fe with resp := { resp := r, data, notBefore := s.fc, id := s.fe.hostId } } }

/-- The host port serves accesses (R33, R74, R515, R535). -/
def State.hostOpen (s : State) : Bool :=
  (s.pwr.state = .run || s.pwr.state = .idle) && !s.pwr.hostHeld && !s.pins.aoRst && !s.pins.fRst && !s.pins.hRst &&
  s.fwc.wholeBusy.isNone

/-- An event that needs an idle part returns the block from IDLE to RUN (R513). -/
def State.leaveIdle (s : State) : State :=
  if s.pwr.state = .idle then { s with pwr := { s.pwr with state := .run, quietFc := s.fc } } else s

/-- The host port accepts an access and holds it: in SLEEP, and from step 6 of an entry to SLEEP on (R33, R515). -/
def State.hostHolds (s : State) : Bool :=
  !s.pins.aoRst && !s.pins.fRst && !s.pins.hRst && s.fwc.wholeBusy.isNone &&
  (s.pwr.state = .sleep || (s.pwr.hostHeld && (match s.pwr.request with | some (t, _) => t = .sleep | none => false)))

/-- An access is held until the block is back in RUN; it is a wake event, unless the exit already runs (R33, R516). -/
def State.holdAccess (s : State) (a : HostAccess) : State :=
  let s : State := { s with pwr := { s.pwr with held := s.pwr.held ++ [a] } }
  if s.pwr.phase = .exiting then s else s.latchWake

/-- The channel of an access: writes, else reads (R31). -/
def isWrite : HostAccess → Bool
  | .write _ => true
  | .read _ => false

/-- AWID or ARID (R26). -/
def accessId : HostAccess → BitVec 16
  | .write w => w.id
  | .read r => r.id

/-- An earlier access of the same channel waits, and this one waits behind it: accesses act, and are answered, in the order of
their handshakes (R30, R31). -/
def State.behind (s : State) (a : HostAccess) : Bool := s.fwc.mbxWait.any (fun x => isWrite x.1 == isWrite a)

/-- The access waits at the host port (R31, R32). -/
def State.waitAccess (s : State) (a : HostAccess) (fc : Nat) : State :=
  { s with fwc := { s.fwc with mbxWait := s.fwc.mbxWait ++ [(a, fc)] } }

/-- The access that the host port serves from here on, whose ID its response carries (R26). -/
def State.forAccess (s : State) (a : HostAccess) : State := { s with fe := { s.fe with hostId := accessId a } }

/-- A host access `a` with effect `f`: served in its turn, held for the return to RUN, or not accepted (R30, R31, R33, R535). -/
def State.host (s : State) (a : HostAccess) (f : State → State) : State :=
  if s.hostOpen then (if s.behind a then s.leaveIdle.waitAccess a s.fc else f (s.leaveIdle.forAccess a))
  else if s.hostHolds then s.holdAccess a else s

/-- A host write of `n` bytes (4, 8 or 64) to an offset of the window. -/
def hostWr (off n v : Nat) : HostAccess :=
  .write { addr := BitVec.ofNat 27 off, size := if n = 4 then .b4 else if n = 8 then .b8 else .b64, data := BitVec.ofNat 512 v }

/-- An 8-byte host read of an offset of the window. -/
def hostRd (off : Nat) : HostAccess := .read { addr := BitVec.ofNat 27 off }

/-- FWC_STATUS.STATE changes: source START is raised (R496). -/
def State.setFw (s : State) (x : FwState) : State :=
  if s.fwc.state = x then s else State.raise { s with fwc := { s.fwc with state := x } } 0x005

/-! ## The firmware log (R486 to R489) -/

/-- PHASE of entry count `k` of a ring: 1 on the first lap, inverted on each later lap (R162, R486). -/
def cplPhase (k log2 : Nat) : Bool := (k >>> log2) % 2 = 0

/-- LOG2 of FWC_LOG_RING as it acts (R493). -/
def Fwc.logSize (f : Fwc) : Nat := if 7 ≤ f.logLog2.toNat && f.logLog2.toNat ≤ 16 then f.logLog2.toNat else 0

/-- A log record (R486, R488): posted at WP, or dropped and counted when the ring is full or there is none; an ERROR record
is also written to the error log (R545). -/
def State.fwRecord (s : State) (proc level event : Nat) (args : List Nat) : State :=
  let f := s.fwc
  let n := f.logSize
  let a (i : Nat) : W32 := BitVec.ofNat 32 (args.getD i 0)
  let s := if level = 0 then s.logErr (BitVec.ofNat 8 proc) 0x00 (BitVec.ofNat 16 event) (a 0) (a 1) (a 3 ++ a 2) else s
  if n = 0 || decide (2 ^ n ≤ (f.logWp - f.logRp).toNat) then
    { s with fwc := if level ≤ 1 then { s.fwc with lostError := f.lostError + 1 } else { s.fwc with lostOther := f.lostOther + 1 } }
  else
    let b := toBytes 8 s.fc ++ [BitVec.ofNat 8 proc, BitVec.ofNat 8 level, BitVec.ofNat 8 (b2n (cplPhase f.logWp.toNat n)), 0] ++
      toBytes 2 event ++ [0, 0] ++ (List.range 4).flatMap (fun i => toBytes 4 (a i).toNat)
    State.ringWrite { s with fwc := { s.fwc with logWp := f.logWp + 1 } } none srcFwlog
      (4096 * f.logPfn.toNat + 32 * (f.logWp.toNat % 2 ^ n)) b .fwLog

/-- A record that is ERROR or WARN as the firmware chooses (R488): a free value. -/
def State.fwAlert (s : State) (proc event : Nat) (args : List Nat) : State :=
  let w := s.freshWord
  w.2.fwRecord proc (b2n (w.1.getLsbD 0)) event args

/-- A trace point (R489): a TRACE record while its class is enabled. -/
def State.trace (s : State) (cls proc event : Nat) (args : List Nat) : State :=
  if s.fwc.trace.getLsbD cls then s.fwRecord proc 3 event args else s

/-- A mailbox request completes (R483): the response, then STATUS and STATE; with NOTIFY the page's source (R481). -/
def State.mbxDone (s : State) (page : BitVec 8) (status : BitVec 8) (resp : W512) : State :=
  let notify := bit (s.mbx page).req 8
  let s := s.trace 0 procSched 0x0002 [page.toNat, bits (s.mbx page).req 7 0, (s.mbx page).seq.toNat, status.toNat]
  let s := s.updMbx page (fun m => { m with state := .done, status, resp })
  if notify then s.raise (0x100 + page.toNat) else s

/-- POWERED has moved on by the aoclk cycles since it was last looked at, a number that no fclk count gives (R550, R13): a
free value. It saturates. -/
def State.powered (s : State) : State :=
  let w := s.freshWord
  { w.2 with lgr := { w.2.lgr with
    counts := tupd 0 w.2.lgr.counts 0 (fun x => BitVec.ofNat 64 (min (x.toNat + w.1.toNat) (2 ^ 64 - 1))) } }

/-! ## Requests for a reset -/

/-- KIND values of FWC_RCV_STATUS (R539): a cluster reset. -/
def kindCluster : BitVec 4 := 1
/-- A front-end reset. -/
def kindFrontEnd : BitVec 4 := 2
/-- A whole-block reset. -/
def kindWhole : BitVec 4 := 3
/-- Out of service. -/
def kindOos : BitVec 4 := 4

/-- The request that leaves out of service: a whole-block reset with cause DRIVER (R537). -/
def leavesOos (a : BitVec 4 × BitVec 8) : Bool := a.1 = kindWhole && a.2 = 0x0A

/-- A detector asks for a reset or for out of service (R523); one request of a kind stands at a time, beside that of the
driver. -/
def State.ask (s : State) (kind : BitVec 4) (cause : BitVec 8) : State :=
  if s.fwc.asked.any (fun a => a.1 = kind && leavesOos a == leavesOos (kind, cause)) then s
  else if s.fwc.state = .outOfService && !leavesOos (kind, cause) then s
  else { s with fwc := { s.fwc with asked := s.fwc.asked ++ [(kind, cause)] } }

end Sys2Proof.Machine
end

