-- ==== Sys2Proof/Machine/Operands.lean ====
section
/-! DEFINITION. Operand forms: the fields of a packet (R165 to R191), of an operation image (R216), of a microword
(R197) and of the other laid-out words that commands carry. -/

namespace Sys2Proof.Machine

/-- Bits `hi:lo` of a packet. -/
def pf (p : Packet) (hi lo : Nat) : Nat := bits p hi lo
/-- OPCODE (R165). -/
def pktOpcode (p : Packet) : BitVec 8 := p.extractLsb' 0 8
/-- LEN (R165). -/
def pktLen (p : Packet) : Nat := pf p 17 16
/-- SERIAL (R165). -/
def pktSerial (p : Packet) : W32 := p.extractLsb' 32 32
/-- CPL of FLAGS (R166). -/
def pktCpl (p : Packet) : Bool := bit p 8
/-- W0 of FLAGS (R166). -/
def pktW0 (p : Packet) : Bool := bit p 9
/-- W1 of FLAGS (R166). -/
def pktW1 (p : Packet) : Bool := bit p 10
/-- CPL_BLAZE (R165). -/
def pktCplBlaze (p : Packet) : BitVec 16 := p.extractLsb' 64 16
/-- WAIT0_BLAZE (R165). -/
def pktWait0 (p : Packet) : BitVec 16 := p.extractLsb' 80 16
/-- WAIT1_BLAZE (R165). -/
def pktWait1 (p : Packet) : BitVec 16 := p.extractLsb' 96 16

/-- The Blazes that a header names (R168). -/
def pktHeaderBlazes (p : Packet) : List (BitVec 16) :=
  (if pktCpl p then [pktCplBlaze p] else []) ++ (if pktW0 p then [pktWait0 p] else [])
    ++ (if pktW1 p then [pktWait1 p] else [])

/-- The header rules of check 2: reserved bits zero and FLAGS consistent (R165 to R167). -/
def headerOk (p : Packet) : Bool :=
  pf p 31 18 = 0 && pf p 127 112 = 0 && pf p 191 160 = 0 && pf p 15 12 = 0 &&
  (if pktCpl p then decide (pf p 159 128 ≠ 0) else pf p 79 64 = 0 && pf p 159 128 = 0) &&
  (pktW0 p || (pf p 95 80 = 0 && pf p 255 192 = 0)) && (pktW1 p || (pf p 111 96 = 0 && pf p 319 256 = 0))

/-- The same rule for a CHAIN signal of a LAUNCH with LEN 3 (R176). -/
def chainOk (p : Packet) : Bool :=
  if bit p 1032 then decide (pf p 1183 1152 ≠ 0) else pf p 1103 1088 = 0 && pf p 1183 1152 = 0

/-- LEN_OK of an opcode from 0x00 to 0x3F (R170). -/
def lenOk (op : Nat) : Nat :=
  if op = 0x01 then 0b1011 else if op = 0x02 || op = 0x28 then 0b0010 else if op = 0x04 then 0b1111
  else if op ≤ 0x09 || (0x20 ≤ op && op ≤ 0x29) then 0b0001 else 0

/-- Reserved ranges of the LAUNCH fields of R174, `o` bits above their own places, from unit 1 on only with `long`. -/
def launchReserved (o : Nat) (long : Bool) : List (Nat × Nat) :=
  [(351 + o, 336 + o), (479 + o, 465 + o), (511 + o, 495 + o)] ++
  (if long then [(575 + o, 560 + o), (1023 + o, 624 + o)] else [])

/-- Reserved parameter bits of the opcodes that R170 names, as ranges of packet bits (R174 to R191). -/
def reservedRanges (op len : Nat) : List (Nat × Nat) :=
  match op with
  | 0x00 => [(511, 320)]
  | 0x01 => launchReserved 0 (decide (1 ≤ len)) ++
      (if len = 3 then [(1031, 1024), (1087, 1033), (1151, 1104), (1343, 1184)] ++ launchReserved 1024 true else [])
  | 0x02 => [(511, 320)]
  | 0x03 => [(383, 353)]
  | 0x04 => (511, 320) :: ((List.range len).map (fun u => (List.range 4).map (fun i =>
      (512 * (u + 1) + 128 * i + 63, 512 * (u + 1) + 128 * i + 16)))).flatten
  | 0x05 => [(351, 336), (447, 432), (511, 472)]
  | 0x06 => [(351, 332), (447, 432), (511, 472)]
  | 0x07 => [(383, 332), (511, 448)]
  | 0x08 => [(351, 332), (447, 432), (511, 472)]
  | 0x09 => [(511, 332)]
  | 0x20 => [(343, 343), (383, 370), (511, 456)]
  | 0x21 => [(511, 340)]
  | 0x22 => [(335, 334), (383, 377), (479, 472)]
  | 0x23 => [(511, 334)]
  | 0x24 => [(351, 340), (511, 384)]
  | 0x25 => [(383, 341), (447, 429), (511, 484)]
  | 0x26 => [(351, 340), (383, 362), (511, 416)]
  | 0x27 => [(343, 340), (511, 352)]
  | 0x28 => [(383, 358), (1023, 640)]
  | 0x29 => [(327, 322), (511, 334)]
  | _ => []

/-- Every reserved parameter bit of an opcode that R170 names is zero (R167). -/
def reservedOk (p : Packet) : Bool :=
  (reservedRanges (pktOpcode p).toNat (pktLen p)).all (fun r => pf p r.1 r.2 = 0)

/-- A word of an operation image (R216). -/
def imgWord (m : W512) (k : Nat) : W64 := m.extractLsb' (64 * k) 64
/-- A word of an operation image replaced (STE, R200). -/
def imgSet (m : W512) (k : Nat) (v : W64) : W512 := putBits m (64 * k + 63) (64 * k) v.toNat

/-- What the header checker puts into a thread's image (R216): the waits, the signal, BARRIER and SERIAL. -/
def headerImage (p : Packet) : W512 :=
  BitVec.ofNat 512 (pf p 255 192 + pf p 319 256 * 2 ^ 64
    + (b2n (bit p 8) + 2 * b2n (bit p 9) + 4 * b2n (bit p 10) + 8 * b2n (bit p 11)) * 2 ^ 128
    + pf p 95 80 * 2 ^ 144 + pf p 111 96 * 2 ^ 160 + pf p 79 64 * 2 ^ 176
    + pf p 159 128 * 2 ^ 192 + pf p 63 32 * 2 ^ 224)

/-- KIND of an image (R216, R217). Words 0 to 3 of a WAIT_EXT entry hold VALUEs (R218), so such an entry is known by the
WAIT that it extends. -/
def Entry.kind (e : Entry) : Nat := if e.extOf.isSome then 0x11 else bits e.img 143 136
/-- CPL of an image (R216). -/
def Entry.cpl (e : Entry) : Bool := e.extOf.isNone && bit e.img 128
/-- CPL_BLAZE of an image (R216). -/
def Entry.cplBlaze (e : Entry) : BitVec 16 := e.img.extractLsb' 176 16
/-- CPL_INC of an image (R216). -/
def Entry.cplInc (e : Entry) : W32 := e.img.extractLsb' 192 32
/-- SERIAL of an image (R216). -/
def Entry.serial (e : Entry) : W32 := if e.extOf.isSome then e.pkt.extractLsb' 32 32 else e.img.extractLsb' 224 32
/-- BARRIER of an image (R216). -/
def Entry.barrier (e : Entry) : Bool := e.extOf.isNone && bit e.img 131

/-- Operation kinds of R217. -/
def kNop : Nat := 0x00
/-- LAUNCH. -/
def kLaunch : Nat := 0x01
/-- HAUL. -/
def kHaul : Nat := 0x02
/-- SIGNAL. -/
def kSignal : Nat := 0x03
/-- WAIT. -/
def kWait : Nat := 0x04
/-- PROGRAM_LOAD. -/
def kProgramLoad : Nat := 0x05
/-- GRAPH_LOAD. -/
def kGraphLoad : Nat := 0x06
/-- GRAPH_LAUNCH. -/
def kGraphLaunch : Nat := 0x07
/-- GRAPH_PATCH. -/
def kGraphPatch : Nat := 0x08
/-- GRAPH_RELEASE. -/
def kGraphRelease : Nat := 0x09
/-- CHAINED. -/
def kChained : Nat := 0x10
/-- WAIT_EXT. -/
def kWaitExt : Nat := 0x11
/-- GRAPH_NODE. -/
def kGraphNode : Nat := 0x12

/-- A node's own kind from its record's byte, kept in the entry's packet bits 7:0 (R279, R295): LAUNCH, HAUL, SIGNAL or
NOP. For other entries the kind itself; CHAINED acts as a LAUNCH. -/
def Entry.actKind (e : Entry) : Nat :=
  if e.kind = kGraphNode then bits e.pkt 7 0 else if e.kind = kChained then kLaunch else e.kind

/-- The waits of the header in an image, in order WAIT0, WAIT1 (R216, R228): number, Blaze and target. -/
def Entry.headWaits (e : Entry) : List (Nat × BitVec 16 × W64) :=
  (if e.extOf.isNone && bit e.img 129 then [(0, e.img.extractLsb' 144 16, imgWord e.img 0)] else []) ++
  (if e.extOf.isNone && bit e.img 130 then [(1, e.img.extractLsb' 160 16, imgWord e.img 1)] else [])

/-- The four waits of a WAIT_EXT entry (R218), numbered from `n`. -/
def extWaits (m : W512) (n : Nat) : List (Nat × BitVec 16 × W64) :=
  (List.range 4).map (fun i => (n + i, m.extractLsb' (256 + 16 * i) 16, imgWord m i))

/-- The WAIT_EXT entries of a WAIT, in unit order (R218). -/
def State.extEntries (s : State) (e : Nat) : List (Nat × Entry) :=
  (s.lnd.entries.filter (fun p => p.2.extOf = some e)).mergeSort (fun a b => a.2.node ≤ b.2.node)

/-- Every wait of an entry, its WAIT_EXT records included, in the order WAIT0, WAIT1, records (R218, R228). -/
def State.waits (s : State) (e : Nat) (x : Entry) : List (Nat × BitVec 16 × W64) :=
  x.headWaits ++
    ((s.extEntries e).foldl (fun (a : Nat × List (Nat × BitVec 16 × W64)) p =>
      (a.1 + 4, a.2 ++ extWaits p.2.img a.1)) (2, [])).2

/-- SIGNAL targets: of an image (R216), or of a GRAPH_NODE's record, held in bits 1023:0 of the entry's packet, with
ARG added where ARG_SIG is set (R279, R286). -/
def Entry.signals (e : Entry) : List (BitVec 16 × W64) :=
  if e.kind = kGraphNode then
    let arg : W64 := if bit e.pkt 12 then imgWord e.img 6 else 0
    (e.pkt.extractLsb' 512 16, e.pkt.extractLsb' 576 64 + arg) ::
      (if bit e.pkt 544 then [(e.pkt.extractLsb' 528 16, e.pkt.extractLsb' 640 64 + arg)] else [])
  else
    (e.img.extractLsb' 384 16, imgWord e.img 4) ::
      (if bit e.img 416 then [(e.img.extractLsb' 400 16, imgWord e.img 5)] else [])

/-- What a launch entry runs (R174, R326). -/
structure LaunchOp where
  /-- PROGRAM. -/
  program : BitVec 16
  /-- BINDING (R337). -/
  binding : BitVec 16
  /-- Times the program is run: REPLAY, 0 meaning 2^32. -/
  replays : Nat
  /-- DESC_HANDLE, DESC_OFF, DESC_COUNT. -/
  desc : W32 × Nat × Nat
  /-- SDATA_HANDLE, SDATA_OFF, SDATA_LEN. -/
  sdata : W32 × Nat × Nat
deriving DecidableEq, Repr

/-- REPLAY as a number of runs (R174). -/
def replays (n : Nat) : Nat := if n = 0 then 2 ^ 32 else n

/-- The launch of a LAUNCH or CHAINED image (R326), or of a GRAPH_NODE's record (R279): there the binding taken at
admission (R284) stands in bits 1039:1024 of the entry's packet. -/
def Entry.launch (e : Entry) : LaunchOp :=
  if e.kind = kGraphNode then
    { program := e.pkt.extractLsb' 512 16, binding := e.pkt.extractLsb' 1024 16
      replays := replays (bits e.pkt 575 544)
      desc := (e.pkt.extractLsb' 576 32, bits e.pkt 751 704, bits e.pkt 656 640)
      sdata := (e.pkt.extractLsb' 608 32, bits e.pkt 815 768, bits e.pkt 686 672) }
  else
    { program := e.img.extractLsb' 256 16, binding := e.img.extractLsb' 272 16
      replays := replays (bits e.img 319 288)
      desc := (e.img.extractLsb' 352 32, 64 * bits e.img 425 384, bits e.img 447 431)
      sdata := (e.img.extractLsb' 320 32, 4 * bits e.img 493 448, bits e.img 510 496) }

/-- The image words 4 to 7 that a LAUNCH packet's fields, at positions `o` above those of R174, fill (R326). -/
def launchPayload (p : Packet) (o : Nat) (long : Bool) (binding : BitVec 16) : W512 :=
  let off (hi lo : Nat) := if long then pf p (hi + o) (lo + o) else 0
  BitVec.ofNat 512 ((pf p (335 + o) (320 + o)) * 2 ^ 256 + binding.toNat * 2 ^ 272
    + pf p (383 + o) (352 + o) * 2 ^ 288 + pf p (447 + o) (416 + o) * 2 ^ 320 + pf p (415 + o) (384 + o) * 2 ^ 352
    + off 559 518 * 2 ^ 384 + pf p (464 + o) (448 + o) * 2 ^ 431
    + off 623 578 * 2 ^ 448 + pf p (494 + o) (480 + o) * 2 ^ 496)

/-- The Blazes that an entry signals: CPL_BLAZE with CPL 1 (CHAIN_BLAZE for a CHAINED entry), and SIGNAL targets
(R238). -/
def Entry.signalled (e : Entry) : List (BitVec 16) :=
  (if e.cpl then [e.cplBlaze] else []) ++
  (if e.actKind = kSignal then e.signals.map (·.1) else [])

/-- A haul descriptor (R350). -/
structure HaulOp where
  /-- OP (R351). -/
  op : Nat
  /-- SRC_FMT. -/
  srcFmt : Nat
  /-- DST_FMT. -/
  dstFmt : Nat
  /-- ROUND: true toward zero. -/
  trunc : Bool
  /-- SAT. -/
  sat : Bool
  /-- SUBN. -/
  subn : Bool
  /-- SRC_DECK. -/
  srcDeck : Bool
  /-- DST_DECK. -/
  dstDeck : Bool
  /-- SRC_MX_BS. -/
  srcBs : Nat
  /-- SRC_MX_DIR. -/
  srcDir : Bool
  /-- DST_MX_BS. -/
  dstBs : Nat
  /-- DST_MX_DIR. -/
  dstDir : Bool
  /-- ROW_LEN. -/
  rowLen : Nat
  /-- ROWS. -/
  rows : Nat
  /-- SRC_HANDLE, or the Deck region. -/
  srcH : W32
  /-- DST_HANDLE, or the Deck region. -/
  dstH : W32
  /-- SRC_OFF. -/
  srcOff : Nat
  /-- DST_OFF. -/
  dstOff : Nat
  /-- SRC_PITCH. -/
  srcPitch : Nat
  /-- DST_PITCH. -/
  dstPitch : Nat
  /-- FILL_VALUE. -/
  fill : W64
deriving DecidableEq, Repr

/-- The descriptor that 512 bits hold (R350). -/
def haulOf (d : W512) : HaulOp :=
  { op := bits d 2 0, srcFmt := bits d 12 8, dstFmt := bits d 20 16, trunc := bit d 24, sat := bit d 26
    subn := bit d 27, srcDeck := bit d 28, dstDeck := bit d 29, srcBs := bits d 34 32, srcDir := bit d 35
    dstBs := bits d 38 36, dstDir := bit d 39, rowLen := bits d 63 40, rows := bits d 81 64
    srcH := d.extractLsb' 96 32, dstH := d.extractLsb' 128 32, srcOff := bits d 207 160, dstOff := bits d 271 224
    srcPitch := bits d 315 288, dstPitch := bits d 347 320, fill := d.extractLsb' 352 64 }

/-- OP values of R351. -/
def opCopy : Nat := 1
/-- CONVERT. -/
def opConvert : Nat := 2
/-- FILL. -/
def opFill : Nat := 3
/-- REDUCE. -/
def opReduce : Nat := 4
/-- PREFETCH. -/
def opPrefetch : Nat := 5

/-- The operation has a source operand (R352). -/
def HaulOp.hasSrc (h : HaulOp) : Bool := h.op ≠ opFill
/-- The operation has a destination operand (R352). -/
def HaulOp.hasDst (h : HaulOp) : Bool := h.op ≠ opPrefetch
/-- The memory-object handles that a descriptor names (R350). -/
def HaulOp.handles (h : HaulOp) : List W32 :=
  (if h.hasSrc && !h.srcDeck then [h.srcH] else []) ++ (if h.hasDst && !h.dstDeck then [h.dstH] else [])

/-- The resolved form of a descriptor (R357): payload words 4 to 7, with the reference record of each handle. -/
def haulPayload (d : W512) (srcRef dstRef : Nat) : W512 :=
  let h := haulOf d
  let v := h.op + h.srcFmt * 2 ^ 3 + h.dstFmt * 2 ^ 8 + bits d 25 24 * 2 ^ 13 + b2n h.sat * 2 ^ 15
    + b2n h.subn * 2 ^ 16 + h.srcBs * 2 ^ 17 + b2n h.srcDir * 2 ^ 20 + h.dstBs * 2 ^ 21 + b2n h.dstDir * 2 ^ 24
    + b2n h.srcDeck * 2 ^ 25 + b2n h.dstDeck * 2 ^ 26 + h.rows * 2 ^ 27 + h.rowLen * 2 ^ 45
    + (if h.dstDeck then bits h.dstH 5 0 else dstRef) * 2 ^ 86 + h.dstOff * 2 ^ 151 + h.dstPitch * 2 ^ 227
    + (if h.op = opFill then bits h.fill 47 0 * 2 ^ 103 + bits h.fill 63 48 * 2 ^ 69
       else (if h.srcDeck then bits h.srcH 5 0 else srcRef) * 2 ^ 69 + h.srcOff * 2 ^ 103 + h.srcPitch * 2 ^ 199)
  BitVec.ofNat 512 (v * 2 ^ 256)

/-- The descriptor that a resolved payload stands for, its reference records turned back into handles (R357). -/
def State.haulResolved (s : State) (m : W512) : HaulOp :=
  let f (hi lo : Nat) := bits m (hi + 256) (lo + 256)
  let hnd (deck : Bool) (r : Nat) : W32 := if deck then BitVec.ofNat 32 (r % 64) else (tget {} s.xlt.refs r).handle
  let fill := decide (f 2 0 = opFill)
  { op := f 2 0, srcFmt := f 7 3, dstFmt := f 12 8, trunc := decide (f 14 13 = 1), sat := f 15 15 = 1
    subn := f 16 16 = 1, srcBs := f 19 17, srcDir := f 20 20 = 1, dstBs := f 23 21, dstDir := f 24 24 = 1
    srcDeck := f 25 25 = 1, dstDeck := f 26 26 = 1, rows := f 44 27, rowLen := f 68 45
    srcH := if fill then 0 else hnd (f 25 25 = 1) (f 85 69), dstH := hnd (f 26 26 = 1) (f 102 86)
    srcOff := if fill then 0 else f 150 103, dstOff := f 198 151, srcPitch := if fill then 0 else f 226 199
    dstPitch := f 254 227, fill := if fill then BitVec.ofNat 64 (f 150 103 + f 84 69 * 2 ^ 48) else 0 }

/-- PREFETCH as the engines run it: its source extent, from SRC_OFF to the end of the last row, as one row (R354). -/
def HaulOp.flat (h : HaulOp) : HaulOp :=
  if h.op = opPrefetch then { h with rowLen := (h.rows - 1) * h.srcPitch + h.rowLen, rows := 1 } else h

/-- The handles that a graph node record names (R279). -/
def nodeHandles (r : BitVec 1024) : List W32 :=
  let k := bits r 7 0
  if k = kLaunch then
    (if bits r 656 640 ≠ 0 then [r.extractLsb' 576 32] else []) ++
    (if bits r 686 672 ≠ 0 then [r.extractLsb' 608 32] else [])
  else if k = kHaul then (haulOf (r.extractLsb' 512 512)).handles
  else []

/-- The graph number of a graph kind's image (R295). -/
def Entry.graphNo (e : Entry) : BitVec 12 :=
  if e.kind = kGraphNode then e.img.extractLsb' 272 12
  else if e.kind = kGraphLoad || e.kind = kGraphPatch then e.img.extractLsb' 256 12
  else e.img.extractLsb' 320 12

end Sys2Proof.Machine
end

