-- ==== Sys2Proof/Machine/Blazes.lean ====
section
/-! DEFINITION. Blazes: the updates of R224 in the order a step applies them, entry into ERROR (R226, R227), access
lists (R168), waits (R223, R227) and the references of R121. -/

namespace Sys2Proof.Machine

/-- Waits on Blaze `n` that its value has reached become met, and stay met (R219, R220). -/
def State.noteMet (s : State) (n : BitVec 16) : State :=
  let v := (s.blaze n).value
  { s with lnd := { s.lnd with entries := s.lnd.entries.map (fun p =>
      (p.1, { p.2 with met := (s.waits p.1 p.2).foldl (fun m w =>
        if w.2.1 = n && reached v w.2.2 then m ||| BitVec.twoPow 16 w.1 else m) p.2.met })) } }

/-- Where a run of updates has brought a Blaze, with the sets found stale and the updates dropped on the way. -/
structure BlazeRun where
  /-- VALUE. -/
  value : W64
  /-- ERROR. -/
  error : Bool
  /-- ERR_STATUS. -/
  errStatus : BitVec 8
  /-- ERR_CONTEXT. -/
  errContext : BitVec 20
  /-- PROPAGATED. -/
  propagated : Bool
  /-- Stale sets (R224, R244). -/
  stale : Nat := 0
  /-- Updates dropped in ERROR (R227, R246). -/
  dropped : Nat := 0
deriving DecidableEq, Repr

/-- One update (R224, R226, R227): an increment modulo 2^64; a set with no effect if equal, stale if the value has reached it,
else the new value; both dropped in ERROR; a Blaze already in ERROR keeps its first status, context and PROPAGATED. -/
def BlazeOp.run (o : BlazeOp) (r : BlazeRun) : BlazeRun :=
  match o with
  | .inc v => if r.error then { r with dropped := r.dropped + 1 } else { r with value := r.value + v }
  | .set v =>
    if r.error then { r with dropped := r.dropped + 1 }
    else if v = r.value then r
    else if reached r.value v then { r with stale := r.stale + 1 }
    else { r with value := v }
  | .err status c prop =>
    if r.error then r else { r with error := true, errStatus := status, errContext := c, propagated := prop }

/-- The updates of a cycle one at a time, from what the Blaze was before them (R225). -/
def BlazeCycle.run (y : BlazeCycle) : BlazeRun :=
  y.ups.foldl (fun r u => u.op.run r) { value := y.value, error := y.error, errStatus := y.errStatus
                                        errContext := y.errContext, propagated := y.propagated }

/-- The updates of the present cycle of a Blaze; none yet when its last cycle with updates is over. -/
def State.blazeCycle (s : State) (n : BitVec 16) : BlazeCycle :=
  let b := s.blaze n
  let new : BlazeCycle := { fc := s.fc, value := b.value, error := b.error, errStatus := b.errStatus
                            errContext := b.errContext, propagated := b.propagated, staleLast := s.lnd.staleLast }
  match b.cycle with
  | some y => if y.fc = s.fc then y else new
  | none => new

/-- An update takes its place among those of its cycle: the list of R225, and arrival where that names no order. -/
def insertUp (u : BlazeUp) : List BlazeUp → List BlazeUp
  | [] => [u]
  | v :: r => if u.rank < v.rank || (u.rank = v.rank && decide (u.sub < v.sub)) then u :: v :: r else v :: insertUp u r

/-- BLZ_STALE_CNT and BLZ_DROP_CNT.ERROR follow the sets and drops of a cycle (R244, R246). -/
def State.countUpdates (s : State) (n : BitVec 16) (y : BlazeCycle) (old new : BlazeRun) : State :=
  { s with lnd := { s.lnd with
      staleCount := s.lnd.staleCount + BitVec.ofNat 32 new.stale - BitVec.ofNat 32 old.stale
      staleLast := if old.stale < new.stale then n
        else if new.stale = 0 && decide (0 < old.stale) && s.lnd.staleLast = n then y.staleLast else s.lnd.staleLast
      dropError := s.lnd.dropError + BitVec.ofNat 32 new.dropped - BitVec.ofNat 32 old.dropped } }

/-- An entry into ERROR is recorded in BLZ_ERR_LOG and raises BLAZE_ERROR (R226, R245); where an earlier update of the same
cycle proves to be the one that entered ERROR, the record is that one's. -/
def State.recordError (s : State) (n : BitVec 16) (old new : BlazeRun) : State :=
  let word (k : BitVec 20) : W64 := n ++ new.errStatus ++ new.errContext ++ k
  let k : BitVec 20 := s.lnd.errLog.extractLsb' 0 20
  if new.error && !old.error then State.raise { s with lnd := { s.lnd with errLog := word (k + 1) } } 0x00A
  else if old.error && (new.errStatus ≠ old.errStatus || new.errContext ≠ old.errContext) &&
      s.lnd.errLog.extractLsb' 48 16 = n then { s with lnd := { s.lnd with errLog := word k } }
  else s

/-- An update that came late into its place of R225 has lowered what the earlier ones gave: a wait that only they reached, and
not the value of before the cycle, is not met. -/
def State.unmeet (s : State) (n : BitVec 16) (start : W64) : State :=
  let v := (s.blaze n).value
  { s with lnd := { s.lnd with entries := s.lnd.entries.map (fun p =>
      let l := (s.waits p.1 p.2).filter (fun w => w.2.1 = n && !reached v w.2.2 && !reached start w.2.2 && p.2.met.getLsbD w.1)
      if l.isEmpty || (p.2.state ≠ .pending && p.2.state ≠ .ready) then p
      else (p.1, { p.2 with
        met := l.foldl (fun m w => m &&& ~~~(BitVec.twoPow 16 w.1)) p.2.met
        state := .pending })) } }

/-- The Blaze takes what the updates of the cycle leave, its mirror falls due, and the waits it has reached are met; those that
a late update takes back are not. -/
def State.applyUpdates (s : State) (n : BitVec 16) (start : W64) (late : Bool) (old new : BlazeRun) : State :=
  let s := s.updBlaze n (fun b => { b with
    value := new.value, error := new.error, errStatus := new.errStatus, errContext := new.errContext
    propagated := new.propagated, mirrorDue := b.mirrorDue || (b.mirrorEn && decide (new.value ≠ old.value)) })
  if new.value = old.value then s else (if late then s.unmeet n start else s).noteMet n

/-- One update of Blaze `n` (R225): it takes its place among the updates of the present fclk cycle, and the Blaze becomes what
they make it one after another. After the BLAZE_CONFIG of the cycle the Blaze stays as that left it. -/
def State.blazeUpdate (s : State) (n : BitVec 16) (u : BlazeUp) : State :=
  let y := s.blazeCycle n
  let z : BlazeCycle := { y with ups := insertUp u y.ups }
  let s := (s.updBlaze n (fun b => { b with cycle := some z })).countUpdates n y y.run z.run
  (if y.config then s else s.applyUpdates n y.value (z.ups ≠ y.ups ++ [u]) y.run z.run).recordError n y.run z.run

/-- A Blaze admits a context (R168): the kernel context always; a user context if the Blaze is configured and the
context is its owner, a USER entry, or, with ANY_PART, in the owner's partition (R124). -/
def State.blazeAdmits (s : State) (n : BitVec 16) (c : BitVec 20) : Bool :=
  let b := s.blaze n
  c = kernelCtx ||
  (b.configured && (c = b.owner || b.users.contains c ||
    (b.anyPart && (s.ctx c).partition = (s.ctx b.owner).partition)))

/-- A wait of an entry is met (R219, R223). -/
def State.waitMet (s : State) (x : Entry) (w : Nat × BitVec 16 × W64) : Bool :=
  x.met.getLsbD w.1 || (reached (s.blaze w.2.1).value w.2.2 && !(s.blaze w.2.1).lost)

/-- The first of an entry's waits that has failed: unmet, on a Blaze in ERROR (R227, R228). -/
def State.failedWait (s : State) (e : Nat) (x : Entry) : Option (BitVec 16) :=
  ((s.waits e x).find? (fun w => !s.waitMet x w && (s.blaze w.2.1).error)).map (fun w => w.2.1)

/-- The first unmet wait of an entry (R238). -/
def State.unmetWait (s : State) (e : Nat) (x : Entry) : Option (BitVec 16 × W64) :=
  ((s.waits e x).find? (fun w => !s.waitMet x w)).map (·.2)

/-- A Landing entry waits on or signals Blaze `n` (R190). -/
def State.blazeNamed (s : State) (n : BitVec 16) (except : Nat) : Bool :=
  s.lnd.entries.any (fun p => p.1 ≠ except &&
    ((s.waits p.1 p.2).any (fun w => w.2.1 = n) || p.2.signalled.contains n))

/-- The record of the reference table that counts an object, if any (R121). -/
def State.refRecord (s : State) (c : BitVec 20) (h : W32) : Option Nat :=
  (s.xlt.refs.find? (fun p => p.2.ctx = c && p.2.handle = h && decide (0 < p.2.count))).map (·.1)

/-- Records of the reference table in use. -/
def State.refsHeld (s : State) : Nat := s.xlt.refs.length

/-- An update of record `i` of the reference table. -/
def State.updRef (s : State) (i : Nat) (f : RefRec → RefRec) : State :=
  { s with xlt := { s.xlt with refs := tupd {} s.xlt.refs i f } }

/-- One reference taken on an object: its record's count rises, or the lowest free record begins at one (R121). -/
def State.takeRef (s : State) (c : BitVec 20) (r : Resolved) (kernel : Bool) : State × Nat :=
  match s.refRecord c r.handle with
  | some i => (s.updRef i (fun x => { x with count := x.count + 1, kernelOnly := x.kernelOnly && kernel }), i)
  | none =>
    let i := freeKey s.xlt.refs s.build.refRecords 0
    (s.updRef i (fun _ => { ctx := c, handle := r.handle, count := 1, vaPfn := r.obj.vaPfn, pages := r.obj.pages
                            rd := r.obj.rd, wr := r.obj.wr, kernelOnly := kernel }), i)

/-- The object of handle `h` of context `c` is retiring (R120, R122). -/
def State.isRetiring (s : State) (c : BitVec 20) (h : W32) : Bool :=
  s.xlt.retiring.any (fun r => r.ctx = c && r.handle = h)

/-- The reclaim of a retiring object whose count is zero begins: an internal stream of its OBJECT_FREE (R122, R572). -/
def State.startReclaim (s : State) (c : BitVec 20) (h : W32) : State :=
  match s.xlt.retiring.find? (fun r => r.ctx = c && r.handle = h) with
  | some { entry := some e, wr, rd, .. } =>
    if (s.refRecord c h).isSome then s
    else
      match s.entry e with
      | some x =>
        if x.state = .issued && x.phase = 1 then
          let gen : BitVec 12 := h.extractLsb' 20 12 + 1
          let w : W512 := ((gen ++ (0 : BitVec 2) ++ BitVec.ofBool wr ++ BitVec.ofBool rd : BitVec 16)).setWidth 512
          let s := s.updEntry e (fun y => { y with phase := 2 })
          { s with hau := { s.hau with internal := s.hau.internal ++
              [{ kind := .reclaim e, entry := e, ctx := c, desc := w
                 srcVa := (match (s.ctx c).objTable with | some (pa, _) => pa.toNat | none => 0)
                   + 16 * bits h 19 0 + 14, len := 2 }] } }
        else s
      | none => s
  | _ => s

/-- One reference of record `i` released; at zero the record is free, and a retiring object is reclaimed (R121, R122). -/
def State.releaseRef (s : State) (i : Nat) : State :=
  let r := tget {} s.xlt.refs i
  let s := s.updRef i (fun r => if r.count ≤ 1 then {} else { r with count := r.count - 1 })
  if r.count ≤ 1 then s.startReclaim r.ctx r.handle else s

end Sys2Proof.Machine
end

