-- ==== Sys2Proof/Machine/Completion.lean ====
section
/-! DEFINITION. Completion entries (R160 to R164), packetless rejections (R573), the passage of a rejection (R236),
and the return of a queue or a context to FREE (R116, R108). -/

namespace Sys2Proof.Machine

/-- The bytes of a completion entry (R162). -/
def cplBytes (serial : W32) (status opcode : BitVec 8) (phase discard : Bool) (start fin : Nat) (q : BitVec 14) :
    List Byte :=
  toBytes 4 serial.toNat ++ [status, opcode, BitVec.ofNat 8 (b2n phase + 2 * b2n discard), 0] ++
  toBytes 8 start ++ toBytes 8 fin ++ toBytes 2 q.toNat ++ List.replicate 6 0

/-- Completion-entry writes of a queue that are not yet answered. -/
def Mp.cplOut (m : Mp) (q : BitVec 14) : Nat :=
  (m.txns ++ m.waiting).countP (fun t => match t.purpose with | .cplEntry p _ => p = q | _ => false)

/-- The completion-entry writes go out, with START_FC and END_FC: entry count k at CPL_PA + 32 × (k mod 2^CPL_LOG2) (R162,
R135). The count of entries outstanding is part of `reserved` until CPL_WP has passed them (R161). -/
def State.writeCpl (s : State) (q : BitVec 14) (serial : W32) (status opcode : BitVec 8) (discard : Bool)
    (start fin : Nat) : State :=
  let x := s.queue q
  let k := x.cplWp.toNat + s.mp.cplOut q + x.cplAhead.length
  s.ringWrite none srcRing
    (4096 * x.cplPfn.toNat + 32 * (k % 2 ^ x.cplLog2.toNat))
    (cplBytes serial status opcode (cplPhase k x.cplLog2.toNat) discard start fin q)
    (.cplEntry q (BitVec.ofNat 32 k))

/-- Threads that hold packets of queue `q` (R193). -/
def State.queueThreads (s : State) (q : BitVec 14) : List (Nat × Thread) :=
  s.uc.threads.filter (fun p => p.2.busy && p.2.queue = q)

/-- Serials of the queue in flight (R152). -/
def State.inFlight (s : State) (q : BitVec 14) : Nat :=
  (s.queueThreads q).length + (s.queue q).inl.length

/-- The queue has a completion ring and is in a period of R160. -/
def State.cplDue (s : State) (q : BitVec 14) : Bool :=
  decide ((s.queue q).cplLog2 ≠ 0) && ((s.queue q).diag || s.cplPeriod)

/-- A completion entry of the queue is free (R161); in the periods of R160 beside those of the packets that have gone on and
are not yet admitted. -/
def State.cplFree (s : State) (q : BitVec 14) : Bool :=
  let x := s.queue q
  decide ((x.cplWp - x.cplRp).toNat + x.cplReserved + (if s.cplDue q then s.inFlight q else 0) < 2 ^ x.cplLog2.toNat)

/-- An entry that no reservation stands for, of a packet not executed, with the fc of its end: written if one is free, else
CPL_LOST (R152, R160, R573). -/
def State.optionalCpl (s : State) (q : BitVec 14) (serial : W32) (status opcode : BitVec 8) (fc : Nat) : State :=
  let x := s.queue q
  if x.cplLog2 = 0 then s
  else if s.cplFree q then
    (s.updQueue q (fun x => { x with cplReserved := x.cplReserved + 1 })).writeCpl q serial status opcode true fc fc
  else s.updQueue q (fun x => { x with cplLost := true })

/-- A rejection passes the retirement port (R236): its Blaze, if it signals one, enters ERROR; a completion entry
follows where R160 gives one. -/
def State.passRejection (s : State) (q : BitVec 14) (r : Rejection) : State :=
  let c := (s.queue q).ctx
  let s := match r.blaze with
    | none => s
    | some n => s.blazeUpdate n ⟨1, r.ord, .err r.status c false⟩
  if r.cplReserved then s.writeCpl q r.serial r.status r.opcode true r.fc r.fc
  else if c = kernelCtx then s.optionalCpl q r.serial r.status r.opcode r.fc
  else s

/-- An executor's end report on an ISSUED or waiting entry (R219, R226); the first report stands. -/
def State.report (s : State) (e : Nat) (status : BitVec 8) (prop : Bool) : State :=
  s.updEntry e (fun x => if x.report.isSome then x else { x with report := some (status, prop) })

/-- A completion-entry write of a slot that becomes FREE no longer moves the CPL_WP of the slot's next binding (R143). -/
def Txn.pastQueue (q : BitVec 14) (t : Txn) : Txn :=
  match t.purpose with
  | .cplEntry p k => if p = q then { t with purpose := .cplPast p k } else t
  | _ => t

/-- The queue slot becomes FREE (R116). -/
def State.clearQueue (s : State) (q : BitVec 14) : State :=
  let s := s.updQueue q (fun _ => {})
  { s with mp := { s.mp with txns := s.mp.txns.map (Txn.pastQueue q), waiting := s.mp.waiting.map (Txn.pastQueue q) } }

/-- A queue that is DRAINING, or FAILED and marked for release, and holds no Landing entry becomes FREE: its rejections
have met their turn and pass, and each pending QUEUE_UNBIND completes OK (R116, R236). -/
def State.drainQueue (s : State) (q : BitVec 14) : State :=
  let x := s.queue q
  if (x.state = .draining || (x.state = .failed && x.release)) && (s.queueEntries q).isEmpty then
    let s := s.each x.rejections (fun s r => s.passRejection q r)
    let s := s.each x.unbinds (fun s e => s.report e 0x00 false)
    s.clearQueue q
  else s

/-- The context is drained (R108): its queues FREE, no Landing entry, no object reference, no residency slot, and every
graph number free (R294). -/
def State.ctxDrained (s : State) (c : BitVec 20) : Bool :=
  (s.ctxQueues c).isEmpty && (s.ctxEntries c).isEmpty && !s.xlt.refs.any (fun p => p.2.ctx = c) &&
  !s.res.slots.any (fun p => p.2.ctx = c && decide (p.2.state ≠ .free)) &&
  !s.lnd.graphs.any (fun p => p.1 / 4096 = c.toNat && p.2.claimed)

/-- A context that a CONTEXT_DESTROY waits for becomes FREE once it is drained, and each such command completes OK
(R108); its operand copies, bindings, cached translations and retiring objects end with it (R312, R337, R425, R122). -/
def State.drainCtx (s : State) (c : BitVec 20) : State :=
  let x := s.ctx c
  if x.destroys.isEmpty || !s.ctxDrained c then s
  else
    let s := s.each x.destroys (fun s e => s.report e 0x00 false)
    let s := s.updCtx c (fun _ => {})
    let s := { s with
      hau := { s.hau with copies := s.hau.copies.filter (fun k => k.ctx ≠ c) }
      lnd := { s.lnd with
        bindings := s.lnd.bindings.filter (fun b => b.ctx ≠ c)
        freePages := s.lnd.freePages + BitVec.ofNat 24
          ((s.lnd.bindings.filter (fun (b : Binding) => b.ctx = c)).map (fun (b : Binding) => b.pages.length)).sum
        current := s.lnd.current.filter (fun p => p.1 / 65536 ≠ c.toNat) } }
    { s with xlt := { s.xlt with
        leaves := s.xlt.leaves.filter (fun l => l.ctx ≠ c)
        walkEnts := s.xlt.walkEnts.filter (fun l => l.ctx ≠ c)
        objects := s.xlt.objects.filter (fun o => o.1 ≠ c)
        retiring := s.xlt.retiring.filter (fun r => r.ctx ≠ c) } }

/-- After entries, queues, references or residency of a context have changed: queues and the context that can be FREE
become so (R116, R108). -/
def State.settle (s : State) (c : BitVec 20) : State :=
  (s.each (s.ctxQueues c) (fun s q => s.drainQueue q)).drainCtx c

end Sys2Proof.Machine
end

