-- ==== Sys2Proof/Machine/Teardown.lean ====
section
/-! DEFINITION. Teardown of a context (R109) as one shared operation, with what it does to queues (R142), entries (R235),
haul streams (R365), clusters (R462), hang recovery (R531), held fault records (R437) and fabric tokens (R57); and the
packetless rejection (R573). -/

namespace Sys2Proof.Machine

/-- A queue leaves OPEN for FAILED (R116): its cell is emptied (R142), its fetcher stops (R148), and a queue that was
DRAINING is marked for release by its pending QUEUE_UNBIND. -/
def failQueue (x : Queue) : Queue :=
  if x.state = .open_ || x.state = .draining then
    { x with state := .failed, release := x.release || decide (x.state = .draining), cell := none, inl := [],
             fstate := .stopped, block := .none_, fired := false, units := [], turn := 0 }
  else x

/-- The queue, if bound, moves to FAILED (R109, R151, R159). -/
def State.failQueueAt (s : State) (q : BitVec 14) : State :=
  let s := s.updQueue q failQueue
  { s with lnd := { s.lnd with fired := s.lnd.fired.filter (fun x => x ≠ q) } }

/-- The active launch issues nothing more (R87, R462). -/
def stopStreams (l : Launch) : Launch := { l with streams := l.streams.map (fun t => { t with stopped := true }) }

/-- The switch of a cluster whose held context is torn down (R462): none begun, one is begun that saves nothing; a
switch-out runs on with its writes suppressed; a switch-in runs to its response, and CLEAR follows. -/
def tearSwitch (w : Option Switch) : Switch :=
  match w with
  | none => { phase := .stopping, cause := .teardown, into := none, entry := none, outSlice := none, inSlice := none
              writes := 0, suppressed := true, fail := none }
  | some w =>
    match w.phase with
    | .header | .restoring | .clearing | .enabling =>
      { w with suppressed := true, cause := .teardown, into := none, entry := none }
    | _ => { w with suppressed := true, cause := .teardown }

/-- A teardown of context `c` reaches a cluster (R462). Holding it, the cluster stops issue at once, discards the signals
not yet passed, and goes on to YIELD and CLEAR with nothing saved. About to switch to it, it forgets the launch. -/
def tearCluster (c : BitVec 20) (x : Cluster) : Cluster :=
  let x := if x.hold = some c then { x with hold := none } else x
  if x.ctx = some c then
    { x with sigs := [], active := x.active.map stopStreams, switch := some (tearSwitch x.switch) }
  else match x.switch with
    | some w =>
      if w.into = some c then
        { x with shadow := none, switch := some { w with into := none, entry := none } }
      else x
    | none => x

/-- Launch entries that a cluster holds: active, shadow, and the pending chained launch (R248). -/
def Cluster.launches (x : Cluster) : List Nat :=
  (match x.active with | some l => [l.entry] ++ l.chain.toList | none => []) ++ x.chainNext.toList ++
  (match x.shadow with | some l => [l.entry] | none => [])

/-- Suspects of a torn context that have not been replayed are skipped (R531). -/
def skipSuspects (mine : Nat → Bool) (r : Recovery) : Recovery :=
  { r with todo := r.todo.filter (fun p => !mine p.2) }

/-- The causing reason of a kill ends every stalled stream of the context with itself and PROPAGATED 0 (R363). -/
def stallKill (stalled : Bool) (killed : Bool) (status : BitVec 8) : BitVec 8 × Bool :=
  if stalled && killed then (status, false) else (status, true)

/-- A stream that a teardown of its context stops: the physical reads and writes of R572 run to their end. -/
def StreamKind.stops : StreamKind → Bool
  | .reclaim _ => false
  | .descriptor _ => false
  | _ => true

/-- A graph node's entry runs a HAUL body (R279). -/
def Entry.nodeHaul (x : Entry) : Bool := x.kind = kGraphNode && x.actKind = kHaul

/-- The descriptor that a stream executes: resolved from the entry's payload or node record (R357, R358), or the internal
stream's own. -/
def State.streamOp (s : State) (x : Stream) : HaulOp :=
  match x.kind, s.entry x.entry with
  | .haul, some e => HaulOp.flat (if e.nodeHaul then haulOf (e.pkt.extractLsb' 512 512) else s.haulResolved e.img)
  | _, _ => haulOf x.desc

/-- HAU_ERR_LOG of a stream that ends with a status other than OK (R372); a load is a COPY (R358). -/
def State.hauLog (s : State) (key : Nat) (x : Stream) (status : BitVec 8) : State :=
  let op := match x.kind with | .haul => (s.streamOp x).op | .load => opCopy | _ => 0
  let w : W64 := BitVec.ofNat 64
    (x.ctx.toNat * 2 ^ 44 + status.toNat * 2 ^ 36 + key / 64 * 2 ^ 32 + key % 64 * 2 ^ 26 + op)
  { s with hau := { s.hau with errLog := w } }

/-- Launches that wait for an operand copy of the same bytes as launch `e` (R312). -/
def State.copyWaiters (s : State) (e : Nat) : List Nat :=
  match s.entry e with
  | none => []
  | some x => (s.lnd.entries.filter (fun p => p.2.actKind = kLaunch && p.2.ctx = x.ctx && p.2.report.isNone &&
      p.2.launch.desc = x.launch.desc && p.2.launch.sdata = x.launch.sdata &&
      (p.2.state = .ready || (match p.2.place with | .deque _ => true | .returned => true | _ => false)))).map (·.1)

/-- Streams of a torn context stop (R365): those with no chunk in flight report at once, the others once their chunks have
ended. With `killed`, a stalled stream ends with the reason and PROPAGATED 0 (R363); a stalled copy read ends every launch
that waits for the copy in the same way, at once (R312). -/
def State.stopStreams (s : State) (c : BitVec 20) (status : BitVec 8) (killed : Bool) : State :=
  let mine := s.hau.streams.filter (fun p => p.2.ctx = c && p.2.kind.stops)
  let done := mine.filter (fun p => p.2.chunks.isEmpty)
  let s := s.each done (fun s p =>
    let r := stallKill p.2.stalled killed status
    let s := s.hauLog p.1 p.2 r.1
    match p.2.kind with
    | .copy l => if r.2 then s else s.each (s.copyWaiters l) (fun s e => s.report e r.1 r.2)
    | _ => s.report p.2.entry r.1 r.2)
  let parked := s.hau.parked.filter (fun p => p.stream.ctx = c)
  let s := s.each parked (fun s p =>
    let r := stallKill p.stream.stalled killed status
    let s := s.hauLog p.key p.stream r.1
    match p.stream.kind with
    | .copy l => if r.2 then s else s.each (s.copyWaiters l) (fun s e => s.report e r.1 r.2)
    | _ => s.report p.stream.entry r.1 r.2)
  let gone := done.map (·.1)
  let s := s.each (mine.filter (fun p => !p.2.chunks.isEmpty && p.2.stalled && killed)) (fun s p => match p.2.kind with
    | .copy l => s.each (s.copyWaiters l) (fun s e => s.report e status false)
    | _ => s)
  { s with
    hau := { s.hau with
      streams := (s.hau.streams.filter (fun (p : Nat × Stream) => !gone.contains p.1)).map (fun (p : Nat × Stream) =>
        if p.2.ctx = c && p.2.kind.stops then (p.1, { p.2 with
          stopping := true, stalled := false, killed := if p.2.stalled && killed then some status else p.2.killed }) else p)
      internal := s.hau.internal.filter (fun i => i.ctx ≠ c || !i.kind.stops)
      parked := s.hau.parked.filter (fun p => p.stream.ctx ≠ c)
      lockQueue := s.hau.lockQueue.filter (fun k => !gone.contains k.1) }
    xlt := { s.xlt with held := s.xlt.held.filter (fun r => r.ctx ≠ c) } }

/-- The launch that a cluster about to switch to context `c` would run. -/
def Cluster.awaited (c : BitVec 20) (x : Cluster) : List Nat :=
  match x.switch with
  | some w => if w.into = some c && x.ctx ≠ some c then x.shadow.toList.map (·.entry) else []
  | none => []

/-- Clusters that hold the context stop (R462); deque entries, pre-empted launches, launches whose switch has not begun
and suspects not yet replayed report stopped at once, and every slice becomes EMPTY. -/
def State.stopClusters (s : State) (c : BitVec 20) (status : BitVec 8) : State :=
  let mine := fun e => match s.entry e with | some x => decide (x.ctx = c) | none => false
  let idle := (s.ctxEntries c).filter (fun p => match p.2.place with
    | .deque _ => true | .returned => true | .stopped => true | .chained _ => true | _ => false)
  let s := s.each idle (fun s p => s.report p.1 status true)
  let skipped := (s.clusters.map (fun p => p.2.awaited c ++ (match p.2.recovery with
    | some r => (r.todo.map (·.2)).filter mine | none => []))).flatten
  let s := s.each skipped (fun s e => s.report e status true)
  let s := match s.residentSlot c with
    | some r => s.updRes r (fun x => { x with slices := x.slices.map (fun _ => .empty) })
    | none => s
  { s with clusters := tmap {} (fun _ x =>
      tearCluster c { x with deque := x.deque.filter (fun e => !mine e)
                             chainWait := x.chainWait.filter (fun e => !mine e)
                             recovery := x.recovery.map (skipSuspects mine) }) s.clusters }

/-- Operations of a torn context whose executor holds nothing to run on report stopped at once: a load that has passed
its image read, a graph command that waits. -/
def State.stopOthers (s : State) (c : BitVec 20) (status : BitVec 8) : State :=
  let l := (s.ctxEntries c).filter (fun p => p.2.state = .issued &&
    (p.2.kind = kGraphRelease || p.2.kind = kGraphLaunch ||
     ((p.2.kind = kProgramLoad || p.2.kind = kGraphLoad || p.2.kind = kGraphPatch) &&
       !s.hau.streams.any (fun q => q.2.entry = p.1))))
  s.each l (fun s p => s.report p.1 status true)

/-- The context is FAULTED with its TEARDOWN_STATUS, its queues fail, its token is queued, its entries are stopped (R109). -/
def State.tearContext (s : State) (c : BitVec 20) (status : BitVec 8) (token : Bool) : State :=
  let tag := (s.ctx c).jobTag
  let s := s.updCtx c (fun x => { x with state := .faulted, teardown := status })
  let s := s.each (s.ctxQueues c) (fun s q => s.failQueueAt q)
  let s : State := { s with lnd := { s.lnd with entries := s.lnd.entries.map (fun (p : Nat × Entry) =>
    if p.2.ctx = c then (p.1, { p.2 with torn := true }) else p) } }
  if token && tag ≠ 0 && s.fe.fnEnable then { s with fe := s.fe.queueToken (s.tokenFor tag status) } else s

/-- Teardown of a context with a status (R109): nothing for the kernel context (R155), a context that is not ACTIVE,
or a block out of service (R537).
`token` is false when a received token is the reason (R57); `killed` is true for a CONTEXT_KILL whose REASON is
FAULT_TRANSLATION or FAULT_ACCESS (R363). -/
def State.teardownWith (s : State) (c : BitVec 20) (status : BitVec 8) (token killed : Bool) : State :=
  if c = kernelCtx || (s.ctx c).state ≠ .active || s.fwc.state = .outOfService then s
  else ((((s.tearContext c status token).stopStreams c status killed).stopClusters c status).stopOthers c status).settle c

/-- Teardown for a failure found by the block itself. -/
def State.teardown (s : State) (c : BitVec 20) (status : BitVec 8) : State := s.teardownWith c status true false

/-- A packetless rejection (R573): a user context is torn down; on the kernel context a completion entry is written if
one is free, and the queue moves to FAILED unless the cause is an overrun. -/
def State.packetlessRejection (s : State) (q : BitVec 14) (status : BitVec 8) (fails : Bool) : State :=
  let x := s.queue q
  let due := x.ctx = kernelCtx || s.cplDue q
  let s := if due then s.optionalCpl q x.expSerial status 0x00 s.fc else s
  if x.ctx = kernelCtx then (if fails then s.failQueueAt q else s) else s.teardown x.ctx status

end Sys2Proof.Machine
end

