-- ==== Sys2Proof/Machine/Landing.lean ====
section
/-! DEFINITION. The Landing (R215 to R236): issue, retirement with everything it releases (R222), readiness (R220),
failed waits (R228), the passage of rejections (R236), mirror writes (R232) and host signals (R229). -/

namespace Sys2Proof.Machine

/-- An executor accepts an entry (R221): it is ISSUED, and its start fc is the present one. -/
def State.issue (s : State) (e : Nat) : State :=
  s.updEntry e (fun x => { x with state := .issued, startFc := s.fe.cycles })

/-! ## Programs and graphs named by entries -/

/-- An unretired launch names a binding (R337). -/
def State.bindingNamed (s : State) (b : Binding) : Bool :=
  s.lnd.entries.any (fun p => p.2.actKind = kLaunch && p.2.ctx = b.ctx && p.2.launch.program = b.program &&
    p.2.bind = b.ord)

/-- Bindings of a program number that no longer live are dropped and give their backing pages back (R337, R344). -/
def State.settleBindings (s : State) (c : BitVec 20) (p : BitVec 16) : State :=
  let cur := s.bindOrd c p
  let dead (b : Binding) : Bool :=
    b.ctx = c && b.program = p && b.ord ≠ cur && decide (b.state ≠ .loading) && !s.bindingNamed b
  let pages := ((s.lnd.bindings.filter dead).map (fun (b : Binding) => b.pages.length)).sum
  { s with lnd := { s.lnd with
      bindings := s.lnd.bindings.filter (fun b => !dead b)
      freePages := s.lnd.freePages + BitVec.ofNat 24 pages } }

/-- A GRAPH_LAUNCH pins version `v` of a graph (R184, R292): it has issued and its phase is past the wait of R293. -/
def State.pinned (s : State) (c : BitVec 20) (g : BitVec 12) (v : Nat) : Bool :=
  s.lnd.entries.any (fun p => p.2.kind = kGraphLaunch && p.2.ctx = c && p.2.graphNo = g && p.2.phase = 1 &&
    p.2.version = v)

/-- The versions of a graph that live: the current one, those that patches not yet retired have made, and the pinned ones
(R292). -/
def State.liveVersions (s : State) (c : BitVec 20) (g : BitVec 12) : List GVersion :=
  let y := s.graph c g
  y.versions.filter (fun v => decide (y.shown ≤ v.number) || s.pinned c g v.number)

/-- Versions that have died are dropped with the references that only they named (R290, R292); a releasing number with
no pinned version, whose load has retired, whose patches have retired and whose GRAPH_RELEASE has issued, becomes free
and that command completes OK (R184, R294). -/
def State.settleGraph (s : State) (c : BitVec 20) (g : BitVec 12) : State :=
  let x := s.graph c g
  let waits := x.releases.any (fun e => match s.entry e with
    | some y => y.state ≠ .issued && y.report.isNone
    | none => false)
  let free := x.releasing && !waits && x.patches.isEmpty && x.loaded && !x.versions.any (fun v => s.pinned c g v.number)
  let live := if free then [] else s.liveVersions c g
  let named := (live.map (fun v => (v.nodes.map nodeHandles).flatten)).flatten
  let keep (i : Nat) : Bool := named.contains (tget {} s.xlt.refs i).handle
  let gone := x.refs.filter (fun i => !keep i)
  let s := if free then s.updGraph c g (fun _ => {})
           else s.updGraph c g (fun x => { x with versions := live, refs := x.refs.filter keep })
  let s := s.each gone (fun s i => s.releaseRef i)
  if free then (s.each x.releases (fun s e => s.report e 0x00 false)).drainCtx c else s

/-- Every claimed graph number of a context becomes releasing (R294). -/
def State.releaseGraphs (s : State) (c : BitVec 20) : State :=
  let nums := (s.lnd.graphs.filter (fun p => p.1 / 4096 = c.toNat && p.2.claimed)).map (·.1 % 4096)
  s.each nums (fun s n =>
    let g := BitVec.ofNat 12 n
    let open_ := (s.lnd.entries.filter (fun p => p.2.kind = kGraphPatch && p.2.ctx = c && p.2.graphNo = g &&
      p.2.state = .issued)).map (·.1)
    let s := s.updGraph c g (fun x => if x.releasing then x else { x with releasing := true, patches := open_ })
    s.settleGraph c g)

/-! ## Retirement -/

/-- The signal of a retirement (R222): an increment with OK, else the Blaze enters ERROR (R226, R227). -/
def State.signalEnd (s : State) (x : Entry) (status : BitVec 8) (errCtx : BitVec 20) (prop : Bool) : State :=
  if !x.cpl then s
  else if status = 0 then s.blazeUpdate x.cplBlaze ⟨1, x.ord, .inc (x.cplInc.setWidth 64)⟩
  else s.blazeUpdate x.cplBlaze ⟨1, x.ord, .err status errCtx prop⟩

/-- The entry and, for a WAIT, its WAIT_EXT entries become FREE (R218, R222). -/
def State.freeEntry (s : State) (e : Nat) : State :=
  { s with lnd := { s.lnd with entries := s.lnd.entries.filter (fun p => p.1 ≠ e && p.2.extOf ≠ some e) } }

/-- A packet's progress restarts its queue's timer; a fired timer that still waits for the probe is not probed (R159,
R237). -/
def State.restartTimer (s : State) (q : BitVec 14) : State :=
  let s := s.updQueue q (fun x => { x with timerFc := s.fc, fired := false })
  { s with lnd := { s.lnd with fired := s.lnd.fired.filter (fun x => x ≠ q) } }

/-- The completion entry of a packet's last retirement (R160, R162): none for a GRAPH_NODE, and for a LAUNCH with LEN 3
only once its chained launch retires; where that retired first (R240, R241), at the first launch's own retirement, with the
fc of the chained one's. -/
def State.retireCpl (s : State) (x : Entry) (status : BitVec 8) : State :=
  if x.kind = kGraphNode || x.chain.isSome || !x.cplReserved then s
  else if x.kind = kChained then
    let st := match x.firstStatus with | some f => if f = 0 then status else f | none => status
    let began := x.phase = 1
    s.writeCpl x.queue x.serial st x.opcode (!began) (if began then x.firstFc.toNat else s.fc) s.fc
  else
    let began := x.state = .issued
    let st := match x.firstStatus with | some f => if status = 0 then f else status | none => status
    s.writeCpl x.queue x.serial st x.opcode (!began) (if began then x.startFc.toNat else s.fc)
      (if x.firstStatus.isSome then x.firstFc.toNat else s.fc)

/-- The chained launch of a LAUNCH takes note of its first launch's retirement (R177). -/
def State.retireChain (s : State) (x : Entry) (status : BitVec 8) : State :=
  match x.chain with
  | none => s
  | some k => s.updEntry k (fun y => { y with
      firstStatus := some status, firstFc := x.startFc, phase := b2n (x.state = .issued)
      report := if status = 0 then y.report else (match y.report with | some r => some r | none => some (status, true))
      state := if status = 0 && y.state = .pending then .ready else y.state })

/-- The window of a tabled launch passes to its chained launch, or ends (R258). -/
def State.retireWindow (s : State) (e : Nat) (x : Entry) : State :=
  { s with yrd := { s.yrd with windows := s.yrd.windows.map (fun (w : Window) =>
    if w.launch = some e && w.released then
      (match x.chain with
       | some k => { w with launch := some k }
       | none => { w with launch := none, ended := true })
    else w) } }

/-- RETIRED counts an operation of the haul engines (R371). -/
def State.retireHaul (s : State) (x : Entry) : State :=
  if x.actKind = kHaul || x.kind = kProgramLoad || x.kind = kGraphLoad || x.kind = kGraphPatch then
    { s with hau := { s.hau with retired := s.hau.retired + 1 } } else s

/-- The binding of a load (R337). -/
def Entry.ownBinding (x : Entry) (y : Binding) : Bool :=
  y.ctx = x.ctx && y.program = x.img.extractLsb' 256 16 && y.ord = x.ord && y.state = .loading

/-- The binding of a PROGRAM_LOAD is READY or FAILED; a failed one gives its pages back (R337, R344). -/
def State.retireLoad (s : State) (x : Entry) (status : BitVec 8) : State :=
  if x.kind = kProgramLoad then
    let p : BitVec 16 := x.img.extractLsb' 256 16
    let own (y : Binding) : Bool := x.ownBinding y
    let freed := if status = 0 then 0 else
      ((s.lnd.bindings.filter own).map (fun (y : Binding) => y.pages.length)).sum
    let l : List Binding := s.lnd.bindings.map (fun (y : Binding) => if own y then
      { y with state := if status = 0 then .ready else .failed, status, pages := if status = 0 then y.pages else [] } else y)
    State.settleBindings { s with lnd := { s.lnd with
      bindings := l, freePages := s.lnd.freePages + BitVec.ofNat 24 freed } } x.ctx p
  else s

/-- A GRAPH_LOAD's status becomes its graph's, and the launches that waited for it go on or end with it (R184, R293). -/
def State.retireGraphLoad (s : State) (x : Entry) (status : BitVec 8) : State :=
  if x.kind = kGraphLoad then
    let s := s.updGraph x.ctx x.graphNo (fun g => { g with loaded := true, failStatus := status })
    let wait := s.lnd.entries.filter (fun p => p.2.kind = kGraphLaunch && p.2.ctx = x.ctx && p.2.graphNo = x.graphNo &&
      p.2.state = .issued && p.2.phase = 0 && p.2.report.isNone)
    let s := s.each wait (fun s p => s.updEntry p.1 (fun y => if status = 0 then { y with phase := 1, version := 0 }
      else { y with report := some (status, false) }))
    s.settleGraph x.ctx x.graphNo
  else s

/-- The graph of a GRAPH_PATCH, GRAPH_LAUNCH or GRAPH_RELEASE that ends is settled (R292, R294); the version of a patch that
retires with OK is from now on the one that launches pin. -/
def State.retireGraph (s : State) (e : Nat) (x : Entry) : State :=
  if x.kind = kGraphPatch then
    let ok := match x.report with | some (st, _) => decide (st = 0) | none => false
    (s.updGraph x.ctx x.graphNo (fun g => { g with
      patches := g.patches.filter (· ≠ e), shown := if ok then max g.shown x.version else g.shown })).settleGraph x.ctx x.graphNo
  else if x.kind = kGraphLaunch then s.settleGraph x.ctx x.graphNo
  else if x.kind = kGraphRelease && (s.graph x.ctx x.graphNo).releases.contains e then
    (s.updGraph x.ctx x.graphNo (fun g => { g with releases := g.releases.filter (· ≠ e) })).settleGraph x.ctx x.graphNo
  else s

/-- The GRAPH_LAUNCH of a node keeps its end, and the first status other than OK, of the lower index first in one cycle
(R287, R288). -/
def State.retireNode (s : State) (x : Entry) (status : BitVec 8) (errCtx : BitVec 20) : State :=
  match x.parent with
  | none => s
  | some k => s.updEntry k (fun y =>
      let first := status ≠ 0 && (y.nodeStatus.isNone || (y.nodeFirst.1 = s.fc && decide (x.node < y.nodeFirst.2)))
      { y with
        nodesDone := y.nodesDone ++ [(x.node, status, errCtx)]
        nodeStatus := if first then some status else y.nodeStatus
        nodeFirst := if first then (s.fc, x.node) else y.nodeFirst })

/-- The QUEUE_UNBIND of the boot queue ends the start: STATE becomes READY (R566). -/
def State.retireBoot (s : State) (x : Entry) (status : BitVec 8) : State :=
  if x.kind = 0x23 && status = 0 && s.fwc.state = .starting && x.queue ≠ 0 && pf x.pkt 333 320 = 0
  then s.setFw .ready else s

/-- The bindings that a launch named are settled (R337). -/
def State.retireLaunch (s : State) (x : Entry) : State :=
  if x.actKind = kLaunch then s.settleBindings x.ctx x.launch.program else s

/-- What a retirement settles by the entry's kind. -/
def State.retireKind (s : State) (e : Nat) (x : Entry) (status : BitVec 8) (errCtx : BitVec 20) : State :=
  ((((((((s.retireChain x status).retireWindow e x).retireHaul x).retireLaunch x).retireLoad x status).retireGraphLoad x
    status).retireGraph e x).retireNode x status errCtx).retireBoot x status

/-- Retirement (R222): the signal, the references, the entry FREE, the timer, the completion entry, and what depends on
it, all in one step. -/
def State.retire (s : State) (e : Nat) (x : Entry) (status : BitVec 8) (errCtx : BitVec 20) (prop : Bool) : State :=
  let s := s.signalEnd x status errCtx prop
  let s := s.freeEntry e
  let s := s.each x.refs (fun s i => s.releaseRef i)
  let s := s.retireKind e x status errCtx
  let s := s.restartTimer x.queue
  let s := s.retireCpl x status
  s.settle x.ctx

/-- A predecessor node of a GRAPH_NODE has retired with a status other than OK (R287): the parent's record of it, with its
ERR_CONTEXT. -/
def State.failedPred (s : State) (x : Entry) : Option (BitVec 8 × BitVec 20) :=
  match x.parent.bind s.entry with
  | none => none
  | some y =>
    let g := s.graph x.ctx x.graphNo
    let first := bits x.pkt 47 32
    let preds := (List.range (bits x.pkt 54 48)).map (fun i => (g.edges.getD (first + i) 0).toNat % 4096)
    (y.nodesDone.find? (fun d => preds.contains d.1 && decide (d.2.1 ≠ 0))).map (·.2)

/-- All predecessors of a GRAPH_NODE have retired with OK (R285). -/
def State.predsOk (s : State) (x : Entry) : Bool :=
  match x.parent.bind s.entry with
  | none => true
  | some y =>
    let g := s.graph x.ctx x.graphNo
    let first := bits x.pkt 47 32
    ((List.range (bits x.pkt 54 48)).map (fun i => (g.edges.getD (first + i) 0).toNat % 4096)).all
      (fun n => y.nodesDone.any (fun d => d.1 = n && d.2.1 = 0))

/-- The nodes of an issued GRAPH_LAUNCH have all retired, and none is still to be admitted (R288): after a teardown no
more are admitted (R287). -/
def State.nodesOver (s : State) (e : Nat) (x : Entry) : Bool :=
  let total := match (s.graph x.ctx x.graphNo).versions.find? (fun v => v.number = x.version) with
    | some v => v.nodes.length | none => 0
  (x.torn || total ≤ x.nextNode) && !s.lnd.entries.any (fun p => p.2.parent = some e)

/-- How a Landing entry retires now, if it does: its status, ERR_CONTEXT and PROPAGATED. A CHAINED entry waits for its first launch's retirement (R177). An ISSUED entry with its
executor's report (R222), a GRAPH_LAUNCH with its last node (R288); a waiting entry whose own read failed (R312), whose
predecessor failed (R177, R287), whose wait has failed (R228), or whose context is torn down (R235). -/
def State.retireNow (s : State) (e : Nat) (x : Entry) : Option (BitVec 8 × BitVec 20 × Bool) :=
  let first := match x.chainOf.bind s.entry with | some f => f.chain = some e | none => false
  if x.kind = kWaitExt || first then none
  else match x.report with
  | some (st, prop) =>
    if x.kind = kGraphLaunch && x.phase = 1 && !s.nodesOver e x then none
    else if x.kind = kGraphLaunch && x.phase = 1 then
      (match x.nodeStatus with | some n => some (n, x.ctx, prop) | none => some (st, x.ctx, prop))
    else some (st, x.ctx, prop)
  | none =>
    if x.kind = kGraphLaunch && x.state = .issued && x.phase = 1 then
      if s.nodesOver e x then some (x.nodeStatus.getD 0, x.ctx, false) else none
    else if x.state = .issued then none
    else if x.torn && (s.ctx x.ctx).state ≠ .active then some ((s.ctx x.ctx).teardown, x.ctx, true)
    else if x.state = .ready then none
    else match s.failedPred x with
      | some (st, k) => some (st, k, true)
      | none =>
        match s.failedWait e x with
        | some n => some ((s.blaze n).errStatus, (s.blaze n).errContext, true)
        | none => none

/-- RETIREMENT (R222, R228, R235): entry `e` retires if it can, and nothing happens otherwise. -/
def execRetirement (e : Nat) (s : State) : Host.Outcome State Fault Refusal :=
  .next (match s.entry e with
    | none => s
    | some x =>
      match s.retireNow e x with
      | none => s
      | some (st, c, prop) => if s.inRun then s.retire e x st c prop else s)

/-! ## Readiness -/

/-- The context of an entry counts as ACTIVE (R220): for the CONTEXT_CREATE of the kernel context on the boot queue, the
kernel context does while FREE (R566). -/
def State.entryActive (s : State) (x : Entry) : Bool :=
  (s.ctx x.ctx).state = .active ||
  (s.fwc.state = .starting && x.queue = 0 && x.ctx = kernelCtx && x.kind = 0x20 && pf x.pkt 339 320 = 0)

/-- The queue-order condition of R220: the predecessor has issued or retired, or on a retire-ordered queue retired, and no
rejection of an earlier packet still awaits its passage there (R234, R236). -/
def State.orderMet (s : State) (x : Entry) : Bool :=
  let same := s.lnd.entries.filter (fun p => p.2.queue = x.queue && p.2.ord = x.pred && p.2.kind ≠ kGraphNode)
  if (s.queue x.queue).retire then same.isEmpty && !(s.queue x.queue).rejections.any (fun r => decide (r.ord < x.ord))
  else same.all (fun p => p.2.kind = kChained || p.2.kind = kWaitExt || p.2.state = .issued)

/-- The BARRIER condition of R220. -/
def State.barrierMet (s : State) (x : Entry) : Bool :=
  !x.barrier || !s.lnd.entries.any (fun p => p.2.queue = x.queue && decide (p.2.ord < x.ord))

/-- The readiness rule of R220, and of R285 for a GRAPH_NODE. -/
def State.isReady (s : State) (e : Nat) (x : Entry) : Bool :=
  x.state = .pending && x.report.isNone && s.entryActive x && (s.waits e x).all (s.waitMet x) &&
  (if x.kind = kGraphNode then s.predsOk x
   else if x.kind = kChained || x.kind = kWaitExt then false
   else s.orderMet x && s.barrierMet x)

/-- A held operand copy matches a launch (R312): context, handles with their generations, offsets and lengths. -/
def State.copyHeld (s : State) (c : BitVec 20) (l : LaunchOp) : Bool :=
  s.hau.copies.any (fun k => k.ctx = c && k.desc = l.desc && k.sdata = l.sdata && k.missing.isEmpty)

/-- A launch needs no operand copy: no descriptors and no scalar image. -/
def LaunchOp.noCopy (l : LaunchOp) : Bool := l.desc.2.2 = 0 && l.sdata.2.2 = 0

/-- The launches whose operand copy is being read (R312). -/
def Hau.copying (h : Hau) : List Nat :=
  (h.internal.map (·.kind) ++ h.streams.map (·.2.kind) ++ h.parked.map (·.stream.kind)).filterMap (fun k => match k with
    | .copy e => some e | _ => none)

/-- Another launch's read of the same operand copy is under way. -/
def State.copyComing (s : State) (c : BitVec 20) (l : LaunchOp) : Bool :=
  s.hau.copying.any (fun e => match s.entry e with
    | some x => x.ctx = c && x.launch.desc = l.desc && x.launch.sdata = l.sdata
    | none => false)

/-- The internal streams that read a launch's descriptors and scalar image (R312, R359). -/
def State.copyStreams (s : State) (e : Nat) (c : BitVec 20) (l : LaunchOp) : List Internal :=
  let mk (h : W32) (off len kind : Nat) : List Internal :=
    if len = 0 then []
    else
      let va := match s.refRecord c h with | some i => (tget {} s.xlt.refs i).vaPfn.toNat * 4096 | none => 0
      [{ kind := .copy e, entry := e, ctx := c
         desc := BitVec.ofNat 512 (opCopy + len * 2 ^ 40 + 2 ^ 64 + h.toNat * 2 ^ 96 + off * 2 ^ 160 + kind * 2 ^ 416)
         srcVa := va, len }]
  mk l.desc.1 l.desc.2.1 (64 * l.desc.2.2) 0 ++ mk l.sdata.1 l.sdata.2.1 l.sdata.2.2 1

/-- A launch that becomes READY uses a held operand copy, or has one read through translation (R312). -/
def State.obtainCopy (s : State) (e : Nat) (x : Entry) : State :=
  if x.actKind ≠ kLaunch then s
  else
    let l := x.launch
    if l.noCopy || s.copyHeld x.ctx l || s.copyComing x.ctx l then s
    else { s with hau := { s.hau with internal := s.hau.internal ++ s.copyStreams e x.ctx l } }

/-! ## Rejections at the retirement port -/

/-- The turn of a rejection has come (R236): on a retire-ordered queue every packet admitted earlier has retired, on an
issue-ordered queue every such packet has issued. -/
def State.rejectionTurn (s : State) (q : BitVec 14) (r : Rejection) : Bool :=
  let earlier := s.lnd.entries.filter (fun p => p.2.queue = q && decide (p.2.ord < r.ord) && p.2.kind ≠ kGraphNode)
  if (s.queue q).retire then earlier.isEmpty
  else earlier.all (fun p => p.2.kind = kChained || p.2.kind = kWaitExt || p.2.state = .issued)

/-- REJECTION_PASSAGE (R236): the oldest rejection that the Landing holds for the queue passes once its turn has come. -/
def execRejectionPassage (q : BitVec 14) (s : State) : Host.Outcome State Fault Refusal :=
  .next (match (s.queue q).rejections with
    | [] => s
    | r :: rest =>
      if s.rejectionTurn q r && s.inRun then
        State.drainQueue ((s.updQueue q (fun x => { x with rejections := rest })).passRejection q r) q
      else s)

/-! ## Mirror writes and host signals -/

/-- The Blaze that a BLAZE_CONFIG names (R190). -/
def Entry.cfgBlaze (x : Entry) : BitVec 16 := x.pkt.extractLsb' 320 16

/-- The BLAZE_CONFIG commands of Blaze `n` whose mirror write is at `phase`: 1 to be issued, 2 outstanding (R232). -/
def State.configsAt (s : State) (n : BitVec 16) (phase : Nat) : List Nat :=
  (s.lnd.entries.filter (fun p => p.2.kind = 0x28 && p.2.cfgBlaze = n && p.2.state = .issued && p.2.report.isNone &&
    p.2.phase = phase)).map (·.1)

/-- One write of the Blaze's value to MIRROR_PA with SOURCE MIRROR (R232); that of a BLAZE_CONFIG goes out with it. -/
def State.mirrorIssue (s : State) (n : BitVec 16) : State :=
  let b := s.blaze n
  let s := s.updBlaze n (fun b => { b with mirrorDue := false, mirrorOut := true })
  let s := s.each (s.configsAt n 1) (fun s e => s.updEntry e (fun x => { x with phase := 2 }))
  s.ringWrite none srcMirror b.mirrorPa.toNat (toBytes 8 b.value.toNat) (.mirror n)

/-- The Blaze has had no update in the present fclk cycle that may still be joined by another (R225). -/
def State.blazeSettled (s : State) (b : Blaze) : Bool :=
  match b.cycle with | some y => decide (y.fc ≠ s.fc) || y.config | none => true

/-- MIRROR_WRITE (R232): with MIRROR_EN, normal, a change not yet written and no mirror write outstanding, the value goes
out, after the cycle of the change. -/
def execMirrorWrite (n : BitVec 16) (s : State) : Host.Outcome State Fault Refusal :=
  let b := s.blaze n
  .next (if s.feRuns && b.mirrorEn && !b.error && b.mirrorDue && !b.mirrorOut && s.blazeSettled b then s.mirrorIssue n else s)

/-- A host signal (R229): a set with the written value; dropped and counted for a Blaze that is not configured. -/
def State.hostSignal (s : State) (n : BitVec 16) (v : W64) : State :=
  if s.fwc.state = .outOfService then s
  else if s.build.blazes ≤ n.toNat then s
  else if !(s.blaze n).configured then { s with lnd := { s.lnd with dropUnconf := s.lnd.dropUnconf + 1 } }
  else s.blazeUpdate n ⟨4, 0, .set v⟩

end Sys2Proof.Machine
end

