-- ==== Sys2Proof/Machine/Fetch.lean ====
section
/-! DEFINITION. The fetcher: serials (R152, R153), doorbells (R138 to R142), fetch turns and parking (R148 to R151),
the hand-over to Bucking-unit threads with the header checks (R193, R195), and queue timers (R159). -/

namespace Sys2Proof.Machine

/-- EXP_SERIAL plus the serials in flight (R152). -/
def State.nextSerial (s : State) (q : BitVec 14) : W32 := (s.queue q).expSerial + BitVec.ofNat 32 (s.inFlight q)

/-- A packet of one unit as a packet buffer holds it. -/
def unitPkt (u : W512) : Packet := u.setWidth 2048

/-- The packet whose units are listed first to last (R165). -/
def unitsPkt : List W512 → Packet
  | [] => 0
  | u :: r => u.setWidth 2048 ||| (unitsPkt r <<< 512)

/-- Ring units that threads hold of a queue. -/
def State.threadUnits (s : State) (q : BitVec 14) : Nat := ((s.queueThreads q).map (·.2.ringUnits)).sum

/-- A thread is free for a packet of the queue (R193): at most 16 threads, at most four of one queue. -/
def State.threadFree (s : State) (q : BitVec 14) : Bool :=
  decide (s.uc.threads.countP (fun p => p.2.busy) + (s.queues.map (fun p => p.2.inl.length)).sum < 16) &&
  decide (s.inFlight q < 4)

/-- Check 1 of R154 with the exception of R566: the queue is OPEN and its context is ACTIVE, or the packet is the boot
queue's CONTEXT_CREATE of the kernel context while that is FREE. -/
def State.check1 (s : State) (q : BitVec 14) (p : Packet) : Bool :=
  let x := s.queue q
  decide (x.state = .open_) &&
  ((s.ctx x.ctx).state = .active ||
   (s.fwc.state = .starting && q = 0 && x.ctx = kernelCtx && (s.ctx kernelCtx).state = .free &&
     pktOpcode p = 0x20 && pf p 339 320 = 0))

/-- R161 lets a packet of the queue go on: outside the periods of R160 always. -/
def State.cplMayGo (s : State) (q : BitVec 14) : Bool := !s.cplDue q || s.cplFree q

/-- The host offset of a doorbell page word (R553). -/
def doorbellOffset (q : BitVec 14) (off : Nat) : Nat := 0x4000000 + q.toNat * 0x1000 + off

/-- The doorbell acts on an OPEN queue; any other queue, and a slot at or above a reduced count, takes no effect except
an entry in the error log (R116, R398). Out of service it has no effect at all (R537). -/
def State.atOpenQueue (s : State) (q : BitVec 14) (off : Nat) (f : State → State) : State :=
  if s.fwc.state = .outOfService then s
  else if (s.queue q).state = .open_ && decide (q.toNat < s.build.queueSlots) then f s
  else s.logHw 0x0003 0x00 none (some q) (doorbellOffset q off)

/-- The duplicate of a packet is discarded and counted; a completion entry is written in the periods of R160 if one is
free, and never waits (R152). -/
def State.duplicate (s : State) (q : BitVec 14) (serial : W32) (opcode : BitVec 8) : State :=
  let s := s.updQueue q (fun x => { x with dupCnt := x.dupCnt + 1 })
  if s.cplDue q then s.optionalCpl q serial 0x01 opcode s.fc else s

/-- The timer of a queue is armed (R159): TMO_ARMED of R146. -/
def State.tmoArmed (s : State) (q : BitVec 14) : Bool :=
  let x := s.queue q
  decide (x.tmoLog2 ≠ 0) && (x.state = .open_ || x.state = .draining) &&
  (!(s.queueEntries q).isEmpty || x.cell.isSome || x.fstate = .gap)

/-- The timer of a queue that has become armed runs from here on (R159); `was` says that it was armed before. -/
def State.startTimer (s : State) (q : BitVec 14) (was : Bool) : State :=
  if !was && s.tmoArmed q then s.updQueue q (fun x => { x with timerFc := s.fc }) else s

/-- The context's quota with the default and the bound of R104. -/
def State.quotaOf (s : State) (c : BitVec 20) : Nat :=
  let n := (s.ctx c).quota.toNat
  if n = 0 then 16384 else min n s.build.landingEntries

/-- The bound of R156 that admitting `n` entries and references on the distinct handles `l` would break, if any; a front-end
or Deck self-test makes all work wait there (R191). -/
def State.bound (s : State) (q : BitVec 14) (n : Nat) (l : List W32) : Option BlockWhy :=
  let x := s.queue q
  let fresh := l.countP (fun h => (s.refRecord x.ctx h).isNone)
  let held := s.refsHeld
  let user := s.xlt.refs.countP (fun p => !p.2.kernelOnly)
  if s.fwc.selfTest.isSome || decide (s.build.landingEntries < s.lnd.entries.length + n) ||
     (!x.kernel && decide (s.build.landingEntries - kernelReserve < s.userHeld + n)) then some .landing
  else if !x.kernel && decide (s.quotaOf x.ctx < (s.ctxEntries x.ctx).countP (fun p => p.2.charged && !p.2.kernelQ) + n)
  then some .quota
  else if s.build.refRecords < held + fresh ||
     (!x.kernel && decide (s.build.refRecords - kernelReserve < user + fresh)) then some .refs
  else none

/-- The queue is BLOCKED with a reason, behind those that blocked before it, and its turn ends (R148, R150, R156). -/
def State.blockQueue (s : State) (q : BitVec 14) (why : BlockWhy) (need : Nat × List W32) : State :=
  let n := s.fe.blockSeq
  let s := s.updQueue q (fun x => { x with fstate := .blocked, block := why, blockSeq := n, need, parking := false })
  { s with fe := { s.fe with blockSeq := n + 1 } }

/-- The inline cell takes a packet (R153). -/
def State.fillCell (s : State) (q : BitVec 14) (u : W512) : State :=
  (s.updQueue q (fun x => { x with cell := some u })).startTimer q (s.tmoArmed q)

/-- An inline packet of an OPEN queue (R140, R141, R152, R153): duplicate, sent on, kept in the cell, or refused. A packet
sent on that fails check 1 is discarded (R154); one held by R161 blocks the queue. -/
def State.inlinePacket (s : State) (q : BitVec 14) (u : W512) : State :=
  let x := s.queue q
  let ser : W32 := u.extractLsb' 32 32
  let d := sdiff32 ser (s.nextSerial q)
  let inCell := match x.cell with | some c => decide (c.extractLsb' 32 32 = ser) | none => false
  if d < 0 || inCell then s.duplicate q ser (u.extractLsb' 0 8)
  else if x.cell.isSome then s.updQueue q (fun x => { x with inlRefused := x.inlRefused + 1 })
  else if d = 0 && !s.check1 q (unitPkt u) then s
  else if d = 0 && x.fstate ≠ .blocked && !s.cplMayGo q then (s.blockQueue q .cpl x.need).fillCell q u
  else if d = 0 && s.threadFree q && s.admits && s.uc.loaded && decide (x.fstate ≠ .blocked) then
    s.updQueue q (fun x => { x with inl := x.inl ++ [u] })
  else s.fillCell q u

/-- A write-pointer doorbell of an OPEN queue (R139, R148). -/
def State.wpDoorbell (s : State) (q : BitVec 14) (wp : W32) : State :=
  let x := s.queue q
  if x.ringLog2 = 0 then s.logHw 0x0003 0x00 (some x.ctx) (some q) (doorbellOffset q 0x40)
  else
    let wake (f : FState) : FState := if f = .parked then .woken else f
    let d := sdiff32 wp x.wp
    let s := s.updQueue q (fun x => { x with dbSeen := true, fstate := wake x.fstate })
    if d < 0 then s.updQueue q (fun x => { x with staleWp := x.staleWp + 1 })
    else if d = 0 then s
    else if 2 ^ x.ringLog2.toNat < (wp - x.rp).toNat then
      (s.logHw 0x0003 0x04 (some x.ctx) (some q) (doorbellOffset q 0x40)).packetlessRejection q 0x04 false
    else s.updQueue q (fun x => { x with wp })

/-- A completion read-pointer doorbell of an OPEN queue (R161): CPL_RP, or ignored and recorded when it would make
CPL_WP − CPL_RP negative or greater than the ring. -/
def State.cplRpDoorbell (s : State) (q : BitVec 14) (rp : W32) : State :=
  let x := s.queue q
  let d := sdiff32 x.cplWp rp
  if d < 0 || (2 ^ x.cplLog2.toNat : Int) < d then s.logHw 0x0004 0x00 (some x.ctx) (some q) rp.toNat
  else s.updQueue q (fun x => { x with cplRp := rp })

/-! ## Fetch turns -/

/-- Ring units below WP not yet read or held by threads. -/
def State.unread (s : State) (q : BitVec 14) : Nat :=
  let x := s.queue q
  (x.wp - x.rp).toNat - (s.threadUnits q + x.units.length)

/-- Units of the packet whose first unit is at the head of those read (LEN plus one, R165). -/
def headUnits (l : List W512) : Nat := match l with | [] => 1 | u :: _ => bits u 17 16 + 1

/-- The class of service of a queue (R150): KERNEL, then RT, then the others. -/
def Queue.rank (x : Queue) : Nat := if x.kernel then 0 else if x.cls = 0 then 1 else 2

/-- What holds the queue's waiting packet has freed (R156, R161). -/
def State.unblocked (s : State) (q : BitVec 14) : Bool :=
  let x := s.queue q
  match x.block with
  | .cpl => s.cplMayGo q
  | .landing => (s.bound q x.need.1 x.need.2).isNone
  | .quota => (s.bound q x.need.1 x.need.2).isNone
  | .refs => (s.bound q x.need.1 x.need.2).isNone
  | _ => true

/-- A queue the fetcher can serve now, and how (R148, R150): woken, unblocked, past its gap, or fetching with units to
read, to class or to park on. -/
def State.fetchable (s : State) (q : BitVec 14) : Bool :=
  let x := s.queue q
  decide (x.state = .open_) &&
  (match x.fstate with
   | .woken => true
   | .blocked => s.unblocked q
   | .gap => (match x.units with
     | u :: _ => decide (sdiff32 (u.extractLsb' 32 32) (s.nextSerial q) ≤ 0)
     | [] => false)
   | .fetching =>
     if !x.reading && decide (0 < s.unread q) && decide (x.units.length < headUnits x.units) then true
     else match x.units with
       | [] => !x.reading && decide (s.unread q = 0)
       | u :: _ => (headUnits x.units ≤ x.units.length &&
           (decide (sdiff32 (u.extractLsb' 32 32) (s.nextSerial q) ≠ 0) &&
             (decide (0 < sdiff32 (u.extractLsb' 32 32) (s.nextSerial q)) || s.threadUnits q = 0)
            || (decide (sdiff32 (u.extractLsb' 32 32) (s.nextSerial q) = 0) && !s.cplMayGo q)))
         || (decide (x.units.length < headUnits x.units) && !x.reading && s.unread q = 0)
   | _ => false)

/-- The order in which the fetcher takes queues: blocked ones in the order they blocked, KERNEL queues first (R156); the
others by class, those of the last class in round robin from the queue after the one served last (R150). -/
def State.fetchKey (s : State) (q : BitVec 14) : Nat :=
  let x := s.queue q
  let rr := if x.rank < 2 then q.toNat else (q.toNat + 16384 - (s.fe.rrQueue + 1)) % 16384
  if x.fstate = .blocked then (if x.kernel then 0 else 2) * 2 ^ 64 + x.blockSeq
  else (if x.rank = 0 then 1 else x.rank + 2) * 2 ^ 64 + rr

/-- The queue that the fetcher serves next (R150). -/
def State.fetchChoice (s : State) : Option (BitVec 14) :=
  leastBy s.fetchKey ((s.queues.map (fun p => BitVec.ofNat 14 p.1)).filter s.fetchable)

/-- A ring read (R135, R150): one burst within a 4 KiB page and the ring, with SOURCE RING and RING_ATTR; at most 128
queues have one outstanding. -/
def State.readRing (s : State) (q : BitVec 14) : State :=
  let x := s.queue q
  if s.queues.countP (fun p => p.2.reading) < 128 then
    let u := (x.rp.toNat + s.threadUnits q + x.units.length) % 2 ^ x.ringLog2.toNat
    let n := min (s.unread q) (min (64 - u % 64) (2 ^ x.ringLog2.toNat - u))
    let s := s.updQueue q (fun x => { x with reading := true })
    s.mpRead none srcRing (4096 * x.ringPfn.toNat + 64 * u) (64 * n) 3 (arCache x.ringAttr) 8 (.ringRead q n)
  else s

/-- The park rule (R149), one of its two slot-state operations at a time: DB_SEEN is cleared; then WP is read again, and the
queue parks unless it now covers the whole packet, of `n` units, at RP. -/
def State.parkQueue (s : State) (q : BitVec 14) (n : Nat) : State :=
  let x := s.queue q
  if !x.parking then s.updQueue q (fun x => { x with dbSeen := false, parking := true })
  else if n ≤ x.units.length + s.unread q then s.updQueue q (fun x => { x with parking := false })
  else s.updQueue q (fun x => { x with fstate := .parked, parking := false })

/-- One fetch of queue `q` in FETCHING (R148 to R153): a ring read, a gap, a duplicate discarded, the completion bound,
or the park rule. A duplicate does not count towards the 16 packets of a turn (DESIGN CHOICE, notes/assumptions/69). -/
def State.fetchQueue (s : State) (q : BitVec 14) : State :=
  let x := s.queue q
  let n := headUnits x.units
  if x.parking then s.parkQueue q n
  else if decide (x.units.length < n) && decide (0 < s.unread q) then (if x.reading then s else s.readRing q)
  else match x.units with
    | [] => if x.reading then s else s.parkQueue q n
    | u :: _ =>
      if x.units.length < n then s.parkQueue q n
      else
        let ser : W32 := u.extractLsb' 32 32
        let d := sdiff32 ser (s.nextSerial q)
        if 0 < d then
          (s.updQueue q (fun x => { x with fstate := .gap, block := .serial })).startTimer q (s.tmoArmed q)
        else if d < 0 then (if s.threadUnits q ≠ 0 then s else
          (s.updQueue q (fun x => { x with units := x.units.drop n, rp := x.rp + BitVec.ofNat 32 n })).duplicate q ser
            (u.extractLsb' 0 8))
        else if s.cplMayGo q then s
        else s.blockQueue q .cpl x.need

/-- FETCH_TURN (R150): the fetcher chooses a queue and serves it once. -/
def execFetchTurn (s : State) : Host.Outcome State Fault Refusal :=
  .next (if !s.admits then s
    else match s.fetchChoice with
      | none => s
      | some q =>
        let s := { s with fe := { s.fe with rrQueue := if (s.queue q).rank = 2 then q.toNat else s.fe.rrQueue } }
        let s := s.updQueue q (fun x => if x.fstate = .fetching then x
          else { x with fstate := .fetching, block := .none_, turn := 0, parking := false })
        s.fetchQueue q)

/-! ## Hand-over to a thread and the header checks -/

/-- An opcode has no routine (R196). -/
def State.noRoutine (s : State) (op : BitVec 8) : Bool :=
  let o := op.toNat
  (0x0A ≤ o && o ≤ 0x1F) || (0x2A ≤ o && o ≤ 0x3F) || (0x40 ≤ o && o ≤ 0x7F) ||
  (0x80 ≤ o && !bit (tget 0 s.uc.dispatch o) 31)

/-- Check 2 of R154 (R167, R195): the header rules, and for an opcode with a routine LEN and the reserved bits, by its
dispatch entry and by R170 and its own field map; the CHAIN fields of a LAUNCH with LEN 3 obey R167 too (R176); an inline
packet has LEN 0 (R140). -/
def State.check2 (s : State) (p : Packet) (inlinePkt : Bool) : Bool :=
  let e := tget 0 s.uc.dispatch (pktOpcode p).toNat
  headerOk p && (!inlinePkt || pktLen p = 0) &&
  (s.noRoutine (pktOpcode p) ||
    (bit e (26 + pktLen p) && p &&& tget 0 s.uc.masks (bits e 25 20) = 0 &&
      (0x80 ≤ (pktOpcode p).toNat || ((lenOk (pktOpcode p).toNat >>> pktLen p) % 2 = 1 && reservedOk p &&
        (pktOpcode p ≠ 0x01 || pktLen p ≠ 3 || chainOk p)))))

/-- Checks 2 to 4, and VALID 0 below 0x40, as the header checker makes them in order: the first failure's status (R154,
R171, R195, R196). -/
def State.headerCheck (s : State) (p : Packet) (inlinePkt kernel : Bool) : Option (BitVec 8) :=
  let o := (pktOpcode p).toNat
  let e := tget 0 s.uc.dispatch o
  if !s.check2 p inlinePkt then some 0x04
  else if 0x20 ≤ o && o ≤ 0x3F && !kernel then some 0x03
  else if 0x80 ≤ o && bit e 31 && bit e 30 && !kernel then some 0x03
  else if 0x40 ≤ o && o ≤ 0x7F then some 0x04
  else if !bit e 31 then some 0x04
  else if (0x0A ≤ o && o ≤ 0x1F) || (0x2A ≤ o && o ≤ 0x3F) then some 0x04
  else none

/-- The micro-registers that the header checker loads (R198): the others read zero. -/
def State.startRegs (s : State) (q : BitVec 14) (p : Packet) : Vector W64 32 :=
  let x := s.queue q
  ((((((Vector.replicate 32 (0 : W64)).set 24 (x.ctx.setWidth 64)).set 25 (q.setWidth 64)).set 26
    ((pktSerial p).setWidth 64)).set 27 (BitVec.ofNat 64 (b2n x.kernel + 2 * b2n x.retire + 4 * x.cls.toNat))).set 28
    (BitVec.ofNat 64 (pktLen p))).set 29 (BitVec.ofNat 64 (s.quotaOf x.ctx))

/-! ## Queue timers -/

/-- The logarithm a TMO_LOG2 acts as (R159). -/
def tmoLog (n : Nat) : Nat := clamp 20 40 n

/-- QUEUE_TIMER_FIRE (R159): the armed timer of `q` has run out. A wait on capacity restarts it; a serial that never
came is a packetless rejection with MALFORMED; with Landing entries the queue waits for the probe (R237). -/
def execQueueTimerFire (q : BitVec 14) (s : State) : Host.Outcome State Fault Refusal :=
  let x := s.queue q
  .next (if !s.tmoArmed q || x.fired || decide (s.fc < x.timerFc + 2 ^ tmoLog x.tmoLog2.toNat) || s.fwc.feBusy
           || s.fwc.state = .outOfService then s
    else if !(s.queueEntries q).isEmpty then
      let s := s.updQueue q (fun x => { x with fired := true })
      { s with lnd := { s.lnd with fired := s.lnd.fired ++ [q] } }
    else
      let cellNext := match x.cell with | some u => decide (u.extractLsb' 32 32 = s.nextSerial q) | none => false
      if x.fstate = .blocked || cellNext then s.updQueue q (fun x => { x with timerFc := s.fc })
      else s.packetlessRejection q 0x04 true)

end Sys2Proof.Machine
end

