-- ==== Sys2Proof/Machine/Bundle.lean ====
section
/-! DEFINITION. Firmware bundles and microcode: the form of a bundle (R468, R469), its signature (R470), the checks of R472,
the microcode's loading (R210) and patches (R211, R212). -/

namespace Sys2Proof.Machine

/-- A section entry (R469). -/
structure Section where
  /-- TYPE. -/
  type : Nat
  /-- TARGET. -/
  target : Nat
  /-- CONTAIN. -/
  contain : Nat
  /-- WDOG_LOG2. -/
  wdog : Nat
  /-- OFFSET. -/
  offset : Nat
  /-- LEN. -/
  len : Nat
  /-- LOAD_ADDR. -/
  load : Nat
  /-- DIGEST. -/
  digest : Nat
deriving DecidableEq, Repr

/-- Section entry `i` of a bundle (R468, R469). -/
def sectionAt (b : List Byte) (i : Nat) : Section :=
  let o := 0x100 + 64 * i
  { type := le b o 1, target := le b (o + 1) 1, contain := le b (o + 2) 1, wdog := le b (o + 3) 1, offset := le b (o + 4) 4
    len := le b (o + 8) 4, load := le b (o + 12) 4, digest := le b (o + 16) 48 }

/-- SECTIONS of a bundle. -/
def bundleSections (b : List Byte) : List Section := (List.range (le b 0x006 2)).map (sectionAt b)
/-- TOTAL_LEN. -/
def bundleLen (b : List Byte) : Nat := le b 0x018 4
/-- PUBKEY. -/
def bundleKey (b : List Byte) : List Byte := slice b 0x020 97
/-- The bytes of a section. -/
def Section.bytes (x : Section) (b : List Byte) : List Byte := slice b x.offset x.len
/-- A TEXT section. -/
def secText : Nat := 1
/-- A MICROCODE section. -/
def secMicrocode : Nat := 3

/-- MAGIC, FORMAT, SECTIONS, TOTAL_LEN and the reserved fields follow R468, within `room` bytes (check 3 of R472). -/
def bundleForm (b : List Byte) (room : Nat) : Bool :=
  le b 0 4 = 0x46575434 && le b 4 2 = 1 && 1 ≤ le b 6 2 && le b 6 2 ≤ 32 && le b 0x00E 2 = 0 && le b 0x01C 4 = 0 &&
  le b 0x081 127 = 0 && bundleLen b % 64 = 0 && bundleLen b ≤ room && bundleLen b ≤ 16 * 2 ^ 20 &&
  0x100 + 64 * le b 6 2 + 96 ≤ bundleLen b

/-- The key hash equals KEY_HASH (check 4 of R472, R470, R67). -/
def keyMatches (b : List Byte) (hash : BitVec 384) : Bool := Config.sha384 (bundleKey b) = hash

/-- The signature verifies (check 5 of R472, R470). -/
def signatureOk (b : List Byte) : Bool :=
  Config.ecdsaVerify (bundleKey b) (slice b (bundleLen b - 96) 96) (b.take (bundleLen b - 96))

/-- Bytes of a processor's instruction and data memories (R467); the security core's ROM is not loaded. -/
def procMemory (p : Nat) : Nat × Nat :=
  if p = 0 then (256 * 1024, 128 * 1024) else if p = 1 then (64 * 1024, 32 * 1024)
  else if p = 2 then (512 * 1024, 256 * 1024) else (128 * 1024, 64 * 1024)

/-- A section entry follows R469, lies within the bundle, fits its target's memory and matches its digest (check 6 of
R472). -/
def Section.ok (x : Section) (b : List Byte) (procs : Nat) : Bool :=
  let m := procMemory (if x.target = 0xFF then 3 else x.target)
  1 ≤ x.type && x.type ≤ 4 &&
  (if x.type = secMicrocode then x.target = 0 else x.target < procs || x.target = 0xFF) &&
  (x.type = secText || (x.contain = 0 && x.wdog = 0)) &&
  x.offset % 64 = 0 && x.offset + x.len ≤ bundleLen b &&
  (x.type = secMicrocode || x.load + x.len ≤ (if x.type = secText then m.1 else m.2)) &&
  (Config.sha384 (x.bytes b)).toNat = ofBytes (toBytes 48 x.digest)

/-- The TEXT sections that load processor `p`. -/
def textFor (l : List Section) (p : Nat) : List Section :=
  l.filter (fun x => x.type = secText && (x.target = p || (x.target = 0xFF && 3 ≤ p)))

/-- Every section is sound, each present processor has one TEXT section, and one section is MICROCODE (R469). -/
def sectionsOk (b : List Byte) (procs : Nat) : Bool :=
  let l := bundleSections b
  l.all (fun x => x.ok b procs) && (List.range procs).all (fun p => (textFor l p).length = 1) &&
  l.countP (fun x => x.type = secMicrocode) = 1

/-- CONTAIN and WDOG_LOG2 are valid (check 7 of R472, R474). -/
def containOk (b : List Byte) : Bool :=
  ((bundleSections b).filter (fun x => x.type = secText)).all (fun x =>
    1 ≤ x.contain && x.contain ≤ 3 && 16 ≤ x.wdog && x.wdog ≤ 32)

/-- No dispatch entry of a list for an opcode from 0x00 to 0x3F has a LEN_OK other than that of R170, whatever its VALID
(R210). -/
def lensOk (l : List (Nat × BitVec 32)) : Bool := l.all (fun e => 0x3F < e.1 || bits e.2 29 26 = lenOk e.1)

/-- The microcode section of a bundle or patch. -/
def microSection (b : List Byte) : List Byte :=
  match (bundleSections b).find? (fun x => x.type = secMicrocode) with | some x => x.bytes b | none => []

/-- Pairs written into a table. -/
def putAll {α : Type} [DecidableEq α] (d : α) (t : Tbl α) (l : List (Nat × α)) : Tbl α :=
  l.foldl (fun t p => tset d t p.1 p.2) t

/-- Microwords written into the control store: each word they take is occupied, whatever its value (R212). -/
def putWords (t l : List (Nat × BitVec 40)) : List (Nat × BitVec 40) := l.foldl (fun t p => lset t p.1 p.2) t

/-- The microcode passes R210 (check 10 of R472): its version, and the LEN_OK of each entry below 0x40 of the dispatch table
that it makes. -/
def microOk (b : List Byte) : Bool :=
  let sec := microSection b
  let d := putAll 0 [] (Config.ucodeDispatch sec)
  (Config.ucodeVersion sec).1 = 4 && (Config.ucodeVersion sec).2.1 = 2 && lensOk ((List.range 64).map (fun o => (o, tget 0 d o)))

/-- The control store, dispatch table and masks are loaded from a microcode section (R210, R212). -/
def State.loadMicrocode (s : State) (sec : List Byte) : State :=
  let v := Config.ucodeVersion sec
  let n := (dedup ((Config.ucodeWords sec).map (·.1))).length
  let u := s.uc
  let u : Uc := { u with
    major := v.1, minor := v.2.1, build := v.2.2.1, patchId := 0, freeWords := BitVec.ofNat 15 (16384 - n), loaded := true
    store := putWords [] (Config.ucodeWords sec), dispatch := putAll 0 [] (Config.ucodeDispatch sec)
    masks := putAll 0 [] (Config.ucodeMasks sec), section_ := sec, patching := [], patchPage := none, patchWait := [] }
  { s with uc := u }

/-- Micro-PCs that can follow a microword at `a` (R199, R200): none after ADMIT, REJ or a COND that R199 does not assign; a
branch's target, and the next word unless it is taken always. -/
def nextWords (a : Nat) (w : BitVec 40) : List Nat :=
  let u := bits w 39 34
  if u = 0x30 || u = 0x31 then []
  else if u = 0x18 then
    (if bits w 23 20 = 0 then [bits w 13 0] else if bits w 23 20 ≤ 4 then [bits w 13 0, a + 1] else [])
  else [a + 1]

/-- Occupied control-store words that a routine can run from some micro-PCs, `fuel` steps at most. -/
def reachWords (store : List (Nat × BitVec 40)) : Nat → List Nat → List Nat → List Nat
  | 0, _, seen => seen
  | _ + 1, [], seen => seen
  | fuel + 1, a :: rest, seen =>
    match lget store a with
    | none => reachWords store fuel rest seen
    | some w =>
      if seen.contains a then reachWords store fuel rest seen
      else reachWords store fuel (nextWords a w ++ rest) (a :: seen)

/-- The words of the routines of some dispatch entries. -/
def routineWords (store : List (Nat × BitVec 40)) (l : List (BitVec 32)) : List Nat :=
  reachWords store 65536 ((l.filter (fun e => bit e 31)).map (fun e => bits e 13 0)) []

/-- Words of the routines that a patch has replaced, and that no valid dispatch entry's routine holds any longer. -/
def replacedWords (old new : Uc) (ops : List Nat) : List Nat :=
  let live := routineWords new.store (new.dispatch.map (·.2))
  (routineWords old.store (ops.map (tget 0 old.dispatch))).filter (fun a => !live.contains a)

/-- A patch is sound (R211, R470): a bundle of one MICROCODE section, signed with the key, keeping LEN_OK, and within the
free words. -/
def State.patchOk (s : State) (b : List Byte) : Bool :=
  let l := bundleSections b
  let sec := microSection b
  let w := dedup ((Config.ucodeWords sec).map (·.1))
  bundleForm b b.length && keyMatches b s.pins.keyHash && signatureOk b &&
  l.length = 1 && l.all (fun x => x.type = secMicrocode && x.ok b (s.build.clusters + 3)) &&
  lensOk (Config.ucodeDispatch sec) && decide (w.length ≤ s.uc.freeWords.toNat) && w.all (fun a => !(s.uc.store.map (·.1)).contains a)

/-- A sound patch is applied (R211 steps 1 to 3): words into free places, dispatch entries changed, PATCHING until the older
threads have ended. -/
def State.beginPatch (s : State) (page : BitVec 8) (b : List Byte) : State :=
  let sec := microSection b
  let old := s.uc
  let u : Uc := { old with
    store := putWords old.store (Config.ucodeWords sec), dispatch := putAll 0 old.dispatch (Config.ucodeDispatch sec)
    masks := putAll 0 old.masks (Config.ucodeMasks sec), patchId := (Config.ucodeVersion sec).2.2.2
    freeWords := old.freeWords - BitVec.ofNat 15 (dedup ((Config.ucodeWords sec).map (·.1))).length
    patches := old.patches ++ [b], patchPage := some page, patchSeq := old.seq }
  { s with uc := { u with patching := (replacedWords old u ((Config.ucodeDispatch sec).map (·.1))).map (BitVec.ofNat 14) } }

/-- Step 4 of R211: no thread dispatched before the change is left. -/
def Uc.patchOver (u : Uc) : Bool := u.patchPage.isSome && !u.threads.any (fun p => p.2.busy && decide (p.2.seq < u.patchSeq))

/-- Words of replaced routines become free, and the request completes OK (R211 step 4). -/
def State.endPatch (s : State) : State :=
  match s.uc.patchPage with
  | none => s
  | some page =>
    let u := s.uc
    let u : Uc := { u with
      store := u.store.filter (fun p => !u.patching.contains (BitVec.ofNat 14 p.1))
      freeWords := u.freeWords + BitVec.ofNat 15 u.patching.length, patching := [], patchPage := none }
    State.mbxDone { s with uc := u } page 0x00 0

/-- Patches go on (R211): the one applied ends once it can, and the waiting ones follow, `fuel` at most. -/
def State.patchStep : Nat → State → State
  | 0, s => s
  | fuel + 1, s =>
    if s.uc.patchPage.isSome then (if s.uc.patchOver then State.patchStep fuel s.endPatch else s)
    else match s.uc.patchWait with
      | [] => s
      | (page, b) :: rest =>
        let s := { s with uc := { s.uc with patchWait := rest } }
        State.patchStep fuel (if s.patchOk b then s.beginPatch page b else s.mbxDone page 0x09 0)

/-- Patches go on as far as they can. -/
def State.patchOn (s : State) : State := State.patchStep (2 * s.uc.patchWait.length + 2) s

end Sys2Proof.Machine
end

