-- ==== Sys2Proof/Machine/Flags.lean ====
section
/-! DEFINITION. Conditions and scalar arithmetic: COND of a microword (R199), the micro-operations' arithmetic (R200) and
the sequencer's scalar operations (R315). -/

namespace Sys2Proof.Machine

/-- COND holds for a value (R199); none for an unassigned COND, which is a control-store fault. -/
def ucCond (c : Nat) (v : W64) : Option Bool :=
  match c with
  | 0 => some true
  | 1 => some (decide (v = 0))
  | 2 => some (decide (v ≠ 0))
  | 3 => some v.msb
  | 4 => some (!v.msb)
  | _ => none

/-- Scalar operations with two register operands, by OP value (R315): ADD to MULHU. -/
def scalarRR (op : Nat) (a b : W32) : W32 :=
  match op with
  | 0x00 => a + b
  | 0x01 => a - b
  | 0x02 => a &&& b
  | 0x03 => a ||| b
  | 0x04 => a ^^^ b
  | 0x05 => a <<< (b.toNat % 32)
  | 0x06 => a >>> (b.toNat % 32)
  | 0x07 => a.sshiftRight (b.toNat % 32)
  | 0x08 => if a.slt b then 1 else 0
  | 0x09 => if a.ult b then 1 else 0
  | 0x0A => if b.slt a then b else a
  | 0x0B => if a.slt b then b else a
  | 0x0C => a * b
  | _ => BitVec.ofNat 32 (a.toNat * b.toNat / 2 ^ 32)

end Sys2Proof.Machine
end

