-- ==== Sys2Proof/Machine/Bucking.lean ====
section
/-! DEFINITION. The Bucking unit (R193 to R208): ends of a packet (discard, rejection, abandon, commit), handle resolution
(R120), microwords and micro-traps. -/

namespace Sys2Proof.Machine

/-! ## Ends of a packet -/

/-- The thread becomes free; the commit lock it held is released (R205), and a patch that waited for it goes on (R211). -/
def State.freeThread (s : State) (t : BitVec 4) : State :=
  State.patchOn { s with uc := { s.uc with
      threads := tset {} s.uc.threads t.toNat {}
      lockHolder := if s.uc.lockHolder = some t.toNat then none else s.uc.lockHolder } }

/-- A discard (R154, R202, R203): the packet is not executed and its serial is not consumed; RP passes its units. -/
def State.discard (s : State) (t : BitVec 4) : State :=
  let th := s.thread t
  (s.updQueue th.queue (fun x => { x with rp := x.rp + BitVec.ofNat 32 th.ringUnits })).freeThread t

/-- An earlier packet of the thread's queue is held by another thread (R203 condition 1). -/
def State.earlierHeld (s : State) (t : BitVec 4) : Bool :=
  let th := s.thread t
  (s.queueThreads th.queue).any (fun p => p.2.seq < th.seq)

/-- A trap whose microword the thread executes again (R206). -/
def Trap.retries : Trap → Bool
  | .order => true
  | .header => true
  | .lock => true
  | _ => false

/-- The thread parks on a trap; the counted causes are those of R214. A microword that is to be executed again has not been
executed (R208). -/
def State.park (s : State) (t : BitVec 4) (c : Trap) : State :=
  let s := s.updThread t (fun x => { x with trap := some c, count := if c.retries then x.count - 1 else x.count })
  match c with
  | .deckWait => { s with uc := { s.uc with trapDeck := s.uc.trapDeck + 1 } }
  | .xltMiss => { s with uc := { s.uc with trapXlt := s.uc.trapXlt + 1 } }
  | .order => { s with uc := { s.uc with trapOrder := s.uc.trapOrder + 1 } }
  | _ => s

/-- The packet's rejection itself (R155, R236): its serial is consumed, RP passes it, the Landing holds the rejection in
its queue's order, and a user context is torn down. Whether CPL_BLAZE admits the context is tested here, at the decision, and
not again at the passage (DESIGN CHOICE, notes/assumptions/69). -/
def State.rejectNow (s : State) (t : BitVec 4) (status : BitVec 8) : State :=
  let th := s.thread t
  let q := th.queue
  let c := (s.queue q).ctx
  let due := s.cplDue q
  let blaze := if th.passed2 && pktCpl th.pkt && s.blazeAdmits (pktCplBlaze th.pkt) c
      && decide ((pktCplBlaze th.pkt).toNat < s.build.blazes) then some (pktCplBlaze th.pkt) else none
  let r : Rejection := { serial := pktSerial th.pkt, opcode := pktOpcode th.pkt, status, blaze, fc := s.fc
                         ord := s.lnd.ord, cplReserved := due }
  let s := { s with lnd := { s.lnd with ord := s.lnd.ord + 1 } }
  let s := s.updQueue q (fun x => { x with
    expSerial := x.expSerial + 1, rp := x.rp + BitVec.ofNat 32 th.ringUnits
    cplReserved := if due then x.cplReserved + 1 else x.cplReserved, rejections := x.rejections ++ [r] })
  (s.freeThread t).teardown c status

/-- The failure of a header Blaze, as the header checker's reads find it (R168, R202, R398): MALFORMED for an index at or
above the count of Blazes, PRIVILEGE for one that does not allow the context. -/
def State.headerBlazeFail (s : State) (t : BitVec 4) : Option (BitVec 8) :=
  let th := s.thread t
  let c := (s.queue th.queue).ctx
  let l := pktHeaderBlazes th.pkt
  if l.any (fun n => s.build.blazes ≤ n.toNat) then some 0x04
  else if l.any (fun n => !s.blazeAdmits n c) then some 0x03 else none

/-- A rejection as REJ, REJIF or a failing check reaches it (R202, R203): it waits for the header's Blaze reads and for
its queue turn; a queue no longer OPEN or a context no longer ACTIVE makes it a discard; a header failure takes
precedence. A failure of checks 2 to 4 waits for no Blaze read. -/
def State.reject (s : State) (t : BitVec 4) (status : BitVec 8) : State :=
  let th := s.thread t
  if !th.early && !th.headerDone then s.park t .header
  else if s.earlierHeld t then s.park t .order
  else if !s.check1 th.queue th.pkt then s.discard t
  else s.rejectNow t (if th.early then status else th.headerFail.getD status)

/-- An inline packet abandoned, or one waiting on its way, goes to the empty cell or is refused (R204, R141). -/
def cellOrRefuse (x : Queue) (u : W512) : Queue :=
  match x.cell with
  | none => { x with cell := some u }
  | some _ => { x with inlRefused := x.inlRefused + 1 }

/-- An abandon (R204): nothing is taken; the thread and the threads with later packets of the queue are freed, the queue
is BLOCKED with what the packet needs, ring packets will be read again, inline packets go to the cell or are refused. -/
def State.abandon (s : State) (t : BitVec 4) (why : BlockWhy) (n : Nat) (l : List W32) : State :=
  let th := s.thread t
  let q := th.queue
  let mine := ((s.queueThreads q).filter (fun p => th.seq ≤ p.2.seq)).mergeSort (fun a b => a.2.seq ≤ b.2.seq)
  let inl := (mine.filter (fun p => p.2.ringUnits = 0)).map (fun p => p.2.pkt.extractLsb' 0 512)
    ++ (s.queue q).inl
  let s := s.each mine (fun s p => s.freeThread (BitVec.ofNat 4 p.1))
  let was := s.tmoArmed q
  let s := (s.blockQueue q why (n, l)).updQueue q (fun x => inl.foldl cellOrRefuse { x with units := [], inl := [] })
  s.startTimer q was

/-! ## Handles -/

/-- The cached entry of an object (R421). -/
def State.objCached (s : State) (c : BitVec 20) (h : W32) : Option ObjEntry :=
  (s.xlt.objects.find? (fun o => o.1 = c && o.2.1 = h.extractLsb' 0 20)).map (·.2.2)

/-- How a handle stands (R120): `some none` does not resolve, `some (some o)` resolves to `o`, `none` needs the
object-table entry or the descriptor's fields read from host memory. -/
def State.resolve (s : State) (c : BitVec 20) (h : W32) : Option (Option ObjEntry) :=
  match s.objCached c h with
  | some o => some (if o.gen = h.extractLsb' 20 12 && !s.isRetiring c h then some o else none)
  | none =>
    match (s.ctx c).objTable with
    | some (_, len) => if len.toNat ≤ bits h 19 0 then some none else none
    | none => none

/-- The first read that a missing object needs (R206, R425, R572): the object-table fields of the descriptor page at the
context's first miss, then the 16-byte table entry. -/
def State.objectRead (s : State) (t : BitVec 4) (c : BitVec 20) (h : W32) : State :=
  match (s.ctx c).objTable with
  | none => s.walkRead (4096 * (s.ctx c).descPfn.toNat) 64 (.descFields t.toNat c h)
  | some (pa, _) => s.walkRead (64 * ((pa.toNat + 16 * bits h 19 0) / 64)) 64 (.objEntry t.toNat c h)

/-- What OBJ found of handle `h` of context `c` goes into handle-list entry `i` and micro-register `td`: the object and
its length, or the stale mark and all ones (R200, R202). -/
def State.objPut (s : State) (t : BitVec 4) (c : BitVec 20) (h : W32) (i td : Nat) (o : Option ObjEntry) : State :=
  let put (r : Vector W64 32) (v : W64) : Vector W64 32 :=
    if 0 < td && td < 24 then r.setIfInBounds td v else r
  s.updThread t (fun x =>
    let x : Thread := { x with miss := none, reads := x.reads ++ [(5, c.toNat * 2 ^ 32 + h.toNat, s.lnd.commits)] }
    match o with
    | some o => { x with
        handles := x.handles.set i (some { handle := h, obj := o })
        regs := put x.regs (BitVec.ofNat 64 (4096 * o.pages.toNat)) }
    | none => { x with
        handles := x.handles.set i none, stale := true, unresolved := h :: x.unresolved
        regs := put x.regs (BitVec.allOnes 64) })

/-- The thread waits for the object-table entry of a handle (R206). -/
def State.objMiss (s : State) (t : BitVec 4) (c : BitVec 20) (h : W32) (i td : Nat) : State :=
  ((s.updThread t (fun x => { x with miss := some (h, i, td) })).park t .xltMiss).objectRead t c h

/-- OBJ of a handle into handle-list entry `i` with its length to `td` (R200, R202): resolved or not, the thread waits
for the Deck; without a cached entry it waits for the table entry. -/
def State.objInto (s : State) (t : BitVec 4) (h : W32) (i td : Nat) : State :=
  let c := (s.queue (s.thread t).queue).ctx
  match s.resolve c h with
  | some o => (s.objPut t c h i td o).park t .deckWait
  | none => s.objMiss t c h i td

/-- The context whose object a thread waits for: an OBJECT_FREE names one (R122); every other packet means its own. -/
def State.missCtx (s : State) (th : Thread) : BitVec 20 :=
  if pktOpcode th.pkt = 0x24 then th.pkt.extractLsb' 320 20 else (s.queue th.queue).ctx

/-! ## Commit -/

/-- A record that the thread read has been changed by a later commit (R203 condition 3). -/
def State.conflict (s : State) (t : BitVec 4) : Bool :=
  (s.thread t).reads.any (fun r => s.lnd.changed.any (fun g => g.1 = r.1 && g.2.1 = r.2.1 && decide (r.2.2 < g.2.2)))

/-- A conflict restart (R203, R205): the routine starts afresh; from the fourth restart the thread takes the commit
lock. -/
def State.restart (s : State) (t : BitVec 4) : State :=
  let th := s.thread t
  let s := s.updThread t (fun x => { x with
    regs := s.startRegs th.queue th.pkt, img := headerImage th.pkt, handles := List.replicate 8 none
    upc := th.startPc, count := 0, stale := false, restarts := th.restarts + 1, reads := [], miss := none, drd := none
    unresolved := [] })
  { s with uc := { s.uc with
      restarts := s.uc.restarts + 1
      lockHolder := if 3 ≤ th.restarts && s.uc.lockHolder.isNone then some t.toNat else s.uc.lockHolder } }

/-- The distinct objects of a thread's handle list (R121). -/
def Thread.objects (t : Thread) : List Resolved :=
  (t.handles.filterMap id).foldl (fun (a : List Resolved) r =>
    if a.any (fun x => x.handle = r.handle) then a else a ++ [r]) []

/-- A kind that ADMIT may name on the queue (R217). -/
def admitKind (kind : Nat) (kernel : Bool) : Bool := kind ≤ 0x09 || (kernel && 0x20 ≤ kind && kind ≤ 0x29)

/-- A record of the PROGRAM or GRAPH region, or an object, is changed by this commit (R203). -/
def State.noteChange (s : State) (region key : Nat) : State :=
  { s with lnd := { s.lnd with
      changed := (s.lnd.changed.filter (fun g => !(g.1 = region && g.2.1 = key))) ++ [(region, key, s.lnd.commits)] } }

/-- BIND_PROGRAM (R203, R337): the binding count advances, after 0xFFFF to 0x0001, and the new binding is LOADING. -/
def State.bindProgram (s : State) (c : BitVec 20) (p : BitVec 16) : State :=
  let k := 65536 * c.toNat + p.toNat
  let b := tget 0 s.lnd.current k + 1
  let b := if b = 0 then 1 else b
  let y : Binding := { ctx := c, program := p, binding := b, state := .loading, ord := s.lnd.ord }
  let s := { s with lnd := { s.lnd with
    current := tset 0 s.lnd.current k b
    bindings := s.lnd.bindings ++ [y] } }
  (s.settleBindings c p).noteChange 2 k

/-- CLAIM_GRAPH (R203, R184). -/
def State.claimGraph (s : State) (c : BitVec 20) (g : BitVec 12) : State :=
  let fresh : Graph := { claimed := true }
  (s.updGraph c g (fun _ => fresh)).noteChange 3 (4096 * c.toNat + g.toNat)

/-- RELEASE_GRAPH (R203, R184, R294): a claimed number that is not releasing becomes releasing; `e` completes when it is
free. -/
def State.markReleasing (s : State) (c : BitVec 20) (g : BitVec 12) (e : Nat) : State :=
  let x := s.graph c g
  if x.claimed && !x.releasing then
    let open_ := (s.lnd.entries.filter (fun p => p.2.kind = kGraphPatch && p.2.ctx = c && p.2.graphNo = g &&
      p.2.state = .issued)).map (·.1)
    (s.updGraph c g (fun x => { x with releasing := true, patches := open_, releases := [e] })).noteChange 3
      (4096 * c.toNat + g.toNat)
  else s

/-- RETIRE_OBJECT (R203, R122): the object becomes retiring, for the OBJECT_FREE entry `e`, whether or not its table entry
is cached; WR and RD of an entry that is not cached are free values. A handle known to name no object, or one already
retiring, changes nothing. -/
def State.retireObject (s : State) (c : BitVec 20) (h : W32) (e : Nat) : State :=
  let put (s : State) (wr rd : Bool) : State :=
    let r : Retiring := { ctx := c, handle := h, entry := some e, wr, rd }
    let s := { s with xlt := { s.xlt with retiring := s.xlt.retiring ++ [r] } }
    s.noteChange 5 (c.toNat * 2 ^ 32 + h.toNat)
  if s.isRetiring c h then s
  else match s.resolve c h with
    | some none => s
    | some (some o) => put s o.wr o.rd
    | none =>
      let f := Config.freeWord s.free
      put { s with free := s.free + 1 } (bit f 0) (bit f 1)

/-- The further entries of a commit (R218): CHAINED of a LAUNCH, WAIT_EXT of a WAIT. -/
def State.extraEntry (s : State) (x : Entry) (first u : Nat) : Entry :=
  if x.kind = kWait then
    let m := (List.range 4).foldl (fun (m : W512) i =>
      let r := 512 * u + 128 * i
      imgSet (m ||| (BitVec.ofNat 512 (pf x.pkt (r + 15) r)) <<< (256 + 16 * i)) i (x.pkt.extractLsb' (r + 64) 64)) 0
    { x with img := m, extOf := some first, node := u, refs := [], cplReserved := false }
  else
    let p := x.pkt
    let prog : BitVec 16 := p.extractLsb' 1344 16
    let m := launchPayload p 1024 true (tget 0 s.lnd.current (65536 * x.ctx.toNat + prog.toNat))
    let m := m ||| BitVec.ofNat 512 (kChained * 2 ^ 136 + b2n (bit p 1032) * 2 ^ 128 + pf p 1103 1088 * 2 ^ 176
      + pf p 1183 1152 * 2 ^ 192 + x.serial.toNat * 2 ^ 224)
    { x with img := m, chainOf := some first, met := 0, bind := s.bindOrd x.ctx prog }

/-- The handles that a chained launch names (R176). -/
def chainHandles (p : Packet) : List W32 :=
  (if pf p (464 + 1024) (448 + 1024) ≠ 0 then [p.extractLsb' (384 + 1024) 32] else []) ++
  (if pf p (494 + 1024) (480 + 1024) ≠ 0 then [p.extractLsb' (416 + 1024) 32] else [])

/-- Entry number of the `k`-th further free entry. -/
def State.freeEntryNo (s : State) : Nat := freeKey s.lnd.entries s.build.landingEntries 0

/-- An entry placed into the lowest free place of the Landing. -/
def State.putEntry (s : State) (x : Entry) : State :=
  { s with lnd := { s.lnd with entries := lset s.lnd.entries s.freeEntryNo x } }

/-- Waits already met at commit are met (R219, R220). -/
def State.meetAtCommit (s : State) (e : Nat) : State :=
  s.updEntry e (fun x => { x with met := (s.waits e x).foldl (fun m w =>
    if reached (s.blaze w.2.1).value w.2.2 && !(s.blaze w.2.1).lost then m ||| BitVec.twoPow 16 w.1 else m) x.met })

/-- One reference for each object of a list (R121), with the record that each handle takes. -/
def State.takeRefs (s : State) (c : BitVec 20) (l : List Resolved) (kernel : Bool) : State × List (W32 × Nat) :=
  l.foldl (fun (a : State × List (W32 × Nat)) r =>
    let p := a.1.takeRef c r kernel
    (p.1, a.2 ++ [(r.handle, p.2)])) (s, [])

/-- The image that ADMIT commits (R216, R337): KIND, and the binding that a load makes or a launch takes. -/
def State.admitImage (s : State) (c : BitVec 20) (img : W512) (kind acts : Nat) (ta : W64) : W512 :=
  putBits (if kind = kLaunch then
      putBits img 287 272 (tget 0 s.lnd.current (65536 * c.toNat + bits img 271 256)).toNat
    else if acts % 2 = 1 then putBits img 319 304 (tget 0 s.lnd.current (65536 * c.toNat + bits ta 15 0)).toNat
    else img) 143 136 kind

/-- The further entries of a WAIT (R218) or of a LAUNCH with LEN 3 (R176), after the first; `late` are the reference records
of the chained launch. The spec says what further entries hold for these alone: any other entry count above one that
microcode asks for builds the first entry only (DESIGN CHOICE, notes/assumptions/69). -/
def State.putMore (s : State) (ent : Entry) (kind n : Nat) (first : Nat) (late : List Nat) : State :=
  if kind = kWait then s.each (List.range (n - 1)) (fun s u => s.putEntry (s.extraEntry ent first (u + 1)))
  else if kind = kLaunch && n = 2 then
    let k := s.freeEntryNo
    (s.putEntry { s.extraEntry ent first 0 with refs := late, cplReserved := ent.cplReserved }).updEntry first
      (fun y => { y with chain := some k })
  else s

/-- The actions of a commit on graphs and objects (R203, R184, R294, R122). -/
def State.commitActs (s : State) (c : BitVec 20) (acts : Nat) (ta : W64) (first : Nat) : State :=
  let s := if acts / 2 % 2 = 1 then s.claimGraph c (ta.extractLsb' 0 12) else s
  let s := if acts / 4 % 2 = 1 then s.markReleasing c (ta.extractLsb' 0 12) first else s
  if acts / 8 % 2 = 1 then s.retireObject (ta.extractLsb' 32 20) (ta.extractLsb' 0 32) first else s

/-- The packet's entries, met waits and actions (R203, R220). -/
def State.commitEntries (s : State) (ent : Entry) (kind n acts : Nat) (ta : W64) (late : List Nat) : State :=
  let first := s.freeEntryNo
  let s := ((s.putEntry ent).putMore ent kind n first late).meetAtCommit first
  State.commitActs { s with lnd := { s.lnd with ord := s.lnd.ord + 1 } } ent.ctx acts ta first

/-- The commit itself, condition 8 of R203: the Landing entries, the references, the quota charge and the actions; the
serial is consumed, RP passes the packet, the queue's timer restarts, the thread is free. Whether the packet has a completion
entry is settled here, by the periods of R160 at its admission (DESIGN CHOICE, notes/assumptions/69). -/
def State.commit (s : State) (t : BitVec 4) (kind n acts : Nat) (ta : W64) : State :=
  let th := s.thread t
  let x := s.queue th.queue
  let due := s.cplDue th.queue
  let taken := State.takeRefs { s with lnd := { s.lnd with commits := s.lnd.commits + 1 } } x.ctx th.objects x.kernel
  let s := if acts % 2 = 1 then taken.1.bindProgram x.ctx (ta.extractLsb' 0 16) else taken.1
  let late := if kind = kLaunch && n = 2 then chainHandles th.pkt else []
  let ent : Entry :=
    { img := s.admitImage x.ctx th.img kind acts ta, pkt := th.pkt, queue := th.queue, ctx := x.ctx, kernelQ := x.kernel
      cls := x.cls, opcode := pktOpcode th.pkt, ord := s.lnd.ord, pred := x.lastOrd, cplReserved := due
      refs := (taken.2.filter (fun p => !late.contains p.1)).map (·.2)
      bind := if kind = kLaunch then s.bindOrd x.ctx (th.img.extractLsb' 256 16) else 0 }
  let s := s.commitEntries ent kind n acts ta ((taken.2.filter (fun p => late.contains p.1)).map (·.2))
  let s := s.updQueue th.queue (fun x => { x with
    expSerial := x.expSerial + 1, rp := x.rp + BitVec.ofNat 32 th.ringUnits, lastOrd := ent.ord
    cplReserved := if due then x.cplReserved + 1 else x.cplReserved })
  (s.restartTimer th.queue).freeThread t

/-- What an ADMIT of thread `t` waits for (R202, R205, R203): the header's Blaze reads, the commit lock, its queue turn. -/
def State.admitTrap (s : State) (t : BitVec 4) : Option Trap :=
  if !(s.thread t).headerDone then some .header
  else if s.uc.lockHolder.isSome && s.uc.lockHolder ≠ some t.toNat then some .lock
  else if s.earlierHeld t then some .order else none

/-- Conditions 4 to 6 of R203, after the header Blazes (R202): the status with which the packet is rejected. The test of the
operation kind (R217) stands last (DESIGN CHOICE, notes/assumptions/69). -/
def State.admitFails (s : State) (t : BitVec 4) (kind n acts : Nat) (ta : W64) : Option (BitVec 8) :=
  let th := s.thread t
  let x := s.queue th.queue
  if th.headerFail.isSome then th.headerFail
  else if th.stale then some 0x0A
  else if !x.kernel && decide (s.quotaOf x.ctx < n) then some 0x0D
  else if acts / 2 % 2 = 1 && (s.graph x.ctx (ta.extractLsb' 0 12)).claimed then some 0x04
  else if !admitKind kind x.kernel then some 0x04 else none

/-- ADMIT (R203, R202, R205): the conditions in order, after the HEADER and LOCK traps. -/
def State.admitPacket (s : State) (t : BitVec 4) (kind n acts : Nat) (ta : W64) : State :=
  let th := s.thread t
  match s.admitTrap t with
  | some c => s.park t c
  | none =>
    if !s.check1 th.queue th.pkt then s.discard t
    else if s.conflict t then s.restart t
    else match s.admitFails t kind n acts ta with
      | some st => s.rejectNow t st
      | none =>
        match s.bound th.queue n (th.objects.map (·.handle)) with
        | some why => s.abandon t why n (th.objects.map (·.handle))
        | none => s.commit t kind n acts ta

/-! ## Microwords -/

/-- The thread whose microword runs in this fc (R194): among threads that are not trapped, the one dispatched
earliest. -/
def State.chosen (s : State) : Option Nat :=
  (leastBy (fun (p : Nat × Thread) => p.2.seq)
    (s.uc.threads.filter (fun p => p.2.busy && p.2.trap.isNone && p.2.reject.isNone))).map (·.1)

/-- The microword at a thread's micro-PC. -/
def State.microword (s : State) (t : BitVec 4) : BitVec 40 := tget 0 s.uc.store (s.thread t).upc.toNat

/-- UOP of a microword (R197). -/
def uOp (w : BitVec 40) : Nat := bits w 39 34
/-- TD. -/
def uTd (w : BitVec 40) : Nat := bits w 33 29
/-- TA. -/
def uTa (w : BitVec 40) : Nat := bits w 28 24
/-- TB. -/
def uTb (w : BitVec 40) : Nat := bits w 23 19
/-- IMM24. -/
def uImm (w : BitVec 40) : W64 := BitVec.ofNat 64 (bits w 23 0)
/-- ARG8. -/
def uArg8 (w : BitVec 40) : Nat := bits w 23 16
/-- ARG16. -/
def uArg16 (w : BitVec 40) : Nat := bits w 15 0

/-- Forms of R197. -/
def uFormOk (w : BitVec 40) : Bool :=
  let u := uOp w
  if 1 ≤ u && u ≤ 7 then bits w 18 0 = 0
  else if u = 0x10 then bits w 11 0 = 0
  else if u = 0x18 then bits w 33 29 = 0 && bits w 19 14 = 0
  else true

/-- UOP values that R200 assigns. -/
def uAssigned (u : Nat) : Bool :=
  u ≤ 0x0A || u = 0x0B || u = 0x10 || u = 0x18 || (0x20 ≤ u && u ≤ 0x22) || u = 0x28 || (0x30 ≤ u && u ≤ 0x32)

/-- A micro-register read: T0 reads zero (R198). -/
def State.uReg (s : State) (t : BitVec 4) (i : Nat) : W64 := if i = 0 then 0 else (s.thread t).regs.toList.getD i 0

/-- A micro-register write: T0 ignores it, T24 to T31 are read-only (R198). -/
def State.uSet (s : State) (t : BitVec 4) (i : Nat) (v : W64) : State :=
  s.updThread t (fun x => { x with regs := if 0 < i && i < 24 then x.regs.setIfInBounds i v else x.regs })

/-- The micro-PC moves on to the next microword. -/
def State.uNext (s : State) (t : BitVec 4) : State := s.updThread t (fun x => { x with upc := x.upc + 1 })

/-- A control-store fault or a runaway (R208): the packet is rejected with MALFORMED, RUNAWAY is set, source UCODE is
raised when it was clear, and the fault is recorded. -/
def State.ucFault (s : State) (t : BitVec 4) : State :=
  let th := s.thread t
  let s := s.logHw 0x0006 0x04 (some (s.queue th.queue).ctx) (some th.queue) th.upc.toNat
  let s := (if s.uc.runaway then s else State.raise { s with uc := { s.uc with runaway := true } } 0x00D).noteFlag .runaway
  (s.updThread t (fun x => { x with reject := some 0x04 })).reject t 0x04

/-- The microword that the chosen thread would execute has an uncorrectable error (R208): CS_UNCORR is set, source UCODE is raised
when it was clear, and the control store's detector asks for a front-end reset with cause UCODE (R523). -/
def State.ucUncorr (s : State) : State :=
  let s := (if s.uc.csUncorr then s else State.raise { s with uc := { s.uc with csUncorr := true } } 0x00D).noteFlag .csUncorr
  s.ask kindFrontEnd 0x04

/-! ## Hand-over to a thread -/

/-- A thread as the header checker sets it up for a packet (R195, R198). -/
def State.newThread (s : State) (q : BitVec 14) (p : Packet) (ringUnits : Nat) : Thread :=
  let e := tget 0 s.uc.dispatch (pktOpcode p).toNat
  let inl := ringUnits = 0
  let fails := s.headerCheck p inl (s.queue q).kernel
  { busy := true, queue := q, pkt := p, regs := s.startRegs q p, img := headerImage p
    upc := e.extractLsb' 0 14, startPc := e.extractLsb' 0 14, seq := s.uc.seq, ringUnits
    passed2 := s.check2 p inl, reject := fails, early := fails.isSome, headerDone := (pktHeaderBlazes p).isEmpty }

/-- The packet goes to a free thread (R193), the lowest-numbered one (DESIGN CHOICE, notes/assumptions/29), and the header checker
sets it up; a packet that fails one of checks 2 to 4 is rejected at its queue turn without its routine (R195). -/
def State.handOver (s : State) (q : BitVec 14) (p : Packet) (ringUnits : Nat) : State :=
  match (List.range 16).find? (fun t => !(tget {} s.uc.threads t).busy) with
  | none => s
  | some t =>
    let th := s.newThread q p ringUnits
    let s := { s with uc := { s.uc with threads := tset {} s.uc.threads t th, seq := s.uc.seq + 1 } }
    match th.reject with
    | some st => s.reject (BitVec.ofNat 4 t) st
    | none => s

/-- THREAD_DISPATCH (R193, R195): the queue's next packet, an inline one sent on, the cell's when its serial is next, or
the ring's at the head of the units read, goes to a free thread; a packet that fails check 1 is discarded (R154). The packet
in the cell of a BLOCKED queue waits until the queue has resumed (R156), and one that R161 holds blocks its queue. A
dispatch entry read with an uncorrectable error hands nothing over: CS_UNCORR is set and a front-end reset forced (R208). -/
def execThreadDispatch (h : HandOver) (s : State) : Host.Outcome State Fault Refusal :=
  let q := h.queue
  let x := s.queue q
  let free := decide (s.uc.threads.countP (fun p => p.2.busy) < 16) && decide ((s.queueThreads q).length < 4)
  .next (if !s.admits || !s.uc.loaded || !free || decide (x.state ≠ .open_) then s
    else if h.uncorr then s.ucUncorr
    else match x.inl with
      | u :: rest =>
        let s := s.updQueue q (fun x => { x with inl := rest })
        if s.check1 q (unitPkt u) then s.handOver q (unitPkt u) 0 else s
      | [] =>
        match x.cell.filter (fun (u : W512) => decide (u.extractLsb' 32 32 = s.nextSerial q)) with
        | some u =>
          if x.fstate = .blocked then s
          else if s.cplMayGo q then
            let s := s.updQueue q (fun x => { x with cell := none })
            if s.check1 q (unitPkt u) then s.handOver q (unitPkt u) 0 else s
          else s.blockQueue q .cpl x.need
        | none =>
          let n := headUnits x.units
          match x.units with
          | [] => s
          | u :: _ =>
            if x.fstate = .fetching && n ≤ x.units.length && u.extractLsb' 32 32 = s.nextSerial q && s.cplMayGo q then
              let s := s.updQueue q (fun x => { x with
                units := x.units.drop n, turn := if x.turn = 15 then 0 else x.turn + 1
                fstate := if x.turn = 15 then .woken else .fetching })
              if s.check1 q (unitsPkt (x.units.take n)) then s.handOver q (unitsPkt (x.units.take n)) n
              else s.updQueue q (fun x => { x with rp := x.rp + BitVec.ofNat 32 n })
            else s)

/-! ## The microwords themselves -/

/-- One microword of thread `t` with UOP `u` (R194, R200): nothing unless the thread is the one chosen and its microword
has that UOP; a non-zero bit where the form requires zero is a control-store fault (R197). The effect is given the state
with the word counted. -/
def State.uop (s : State) (t : BitVec 4) (u : Nat) (f : State → BitVec 40 → State) : State :=
  let w := s.microword t
  if !s.feRuns || s.chosen ≠ some t.toNat || uOp w ≠ u || decide (4096 ≤ (s.thread t).count) then s
  else
    let s := s.updThread t (fun x => { x with count := x.count + 1 })
    if uFormOk w then f s w else s.ucFault t

/-- A two-operand microword of the Reg form (R200). -/
def State.uReg2 (s : State) (t : BitVec 4) (u : Nat) (f : W64 → W64 → W64) : State :=
  s.uop t u (fun s w => (s.uSet t (uTd w) (f (s.uReg t (uTa w)) (s.uReg t (uTb w)))).uNext t)

/-- A microword of the Imm form (R200). -/
def State.uImm1 (s : State) (t : BitVec 4) (u : Nat) (f : W64 → W64 → W64) : State :=
  s.uop t u (fun s w => (s.uSet t (uTd w) (f (s.uReg t (uTa w)) (uImm w))).uNext t)

/-- UOP_NOP. -/
def execUopNop (t : BitVec 4) (s : State) : Host.Outcome State Fault Refusal :=
  .next (s.uop t 0x00 (fun s _ => s.uNext t))
/-- UOP_ADD: TD ← TA + TB. -/
def execUopAdd (t : BitVec 4) (s : State) : Host.Outcome State Fault Refusal := .next (s.uReg2 t 0x01 (fun a b => a + b))
/-- UOP_SUB: TD ← TA − TB. -/
def execUopSub (t : BitVec 4) (s : State) : Host.Outcome State Fault Refusal := .next (s.uReg2 t 0x02 (fun a b => a - b))
/-- UOP_AND: TD ← TA & TB. -/
def execUopAnd (t : BitVec 4) (s : State) : Host.Outcome State Fault Refusal := .next (s.uReg2 t 0x03 (fun a b => a &&& b))
/-- UOP_OR: TD ← TA | TB. -/
def execUopOr (t : BitVec 4) (s : State) : Host.Outcome State Fault Refusal := .next (s.uReg2 t 0x04 (fun a b => a ||| b))
/-- UOP_XOR: TD ← TA ^ TB. -/
def execUopXor (t : BitVec 4) (s : State) : Host.Outcome State Fault Refusal := .next (s.uReg2 t 0x05 (fun a b => a ^^^ b))
/-- UOP_SHL: TD ← TA << TB[5:0]. -/
def execUopShl (t : BitVec 4) (s : State) : Host.Outcome State Fault Refusal :=
  .next (s.uReg2 t 0x06 (fun a b => a <<< (b.toNat % 64)))
/-- UOP_SHR: TD ← TA >> TB[5:0], logical. -/
def execUopShr (t : BitVec 4) (s : State) : Host.Outcome State Fault Refusal :=
  .next (s.uReg2 t 0x07 (fun a b => a >>> (b.toNat % 64)))
/-- UOP_ADDI: TD ← TA + IMM24. -/
def execUopAddi (t : BitVec 4) (s : State) : Host.Outcome State Fault Refusal := .next (s.uImm1 t 0x08 (fun a i => a + i))
/-- UOP_ANDI: TD ← TA & IMM24. -/
def execUopAndi (t : BitVec 4) (s : State) : Host.Outcome State Fault Refusal := .next (s.uImm1 t 0x09 (fun a i => a &&& i))
/-- UOP_SHLI: TD ← TA << IMM24[5:0]. -/
def execUopShli (t : BitVec 4) (s : State) : Host.Outcome State Fault Refusal :=
  .next (s.uImm1 t 0x0A (fun a i => a <<< (i.toNat % 64)))
/-- UOP_MOVI: TD ← IMM24. -/
def execUopMovi (t : BitVec 4) (s : State) : Host.Outcome State Fault Refusal := .next (s.uImm1 t 0x0B (fun _ i => i))

/-- UOP_FLD: TD ← packet bits POS + WM1 : POS, zero-extended; a field past bit 2,047 is a control-store fault. -/
def execUopFld (t : BitVec 4) (s : State) : Host.Outcome State Fault Refusal :=
  .next (s.uop t 0x10 (fun s w =>
    let pos := bits w 28 18
    let wm1 := bits w 17 12
    if 2047 < pos + wm1 then s.ucFault t
    else (s.uSet t (uTd w) (BitVec.ofNat 64 (pf (s.thread t).pkt (pos + wm1) pos))).uNext t))

/-- UOP_BR: micro-PC ← TARGET if COND holds for TA; an unassigned COND is a control-store fault (R199). -/
def execUopBr (t : BitVec 4) (s : State) : Host.Outcome State Fault Refusal :=
  .next (s.uop t 0x18 (fun s w =>
    match ucCond (bits w 23 20) (s.uReg t (uTa w)) with
    | none => s.ucFault t
    | some true => s.updThread t (fun x => { x with upc := w.extractLsb' 0 14 })
    | some false => s.uNext t))

/-- A context record as its two words lie in the directory (R104). -/
def Context.record (x : Context) : BitVec 128 :=
  (match x.state with | .free => (0 : BitVec 2) | .active => 1 | .faulted => 2) ++ BitVec.ofBool x.resident ++
  x.resSlot ++ x.partition ++ x.shareGroup ++ x.teardown ++ x.jobTag ++ x.descPfn ++ (0 : BitVec 10) ++ x.quota

/-- The word that DRD reads (R201): the context record as laid out; zero for a program never committed; a free value for
every record whose layout the spec does not give, and past the end of one. -/
def State.drdWord (s : State) (t : BitVec 4) (region : Nat) (key : W64) (off : Nat) : W64 :=
  let c := (s.queue (s.thread t).queue).ctx
  if region = 1 && off < 2 && bits key 19 0 < s.build.contexts then
    (s.ctx (key.extractLsb' 0 20)).record.extractLsb' (64 * off) 64
  else if region = 2 && tget 0 s.lnd.current (65536 * c.toNat + bits key 15 0) = 0 then 0
  else Config.deckRecord region key.toNat off s.free

/-- UOP_DRD: the record asked for arrives when the thread resumes from DECK_WAIT; an unassigned region code is a
control-store fault (R201). -/
def execUopDrd (t : BitVec 4) (s : State) : Host.Outcome State Fault Refusal :=
  .next (s.uop t 0x20 (fun s w =>
    let region := uArg8 w
    let key := s.uReg t (uTa w)
    let c := (s.queue (s.thread t).queue).ctx
    if region = 0 || 5 < region then s.ucFault t
    else
      let v := s.drdWord t region key (uArg16 w)
      let k := if region = 2 then 65536 * c.toNat + bits key 15 0 else 4096 * c.toNat + bits key 11 0
      let s := { s with free := s.free + 1 }
      ((s.updThread t (fun x => { x with
        upc := x.upc + 1, drd := some (uTd w, v)
        reads := if region = 2 || region = 3 then x.reads ++ [(region, k, s.lnd.commits)] else x.reads })).park t
          .deckWait)))

/-- UOP_OBJ: handle TA into handle-list entry ARG8[2:0], its object's length to TD (R202). -/
def execUopObj (t : BitVec 4) (s : State) : Host.Outcome State Fault Refusal :=
  .next (s.uop t 0x21 (fun s w =>
    (s.uNext t).objInto t ((s.uReg t (uTa w)).extractLsb' 0 32) (uArg8 w % 8) (uTd w)))

/-- UOP_BLZ: the Blaze TA[15:0] is tested against the context under R168; the thread waits for the Deck, and a Blaze that
does not allow the context, or at or above the count of Blazes, rejects the packet at its turn (R168, R398). -/
def execUopBlz (t : BitVec 4) (s : State) : Host.Outcome State Fault Refusal :=
  .next (s.uop t 0x22 (fun s w =>
    let n : BitVec 16 := (s.uReg t (uTa w)).extractLsb' 0 16
    let c := (s.queue (s.thread t).queue).ctx
    let st : Option (BitVec 8) := if s.build.blazes ≤ n.toNat then some 0x04
      else if s.blazeAdmits n c then none else some 0x03
    ((s.uNext t).updThread t (fun x => { x with reject := st })).park t .deckWait))

/-- UOP_STE: operation-image word ARG8[2:0] ← TA. -/
def execUopSte (t : BitVec 4) (s : State) : Host.Outcome State Fault Refusal :=
  .next (s.uop t 0x28 (fun s w =>
    (s.updThread t (fun x => { x with img := imgSet x.img (uArg8 w % 8) (s.uReg t (uTa w)) })).uNext t))

/-- UOP_ADMIT: the commit under R203, with ARG8[1:0] + 1 entries, the actions of ARG8[7:4], the kind ARG16[7:0] and
operand TA. -/
def execUopAdmit (t : BitVec 4) (s : State) : Host.Outcome State Fault Refusal :=
  .next (s.uop t 0x30 (fun s w =>
    s.admitPacket t (uArg16 w % 256) (uArg8 w % 4 + 1) (uArg8 w / 16) (s.uReg t (uTa w))))

/-- UOP_REJ: the packet is rejected with status ARG8. -/
def execUopRej (t : BitVec 4) (s : State) : Host.Outcome State Fault Refusal :=
  .next (s.uop t 0x31 (fun s w => s.reject t (BitVec.ofNat 8 (uArg8 w))))

/-- UOP_REJIF: as REJ, if condition ARG16[3:0] holds for TA. -/
def execUopRejif (t : BitVec 4) (s : State) : Host.Outcome State Fault Refusal :=
  .next (s.uop t 0x32 (fun s w =>
    match ucCond (uArg16 w % 16) (s.uReg t (uTa w)) with
    | none => s.ucFault t
    | some true => s.reject t (BitVec.ofNat 8 (uArg8 w))
    | some false => s.uNext t))

/-! ## Traps -/

/-- DECK_WAIT: the Deck data arrives; DRD's value reaches TD, and the thread resumes at the next microword, or a BLZ that
failed rejects the packet (R206). -/
def execDeckWait (t : BitVec 4) (s : State) : Host.Outcome State Fault Refusal :=
  let th := s.thread t
  .next (if th.trap = some .deckWait then
      let s := s.updThread t (fun x => { x with trap := none, drd := none })
      let s := match th.drd with | some (r, v) => s.uSet t r v | none => s
      match th.reject with | some st => s.reject t st | none => s
    else s)

/-- XLT_MISS: once the object-table entry has been read and cached the thread resumes; a failed read rejects the packet
with FAULT_ACCESS (R206, R572). -/
def execXltMiss (t : BitVec 4) (s : State) : Host.Outcome State Fault Refusal :=
  let th := s.thread t
  .next (if th.trap = some .xltMiss && th.miss.isNone then
      let s := s.updThread t (fun x => { x with trap := none })
      match th.reject with | some st => s.reject t st | none => s
    else s)

/-- ORDER: once no earlier packet of the queue is held, the thread retries its ADMIT or its rejection (R203, R206). -/
def execOrder (t : BitVec 4) (s : State) : Host.Outcome State Fault Refusal :=
  let th := s.thread t
  .next (if th.trap = some .order && !s.earlierHeld t then
      let s := s.updThread t (fun x => { x with trap := none })
      match th.reject with
      | some st => s.reject t st
      | none => s
    else s)

/-- HEADER: the header checker's Blaze reads have finished; the thread retries (R202, R206). -/
def execHeader (t : BitVec 4) (s : State) : Host.Outcome State Fault Refusal :=
  let th := s.thread t
  .next (if th.trap = some .header then
      let s := s.updThread t (fun x => { x with trap := none, headerDone := true, headerFail := s.headerBlazeFail t })
      match th.reject with | some st => s.reject t st | none => s
    else s)

/-- LOCK: the commit lock is released and the thread retries its ADMIT (R205, R206). -/
def execLock (t : BitVec 4) (s : State) : Host.Outcome State Fault Refusal :=
  .next (if (s.thread t).trap = some .lock && (s.uc.lockHolder.isNone || s.uc.lockHolder = some t.toNat)
    then s.updThread t (fun x => { x with trap := none }) else s)

/-- RUNAWAY (R208): a routine that has executed 4,096 microwords without a terminal one, or whose microword has an
unassigned UOP, is rejected with MALFORMED; a microword found with an uncorrectable error forces a front-end reset. -/
def execRunaway (t : BitVec 4) (uncorr : Bool) (s : State) : Host.Outcome State Fault Refusal :=
  let th := s.thread t
  .next (if !s.feRuns || s.chosen ≠ some t.toNat then s
    else if uncorr then s.ucUncorr
    else if 4096 ≤ th.count || !uAssigned (uOp (s.microword t)) then s.ucFault t else s)

/-- A packet of a microcode-defined opcode starts its routine at the dispatch entry's START with fresh registers (R171,
R203): the micro-operations then run one by one. -/
def execMicrocodeDefinedOpcode (t : BitVec 4) (s : State) : Host.Outcome State Fault Refusal :=
  let th := s.thread t
  .next (if th.busy && th.trap.isNone && th.reject.isNone && 0x80 ≤ (pktOpcode th.pkt).toNat && th.count = 0 then
      s.updThread t (fun x => { x with upc := x.startPc, regs := s.startRegs x.queue x.pkt, img := headerImage x.pkt })
    else s)

end Sys2Proof.Machine
end

