-- ==== Sys2Proof/Machine/Regs.lean ====
section
/-! DEFINITION. What the registers of the global window read (R553 to R561), and what they are read from: a dump carries them
too (R543). -/

namespace Sys2Proof.Machine

/-! ## What registers are read from -/

/-- FE_BLOCK_ID (R6). -/
def State.blockId (s : State) : W64 :=
  BitVec.ofNat 64 (s.build.clusters * 2 ^ 56 + s.build.haulEngines * 2 ^ 48 + s.build.deckMiB * 2 ^ 40
    + s.build.memPorts * 2 ^ 32 + 0x04020000)

/-- FWC_STATUS.STATE as encoded (R491). -/
def FwState.code : FwState → Nat
  | .idle => 0 | .verifying => 1 | .starting => 2 | .ready => 3 | .refused => 4 | .outOfService => 5

/-- FWC_STATUS (R491). -/
def State.fwStatus (s : State) : W64 :=
  (s.fwc.fwVersion.extractLsb' 16 48) ++ s.fwc.reason ++ BitVec.ofNat 8 s.fwc.state.code

/-- The service time (R536). -/
def State.serviceTime (s : State) : Nat := s.fwc.svcBase + s.fc

/-- The stamps that lie within the window that ends now (R536, R540). -/
def State.inWindow (s : State) : Nat :=
  s.fwc.stamps.countP (fun t => decide (s.serviceTime - t ≤ 2 ^ clamp 0x18 0x30 s.fwc.winLog2.toNat))

/-- Word `n` of a capability descriptor. -/
def capWord (l : List W32) (n : Nat) : Nat := (l.getD n 0).toNat

/-- STATE_BEATS. -/
def capBeats (l : List W32) : Nat := capWord l 2 % 2 ^ 19

/-- PWR_STATE value of a power state (R62, R520). -/
def PState.code : PState → Nat
  | .run => 0 | .idle => 1 | .sleep => 2 | .deep => 3 | .off => 4

/-- SAVE_STRIDE_KIB in bytes (R448). -/
def sliceStride (caps : List W32) : Nat := (192 + 64 * ((capBeats caps + 511) / 512)) * 1024

/-- CAUSE of CLS_SWITCH_COUNTS (R466). -/
def SwCause.code : SwCause → Nat
  | .none_ => 0 | .window => 1 | .evict => 2 | .change => 3 | .teardown => 4 | .quiet => 0

/-- Streams with a list. -/
def Launch.used (l : Launch) : List Nat := (List.range 4).filter (fun i => !(l.image.lists.getD i []).isEmpty)

/-- The chained launch of the active launch, or one that may start now, claims the shadow bank (R330). -/
def Cluster.chainClaims (x : Cluster) : Bool :=
  x.chainNext.isSome || (match x.active with | some l => l.chain.isSome | none => false)

/-- The cluster's control core runs (R477). -/
def State.coreRuns (s : State) (c : BitVec 6) : Bool := (s.proc (3 + c.toNat)).state = .running

/-- Leaving rotation for a self-test or a partition move (R251). -/
def Cluster.draining (x : Cluster) : Bool := x.moveTo.isSome || x.testing.isSome

/-- Inside a reservation window (R258). -/
def State.reserved (s : State) (c : BitVec 6) : Bool := s.yrd.windows.any (fun w => w.cluster = c.toNat && !w.inert)

/-- CLS_SCHED.STATE (R251). Which state is shown when several hold at once is the model's choice (DESIGN CHOICE,
notes/assumptions/69): the order below. -/
def State.schedState (s : State) (c : BitVec 6) : SchedState :=
  let x := s.cluster c
  if !x.inService then .out
  else if s.reserved c then .reserved
  else if !s.coreRuns c then .coreRestart
  else if x.draining then .draining
  else if x.switch.isSome then .switching
  else if x.active.isSome then .running
  else .idle

/-- The current epoch of a resident context. -/
def State.epoch (s : State) (k : BitVec 20) : BitVec 2 :=
  match s.residentSlot k with | some r => (s.resSlot r).epoch | none => 0

/-- Accesses in flight under an epoch. -/
def State.epochCount (s : State) (k : BitVec 20) (e : BitVec 2) : Nat :=
  match s.residentSlot k with | some r => nth (s.resSlot r).inFlight e.toNat | none => 0

/-- Chunk buffers that a chunk of the stream takes (R360). -/
def State.chunkBuffers (s : State) (x : Stream) : Nat :=
  let op := (s.streamOp x).op
  if op = opConvert || op = opReduce then 2 else if op = opPrefetch then 0 else 1

/-- Chunk buffers of an engine in use (R349). -/
def State.buffersUsed (s : State) (engine : Nat) : Nat :=
  ((s.hau.streams.filter (fun p => p.1 / 64 = engine)).map (fun p => p.2.chunks.length * s.chunkBuffers p.2)).sum

/-- An unretired operation names region `r` (R400). -/
def State.regionBusy (s : State) (r : Nat) : Bool :=
  let names (h : HaulOp) : Bool := (h.hasSrc && h.srcDeck && h.srcH.toNat = r) || (h.hasDst && h.dstDeck && h.dstH.toNat = r)
  s.lnd.entries.any (fun p => if p.2.kind = kHaul then names (s.haulResolved p.2.img)
    else if p.2.nodeHaul then names (haulOf (p.2.pkt.extractLsb' 512 512)) else false)

/-- Free units of the graph store (R282, R296). -/
def State.freeUnits (s : State) : Nat := s.build.graphUnits - (s.lnd.graphs.map (·.2.footprint)).sum

/-! ## What registers read -/

/-- A register from its fields: value and low bit of each. -/
def packW (l : List (Nat × Nat)) : W64 := BitVec.ofNat 64 ((l.map (fun p => p.1 * 2 ^ p.2)).sum)

/-- FE_ADM_STATUS (R158). -/
def State.admStatus (s : State) : W64 :=
  let user := s.xlt.refs.countP (fun p => !p.2.kernelOnly)
  packW [(b2n (decide (s.build.landingEntries ≤ s.lnd.entries.length)), 0),
         (b2n (decide (s.build.landingEntries - kernelReserve ≤ s.userHeld)), 1),
         (b2n (decide (s.build.refRecords ≤ s.refsHeld) || decide (s.build.refRecords - kernelReserve ≤ user)), 2),
         (s.queues.countP (fun p => p.2.fstate = .blocked), 32)]

/-- FE_UCODE_VERSION (R212). -/
def Uc.versionReg (u : Uc) : W64 :=
  packW [(u.freeWords.toNat, 0), (u.patchId.toNat, 16), (u.build.toNat, 32), (u.minor.toNat, 48), (u.major.toNat, 56)]

/-- FE_UCODE_STATUS (R213). -/
def Uc.statusReg (u : Uc) : W64 :=
  packW [(b2n u.loaded, 0), (b2n u.patchPage.isSome, 1), (b2n u.runaway, 2), (b2n u.csUncorr, 3),
         (u.threads.countP (fun p => p.2.busy), 16), (u.restarts.toNat, 32)]

/-- FE_UCODE_TRAPS (R214). -/
def Uc.trapsReg (u : Uc) : W64 := packW [(u.trapDeck.toNat, 0), (u.trapOrder.toNat, 32), (u.trapXlt.toNat, 48)]

/-- LND_STATUS (R242). -/
def State.lndStatus (s : State) : W64 :=
  packW [(b2n (!s.lnd.fired.isEmpty), 0), (s.lnd.entries.countP (fun p => p.2.state = .ready), 10), (s.userHeld, 28),
         (s.lnd.entries.length, 46)]

/-- LND_GRAPH_STATUS (R296). -/
def State.graphStatus (s : State) : W64 :=
  packW [((s.lnd.graphs.map (·.2.versions.length)).sum, 21), (s.lnd.graphs.countP (fun p => p.2.holds), 35), (s.freeUnits, 48)]

/-- LND_PROG_STATUS (R347). -/
def Lnd.progStatus (l : Lnd) : W64 :=
  packW [(l.rejects.toNat, 0), (l.entries.countP (fun p => p.2.kind = kProgramLoad && p.2.state = .issued), 24), (l.freePages.toNat, 40)]

/-- YRD_RT_STATUS (R263). -/
def Yrd.rtStatus (y : Yrd) : W64 :=
  let t : RtTable := y.table.getD {}
  packW [(b2n (!t.entries.isEmpty), 0), (b2n y.pendingTable.isSome, 1), (y.refuse.toNat, 31), (t.entries.length, 35), (t.id.toNat, 48)]

/-- YRD_RT_FRAME (R264). -/
def Yrd.rtFrame (y : Yrd) : W64 :=
  let t : RtTable := y.table.getD {}
  packW [(t.majorFc, 0), (t.minors, 28)]

/-- Partition `p` holds a cluster (R274, R277). -/
def State.partHolds (s : State) (p : Nat) : Bool :=
  (List.range s.build.clusters).any (fun c => (s.cluster (BitVec.ofNat 6 c)).partition.toNat = p)

/-- PORTS of YRD_PART_CFGp (R277). -/
def State.partPorts (s : State) (p : Nat) : Nat :=
  if s.build.clusters = 16 then (s.part (BitVec.ofNat 3 p)).ports.toNat % 2 ^ s.build.memPorts
  else if s.partHolds p then 2 ^ s.build.memPorts - 1 else 0

/-- YRD_PART_CFGp (R277). -/
def State.partCfg (s : State) (p : Nat) : W64 :=
  let x := s.part (BitVec.ofNat 3 p)
  packW [(b2n x.borrow, 0), (x.burst.toNat, 8), (x.wrShare.toNat, 16), (x.rdShare.toNat, 24),
         (if s.build.clusters = 16 then x.ways.toNat else if s.partHolds p then 0xFFFF else 0, 40), (s.partPorts p, 56)]

/-- YRD_SG_CFGg (R271). -/
def ShareGroup.cfg (g : ShareGroup) : W64 :=
  packW [(g.weight.toNat, 0), (g.partition.toNat, 16), ((BitVec.ofInt 32 g.deficit).toNat, 32)]

/-- HAU_STATUS (R370). -/
def State.hauStatus (s : State) : W64 :=
  packW [(s.build.haulEngines, 16), (s.hau.parked.length, 24), (s.hau.streams.countP (fun p => p.2.stalled), 42),
         (s.hau.streams.length, 53)]

/-- HAU_FMT_FLAGS (R389). -/
def Hau.flagsReg (h : Hau) : W64 :=
  packW [(b2n h.flushed, 0), (b2n h.overflow, 1), (h.lastEngine.toNat, 40), (h.lastContext.toNat, 44)]

/-- HAU_ENG_STATUSe (R373). -/
def State.engStatus (s : State) (e : Nat) : W64 :=
  let l := s.hau.streams.filter (fun p => p.1 / 64 = e)
  let out (w : Bool) : Nat := s.mp.txns.countP (fun t => t.source.toNat = e && t.write == w)
  packW [((tget 0 s.hau.lockWaits e).toNat, 11), (min 128 (out true), 27), (min 128 (out false), 35), (112 - s.buffersUsed e, 43),
         (l.countP (fun p => p.2.stalled) % 128, 50), (l.length % 128, 57)]

/-- HAU_MP_CFG (R49). -/
def Mp.cfgReg (m : Mp) : W64 := packW [(m.retryLimit.toNat, 0), (m.drainLog2.toNat, 24)]

/-- DCK_STATUS (R408). -/
def State.dckStatus (s : State) : W64 :=
  packW [(b2n s.dck.ready, 0), (b2n s.dck.scrubbing, 1), ((List.range 128).countP (fun k => s.dck.failed.getLsbD k), 40),
         (s.dck.open_.toNat % 2 ^ s.build.deckGroups, 48)]

/-- DCK_SWR_CFGr (R400). -/
def State.swrCfg (s : State) (r : Nat) : W64 :=
  let x := tget {} s.dck.regions r
  packW [(x.ctx.toNat, 0), (b2n x.zeroing, 61), (b2n (s.regionBusy r), 62), (b2n x.valid, 63)]

/-- XLT_FLT_STATUS (R443). -/
def Xlt.statusReg (x : Xlt) : W64 :=
  packW [(b2n x.overflow, 1), (b2n x.ringErr, 2), (x.adviceDropped.toNat, 30), (x.held.countP (fun r => r.unposted), 46)]

/-- A TLB_INVALIDATE is held READY (R431, R444). -/
def State.invalHeld (s : State) (x : Entry) : Bool :=
  let k : BitVec 20 := x.pkt.extractLsb' 320 20
  x.kind = 0x25 && x.state = .ready && s.epochCount k (s.epoch k + 1) ≠ 0

/-- XLT_INV_STATUS (R444). -/
def State.invStatus (s : State) : W64 :=
  packW [(s.xlt.invDone.toNat, 0), (s.lnd.entries.countP (fun p => s.invalHeld p.2), 32),
         (s.lnd.entries.countP (fun p => p.2.kind = 0x25 && p.2.state = .issued), 48)]

/-- IRQ_VEC_CTRLv (R510). -/
def Vec.ctrlReg (v : Vec) : W64 :=
  packW [(b2n v.en, 0), ((match v.state with | .idle => 0 | .sent => 1 | .serving => 2), 2), (b2n v.msgOut, 4),
         ((v.held.getD 0x3FF).toNat, 16)]

/-- IRQ_ROUTEs (R497). -/
def Route.reg (r : Route) : W64 :=
  packW [(r.cluster.toNat, 0), (b2n r.clsEn, 7), (b2n r.sched, 8), (b2n r.pwr, 9), (b2n r.sec, 10), (r.host.toNat, 56)]

/-- PHASE of PWR_STATUS (R520). -/
def PPhase.code : PPhase → Nat
  | .none_ => 0 | .polling => 1 | .carrying => 2 | .handshake => 3 | .exiting => 4

/-- PWR_STATUS (R520). -/
def Pwr.statusReg (p : Pwr) : W64 :=
  packW [(p.state.code, 0), (p.phase.code, 8), (p.auto.toNat, 12), (p.sleepLog2.toNat, 16), (p.deepLog2.toNat, 24)]

/-- PWR_COUNTS (R522). -/
def Pwr.countsReg (p : Pwr) : W64 :=
  packW [(p.offEntries.toNat, 0), (p.replayed.toNat, 16), (p.sleepEntries.toNat, 32), (p.deepEntries.toNat, 48)]

/-- FWC_PROC_STATUSn (R492). -/
def Proc.statusReg (p : Proc) : W64 :=
  packW [((match p.state with | .off => 0 | .running => 1 | .restarting => 2), 0), (p.contain.toNat, 10), (p.cause.toNat, 12),
         (p.restarts.toNat, 16), (p.restartFc.toNat, 32)]

/-- SEC_PROC_CFGn (R494). -/
def Proc.cfgReg (p : Proc) : W64 := packW [(p.contain.toNat, 0), (p.wdogLog2.toNat, 8)]

/-- FWC_RCV_STATUS (R539). -/
def State.rcvReg (s : State) : W64 :=
  packW [(s.fwc.rcvCluster.toNat, 0), (b2n s.fwc.feBusy, 7), (s.clusters.countP (fun p => p.2.recovery.isSome), 12),
         (s.fwc.rcvKind.toNat, 20), (s.fwc.rcvCause.toNat, 24), (s.fwc.rcvStartFc.toNat, 32)]

/-- FWC_DUMP_STATUS (R544). -/
def Fwc.dumpReg (f : Fwc) : W64 :=
  packW [(b2n f.armed, 0), (b2n f.dumpComplete, 1), (f.dumpCause.toNat, 40), (f.dumpSeq.toNat, 48)]

/-- Link states as encoded (R102). -/
def LinkState.code : LinkState → Nat
  | .down => 0 | .waitReady => 1 | .caps => 2 | .held => 3 | .active => 4 | .saving => 5 | .restoring => 6 | .clearing => 7
  | .loopback => 8 | .out => 9

/-- CLS_ELINK_STATUS (R102). -/
def Cluster.elinkReg (x : Cluster) : W64 :=
  packW [(b2n x.capOk, 0), (x.link.code, 16), (x.epoch.toNat, 24), (x.dropLate.toNat, 32)]

/-- CLS_ELINK_ERR (R103). -/
def Cluster.errReg (x : Cluster) : W64 := match x.err with | none => 0 | some e => packW [(1, 0), (e.toNat, 8)]

/-- Scheduling states as encoded (R251). -/
def SchedState.code : SchedState → Nat
  | .out => 0 | .idle => 1 | .running => 2 | .switching => 3 | .reserved => 4 | .draining => 5 | .coreRestart => 6

/-- CLS_SCHED (R251). -/
def State.schedReg (s : State) (c : BitVec 6) : W64 :=
  let x := s.cluster c
  packW [((s.schedState c).code, 0), ((x.ctx.getD 0).toNat, 12), (x.deque.length, 32), (x.steals.toNat, 48)]

/-- CLS_SEQ_STATUS (R332). -/
def Cluster.seqReg (x : Cluster) : W64 :=
  let replay := match x.active with
    | some l =>
      (match l.used.map (fun i => (l.streams.getD i {}).replay) with
       | n :: rest => rest.foldl min n
       | [] => 0)
    | none => 0
  packW [(b2n x.bank, 0), (match x.active with | some l => b2n l.image.lane | none => 0, 1), (b2n (x.shadow.isSome || x.chainClaims), 2),
         (match x.active with | some l => b2n l.chain.isSome | none => 0, 3), (b2n x.preempt, 4),
         (if x.active.isSome then x.stall.toNat else 0, 28), (replay, 32)]

/-- CLS_SWITCH_COUNTS (R466). -/
def Cluster.switchReg (x : Cluster) : W64 :=
  packW [(x.swCause.code, 4), (x.saves.toNat, 16), (x.restores.toNat, 32), (x.clears.toNat, 48)]

/-- A register of cluster `c`'s CLS page (R560). -/
def State.clsRead (s : State) (c : BitVec 6) (off : Nat) : W64 :=
  let x := s.cluster c
  match off with
  | 0x100 => x.elinkReg
  | 0x108 => x.errReg
  | 0x110 => s.schedReg c
  | 0x118 => x.seqReg
  | 0x120 => packW [(x.sigDenied.toNat, 0), (x.bundles.toNat, 32)]
  | 0x128 => x.switchTime
  | 0x130 => x.switchReg
  | 0x138 => packW [(x.wdogLog2.toNat, 0)]
  | 0x140 => x.hangLog
  | _ => 0

/-- Block start has accepted a capability descriptor (R100): from then on the Cruise block shows it. -/
def State.cruiseUp (s : State) : Bool := !s.fwc.caps.isEmpty

/-- A register of the Cruise block, at an offset within it (R126 to R133). -/
def State.crzRead (s : State) (off : Nat) : W64 :=
  let b := s.build
  let word (i : Nat) : W32 := if i < 63 then s.fwc.caps.getD i 0 else 0
  if off < 0x100 then word (off / 4 + 1) ++ word (off / 4)
  else match off with
    | 0x100 => packW [(64, 0), (b.blazes, 8), (b.contexts, 25), (b.landingEntries, 46)]
    | 0x108 => packW [(0x30, 0), (kernelReserve, 7), (0x4000, 18), (0x1000, 36), (b.queueSlots, 49)]
    | 0x110 => if s.cruiseUp then packW [(sliceStride s.fwc.caps / 1024, 0)] else 0
    | 0x118 => packW ((List.range b.clusters).map (fun c => (b2n (s.cluster (BitVec.ofNat 6 c)).inService, c)))
    | 0x180 => if s.cruiseUp then packW ((List.range 8).map (fun p => (s.partPorts p, 8 * p))) else 0
    | 0x1F8 => s.crzGen
    | _ =>
      if 0x140 ≤ off && off < 0x180 && s.cruiseUp then
        packW ((List.range b.clusters).map (fun c => (b2n (decide ((s.cluster (BitVec.ofNat 6 c)).partition.toNat = (off - 0x140) / 8)), c)))
      else 0

/-- A register of the FE and LND blocks (R560). -/
def State.feRead (s : State) (off : Nat) : W64 :=
  match off with
  | 0x00000 => s.blockId
  | 0x00008 => s.fe.cycles
  | 0x00100 => s.admStatus
  | 0x00200 => s.uc.versionReg
  | 0x00208 => s.uc.statusReg
  | 0x00210 => s.uc.trapsReg
  | 0x0F000 => packW [(b2n s.fe.fnEnable, 0), (s.fe.chipNum.toNat, 16)]
  | 0x0F008 => packW [(s.fe.rxDiscarded.toNat, 0), (s.fe.rxAccepted.toNat, 16), (s.fe.txSent.toNat, 32)]
  | 0x10000 => s.lndStatus
  | 0x10008 => s.lnd.probeLog
  | 0x10100 => packW [(s.lnd.staleCount.toNat, 0), (s.lnd.staleLast.toNat, 48)]
  | 0x10108 => s.lnd.errLog
  | 0x10110 => packW [(s.lnd.dropError.toNat, 0), (s.lnd.dropUnconf.toNat, 32)]
  | 0x10200 => s.graphStatus
  | 0x10208 => packW [(s.lnd.noRoom.toNat, 0), (s.lnd.versionLimits.toNat, 16), (s.lnd.nodesAdmitted.toNat, 32)]
  | 0x10300 => packW [(s.lnd.backPages.toNat, 0), (s.lnd.backPfn.toNat, 24)]
  | 0x10308 => s.lnd.progStatus
  | 0x10310 => s.lnd.progReject
  | _ => 0

/-- A register of the YRD block (R560). -/
def State.yrdRead (s : State) (off : Nat) : W64 :=
  let y := s.yrd
  match off with
  | 0x20000 => y.rtStatus
  | 0x20008 => y.rtFrame
  | 0x20010 => y.base
  | 0x20018 => packW [(y.late.toNat, 0), (y.released.toNat, 32)]
  | 0x20020 => packW [(y.untabled.toNat, 0), (y.overrun.toNat, 16), (y.missed.toNat, 32)]
  | 0x20028 => y.lateLog
  | 0x20100 => packW [(y.quantumFc.toNat, 0), (y.capFc.toNat, 32)]
  | _ =>
    if 0x20200 ≤ off && off < 0x20240 then s.partCfg ((off - 0x20200) / 8)
    else if 0x21000 ≤ off && off < 0x21800 then (tget {} y.groups ((off - 0x21000) / 8)).cfg
    else if 0x21800 ≤ off && off < 0x22000 then (tget {} y.groups ((off - 0x21800) / 8)).time
    else 0

/-- A register of the HAU, DCK and XLT blocks (R560). -/
def State.hauRead (s : State) (off : Nat) : W64 :=
  match off with
  | 0x30000 => s.hauStatus
  | 0x30008 => packW [(s.hau.stalls.toNat, 0), (s.hau.retired.toNat, 32)]
  | 0x30010 => s.hau.errLog
  | 0x30018 => s.hau.flagsReg
  | 0x3F000 => s.mp.cfgReg
  | 0x3F008 => packW [(b2n s.mp.epoch, 0), (s.mp.hung.toNat, 16)]
  | 0x3F010 => packW [(s.mp.late.toNat, 0), (s.mp.stray.toNat, 32)]
  | 0x40000 => s.dckStatus
  | 0x40008 => packW [(s.dck.failThresh.toNat, 0), (s.dck.passLog2.toNat, 24)]
  | 0x40010 => s.dck.lateLog
  | 0x40018 => s.dck.errLog
  | 0x40020 => s.dck.failed.extractLsb' 0 64
  | 0x40028 => s.dck.failed.extractLsb' 64 64
  | 0x50000 => packW [(s.xlt.ringLog2.toNat, 0), (s.xlt.ringPfn.toNat, 24)]
  | 0x50008 => packW [(s.xlt.wp.toNat, 0), (s.xlt.rp.toNat, 32)]
  | 0x50010 => s.xlt.statusReg
  | 0x50018 => s.invStatus
  | 0x50020 => packW [(s.xlt.walkReads.toNat, 0), (s.xlt.leafMisses.toNat, 32)]
  | _ =>
    if 0x30100 ≤ off && off < 0x30100 + 8 * s.build.haulEngines then s.engStatus ((off - 0x30100) / 8)
    else if 0x40100 ≤ off && off < 0x40100 + 8 * s.build.swRegions then s.swrCfg ((off - 0x40100) / 8)
    else 0

/-- A register of the IRQ block (R508 to R511), a claim apart. -/
def State.irqRead (s : State) (off : Nat) : W64 :=
  let q := s.irq
  if off < 0x80 then q.pending.extractLsb' (8 * off) 64
  else if off < 0x100 then q.enable.extractLsb' (8 * (off - 0x80)) 64
  else if off < 0x180 then q.inService.extractLsb' (8 * (off - 0x100)) 64
  else if 0x200 ≤ off && off < 0x280 then
    let v := s.vec (BitVec.ofNat 3 ((off - 0x200) / 16))
    if off % 16 = 0 then packW [(v.addr.toNat, 2)] else v.ctrlReg
  else if 0x2000 ≤ off && off < 0x3FF8 then (tget {} q.routes ((off - 0x2000) / 8)).reg
  else 0

/-- A register of the PWR, SEC, FWC and LGR blocks (R560). -/
def State.fwcRead (s : State) (off : Nat) : W64 :=
  let f := s.fwc
  let procs := 8 * (s.build.clusters + 3)
  match off with
  | 0x70000 => s.pwr.statusReg
  | 0x70008 => s.pwr.refuseLog
  | 0x70010 => s.pwr.countsReg
  | 0x80000 => packW [(b2n f.locked, 0), (b2n f.keyProvisioned, 1)]
  | 0x90000 => packW [(f.bundlePages.toNat, 0), (f.bundlePfn.toNat, 24)]
  | 0x90008 => packW [(b2n f.startBit, 0), (f.drvIf.toNat, 16)]
  | 0x90010 => s.fwStatus
  | 0x90040 => packW [(f.logLog2.toNat, 0), (f.logPfn.toNat, 24)]
  | 0x90048 => packW [(f.logWp.toNat, 0), (f.logRp.toNat, 32)]
  | 0x90050 => packW [(f.lostError.toNat, 0), (f.lostOther.toNat, 32)]
  | 0x90058 => packW [(f.trace.toNat, 0)]
  | 0x90400 => packW [(b2n f.resetFe, 0), (b2n f.resetWhole, 1)]
  | 0x90408 => s.rcvReg
  | 0x90410 => packW [(f.limit.toNat, 0), (f.winLog2.toNat, 8)]
  | 0x90418 => packW [(s.inWindow, 0), (f.escTotal.toNat, 48)]
  | 0x90420 => packW [(f.dumpPages.toNat, 0), (f.dumpPfn.toNat, 24)]
  | 0x90428 => f.dumpReg
  | 0xA0800 => s.lgr.restored.extractLsb' 0 64
  | 0xA0808 => s.lgr.restored.extractLsb' 64 64
  | 0xA0810 => s.lgr.wallclock
  | 0xA0818 => s.lgr.wallclockFc
  | 0xA0820 => packW [(s.lgr.wp.toNat, 0)]
  | _ =>
    if 0x80100 ≤ off && off < 0x80100 + procs then (s.proc ((off - 0x80100) / 8)).cfgReg
    else if 0x90100 ≤ off && off < 0x90100 + procs then (s.proc ((off - 0x90100) / 8)).statusReg
    else if 0xA0000 ≤ off && off < 0xA0400 then tget 0 s.lgr.counts ((off - 0xA0000) / 8)
    else if 0xA0400 ≤ off && off < 0xA0800 then tget 0 s.lgr.snaps ((off - 0xA0400) / 8)
    else if 0xA1000 ≤ off && off < 0xA2000 then
      (tget 0 s.lgr.records ((off - 0xA1000) / 32)).extractLsb' (8 * (off % 32)) 64
    else 0

/-- The 8 bytes at an 8-byte-aligned offset of the global window (R555, R560); reserved offsets read zero (R556), and while
TEST_MODE is 1 the DBG block shows production-test views that the spec does not give (R557). -/
def State.regRead (s : State) (off : Nat) : W64 :=
  let blk := off / 0x10000
  if blk = 0 || blk = 1 then s.feRead off
  else if blk = 2 then s.yrdRead off
  else if blk = 3 || blk = 4 || blk = 5 then s.hauRead off
  else if blk = 6 then s.irqRead (off - 0x60000)
  else if blk = 7 || blk = 8 || blk = 9 || blk = 10 then s.fwcRead off
  else if blk = 11 then
    let c := (off - 0xB0000) / 0x400
    if c < s.build.clusters then s.clsRead (BitVec.ofNat 6 c) (off % 0x400) else 0
  else if blk = 12 && s.pins.testMode then Config.freeWord s.free
  else if blk = 13 then s.crzRead (off - 0xD0000)
  else 0

end Sys2Proof.Machine
end

