-- ==== Sys2Proof/Machine/Reset.lean ====
section
/-! DEFINITION. Operations shared by every reset and recovery: requests for resets (R523), escalation (R536), going out of
service (R537), and the crash dump (R541 to R543). -/

namespace Sys2Proof.Machine

/-- FWC_RCV_STATUS of an event that begins (R539), and its error-log record RESET for the three resets (R546). -/
def State.rcvStatus (s : State) (kind : BitVec 4) (cause : BitVec 8) (cluster : BitVec 6) : State :=
  { s with fwc := { s.fwc with
      rcvStartFc := s.fe.cycles.extractLsb' 0 32, rcvCause := cause, rcvKind := kind
      rcvCluster := if kind = kindCluster then cluster else s.fwc.rcvCluster } }

/-- The error-log record RESET of R546. -/
def State.logReset (s : State) (kind : BitVec 4) (cause : BitVec 8) (cluster : BitVec 6) : State :=
  s.logHw 0x000C 0x00 none none (kind.toNat + cause.toNat * 2 ^ 8 + cluster.toNat * 2 ^ 16)

/-! ## Escalation (R536) -/

/-- Counting one more event would reach LIMIT within the window (R536). -/
def State.escalates (s : State) : Bool :=
  decide (s.fwc.limit ≠ 0) && decide (s.fwc.limit.toNat ≤ s.inWindow + 1)

/-- A counted event is stamped; the last 15 stamps are kept (R536). -/
def State.stamp (s : State) : State :=
  { s with fwc := { s.fwc with
      stamps := (s.serviceTime :: s.fwc.stamps).take 15, escTotal := s.fwc.escTotal + 1 } }

/-! ## Crash dump (R541 to R543) -/

/-- The sections of a dump: ID and length in bytes for the build (R543, R398, R467). -/
def Build.dumpSections (b : Build) : List (Nat × Nat) :=
  let k := 1024
  let d (big small : Nat) := if b.deckMiB = 64 then big * k * k else small * k * k
  [(1, 8 * k), (2, k * k), (3, d 2 1), (4, d 2 1), (5, d 8 4), (6, d 16 4), (7, d 2 1), (8, d 4 2),
   (9, (1248 + 192 * b.clusters) * k)]

/-- The place of each section in the area: ID, offset, length written and STATUS before any write (R542, R543). -/
def State.dumpPlan (s : State) : List (Nat × Nat × Nat × BitVec 8) :=
  let area := 4096 * s.fwc.dumpPages.toNat
  (s.build.dumpSections.foldl (fun (a : Nat × List (Nat × Nat × Nat × BitVec 8)) x =>
    let off := a.1
    let len := min x.2 (area - off)
    let st : BitVec 8 := if len = 0 then 3 else if len < x.2 then 2 else 0
    (off + x.2, a.2 ++ [(x.1, off, len, st)])) (0x1000, [])).2

/-- The physical address of an offset in the dump area. -/
def State.dumpPa (s : State) (off : Nat) : Nat := 4096 * s.fwc.dumpPfn.toNat + off

/-- A burst to the address would go to a port in HAU_MP_STATUS.HUNG (R541). -/
def State.portHung (s : State) (pa : Nat) : Bool := s.mp.hung.getLsbD (s.route none pa / 8)

/-- The 4 KiB dump header (R542). -/
def State.dumpHeader (s : State) (complete : Bool) (dir : List (Nat × BitVec 8)) : List Byte :=
  let entry (x : Nat × Nat × Nat × BitVec 8) : List Byte :=
    let st := (dir.find? (fun d => d.1 = x.1)).map (·.2)
    toBytes 4 x.2.1 ++ toBytes 4 x.2.2.1 ++ [BitVec.ofNat 8 x.1, st.getD x.2.2.2] ++ List.replicate 6 0
  let b := toBytes 4 0x504D5544 ++ toBytes 2 1 ++ [s.fwc.dumpCause, BitVec.ofNat 8 (b2n complete)] ++
    toBytes 8 s.fwc.dumpFc.toNat ++ toBytes 8 s.lgr.wallclock.toNat ++ toBytes 8 s.lgr.wallclockFc.toNat ++
    toBytes 8 s.blockId.toNat ++ toBytes 8 s.fwStatus.toNat ++ toBytes 2 s.fwc.dumpSeq.toNat ++
    toBytes 2 s.build.dumpSections.length ++ List.replicate 12 0 ++ (s.dumpPlan.map entry).flatten
  b ++ List.replicate (4096 - b.length) 0

/-- The LOG section: the error log, then the ledger counters, then zero (R543, R545, R550). -/
def State.dumpLog (s : State) : List Byte :=
  ((List.range 128).map (fun k => toBytes 32 (tget 0 s.lgr.records k).toNat)).flatten ++
  ((List.range 128).map (fun k => toBytes 8 (tget 0 s.lgr.counts k).toNat)).flatten ++ List.replicate 3072 0

/-- The region of the Deck that a section of the dump copies (R543, R397). -/
def dumpRegion : Nat → Option Nat
  | 3 => some 3 | 4 => some 2 | 5 => some 1 | 6 => some 0 | 7 => some 7 | 8 => some 8 | _ => none

/-- WPOISON of `n` bytes at an offset of a section: those of lost Deck rows (R541, R43). -/
def State.dumpPoison (s : State) (k off n : Nat) : List Bool :=
  match dumpRegion k with
  | none => []
  | some r =>
    let base := 1024 * (s.build.regionSizes.take r).sum + off
    let rows := (List.range ((n + 511) / 512)).map (fun i => s.dck.lostRows.contains (s.build.deckPlace (base + 512 * i)))
    if rows.contains true then (rows.flatMap (fun b => List.replicate 512 b)).take n else []

/-- One burst of the dump, of at most one page, with the attributes of R41 (R35). -/
def State.dumpWrite (s : State) (k pa len : Nat) (data : List Byte) (poison : List Bool) : State :=
  s.issueTxn { write := true, ifc := s.route none pa, epoch := s.mp.epoch, source := srcDump, slot := 0, pa, len
               prot := 3, cache := 3, qos := 8, retries := 0, data, poison, purpose := .dump k, fc := s.fc }

/-- Section `k` is PARTIAL, unless it is cut short already (R541). -/
def State.dumpPartial (s : State) (k : Nat) : State :=
  { s with fwc := { s.fwc with dumping := s.fwc.dumping.map (fun d =>
      d.map (fun e => if e.1 = k && e.2 = 0 then (e.1, 1) else e)) } }

/-- The bytes of page `p` of a section, `n` of them, that the spec gives: those of LOG, and of REGISTERS, the global window as
reads return it (R543). The others are not listed (notes/assumptions/17). -/
def State.dumpData (s : State) (k p n : Nat) : List Byte :=
  match k with
  | 1 => slice s.dumpLog (4096 * p) n
  | 2 => ((List.range 512).flatMap (fun i => toBytes 8 (s.regRead (4096 * p + 8 * i)).toNat)).take n
  | _ => []

/-- Page `p` of a section, of which `len` bytes fit from offset `off` of the area: not issued if R36 routes it to a hung port,
and with WPOISON on the bytes of lost rows; each makes the section PARTIAL (R541). -/
def State.dumpPage (s : State) (k off len p : Nat) : State :=
  let pa := s.dumpPa (off + 4096 * p)
  let n := min 4096 (len - 4096 * p)
  if s.portHung pa then s.dumpPartial k
  else
    let poison := s.dumpPoison k (4096 * p) n
    let s := if poison.isEmpty then s else s.dumpPartial k
    s.dumpWrite k pa n (s.dumpData k p n) poison

/-- The sections go out in order, page by page (R541). -/
def State.dumpBody (s : State) : State :=
  s.each s.dumpPlan (fun (s : State) (x : Nat × Nat × Nat × BitVec 8) =>
    s.each (List.range ((x.2.2.1 + 4095) / 4096)) (fun s p => s.dumpPage x.1 x.2.1 x.2.2.1 p))

/-- Dump writes that have not been answered. -/
def State.dumpOut (s : State) : Bool :=
  (s.mp.txns ++ s.mp.waiting).any (fun t => match t.purpose with | .dump _ => true | _ => false)

/-- The dump ends: ARMED clears (R541, R544). -/
def State.dumpEnd (s : State) (ok : Bool) : State :=
  { s with fwc := { s.fwc with dumping := none, armed := false, dumpComplete := ok } }

/-- The header again with COMPLETE 1, once every section write has been answered (R541). -/
def State.dumpClose (s : State) : State :=
  if s.dumpOut then s
  else if s.portHung (s.dumpPa 0) then s.dumpEnd false
  else s.dumpWrite 10 (s.dumpPa 0) 4096 (s.dumpHeader true (s.fwc.dumping.getD [])) []

/-- An armed dump begins with its header (R541); nothing happens when none is armed. -/
def State.startDump (s : State) (cause : BitVec 8) : State :=
  if !s.fwc.armed then s
  else
    let s := s.powered
    let s := { s with fwc := { s.fwc with
      dumpSeq := s.fwc.dumpSeq + 1, dumpCause := cause, dumpComplete := false, dumpFc := s.fe.cycles
      dumping := some (s.dumpPlan.map (fun (x : Nat × Nat × Nat × BitVec 8) => (x.1, x.2.2.2))) } }
    if s.portHung (s.dumpPa 0) then s.dumpBody.dumpClose
    else s.dumpWrite 0 (s.dumpPa 0) 4096 (s.dumpHeader false []) []

/-- A write of the dump has been answered, `ok` false when it failed (R541). -/
def State.dumpWritten (s : State) (k : Nat) (ok : Bool) : State :=
  let s := if ok || k = 0 then s else s.dumpPartial k
  if k = 10 then s.dumpEnd ok
  else if k = 0 then s.dumpBody.dumpClose
  else s.dumpClose

/-! ## Out of service (R537) -/

/-- A link held in reset (R79, R93): every outstanding operation, request and command is abandoned, and so are owed DESC
beats. TAG goes on counting: where it starts is the model's choice (notes/assumptions/52). -/
def Cluster.linkDown (x : Cluster) : Cluster :=
  { x with link := .down, rstN := false, capOk := false, ops := [], sync := [], sigs := [], ctrl := none, caps := []
           beats := 0, down := [], up := [], upLost := [], tokenFail := false, credits := [0, 0, 0, 0, 0]
           descQ := [], loop := none }

/-- The block goes out of service with a cause (R537): STATE, the source, the error-log record, the ledger; links and
processors held in reset, recoveries ended; then an armed dump. Contexts, entries and Blazes stay as they are. -/
def State.enterOos (s : State) (cause : BitVec 8) : State :=
  if s.fwc.state = .outOfService then s
  else
    let s := (s.setFw .outOfService).raise 0x000
    let s := (s.logHw 0x000D 0x00 none none cause.toNat).rcvStatus kindOos cause 0
    let s := s.count 7
    let s := { s with
      clusters := tmap {} (fun _ x => { x.linkDown with recovery := none, hangWait := none }) s.clusters
      fwc := { s.fwc with
        procs := tmap {} (fun _ p => { p with state := .off, held := none }) s.fwc.procs
        asked := s.fwc.asked.filter leavesOos, feBusy := false, resetFe := false } }
    s.startDump cause

/-- A counted event: performed after its stamp, unless it would escalate, which takes the block out of service instead
(R536). -/
def State.counted (s : State) (f : State → State) : State :=
  if s.fwc.state = .outOfService then s
  else if s.escalates then s.enterOos 0x0C
  else f s.stamp

end Sys2Proof.Machine
end

