-- ==== Sys2Proof/Machine/Link.lean ====
section
/-! DEFINITION. The engine link (R80 to R103), hang recovery (R527 to R532) and block start's capability check (R100,
R472, R566): shared operations, and the rows whose whole effect lies on the link. -/

namespace Sys2Proof.Machine

/-! ## The capability descriptor (R99) -/

/-- The declared depth of a credit pool: V, M, LD, ST, AUX. -/
def capCredit (l : List W32) (k : Nat) : Nat :=
  if k < 4 then capWord l 3 / 2 ^ (8 * k) % 256 else capWord l 4 / 2 ^ 13 % 128
/-- DESC_SLOTS. -/
def capDescSlots (l : List W32) : Nat := capWord l 4 % 2 ^ 13
/-- WINDOWS. -/
def capWindows (l : List W32) : Nat := capWord l 4 / 2 ^ 20 % 8
/-- CLEAR_CYCLES. -/
def capClear (l : List W32) : Nat := capWord l 5

/-- The descriptor passes the sum, LINK_MAJOR and every range of R99 (R100). -/
def capRanges (l : List W32) : Bool :=
  let w := capWord l
  l.length = 64 && l.foldl (· + ·) 0 = 0 && w 0 / 2 ^ 16 = 1 &&
  w 2 / 2 ^ 19 = 0 && 1 ≤ capBeats l && capBeats l ≤ 262144 &&
  (List.range 5).all (fun k => 1 ≤ capCredit l k && capCredit l k ≤ 64) &&
  w 4 / 2 ^ 23 = 0 && capWindows l ≤ 6 && 64 ≤ capDescSlots l && capDescSlots l ≤ 4096 &&
  1 ≤ capClear l && capClear l ≤ 1048576 &&
  (List.range 8).all (fun k => w (8 + k) = 0) && (List.range 4).all (fun k => w (48 + k) / 2 ^ 18 = 0) &&
  (List.range 9).all (fun k => w (54 + k) = 0)

/-! ## Service and the link reset -/

/-- The clusters present. -/
def State.allClusters (s : State) : List (BitVec 6) := (List.range s.build.clusters).map (BitVec.ofNat 6)

/-- A cluster leaves service: CRZ_CLUSTERS, CRZ_GEN and source CLUSTER_c (R130, R133, R496). -/
def State.leaveService (s : State) (c : BitVec 6) : State :=
  if (s.cluster c).inService then
    ((s.updCluster c (fun x => { x with inService := false })).raise (0x200 + c.toNat)).cruise
  else s

/-- A cluster returns to service (R130, R133). -/
def State.returnService (s : State) (c : BitVec 6) : State :=
  if (s.cluster c).inService then s else (s.updCluster c (fun x => { x with inService := true })).cruise

/-- The link reset (R93 steps 1 to 3, R94): everything outstanding is abandoned, EL_EPOCH advances, and the sequencer
waits for EL_ENG_READY. TAG goes on counting: the spec does not say where it starts after a reset (DESIGN CHOICE,
notes/assumptions/52). -/
def Cluster.linkReset (x : Cluster) : Cluster :=
  { x.linkDown with link := .waitReady, rstN := true, epoch := x.epoch + 1, seqs := [0, 0, 0, 0]
                    recovery := x.recovery.map (fun r => { r with cleared := false }) }

/-- A CTRL command goes out (R91), and the link takes the state of R102. -/
def Cluster.sendCtrl (code arg : Nat) (x : Cluster) : Cluster :=
  { x with ctrl := some (BitVec.ofNat 32 (code * 2 ^ 24 + arg))
           beats := if code = 3 || code = 4 then 0 else x.beats
           link := if code = 3 then .saving else if code = 4 then .restoring else if code = 5 then .clearing else x.link }

/-- CAP_READ (R91). -/
def ctCapRead : Nat := 1
/-- ENABLE. -/
def ctEnable : Nat := 2
/-- SAVE. -/
def ctSave : Nat := 3
/-- RESTORE. -/
def ctRestore : Nat := 4
/-- CLEAR. -/
def ctClear : Nat := 5
/-- LOOPBACK_ON. -/
def ctLoopOn : Nat := 6
/-- LOOPBACK_OFF. -/
def ctLoopOff : Nat := 7

/-- A SYNC request is offered: YIELD, or FLUSH of classes; `final` marks the FLUSH of R329 (R88, R90). -/
def Cluster.sendSync (yield : Bool) (classes : BitVec 4) (final : Bool) (x : Cluster) : Cluster :=
  { x with sync := x.sync ++ [{ yield, classes := if yield then 15 else classes, tag := x.tag, taken := false, final }]
           tag := x.tag + 1 }

/-- The deque on which a launch of partition `p` would be pushed when the shortest is chosen (R250, R272). -/
def State.shortestDeque (s : State) (p : BitVec 3) : Option (BitVec 6) :=
  leastBy (fun c => (s.cluster c).deque.length) (s.allClusters.filter (fun c => (s.cluster c).inService && (s.cluster c).partition = p))

/-- A launch returns to the Yarder (R250): share work is placed again ahead of new work; best-effort work goes to the
head of the shortest deque of its partition. -/
def State.returnLaunch (s : State) (e : Nat) : State :=
  match s.entry e with
  | none => s
  | some x =>
    if x.cls = 2 then
      match s.shortestDeque (s.ctx x.ctx).partition with
      | some c =>
        if (s.cluster c).deque.length < 64 then
          (s.updCluster c (fun y => { y with deque := e :: y.deque })).updEntry e
            (fun y => { y with place := .deque c })
        else s.updEntry e (fun y => { y with place := .returned })
      | none => s.updEntry e (fun y => { y with place := .returned })
    else s.updEntry e (fun y => { y with place := .returned })

/-- The state of a slice of a context's save area (R452). -/
def State.setSlice (s : State) (c : BitVec 20) (i : Nat) (v : SliceState) : State :=
  match s.residentSlot c with
  | some r => s.updRes r (fun x => { x with slices := x.slices.set i v })
  | none => s

/-! ## Hang recovery -/

/-- Every stream has issued its last bundle (R329). -/
def Launch.allDone (l : Launch) : Bool := l.streams.all (·.done)

/-- The suspects of a cluster, with their positions (R528, R463). -/
def Cluster.suspects (x : Cluster) : List (Position × Nat) :=
  let chain (l : Launch) : List (Position × Nat) := l.chain.toList.map (fun e => (.chained, e))
  match x.active with
  | some l =>
    let stops := match x.switch with | some _ => true | none => false
    ((if l.allDone || stops then .retiring else .running), l.entry) :: chain l ++
      x.shadow.toList.map (fun k => (.shadow, k.entry))
  | none =>
    let restoring := match x.switch with
      | some w => w.phase = .restoring || w.phase = .enabling || w.phase = .header | none => false
    x.chainNext.toList.map (fun e => (.chained, e)) ++
    (match x.shadow with
     | some k => if restoring && k.resumed then (.running, k.entry) :: chain k else [(.shadow, k.entry)]
     | none => [])

/-- Bits of CLS_HANG_LOG.SUSPECTS (R532). -/
def posCode : Position → Nat
  | .running => 0 | .retiring => 1 | .shadow => 2 | .chained => 3

/-- CLS_HANG_LOG of a recovery that ends with an outcome: 1 TRANSIENT, 2 GUILTY, 3 LINK_LOST (R532). -/
def hangWord (old : W64) (r : Recovery) (outcome : Nat) : W64 :=
  let g := if outcome = 2 then r.guilty else none
  let held := (dedup (r.held.map posCode)).foldl (fun a p => a + 2 ^ p) 0
  BitVec.ofNat 64 ((match g with | some p => p.2.toNat * 2 ^ 44 + posCode p.1 * 2 ^ 28 | none => 0)
    + r.cause.toNat * 2 ^ 36 + outcome * 2 ^ 34 + held * 2 ^ 30 + (old.toNat + 1) % 2 ^ 16)

/-- A control core held in reset for reload by the security core (R476, R527 step 3). -/
def State.holdCore (s : State) (p : Nat) : State :=
  let s := s.updProc p (fun x => { x with state := .restarting, held := none, failFc := s.fc })
  { s with fwc := { s.fwc with failedOrder := if s.fwc.failedOrder.contains p then s.fwc.failedOrder
                                              else s.fwc.failedOrder ++ [p] } }

/-- The held completions of a cluster are reported (R477). -/
def State.flushEnds (s : State) (c : BitVec 6) : State :=
  let l := (s.cluster c).heldEnds
  (s.updCluster c (fun x => { x with heldEnds := [] })).each l (fun s e => s.report e 0x00 false)

/-- The cluster reset (R524, R527 steps 1 to 3): out of service, the sequencer, banks, queues and link reset, the control
core reloaded, the slice of the lost engine state EMPTY. While TEST_MODE is 1 the flip-flops take no reset from the block
itself (R71), and only the link resets. -/
def State.clusterReset (s : State) (c : BitVec 6) (cause : BitVec 8) : State :=
  let x := s.cluster c
  let s := (((s.flushEnds c).rcvStatus kindCluster cause c).logReset kindCluster cause c).count 3
  let s := (s.leaveService c).raise 0x004
  let s := match x.ctx, x.slice with
    | some k, some i => s.setSlice k i .empty
    | _, _ => s
  let drop (t : Txn) : Txn := match t.purpose with
    | .restoreRead a _ => if a = c then { t with purpose := .backing c } else t
    | _ => t
  let s : State := { s with mp := { s.mp with txns := s.mp.txns.map drop, waiting := s.mp.waiting.map drop } }
  let s := if s.pins.testMode then s.updCluster c Cluster.linkReset else s.updCluster c (fun x => { x.linkReset with
    ctx := none, slice := none, active := none, shadow := none, chainNext := none, switch := none, preempt := false
    target := 0, stall := 0, swCause := .none_, hold := none, header := [], hangWait := none })
  s.holdCore (3 + c.toNat)

/-- A suspect's own LAUNCH slice is not used by its replay and becomes EMPTY (R529). -/
def State.dropSlice (s : State) (e : Nat) : State :=
  match s.entry e with
  | some x =>
    match x.slice with
    | some i => (s.setSlice x.ctx i .empty).updEntry e (fun y => { y with slice := none })
    | none => s
  | none => s

/-- A hang ends the restart of the cluster's failed control core, whose reset then reloads it: that restart no longer counts
toward the escalation limit (R531; DEDUCED, notes/assumptions/70). -/
def State.endRestart (s : State) (c : BitVec 6) : State :=
  let p := s.proc (3 + c.toNat)
  if p.state = .restarting && p.cause ≠ 0 && p.restartFc = BitVec.ofNat 32 p.failFc then
    { s with fwc := { s.fwc with
        stamps := s.fwc.stamps.erase (s.fwc.svcBase + p.failFc), escTotal := s.fwc.escTotal - 1 } }
  else s

/-- A hang on cluster `c` (R527): during a front-end reset it waits (R531); the first hang records the suspects; a hang of
a replayed launch is that launch's second, which is guilty (R530); a hang between replays takes one more cluster reset.
`fails` is one when the hang is a link reset that ended with READY_TIMEOUT. -/
def State.startHang (s : State) (c : BitVec 6) (cause : BitVec 8) (fails : Nat) : State :=
  if s.fwc.feBusy then
    s.updCluster c (fun x => { x with hangWait := some (x.hangWait.getD cause) })
  else (if cause = 0x03 then s else s.endRestart c).counted (fun s =>
    let x := s.cluster c
    match x.recovery with
    | none =>
      let l := x.suspects
      let s := s.clusterReset c cause
      let s := s.each l (fun s p => s.dropSlice p.2)
      let r : Recovery := { cause, held := l.map (·.1), todo := l, now := none, guilty := none, fails }
      s.updCluster c (fun x => { x with recovery := some r })
    | some r =>
      match r.now with
      | none =>
        (s.clusterReset c cause).updCluster c (fun x => { x with recovery := some { r with fails, cleared := false } })
      | some (p, e) =>
        let k := match s.entry e with | some y => y.ctx | none => kernelCtx
        let s := s.clusterReset c cause
        let r' : Recovery := { r with now := none, guilty := some (p, k), fails, cleared := false }
        let s := (s.updCluster c (fun x => { x with recovery := some r' })).report e 0x0C false
        s.teardown k 0x0C)

/-- The outcome LINK_LOST (R530): the cluster stays out of service; every suspect that has not retired returns to the
Yarder as a launch not yet started, and so does a chained launch that the cluster kept. -/
def State.linkLost (s : State) (c : BitVec 6) : State :=
  match (s.cluster c).recovery with
  | none => s
  | some r =>
    let all := r.now.toList ++ r.todo
    let left := all.filter (fun p => match (s.entry p.2).bind (·.chainOf) with
      | some f => !all.any (fun q => q.2 = f) | none => true)
    let kept := (s.cluster c).chainWait
    let s := s.updCluster c (fun x => { x.linkDown with
      link := .out, recovery := none, chainWait := [], hangLog := hangWord x.hangLog r 3 })
    (s.each (left.map (·.2) ++ kept) State.returnLaunch).raise 0x004

/-- Recovery ends GUILTY or TRANSIENT once CLEAR is done (R530): the cluster holds no context and returns to service. -/
def State.finishRecovery (s : State) (c : BitVec 6) : State :=
  match (s.cluster c).recovery with
  | none => s
  | some r =>
    let o := if r.guilty.isSome then 2 else 1
    let s := s.updCluster c (fun x => { x with
      recovery := none, ctx := none, slice := none, hangLog := hangWord x.hangLog r o })
    ((s.returnService c).raise 0x004).count (if r.guilty.isSome then 8 else 9)

/-- A self-test ends without a pass (R548): it completes with ENGINE_HANG and the cluster stays out of service. -/
def State.failTest (s : State) (c : BitVec 6) : State :=
  match (s.cluster c).testing with
  | none => s
  | some e =>
    (s.updCluster c (fun x => { x.linkDown with link := .out, testing := none, inTest := false })).report e 0x0C false

/-- A protocol error (R101): recorded, issue stopped, and the cluster handed to hang recovery; CAP_CHECK and CAP_MISMATCH
leave service without it, with a link reset (R93); in a self-test the test fails; a second READY_TIMEOUT running, and CAP_CHANGED in a reset of the
recovery, are LINK_LOST (R530). `reset` is true for a link reset that ended with READY_TIMEOUT. -/
def State.protocolError (s : State) (c : BitVec 6) (code : BitVec 8) (reset : Bool) : State :=
  let s := ((s.updCluster c (fun x => { x with err := some (x.err.getD code) })).noteFlag (.elinkErr c.toNat)).raise (0x200 + c.toNat)
  let x := s.cluster c
  if x.inTest then s.failTest c
  else if code = 0x07 || code = 0x09 then
    (s.leaveService c).updCluster c (fun x => { x.linkReset.linkDown with link := .out, startFail := true })
  else match x.recovery with
    | some r =>
      if reset && 1 ≤ r.fails || code = 0x08 then s.linkLost c else s.startHang c 0x02 (b2n reset)
    | none => s.startHang c 0x02 (b2n reset)

/-- Recovery goes on after a link reset or a replay: the next suspect, or the end (R529, R530). -/
def State.recoveryNext (s : State) (c : BitVec 6) : State :=
  match (s.cluster c).recovery with
  | some r => if r.cleared && r.now.isNone && r.todo.isEmpty then s.finishRecovery c else s
  | none => s

/-! ## Block start (R100, R472 check 11, R566) -/

/-- The descriptor has passed R100 since the link reset: CAP_OK, HELD, and no READY_TIMEOUT running (R102, R530). -/
def Cluster.capsPass (x : Cluster) : Cluster :=
  { x with link := .held, capOk := true, recovery := x.recovery.map (fun r => { r with fails := 0 }) }

/-- The boot queue is bound (R566). -/
def State.bindBoot (s : State) : State :=
  s.updQueue 0 (fun _ => { state := .open_, ctx := kernelCtx, kernel := true, retire := true, cls := 1, timerFc := s.fc })

/-- A cluster has done its part of block start: its 64 words are read, or it is out. -/
def Cluster.startDone (x : Cluster) : Bool := x.link = .out || (x.link = .held && x.caps.length = 64)

/-- Once every present cluster has returned its words or failed, check 11 is decided: with none left the start is refused
(NO_CLUSTER) and the processors are held again (R473); else the words of the lowest-numbered cluster are the block's, a
cluster that differs fails with CAP_MISMATCH, the others enter service, the Cruise registers take their values together
(R133), and the boot queue is bound. -/
def State.settleStart (s : State) : State :=
  if s.fwc.state ≠ .starting || !s.fwc.caps.isEmpty || !s.allClusters.all (fun c => (s.cluster c).startDone) then s
  else
    match s.allClusters.find? (fun c => (s.cluster c).link = .held) with
    | none =>
      State.setFw { s with fwc := { s.fwc with
        reason := 0x0B
        procs := tmap {} (fun p x => if p = 0 then x else { x with state := .off }) s.fwc.procs } } .refused
    | some f =>
      let words := (s.cluster f).caps
      let s : State := { s with fwc := { s.fwc with caps := words } }
      let s := s.each (s.allClusters.filter (fun c => (s.cluster c).link = .held)) (fun s c =>
        if (s.cluster c).caps = words then
          let s := s.updCluster c Cluster.capsPass
          if (s.cluster c).recovery.isSome then s.updCluster c (Cluster.sendCtrl ctClear 0)
          else s.updCluster c (fun x => { x with inService := true })
        else s.protocolError c 0x09 false)
      s.cruise.bindBoot

/-- The 64 words of a link reset have been read (R93 step 5, R100). -/
def State.capsRead (s : State) (c : BitVec 6) : State :=
  let x := s.cluster c
  if !s.fwc.caps.isEmpty then
    if x.caps = s.fwc.caps then
      let s := s.updCluster c Cluster.capsPass
      if x.recovery.isSome then s.updCluster c (Cluster.sendCtrl ctClear 0)
      else s
    else s.protocolError c 0x08 false
  else if capRanges x.caps then (s.updCluster c (fun x => { x with link := .held })).settleStart
  else (s.protocolError c 0x07 false).settleStart

/-! ## Rows of the link -/

/-- The link is out of reset and answers (R79, R93). -/
def Cluster.answers (x : Cluster) : Bool :=
  x.rstN && decide (x.link ≠ .down) && decide (x.link ≠ .waitReady) && decide (x.link ≠ .out)

/-- ENGINE_READY (R93 steps 4 and 5): the sequencer reads capability word 0. -/
def execEngineReady (c : BitVec 6) (s : State) : Host.Outcome State Fault Refusal :=
  .next (if (s.cluster c).link = .waitReady then
      s.updCluster c (fun x => Cluster.sendCtrl ctCapRead 0 { x with link := .caps })
    else s)

/-- ENGINE_READY_FALL (R93): the protocol error READY_TIMEOUT. -/
def execEngineReadyFall (c : BitVec 6) (s : State) : Host.Outcome State Fault Refusal :=
  .next (if (s.cluster c).answers then (s.protocolError c 0x05 false).settleStart else s)

/-- READY_TIMEOUT (R93): EL_ENG_READY has not risen 16,384 cclk after the end of the link reset. -/
def execReadyTimeout (c : BitVec 6) (elapsed : Nat) (s : State) : Host.Outcome State Fault Refusal :=
  .next (if (s.cluster c).link = .waitReady && decide (16384 < elapsed) then
      (s.protocolError c 0x05 true).settleStart
    else s)

/-- The response bound of a CTRL command in cclk (R92). -/
def ctrlBound (caps : List W32) (cmd : BitVec 32) : Nat :=
  let code := bits cmd 31 24
  if code = 3 || code = 4 then 2 * capBeats caps + 4096 else if code = 5 then capClear caps else 65536

/-- The bound of the outstanding command runs (R92): for RESTORE from the cycle in which the LAST beat is presented. -/
def Cluster.boundRuns (x : Cluster) (caps : List W32) (cmd : BitVec 32) : Bool :=
  let fails := match x.switch with | some w => w.fail.isSome | none => false
  bits cmd 31 24 ≠ ctRestore || x.beats = capBeats caps || (x.beats + 1 = capBeats caps && (fails || !x.down.isEmpty))

/-- CTRL_TIMEOUT (R92): the outstanding command has missed its bound, `elapsed` cclk after that began to run. -/
def execCtrlTimeout (c : BitVec 6) (elapsed : Nat) (s : State) : Host.Outcome State Fault Refusal :=
  .next (match (s.cluster c).ctrl with
    | none => s
    | some cmd =>
      let caps := if s.fwc.caps.isEmpty then (s.cluster c).caps else s.fwc.caps
      if decide (ctrlBound caps cmd < elapsed) && (s.cluster c).boundRuns caps cmd then (s.protocolError c 0x04 false).settleStart else s)

/-- Owed DESC beats go out while issue is enabled and AUX credits last (R83, R84, R93, R311); a hang stops them (R101). -/
def Cluster.sendDescs (x : Cluster) : Cluster :=
  if x.link ≠ .active || x.hangWait.isSome then x
  else x.descQ.foldl (fun (x : Cluster) d =>
    if nth x.credits 4 = 0 then x
    else { x with descQ := x.descQ.drop 1, isKind := 1, isAux := d.1, isData := d.2, isBeats := x.isBeats + 1
                  credits := x.credits.set 4 (nth x.credits 4 - 1) }) x

/-! ## Loopback (R98, R548) -/

/-- Beats that the self-test drives on each path (R98). -/
def loopBeats : Nat := 4096

/-- An ISSUE beat of the test: KIND, AUX and DATA, with no reserved KIND (R80). -/
def loopIssueBeat (n : Nat) : BitVec 2 × BitVec 16 × W512 :=
  let w := Config.loopBeat 0 n
  let k : BitVec 2 := w.extractLsb' 512 2
  (if k = 3 then 0 else k, w.extractLsb' 514 16, w.extractLsb' 0 512)

/-- The upward beat as which an ISSUE beat returns (R98). -/
def reflected (kind : BitVec 2) (aux : BitVec 16) (data : W512) : BitVec 1024 :=
  (~~~(data.extractLsb' 0 494)) ++ aux ++ kind ++ data

/-- The SEQ numbers of the sections present in an OPS beat, by class, after those that are still to return (R81, R98). -/
def loopTokens (l : List (List (BitVec 12))) (kind : BitVec 2) (data : W512) : List (List (BitVec 12)) :=
  if kind ≠ 0 then l
  else l.mapIdx (fun k t => if data.getLsbD (128 * k + 127) then t ++ [data.extractLsb' (128 * k + 96) 12] else t)

/-- One more beat or request of the test goes out, if its path allows one: an AUX credit for an ISSUE beat, fewer than four
requests outstanding for SYNC (R84, R88, R98). -/
def Cluster.loopOne (x : Cluster) : Cluster :=
  match x.loop with
  | none => x
  | some l =>
    if x.link ≠ .loopback || decide (loopBeats ≤ l.sent) then x
    else if l.path = 0 && decide (0 < nth x.credits 4) then
      let b := loopIssueBeat l.sent
      { x with
        isKind := b.1, isAux := b.2.1, isData := b.2.2, isBeats := x.isBeats + 1, credits := x.credits.set 4 (nth x.credits 4 - 1)
        loop := some { l with
          sent := l.sent + 1, beats := l.beats ++ [(reflected b.1 b.2.1 b.2.2, false)], tokens := loopTokens l.tokens b.1 b.2.2 } }
    else if l.path = 2 && decide (x.sync.length < 4) then
      let w := Config.loopBeat 2 l.sent
      Cluster.sendSync (w.getLsbD 4) (w.extractLsb' 0 4) false { x with loop := some { l with sent := l.sent + 1 } }
    else x

/-- The test drives what it can. -/
def Cluster.loopSend (x : Cluster) : Cluster := (List.range 64).foldl (fun x _ => x.loopOne) x

/-- The test goes on to its next path once everything of the present one has returned, and ends with LOOPBACK_OFF. -/
def Cluster.loopNext (x : Cluster) : Cluster :=
  match x.loop with
  | none => x
  | some l =>
    if l.back < loopBeats || !l.tokens.all (·.isEmpty) || !x.sync.isEmpty then x.loopSend
    else if l.path < 2 then Cluster.loopSend { x with loop := some { path := l.path + 1 } }
    else Cluster.sendCtrl ctLoopOff 0 { x with loop := none }

/-- The loopback begins, with the credits that the descriptor declares (notes/assumptions/61). -/
def Cluster.loopBegin (caps : List W32) (x : Cluster) : Cluster :=
  Cluster.loopSend { x with link := .loopback, credits := (List.range 5).map (capCredit caps), loop := some {} }

/-- The first difference in what returns (R98). -/
def State.loopMismatch (s : State) (c : BitVec 6) : State := s.protocolError c 0x0B false

/-- An upward beat in LOOPBACK is compared with the one that is to return (R98). -/
def State.loopBeat (s : State) (c : BitVec 6) (data : BitVec 1024) (last : Bool) : State :=
  match (s.cluster c).loop with
  | none => s.loopMismatch c
  | some l =>
    match l.beats with
    | [] => s.loopMismatch c
    | b :: rest =>
      if b = (data, last) then
        s.updCluster c (fun x => Cluster.loopNext { x with loop := some { l with beats := rest, back := l.back + 1 } })
      else s.loopMismatch c

/-- A DONE token in LOOPBACK is compared with the one that is to return on its lane (R98). -/
def State.loopToken (s : State) (c : BitVec 6) (lane tok : Nat) : State :=
  match (s.cluster c).loop with
  | none => s.protocolError c 0x03 false
  | some l =>
    match l.tokens.getD lane [] with
    | [] => s.loopMismatch c
    | q :: rest =>
      if tok = q.toNat then
        s.updCluster c (fun x => Cluster.loopNext { x with loop := some { l with tokens := l.tokens.set lane rest } })
      else s.loopMismatch c

/-- A SYNC response in LOOPBACK is compared with the oldest request (R98). -/
def State.loopSync (s : State) (c : BitVec 6) (yield : Bool) (msg : W32) : State :=
  let x := s.cluster c
  match x.loop, x.sync with
  | some l, r :: rest =>
    if r.yield = yield && r.taken && decide (msg.extractLsb' 0 16 = r.tag) then
      s.updCluster c (fun x => Cluster.loopNext { x with sync := rest, loop := some { l with back := l.back + 1 } })
    else s.loopMismatch c
  | _, _ => s.loopMismatch c

/-- The engine takes a downward beat of the test, which is to return with LAST copied (R98); LAST stands on the last one. -/
def Cluster.loopDown (x : Cluster) : Cluster :=
  match x.loop with
  | some l =>
    if l.path = 1 && decide (l.sent < loopBeats) then
      { x with loop := some { l with
          sent := l.sent + 1, beats := l.beats ++ [(Config.loopBeat 1 l.sent, decide (l.sent + 1 = loopBeats))] } }
    else x
  | none => x

/-- CREDIT_RETURN (R84): one credit for each pool named, or CREDIT_OVER; owed DESC beats, or those of a loopback, follow. -/
def execCreditReturn (c : BitVec 6) (pools : BitVec 5) (s : State) : Host.Outcome State Fault Refusal :=
  let x := s.cluster c
  .next (if !x.answers then s
    else if (List.range 5).any (fun k => pools.getLsbD k && decide (capCredit s.fwc.caps k ≤ nth x.credits k)) then
      s.protocolError c 0x01 false
    else s.updCluster c (fun x => Cluster.loopSend (Cluster.sendDescs { x with
      credits := (List.range 5).map (fun k => nth x.credits k + b2n (pools.getLsbD k)) })))

/-- SYNC_REQUEST_TAKEN (R88, R89): the engine takes the oldest request not yet taken. -/
def execSyncRequestTaken (c : BitVec 6) (s : State) : Host.Outcome State Fault Refusal :=
  .next (match (s.cluster c).sync.findIdx? (fun r => !r.taken) with
    | none => s
    | some i => s.updCluster c (fun x => { x with sync := listUpd x.sync i (fun r => { r with taken := true }) }))

/-- A SYNC message of an old epoch is dropped and counted (R88). -/
def State.dropLate (s : State) (c : BitVec 6) : State := s.updCluster c (fun x => { x with dropLate := x.dropLate + 1 })

/-- SYNC_ERROR (R88): an ERROR message of the current epoch is handled as an engine hang. -/
def execSyncError (c : BitVec 6) (msg : W32) (s : State) : Host.Outcome State Fault Refusal :=
  .next (if bits msg 31 28 ≠ 15 || !(s.cluster c).rstN then s
    else if msg.extractLsb' 16 8 ≠ (s.cluster c).epoch then s.dropLate c
    else s.protocolError c 0x0A false)

/-- CLUSTER_WATCHDOG_EXPIRY (R525): the watchdog runs, and has run its period without a restart. -/
def execClusterWatchdogExpiry (c : BitVec 6) (elapsed : Nat) (s : State) : Host.Outcome State Fault Refusal :=
  let x := s.cluster c
  let runs := x.active.isSome || x.switch.isSome || x.ctrl.isSome
  .next (if runs && decide (x.wdogLog2 ≠ 0) && decide (2 ^ clamp 0x10 0x20 x.wdogLog2.toNat ≤ elapsed) then
      if x.inTest then s.failTest c else s.startHang c 0x01 0
    else s)

end Sys2Proof.Machine
end

