-- ==== Sys2Proof/Machine/Sequencer.lean ====
section
/-! DEFINITION. The sequencer (R298 to R330): bundles, the scalar unit, sync slots, issue conditions, launch starts and
ends, and the engine's DONE and FLUSHED answers. -/

namespace Sys2Proof.Machine

/-! ## Bundles (R300, R301) -/

/-- A decoded bundle: LAST, DELAY, its slot words and its length in units. -/
structure Bundle where
  /-- LAST. -/
  last : Bool
  /-- DELAY. -/
  delay : Nat
  /-- Slot words in the order S, V, M, LD, ST, SY; absent slots are none. -/
  slots : List (Option Nat)
  /-- Length in 16-bit units. -/
  units : Nat
deriving DecidableEq, Repr

/-- A number from 16-bit units, least significant first (R301). -/
def unitsNat : List (BitVec 16) → Nat
  | [] => 0
  | u :: r => u.toNat + 65536 * unitsNat r

/-- Units of the slots S, V, M, LD, ST, SY (R301). -/
def slotUnits : List Nat := [2, 4, 6, 6, 6, 2]

/-- The slots that a mask names, read from the units after the header. -/
def readSlots : List Nat → Nat → List (BitVec 16) → List (Option Nat) × Nat
  | [], _, _ => ([], 0)
  | n :: r, mask, l =>
    if mask % 2 = 1 then
      let p := readSlots r (mask / 2) (l.drop n)
      (some (unitsNat (l.take n)) :: p.1, n + p.2)
    else
      let p := readSlots r (mask / 2) l
      (none :: p.1, p.2)

/-- The bundle at the head of a list of units; none at the list's end. -/
def bundleAt : List (BitVec 16) → Option Bundle
  | [] => none
  | h :: r =>
    let p := readSlots slotUnits (bits h 5 0) r
    some { last := bit h 15, delay := bits h 11 8, slots := p.1, units := 1 + p.2 }

/-- Slot `k` of a bundle: 0 S, 1 V, 2 M, 3 LD, 4 ST, 5 SY. -/
def Bundle.slot (b : Bundle) (k : Nat) : Option Nat := (b.slots.getD k none)

/-- Bits `hi:lo` of a slot word. -/
def sb (w hi lo : Nat) : Nat := (w >>> lo) % 2 ^ (hi + 1 - lo)

/-- KIND of the bundle's SY slot, 0 without one (R318). -/
def Bundle.syKind (b : Bundle) : Nat := match b.slot 5 with | some w => sb w 31 28 | none => 0

/-- The next bundle of stream `i`; none when its list is over or the stream waits or has ended (R323 condition 8, R328). -/
def Launch.next (l : Launch) (i : Nat) : Option Bundle :=
  let t := l.streams.getD i { done := true }
  if t.done || t.stopped || t.atBoundary then none else bundleAt ((l.image.lists.getD i []).drop t.pc)

/-! ## Engine slots (R302 to R307) -/

/-- An operation as it goes into an OPS beat (R81): class, OPWORD, and the handles it reads and writes. -/
structure OpWord where
  /-- Class: 0 V, 1 M, 2 LD, 3 ST. -/
  cls : Nat
  /-- OPWORD. -/
  word : Nat
  /-- Handles it reads (R307). -/
  reads : List (BitVec 16)
  /-- Handles it writes (R307). -/
  writes : List (BitVec 16)
deriving DecidableEq, Repr

/-- Descriptor slot of a handle: bank × DESC_SLOTS / 2 plus its place in the handle set (R311). -/
def descSlot (image : Image) (half : Nat) (bank : Bool) (h : Nat) : Nat :=
  b2n bank * half + image.hmap.findIdx (fun x => x.toNat = h)

/-- The value of an index source (R302), `q` being what the bundle's QPOP pops. -/
def idxValue (regs : Vector W32 32) (q : Nat) (i : Nat) : Nat :=
  if i = 0 then 0 else if i < 32 then (regs.toList.getD i 0).toNat else q

/-- A field of a slot word replaced. -/
def sbPut (w hi lo v : Nat) : Nat := w - (sb w hi lo) <<< lo + (v % 2 ^ (hi + 1 - lo)) <<< lo

/-- The engine operations of a bundle (R303 to R307), with descriptor slots and offsets substituted. -/
def Bundle.ops (b : Bundle) (image : Image) (half : Nat) (bank : Bool) (regs : Vector W32 32) (q : Nat) : List OpWord :=
  let slot := descSlot image half bank
  let hnd (w hi lo : Nat) : BitVec 16 := BitVec.ofNat 16 (sb w hi lo)
  let use (w : Nat) (k : Nat) : Bool := (w >>> k) % 2 = 1
  let sub (w hi lo : Nat) (u : Bool) : Nat := if u then sbPut w hi lo (slot (sb w hi lo)) else w
  let one (w hi lo : Nat) (u : Bool) : List (BitVec 16) := if u then [hnd w hi lo] else []
  let off (w hi lo idx : Nat) : Nat := sbPut w hi lo (sb w hi lo + idxValue regs q idx)
  (match b.slot 1 with
   | some w =>
     let d := use w 7; let a := use w 6; let e := use w 5
     [{ cls := 0, word := sub (sub (sub w 55 40 d) 39 24 a) 23 8 e
        reads := one w 39 24 a ++ one w 23 8 e ++ (if sb w 63 56 = 4 then one w 55 40 d else []), writes := one w 55 40 d }]
   | none => []) ++
  (match b.slot 2 with
   | some w =>
     let d := use w 39; let a := use w 38; let e := use w 37
     let o := off w 27 4 (sb w 33 28)
     [{ cls := 1, word := sub (sub (sub o 87 72 d) 71 56 a) 55 40 e
        reads := one w 71 56 a ++ one w 55 40 e ++ (if use w 36 then one w 87 72 d else []), writes := one w 87 72 d }]
   | none => []) ++
  ([2, 3].map (fun k => match b.slot (k + 1) with
   | some w =>
     let o := off (off w 43 22 (sb w 55 50)) 21 0 (sb w 49 44)
     [{ cls := k, word := sub (sub o 87 72 true) 71 56 true, reads := one w 71 56 true, writes := one w 87 72 true : OpWord }]
   | none => [])).flatten

/-! ## The scalar unit (R313 to R317) -/

/-- Scalar register write: s0 ignores it (R313). -/
def regSet (r : Vector W32 32) (i : Nat) (v : W32) : Vector W32 32 := if i = 0 then r else r.setIfInBounds i v

/-- The effect of an S slot on registers and data memory, with the special values of SRD given by index (R315, R316). -/
def execS (w : Nat) (special : Nat → W32) (regs : Vector W32 32) (mem : Tbl W32) : Vector W32 32 × Tbl W32 :=
  let r (i : Nat) : W32 := if i = 0 then 0 else regs.toList.getD i 0
  let op := sb w 31 26
  let rd := sb w 25 21
  let a := r (sb w 20 16)
  let b := r (sb w 15 11)
  let sx : W32 := (BitVec.ofNat 16 (sb w 15 0)).signExtend 32
  let zx : W32 := BitVec.ofNat 32 (sb w 15 0)
  let addr := (a + sx).toNat % 16384 / 4
  let set (v : W32) := (regSet regs rd v, mem)
  if op ≤ 0x0D then set (scalarRR op a b)
  else match op with
    | 0x0E => set (if b = 0 then 0xFFFFFFFF else a / b)
    | 0x0F => set (if b = 0 then a else a % b)
    | 0x10 => if b = 0 then set a else (regs, mem)
    | 0x11 => if b ≠ 0 then set a else (regs, mem)
    | 0x20 => set (a + sx)
    | 0x21 => set (a &&& zx)
    | 0x22 => set (a ||| zx)
    | 0x23 => set (a ^^^ zx)
    | 0x24 => set (if a.slt sx then 1 else 0)
    | 0x25 => set (a <<< (sb w 4 0))
    | 0x26 => set (a >>> (sb w 4 0))
    | 0x27 => set (a.sshiftRight (sb w 4 0))
    | 0x28 => set (tget 0 mem addr)
    | 0x29 => (regs, tset 0 mem addr (r rd))
    | 0x2A => set (special (sb w 3 0))
    | 0x30 => set (BitVec.ofNat 32 (sb w 20 0 * 2 ^ 11))
    | _ => (regs, mem)

/-- The S slot is a divide, which takes 16 cclk (R317). -/
def isDivide (w : Nat) : Bool := sb w 31 26 = 0x0E || sb w 31 26 = 0x0F

/-! ## Sync slots (R318 to R322) -/

/-- A data-queue entry is valid: no operation that it covers is outstanding (R321). -/
def QEnt.valid (e : QEnt) (ops : List EngOp) : Bool :=
  !ops.any (fun o => e.classes.getLsbD o.cls && o.stream = e.stream && decide (o.ord < e.upto))

/-- The streams that a BARRIER's LANES name (R318). -/
def laneStreams (lanes : Nat) : List Nat := (List.range 4).filter (fun i => (lanes >>> i) % 2 = 1)

/-- A BARRIER of stream `i`'s next bundle: its SY word's LANES, DRAIN and ID. -/
def Launch.barrier (l : Launch) (i : Nat) : Option (Nat × Bool × Nat) :=
  match l.next i with
  | some b =>
    match b.slot 5 with
    | some w => if sb w 31 28 = 3 then some (sb w 27 24, sb w 8 8 = 1, sb w 7 0) else none
    | none => none
  | none => none

/-- The barrier at which stream `i` waits is satisfied (R320). -/
def Launch.barrierMet (l : Launch) (ops : List EngOp) (i : Nat) : Bool :=
  match l.barrier i with
  | none => false
  | some (lanes, _, id) =>
    let named := laneStreams lanes
    named.all (fun k => match l.barrier k with | some (m, _, j) => m = lanes && j = id | none => false) &&
    (!named.any (fun k => match l.barrier k with | some (_, d, _) => d | none => false) ||
      !ops.any (fun o => named.contains o.stream))

/-- The last cclk in which a bundle of the launch issued. -/
def Launch.lastCclk (l : Launch) : Nat := l.streams.foldl (fun m t => match t.last with | some k => max m k | none => m) 0

/-- Satisfied barriers are marked with the last cclk, and a replay boundary of lane mode that every lane has reached with
every operation DONE is passed (R320, R328). -/
def Launch.settle (l : Launch) (ops : List EngOp) : Launch :=
  let all := l.used.all (fun i => (l.streams.getD i {}).atBoundary && !(l.streams.getD i {}).stopped)
  let l := if l.image.lane && all && !l.used.isEmpty && ops.isEmpty then
      { l with streams := l.streams.map (fun t => if t.atBoundary then
          { t with pc := 0, replay := t.replay + 1, yields := 0, atBoundary := false } else t) }
    else l
  let now := l.lastCclk
  { l with streams := l.streams.mapIdx (fun i t =>
      if t.barrierAt.isNone && l.barrierMet ops i then { t with barrierAt := some now } else t) }

/-- The cluster's active launch settled after an event. -/
def Cluster.settle (x : Cluster) : Cluster := { x with active := x.active.map (fun l => l.settle x.ops) }

/-- The stop target of a pre-emption (R322): lane mode, one more than the most YIELDs that a lane has issued in the
replay; decoupled mode, the highest replay begun. Streams already past it are stopped. -/
def Launch.stopTarget (l : Launch) : Nat :=
  if l.image.lane then l.streams.foldl (fun m t => max m t.yields) 0 + 1
  else l.streams.foldl (fun m t => max m (if t.pc = 0 then t.replay - 1 else t.replay)) 0

/-- Streams that have reached the stop target stop (R322). -/
def Launch.stopAt (l : Launch) (target : Nat) : Launch :=
  { l with streams := l.streams.map (fun t =>
      if t.done then t
      else if l.image.lane then (if t.atBoundary && decide (t.yields < target) then { t with stopped := true } else t)
      else if t.pc = 0 && decide (target < t.replay) then { t with stopped := true } else t) }

/-- Every stream has stopped or ended, and the launch has not completed (R322). -/
def Launch.stopReached (l : Launch) : Bool := l.streams.all (fun t => t.done || t.stopped) && !l.allDone

/-! ## The shadow bank's fill (R327, R343, R346) -/

/-- Unit offset in the bank at which list `i` starts (R343): after the header and the handle map, each list on a 64-byte
boundary. -/
def Image.listStart (m : Image) (i : Nat) : Nat :=
  (List.range i).foldl (fun a k => a + ((m.lists.getD k []).length + 31) / 32 * 32) ((0x40 + 2 * m.hmap.length + 63) / 64 * 32)

/-- Bytes of list `i`. -/
def Image.listBytes (m : Image) (i : Nat) : Nat := 2 * (m.lists.getD i []).length

/-- Bytes of the header and the handle map (R343). -/
def Image.headBytes (m : Image) : Nat := 0x40 + 2 * m.hmap.length

/-- The fill order (R346): bank offset and length in bytes of each part. -/
def Image.fillParts (m : Image) : List (Nat × Nat) :=
  (0, m.headBytes) :: (List.range 4).map (fun i => (2 * m.listStart i, min 4096 (m.listBytes i))) ++
  (List.range 4).map (fun i => (2 * m.listStart i + 4096, m.listBytes i - 4096))

/-- The part before which the sequencer may not swap (R327 step 1), in bytes of the fill order. -/
def Image.fillFirst (m : Image) : Nat := ((m.fillParts.take 5).map (·.2)).sum

/-- Bytes of the whole fill. -/
def Image.fillAll (m : Image) : Nat := (m.fillParts.map (·.2)).sum

/-- How much of the fill order ends with the first `n` units of list `i`. -/
def Image.fillEnd (m : Image) (i n : Nat) : Nat :=
  if 2 * n ≤ 4096 then ((m.fillParts.take (1 + i)).map (·.2)).sum + 2 * n
  else ((m.fillParts.take (5 + i)).map (·.2)).sum + (2 * n - 4096)

/-- Bytes of the fill order that come before the first that lies in page `j` of the image. -/
def pagePos (j : Nat) : List (Nat × Nat) → Nat
  | [] => 0
  | (a, n) :: rest =>
    if n ≠ 0 && decide (4096 * j < a + n) && decide (a < 4096 * (j + 1)) then 4096 * j - a else n + pagePos j rest

/-- Bytes of the fill order that the bank can take, as far as its pages have been read. -/
def Launch.missing (l : Launch) : Nat :=
  (l.pages.zipIdx.filter (fun p => l.wait.contains p.1)).foldl (fun a p => min a (pagePos p.2 l.image.fillParts)) l.image.fillAll

/-- The header, the handle map and the first 4 KiB of each list can have arrived: the swap may follow (R327 step 1). -/
def Launch.loaded (l : Launch) : Bool := l.image.fillFirst ≤ l.missing

/-- The first `n` units of list `i` are in the bank at cclk `t` after the swap: the fill runs at 128 bytes per cclk (R323
condition 2, R346). -/
def Launch.arrived (l : Launch) (i n t : Nat) : Bool :=
  l.image.fillEnd i n ≤ l.missing && decide (l.image.fillEnd i n ≤ l.fill + 128 * (t - l.fillAt))

/-- A page of the backing area has come: a fill that had run into its want goes on from there, after the last issue. -/
def Launch.takePage (l : Launch) (p : Nat) : Launch :=
  let now := l.lastCclk
  let l' : Launch := { l with wait := l.wait.filter (· ≠ p) }
  if l.missing ≤ l.fill + 128 * (now - l.fillAt) then { l' with fill := l.missing, fillAt := now } else l'

/-! ## Issue conditions (R323) -/

/-- The first condition that holds stream `i` back at cclk `t`, as STALL encodes it (R332); 0 when its next bundle may
issue. -/
def Cluster.stallOf (x : Cluster) (l : Launch) (half : Nat) (i t : Nat) : Nat :=
  let k := l.streams.getD i {}
  match l.next i with
  | none => 0xA
  | some b =>
    let q := 0
    let ops := b.ops l.image half x.bank l.regs q
    let sy := (b.slot 5).getD 0
    if t < k.divUntil then 0x8
    else if (match k.last with | some p => decide (t < p + max 1 b.delay) | none => false) then 0x9
    else if !l.arrived i (k.pc + b.units) t then 0x7
    else if ops.any (fun o => nth x.credits o.cls = 0 || 2048 ≤ x.ops.countP (fun p => p.cls = o.cls)) then 0x1
    else if !l.image.lane && ops.any (fun o => x.ops.any (fun p => p.stream = i && p.cls ≠ o.cls &&
        (p.writes.any (fun h => o.reads.contains h || o.writes.contains h) || p.reads.any (fun h => o.writes.contains h))))
      then 0x2
    else if b.syKind = 5 && !(match (l.queues.getD (sb sy 23 22) []) with | e :: _ => e.valid x.ops | [] => false) then 0x3
    else if b.syKind = 4 && 16 ≤ (l.queues.getD (sb sy 23 22) []).length then 0x4
    else if b.syKind = 3 && !(match k.barrierAt with | some p => decide (p < t) || k.last.isNone | none => false) then 0x5
    else if (b.syKind = 1 || b.syKind = 2) && 4 ≤ x.sync.length then 0x6
    else 0

/-- The stream that issues at cclk `t` (R299): the first in round robin, from the one after the last, that may. -/
def Cluster.chosenStream (x : Cluster) (l : Launch) (half t : Nat) : Option Nat :=
  (((List.range 4).map (fun k => (x.lastStream + 1 + k) % 4)).filter (fun i => l.used.contains i)).find?
    (fun i => x.stallOf l half i t = 0)

/-! ## Engine time (R267) -/

/-- DEFICIT saturates at the limits of its field (R268). -/
def satDeficit (d : Int) : Int := if d < -2 ^ 31 then -2 ^ 31 else if 2 ^ 31 - 1 < d then 2 ^ 31 - 1 else d

/-- The engine time of the cluster's active launch since it was last charged is added to its group's TIME, and for share
work taken from its DEFICIT; a group of weight 0 is never charged, and a launch that a pre-emption has stopped runs no
more (R267, R268). -/
def State.charge (s : State) (c : BitVec 6) : State :=
  match (s.cluster c).active with
  | none => s
  | some l =>
    if l.startFc.isNone || l.halted then s
    else
      let dt := s.fc - l.chargedFc
      let g := (s.ctx l.ctx).shareGroup.toNat
      let s := { s with yrd := { s.yrd with groups := tupd {} s.yrd.groups g (fun x => { x with
        time := x.time + BitVec.ofNat 64 dt
        deficit := if l.share && x.weight ≠ 0 then satDeficit (x.deficit - dt) else x.deficit }) } }
      s.updCluster c (fun x => { x with active := x.active.map (fun l => { l with chargedFc := s.fc }) })

/-! ## Signals (R319) -/

/-- One sync-slot signal at the Landing (R319, R224): dropped and counted where the Blaze does not allow the launch's
context; a signal of a replay passed before the hang is not passed again (R529). -/
def State.passSignal (s : State) (c : BitVec 6) (g : Sig) : State :=
  if g.suppressed then s
  else
    let k := match s.entry g.entry with | some e => e.ctx | none => kernelCtx
    let s := s.updEntry g.entry (fun e => { e with passed := e.passed + 1 })
    if s.build.blazes ≤ g.blaze.toNat || !s.blazeAdmits g.blaze k then
      s.updCluster c (fun x => { x with sigDenied := x.sigDenied + 1 })
    else s.blazeUpdate g.blaze ⟨3, c.toNat, if g.set then .set g.value else .inc g.value⟩

/-- Signals pass in issue order, each once its FLUSHED has arrived and those before it have passed; they wait while a
front-end reset is in progress (R319, R533). -/
def State.passSignals (s : State) (c : BitVec 6) : State :=
  if s.fwc.feBusy then s
  else
    let l := (s.cluster c).sigs
    let now := l.takeWhile (fun g => g.tag.isNone)
    (s.updCluster c (fun x => { x with sigs := l.drop now.length })).each now (fun s g => s.passSignal c g)

/-! ## Launch starts -/

/-- The operand copy of a launch: descriptors and scalar image (R312). -/
def State.operandCopy (s : State) (c : BitVec 20) (l : LaunchOp) : Option OpCopy :=
  s.hau.copies.find? (fun k => k.ctx = c && k.desc = l.desc && k.sdata = l.sdata)

/-- Data memory from bytes, word by word (R313). -/
def memOfBytes (b : List Byte) : Tbl W32 :=
  (List.range ((b.length + 3) / 4)).foldl (fun m i => tset 0 m i (BitVec.ofNat 32 (le b (4 * i) 4))) []

/-- The scalar image of a launch, with ARG in its first 8 bytes when ARG_SDATA is set (R286, R313). -/
def Entry.scalarImage (e : Entry) (b : List Byte) : List Byte :=
  if e.kind = kGraphNode && bit e.pkt 13 then
    toBytes 8 (imgWord e.img 6).toNat ++ b.drop 8
  else b

/-- The streams at the start of replay 0 (R327 step 4); a stream with an empty list has nothing to issue. -/
def Image.startStreams (m : Image) : List SeqStream :=
  (List.range 4).map (fun i => { done := (m.lists.getD i []).isEmpty })

/-- The INIT entries of the data queues (R321). -/
def Image.initQueues (m : Image) : List (List QEnt) :=
  (List.range 4).map (fun q => List.replicate (nth m.init q) { value := 0, classes := 0, stream := 0, upto := 0 })

/-- The binding a launch names, READY (R338). -/
def State.bindingReady (s : State) (x : Entry) : Bool :=
  match s.bindingOf x with | some b => b.state = .ready | none => false

/-- The status of a failed load that a launch names (R338). -/
def State.bindingFailed (s : State) (x : Entry) : Option (BitVec 8) :=
  match s.bindingOf x with
  | some b => if b.state = .failed then some b.status else none
  | none => none

/-- What a launch needs from the operand copy is held (R312), or it resumes from a LAUNCH slice. -/
def State.operandsHeld (s : State) (x : Entry) : Bool :=
  x.slice.isSome || x.launch.noCopy || s.copyHeld x.ctx x.launch

/-- A launch as the shadow bank takes it, from the program cache and the operand copy (R327 step 1); the pages that the
cache does not hold are still to be read (R345). -/
def State.buildLaunch (s : State) (e : Nat) (x : Entry) (tabled share : Bool) : Launch :=
  let l := x.launch
  let b : Option Binding := s.bindingOf x
  let m : Image := match b with | some b => b.image | none => {}
  let pages : List Nat := match b with | some b => b.pages | none => []
  let k := s.operandCopy x.ctx l
  let descs := match k with | some k => k.descs | none => []
  let img := match k with | some k => k.image | none => []
  { entry := e, ctx := x.ctx, replays := l.replays, serial := x.serial, image := m
    mem := memOfBytes (x.scalarImage img)
    queues := m.initQueues, streams := m.startStreams
    descs := m.hmap.map (fun h => if h.toNat < l.desc.2.2 then BitVec.ofNat 512 (le descs (64 * h.toNat) 64) else 0)
    pages, wait := pages.filter (fun p => !s.lnd.cached.any (fun y => y.1 = p)), tabled, share, suppress := x.passed, chain := x.chain }

/-- A page of the backing area is being read. -/
def State.pageComing (s : State) (p : Nat) : Bool := (s.mp.txns ++ s.mp.waiting).any (fun t => t.purpose = .backPage p)

/-- The pages of a launch's image and its operand copy are used now (R345); pages that the program cache does not hold are
read from the backing area, as traffic of the launch's context with the attributes of RING (R344). Haul engine 0 carries
the reads (notes/assumptions/65). -/
def State.fetchPages (s : State) (l : Launch) : State :=
  let n := s.lnd.cacheStamp
  let desc := match s.entry l.entry with | some x => some x.launch | none => none
  let s : State := { s with
    lnd := { s.lnd with
      cached := s.lnd.cached.map (fun (p : Nat × Nat) => if l.pages.contains p.1 then (p.1, n) else p), cacheStamp := n + 1 }
    hau := { s.hau with copies := s.hau.copies.map (fun (k : OpCopy) =>
      if k.ctx = l.ctx && (match desc with | some d => k.desc = d.desc && k.sdata = d.sdata | none => false)
      then { k with stamp := n } else k) } }
  s.each l.wait (fun s p =>
    if s.pageComing p then s
    else s.mpRead (some (s.ctx l.ctx).partition) 0 (4096 * (s.lnd.backPfn.toNat + p)) 4096 3 3 8 (.backPage p))

/-- The image of the chained launch `e` is fetched ahead, as it claims the shadow bank (R330). -/
def State.fetchChain (s : State) (e : Option Nat) : State :=
  match e with
  | none => s
  | some i =>
    match s.entry i with
    | some y => if s.bindingReady y then s.fetchPages (s.buildLaunch i y false false) else s
    | none => s

/-- The LAUNCH beat (R82): CONTEXT, SERIAL, MODE and the context's windows up to the engine's WINDOWS count. -/
def State.launchBeat (s : State) (l : Launch) : W512 :=
  let w := match s.residentSlot l.ctx with | some r => (s.resSlot r).desc.windows | none => []
  let n := capWindows s.fwc.caps
  BitVec.ofNat 512 (l.ctx.toNat + l.serial.toNat * 2 ^ 32 + b2n l.image.lane * 2 ^ 64 +
    ((List.range 6).map (fun i => if i < n then (w.getD i 0).toNat * 2 ^ (64 * i + 128) else 0)).sum)

/-- The bank swap and the beats of R327 steps 2 and 3 for launch `l`, which becomes active. How much of the fill had reached
the bank by then, from the part that R327 asks for to the whole, is a free value (notes/assumptions/39). -/
def State.swapIn (s : State) (c : BitVec 6) (l : Launch) : State :=
  let half := capDescSlots s.fwc.caps / 2
  let beat := s.launchBeat l
  let p := s.freshWord
  let least := l.image.fillFirst
  let l : Launch := { l with fill := least + p.1.toNat % (l.image.fillAll - least + 1) }
  let s := p.2
  let s := s.updCluster c (fun x =>
    let bank := !x.bank
    Cluster.settle (Cluster.sendDescs { x with
      bank, active := some l, shadow := none, chainNext := none, stall := 0, preempt := false, tokenFail := false
      isKind := 2, isAux := 0, isData := beat, isBeats := x.isBeats + 1, credits := x.credits.set 4 (nth x.credits 4 - 1)
      descQ := l.descs.mapIdx (fun j d => (BitVec.ofNat 16 (b2n bank * half + j), d)) }))
  ((s.updEntry l.entry (fun y => { y with place := .active c })).count (64 + c.toNat)).fetchChain l.chain

/-- A launch may start on the cluster now: engine ACTIVE, no active launch, no switch, an AUX credit, and no pending
chained launch ahead of it (R248, R327, R330). -/
def Cluster.canStart (x : Cluster) : Bool :=
  x.link = .active && x.active.isNone && x.switch.isNone && x.hangWait.isNone && 1 ≤ nth x.credits 4

/-- LAUNCH_START (R327): the launch in the shadow bank, released by its placement, becomes active once the part of its image
that the swap needs can have arrived. -/
def execLaunchStart (c : BitVec 6) (s : State) : Host.Outcome State Fault Refusal :=
  let x := s.cluster c
  .next (match x.shadow with
    | none => s
    | some l =>
      match s.entry l.entry with
      | none => s
      | some e =>
        if x.canStart && x.chainNext.isNone && e.state = .issued && l.loaded && s.fwc.dumping.isNone then
          s.swapIn c { l with suppress := if l.resumed then l.suppress else e.passed }
        else s)

/-! ## BUNDLE_ISSUE -/

/-- The special values of SRD (R316). -/
def srdValue (c : BitVec 6) (l : Launch) (t : SeqStream) (cclk : Nat) (k : Nat) : W32 :=
  match k with
  | 0 => BitVec.ofNat 32 t.replay
  | 1 => BitVec.ofNat 32 l.replays
  | 2 => c.setWidth 32
  | 3 => l.ctx.setWidth 32
  | 4 => l.serial
  | 5 => BitVec.ofNat 32 cclk
  | _ => 0

/-- The OPS beat of a bundle's operations (R81). -/
def opsBeat (seqs : List (BitVec 12)) (l : List OpWord) : W512 :=
  BitVec.ofNat 512 ((l.map (fun o =>
    (2 ^ 127 + (seqs.getD o.cls 0).toNat * 2 ^ 96 + o.word % 2 ^ 96) * 2 ^ (128 * o.cls))).sum)

/-- The engine slots issue (R81, R84, R299): credits, SEQ numbers and the outstanding operations. -/
def Cluster.issueOps (x : Cluster) (stream : Nat) (l : List OpWord) : Cluster :=
  if l.isEmpty then x
  else { x with
    isKind := 0, isAux := 0, isData := opsBeat x.seqs l, isBeats := x.isBeats + 1
    credits := l.foldl (fun k o => k.set o.cls (nth k o.cls - 1)) x.credits
    seqs := l.foldl (fun k o => k.set o.cls (k.getD o.cls 0 + 1)) x.seqs
    ops := x.ops ++ l.map (fun o =>
      { cls := o.cls, seq := x.seqs.getD o.cls 0, stream, reads := o.reads, writes := o.writes, ord := x.opOrd })
    opOrd := x.opOrd + 1 }

/-- The SY slot acts on the queues (R321): QPUSH reserves an entry, QPOP removes the head. -/
def Launch.syQueues (l : Launch) (stream : Nat) (sy : Nat) (upto : Nat) : Launch :=
  let q := sb sy 23 22
  if sb sy 31 28 = 4 then
    let v : W32 := if sb sy 21 21 = 1 then (if sb sy 20 16 = 0 then 0 else l.regs.toList.getD (sb sy 20 16) 0)
                   else BitVec.ofNat 32 (l.streams.getD stream {}).replay
    { l with queues := listUpd l.queues q (fun k => k ++ [{ value := v, classes := BitVec.ofNat 4 (sb sy 27 24), stream, upto }]) }
  else if sb sy 31 28 = 5 then { l with queues := listUpd l.queues q (fun k => k.drop 1) }
  else l

/-- The stream moves past bundle `b` issued at `t` (R300, R317, R322, R328). -/
def SeqStream.advance (k : SeqStream) (b : Bundle) (t replays : Nat) (lane preempt : Bool) (target : Nat) : SeqStream :=
  let y := if b.syKind = 6 then k.yields + 1 else k.yields
  let k := { k with pc := k.pc + b.units, last := some t, barrierAt := none, yields := y
                    divUntil := match b.slot 0 with | some w => if isDivide w then t + 16 else k.divUntil | none => k.divUntil }
  let stopY := lane && preempt && b.syKind = 6 && y = target
  if b.last then
    if k.replay + 1 = replays then { k with done := true }
    else if lane then { k with atBoundary := true, stopped := stopY || (preempt && decide (y < target)) }
    else { k with pc := 0, replay := k.replay + 1, yields := 0, stopped := preempt && decide (target ≤ k.replay) }
  else { k with stopped := stopY }

/-- A late tabled start (R259, R260, R266): the start fc more than 4,000 fc after the instant. CAUSE is the first
condition of R259 that failed. -/
def State.rtStarted (s : State) (i : Nat) : State :=
  match s.yrd.windows.find? (fun w => w.launch = some i &&
      (match s.entry i with | some e => e.kind ≠ kChained | none => false)) with
  | none => s
  | some w =>
    let d := s.fc - w.instant
    if d ≤ 4000 then s
    else
      let ready := match s.entry i with | some e => e.readyAt | none => 0
      let cause : Nat := if w.instant < ready + 4000 then 1 else if !w.switched then 2
        else if !w.loaded then 3 else 4
      let word : W64 := BitVec.ofNat 64 (w.entry * 2 ^ 52 + cause * 2 ^ 48 + min d 0xFFFFFFF)
      State.raise { s with yrd := { s.yrd with late := s.yrd.late + 1, lateLog := word } } 0x00C

/-- The first-issue report of a launch is stamped (R22): its start fc, and a late tabled start. -/
def State.stampStart (s : State) (i : Nat) : State :=
  (s.updEntry i (fun e => { e with startFc := s.fe.cycles, unstamped := false })).rtStarted i

/-- A launch has issued a bundle: the report of its first waits during a front-end reset (R22, R533). -/
def State.firstIssue (s : State) (i : Nat) : State :=
  match s.entry i with
  | none => s
  | some e =>
    if e.begun then s
    else
      let s := s.updEntry i (fun e => { e with begun := true, unstamped := s.fwc.feBusy })
      if s.fwc.feBusy then s else s.stampStart i

/-- The first-issue reports that have waited for a front-end reset to end (R533 step 5). -/
def State.stampWaiting (s : State) : State :=
  s.each ((s.lnd.entries.filter (fun p => p.2.unstamped)).map (·.1)) State.stampStart

/-- The bundle of stream `i` issues whole at cclk `t` (R299): S executes on the registers as they stood, SY acts, the
engine slots form one OPS beat. -/
def State.issueBundle (s : State) (c : BitVec 6) (l : Launch) (i t : Nat) (b : Bundle) : State :=
  let x := s.cluster c
  let half := capDescSlots s.fwc.caps / 2
  let k := l.streams.getD i {}
  let sy := (b.slot 5).getD 0
  let popped : W32 := match l.queues.getD (sb sy 23 22) [] with | e :: _ => e.value | [] => 0
  let ops := b.ops l.image half x.bank l.regs popped.toNat
  let scalar := match b.slot 0 with
    | some w => execS w (srdValue c l k t) l.regs l.mem
    | none => (l.regs, l.mem)
  let x := x.issueOps i ops
  let l1 := l.syQueues i sy x.opOrd
  let regs := if b.syKind = 5 then regSet scalar.1 (sb sy 20 16) popped else scalar.1
  let classes : BitVec 4 := BitVec.ofNat 4 (sb sy 27 24)
  let pair : W64 := (l.regs.toList.getD (sb sy 7 3 + 1) 0) ++ (if sb sy 7 3 = 0 then 0 else l.regs.toList.getD (sb sy 7 3) 0)
  let signal := b.syKind = 1 || b.syKind = 2
  let sig : Sig := { blaze := BitVec.ofNat 16 (sb sy 23 8), set := b.syKind = 2
                     value := if b.syKind = 2 then pair else BitVec.ofNat 64 (sb sy 7 0)
                     tag := if classes = 0 then none else some x.tag, entry := l.entry, suppressed := 0 < l.suppress }
  let x := if signal then { x with sigs := x.sigs ++ [sig] } else x
  let x := if signal && classes ≠ 0 then x.sendSync false classes false else x
  let l2 : Launch := { l1 with
    regs, mem := scalar.2, suppress := if signal then l.suppress - 1 else l.suppress
    startFc := some (l.startFc.getD s.fc), chargedFc := if l.startFc.isNone then s.fc else l.chargedFc
    streams := listUpd l1.streams i (fun k => k.advance b t l.replays l.image.lane x.preempt x.target) }
  let x := { x with active := some l2, bundles := x.bundles + 1, lastStream := i, stall := 0 }
  let s := s.updCluster c (fun _ => x.settle)
  (s.firstIssue l.entry).passSignals c

/-- BUNDLE_ISSUE (R299): at cclk `cclk` of its launch, counted from the bank swap, the cluster issues a bundle of
`stream`, if that is the stream the round robin takes; a cclk in which no stream may issue leaves in STALL the reason of
`stream`, or of the lowest stream that waits. Owed DESC beats go out first (R311, R327). -/
def execBundleIssue (c : BitVec 6) (stream : BitVec 2) (cclk : Nat) (s : State) : Host.Outcome State Fault Refusal :=
  let x := s.cluster c
  .next (match x.active with
    | none => s
    | some l =>
      let half := capDescSlots s.fwc.caps / 2
      let fresh := l.streams.all (fun t => match t.last with | some k => decide (k < cclk) | none => true)
      if x.link ≠ .active || x.tokenFail || x.hangWait.isSome || s.fwc.dumping.isSome || !fresh || !x.descQ.isEmpty then s
      else match x.chosenStream l half cclk with
        | some i =>
          if i = stream.toNat then
            match l.next i with | some b => s.issueBundle c l i cclk b | none => s
          else s
        | none =>
          let w := l.used.filter (fun (i : Nat) => (l.next i).isSome)
          let idle := l.used.map (fun i => l.streams.getD i {})
          match w with
          | [] => if idle.any (fun t => t.atBoundary && !t.stopped) then s.updCluster c (fun x => { x with stall := 5 })
              else if idle.any (·.stopped) then s.updCluster c (fun x => { x with stall := 0xA }) else s
          | j :: _ =>
            let i := if w.contains stream.toNat then stream.toNat else j
            s.updCluster c (fun x => { x with stall := BitVec.ofNat 4 (x.stallOf l half i cclk) }))

/-! ## LAUNCH_COMPLETE -/

/-- The chained launch of a launch that has reported OK is ready, and its operand copy is obtained (R177, R312). -/
def State.chainReady (s : State) (e : Nat) : State :=
  match s.entry e with
  | some y => if y.state = .pending then
      (s.updEntry e (fun y => { y with state := .ready, readyAt := s.fc })).obtainCopy e y else s
  | none => s

/-- The launch has ended with OK (R329 step 4): its report, held while the control core restarts (R477), and what follows on the cluster: the chained launch, or in a
recovery the next suspect (R529). -/
def State.completeLaunch (s : State) (c : BitVec 6) (l : Launch) : State :=
  let s := s.charge c
  let s := if (s.proc (3 + c.toNat)).state = .running then s.report l.entry 0x00 false
    else s.updCluster c (fun x => { x with heldEnds := x.heldEnds ++ [l.entry] })
  let s := match l.chain with | some k => s.chainReady k | none => s
  match (s.cluster c).recovery with
  | some r =>
    let todo := match l.chain with
      | some k => if r.todo.any (fun p => p.2 = k) then r.todo else (.chained, k) :: r.todo
      | none => r.todo
    let r' : Recovery := { r with now := none, todo }
    let s := match (s.cluster c).ctx, (s.cluster c).slice with
      | some k, some i => s.setSlice k i .empty
      | _, _ => s
    let s := s.updCluster c (fun x => { x with
      active := none, preempt := false, stall := 0, ctx := none, slice := none, recovery := some r' })
    if todo.isEmpty then s.updCluster c (Cluster.sendSync true 15 false)
    else s.updCluster c Cluster.linkReset
  | none => s.updCluster c (fun x => { x with active := none, preempt := false, stall := 0, chainNext := l.chain })

/-! ## DONE and FLUSHED -/

/-- A launch whose operation answered WINDOW or POISON is reported failed once every operation is DONE (R87); its context
is torn down. While a front-end reset is in progress, or the control core restarts, the report waits (R533, R477). -/
def State.failLaunch (s : State) (c : BitVec 6) : State :=
  let x := s.cluster c
  match x.active with
  | some l =>
    if x.tokenFail && x.ops.isEmpty && !s.fwc.feBusy && (s.proc (3 + c.toNat)).state = .running then
      let s := (s.charge c).report l.entry 0x08 false
      let s := s.updCluster c (fun x => { x with
        active := none, tokenFail := false, preempt := false
        recovery := x.recovery.map (fun r => { r with now := none }) })
      s.teardown l.ctx 0x08
    else s
  | none => s

/-- One token of a DONE beat of epoch `epoch` (R85, R87); once a protocol error has reset the link the rest of the beat is old. -/
def State.doneLane (s : State) (c : BitVec 6) (epoch : BitVec 8) (lane : Nat) (tok : Nat) : State :=
  let x := s.cluster c
  if x.epoch ≠ epoch || !x.rstN then s
  else if x.link = .loopback then s.loopToken c lane tok
  else match x.ops.findIdx? (fun o => o.cls = lane) with
    | none => s.protocolError c 0x03 false
    | some i =>
      match x.ops[i]? with
      | none => s
      | some o =>
        if o.seq.toNat ≠ tok % 4096 then s.protocolError c 0x02 false
        else
          let st := tok / 2 ^ 13
          if 3 ≤ st then s.protocolError c 0x0A false
          else s.updCluster c (fun x => { x with
            ops := x.ops.eraseIdx i
            tokenFail := x.tokenFail || decide (st ≠ 0)
            sigs := if st ≠ 0 then x.sigs.takeWhile (fun g => g.tag.isNone) else x.sigs })

/-- DONE_TOKEN (R87): a beat of an old epoch is dropped whole and counted; else each lane's token completes the oldest
operation of its class, or is a protocol error; in LOOPBACK it is compared. -/
def execDoneToken (c : BitVec 6) (valid : BitVec 4) (data : W64) (epoch : BitVec 8) (s : State) :
    Host.Outcome State Fault Refusal :=
  let x := s.cluster c
  .next (if !x.rstN then s
    else if epoch ≠ x.epoch then s.dropLate c
    else
      let s := s.each ((List.range 4).filter (fun k => valid.getLsbD k)) (fun s k =>
        s.doneLane c epoch k (bits data (16 * k + 15) (16 * k)))
      (s.updCluster c Cluster.settle).failLaunch c)

/-- FLUSHED (R88, R89), or a SYNC response of a reserved KIND, which matches no request: the oldest request, if it is a taken FLUSH of the same TAG, is answered: the signal that waits for it
goes on, or is discarded after a failing token, or the final FLUSH is done; anything else is SYNC_ORDER. In LOOPBACK it is
compared (R98). -/
def execFlushed (c : BitVec 6) (msg : W32) (s : State) : Host.Outcome State Fault Refusal :=
  let x := s.cluster c
  .next (if bits msg 31 28 = 2 || bits msg 31 28 = 15 || !x.rstN then s
    else if msg.extractLsb' 16 8 ≠ x.epoch then s.dropLate c
    else if x.link = .loopback && bits msg 31 28 = 1 then s.loopSync c false msg
    else if bits msg 31 28 ≠ 1 then s.protocolError c (if x.link = .loopback then 0x0B else 0x0D) false
    else match x.sync with
      | [] => s.protocolError c 0x0D false
      | r :: rest =>
        if r.yield || !r.taken || decide (msg.extractLsb' 0 16 ≠ r.tag) then s.protocolError c 0x0D false
        else
          let s := s.updCluster c (fun x => { x with
            sync := rest
            active := if r.final then x.active.map (fun l => { l with flushDone := true }) else x.active
            sigs := if r.final then x.sigs else x.sigs.map (fun g => if g.tag = some r.tag then { g with tag := none } else g) })
          s.passSignals c)

end Sys2Proof.Machine
end

