-- ==== Sys2Proof/Machine/Evict.lean ====
section
/-! DEFINITION. Slices of a save area (R448 to R453), the beginning of a switch (R446), streams that park (R365), and
residency: evictions (R461) and the loads that wait for them (R111, R114). -/

namespace Sys2Proof.Machine

/-! ## Slices (R448 to R453) -/

/-- The physical address of offset `off` of slice `i` of a context's save area (R448). -/
def State.slicePa (s : State) (k : BitVec 20) (i off : Nat) : Nat :=
  match s.residentSlot k with
  | some r => (s.resSlot r).desc.savePa.toNat + i * sliceStride s.fwc.caps + off
  | none => off

/-- SAVE_ATTR of a resident context (R106). -/
def State.saveAttr (s : State) (k : BitVec 20) : BitVec 8 :=
  match s.residentSlot k with | some r => (s.resSlot r).desc.saveAttr | none => 1

/-- The save channel of a cluster (R368). -/
def State.saveSource (s : State) (c : BitVec 6) : BitVec 6 := BitVec.ofNat 6 (c.toNat % s.build.haulEngines)

/-- A write of save traffic (R41, R368). -/
def State.saveOut (s : State) (c : BitVec 6) (k : BitVec 20) (i off : Nat) (data : List Byte) : State :=
  let rows := (s.cluster c).upLost
  (s.updCluster c (fun x => { x with upLost := [] })).mpWrite (some (s.ctx k).partition) (s.saveSource c)
    (s.slicePa k i off) 2 (awCache (s.saveAttr k)) 8 data
    (if rows.isEmpty then [] else (List.range data.length).map (fun i => rows.contains (i / 512))) (.saveWrite c k i)

/-- A read of restore traffic (R41, R368). -/
def State.restoreIn (s : State) (c : BitVec 6) (k : BitVec 20) (i off len : Nat) : State :=
  s.mpRead (some (s.ctx k).partition) (s.saveSource c) (s.slicePa k i off) len 2 (arCache (s.saveAttr k)) 8
    (.restoreRead c off)

/-- Bytes that an engine's save channel holds for each cluster it serves: an equal share of 64 KiB, at most 16 KiB (R368). -/
def Build.channelShare (b : Build) : Nat := min 16384 (65536 / max 1 (b.clusters / b.haulEngines))

/-- Bytes of a cluster's save burst writes that are not yet answered: they stay in the channel (R368). -/
def State.channelHeld (s : State) (c : BitVec 6) : Nat :=
  ((s.mp.txns ++ s.mp.waiting).map (fun t => match t.purpose with | .saveWrite a _ _ => if a = c then t.len else 0 | _ => 0)).sum

/-- Save writes of a slice not yet answered. -/
def State.saveOutstanding (s : State) (k : BitVec 20) (i : Nat) : Bool :=
  (s.mp.txns ++ s.mp.waiting).any (fun t => match t.purpose with | .saveWrite _ a b => a = k && b = i | _ => false)

/-- Restore reads of a cluster not yet answered, below or from an offset of the slice. -/
def State.restoreOutstanding (s : State) (c : BitVec 6) : Bool :=
  (s.mp.txns ++ s.mp.waiting).any (fun t => match t.purpose with | .restoreRead a _ => a = c | _ => false)

/-- A HELD slice that no cluster holds any longer and whose last save write has received OKAY becomes LAUNCH, if a
pre-empted launch is bound to it, or IMAGE (R452). -/
def State.settleSlice (s : State) (k : BitVec 20) (i : Nat) : State :=
  match s.residentSlot k with
  | none => s
  | some r =>
    if (s.resSlot r).slices.getD i .empty = .held && !s.saveOutstanding k i &&
        !s.clusters.any (fun p => p.2.ctx = some k && p.2.slice = some i) then
      s.setSlice k i (if (s.ctxEntries k).any (fun p => p.2.slice = some i) then .launch else .image)
    else s

/-! ## Beginning a switch -/

/-- A switch of cluster `c` begins (R446): with a held context it is switched out first. -/
def State.beginSwitch (s : State) (c : BitVec 6) (cause : SwCause) (into : Option (BitVec 20)) (entry : Option Nat) : State :=
  let ctx := (s.cluster c).ctx
  let num (k : Option (BitVec 20)) : Nat := match k with | some k => k.toNat | none => 0
  let s := if (s.cluster c).switch.isSome then s else s.trace 3 (3 + c.toNat) 0x0005 [c.toNat, num ctx, num into, cause.code]
  let w : Switch := { phase := if ctx.isSome then .stopping else .saved, cause, into, entry, outSlice := none
                      inSlice := none, writes := 0, suppressed := false, fail := none }
  s.updCluster c (fun x => if x.switch.isSome then x else { x with switch := some w })

/-- A launch in the shadow bank that has not started is withdrawn and returns to the Yarder (R250). -/
def State.withdrawShadow (s : State) (c : BitVec 6) : State :=
  match (s.cluster c).shadow with
  | none => s
  | some l => (s.updCluster c (fun x => { x with shadow := none })).returnLaunch l.entry

/-- A chained launch that cannot start yet does not hold back a switch: it stays on its cluster until it can (R177, R447,
notes/assumptions/45). -/
def State.keepChain (s : State) (c : BitVec 6) : State :=
  match (s.cluster c).chainNext with
  | none => s
  | some e => (s.updCluster c (fun x => { x with chainNext := none, chainWait := x.chainWait ++ [e] })).updEntry e
      (fun y => { y with place := .chained c })

/-! ## Evictions -/

/-- A context is RESIDENT in its slot, and not being evicted (R110). -/
def State.isResident (s : State) (k : BitVec 20) : Bool :=
  match s.residentSlot k with | some r => (s.resSlot r).state = .resident | none => false

/-- Streams of a context park (R365): those with no chunk in flight at once. -/
def State.parkStreams (s : State) (k : BitVec 20) : State :=
  let mine (x : Stream) : Bool := x.ctx = k && x.kind.stops && !x.stopping
  let now := s.hau.streams.filter (fun (p : Nat × Stream) => mine p.2 && p.2.chunks.isEmpty)
  { s with hau := { s.hau with
      streams := (s.hau.streams.filter (fun (p : Nat × Stream) => !(mine p.2 && p.2.chunks.isEmpty))).map
        (fun (p : Nat × Stream) => if mine p.2 then (p.1, { p.2 with parking := true }) else p)
      parked := s.hau.parked ++ now.map (fun (p : Nat × Stream) =>
        { key := p.2.ident.getD p.1, stream := { p.2 with parking := false, ident := none }, marked := false }) } }

/-- A load of a context begins in residency slot `r` (R110, R111): an internal stream reads its descriptor page. -/
def State.beginLoad (s : State) (k : BitVec 20) (r : Nat) : State :=
  let s := s.trace 1 procSched 0x0003 [k.toNat, r, 0, 0]
  let x : ResSlot := { state := .loading, ctx := k }
  let s := s.updRes r (fun _ => x)
  let s := s.updCtx k (fun y => { y with resident := true, resSlot := BitVec.ofNat 6 r })
  let i : Internal := { kind := .descriptor k, entry := 0, ctx := k, desc := 0
                        srcVa := 4096 * (s.ctx k).descPfn.toNat, len := 4096 }
  { s with hau := { s.hau with internal := s.hau.internal ++ [i] } }

/-- A free residency slot. -/
def State.freeRes (s : State) : Option Nat := (List.range 64).find? (fun r => (s.resSlot r).state = .free)

/-- The oldest load that waits begins in a free slot (R111). -/
def State.startWaiting (s : State) : State :=
  match s.res.waiting.dropWhile (fun k => !(decide ((s.ctx k).state = .active) && !(s.ctx k).resident)), s.freeRes with
  | k :: rest, some r => State.beginLoad { s with res := { s.res with waiting := rest } } k r
  | _, _ => s

/-- A residency slot becomes FREE (R110). -/
def State.freeResidency (s : State) (r : Nat) : State :=
  let k := (s.resSlot r).ctx
  (((s.updRes r (fun _ => {})).updCtx k (fun y => { y with resident := false, resSlot := 0 })).settle k).startWaiting

/-- Something of an evicted context still runs: a cluster, a recovery, a stream, a slice or its writes. -/
def State.evictBusy (s : State) (k : BitVec 20) (r : Nat) : Bool :=
  let mine (e : Nat) : Bool := match s.entry e with | some x => decide (x.ctx = k) | none => false
  s.clusters.any (fun p => p.2.ctx = some k || (match p.2.switch with | some w => decide (w.into = some k) | none => false) ||
    (match p.2.recovery with | some y => (y.now.toList ++ y.todo).any (fun q => mine q.2) | none => false)) ||
  s.hau.streams.any (fun p => p.2.ctx = k && p.2.kind.stops) ||
  (s.resSlot r).slices.any (· = .held) ||
  (s.mp.txns ++ s.mp.waiting).any (fun t => match t.purpose with
    | .saveWrite _ a _ => a = k | .maskWrite a => a = k | .maskRead a => a = k | _ => false)

/-- The masks of the slices in a state (R453). -/
def sliceMask (l : List SliceState) (v : SliceState) : Nat :=
  (l.mapIdx (fun i x => if x = v then 2 ^ i else 0)).sum

/-- An eviction goes on (R461): launches are withdrawn or pre-empted, idle clusters switched out, streams parked; with all
of that done the masks go out, if a switch-in took place, and the slot becomes FREE. A cluster whose control core
restarts begins no switch (R464), and one in hang recovery goes on with its replays. -/
def State.evictStep (s : State) (r : Nat) : State :=
  let k := (s.resSlot r).ctx
  if (s.resSlot r).state ≠ .evicting then s
  else
    let s := s.each s.allClusters (fun s c =>
      let x := s.cluster c
      if x.recovery.isSome || x.hangWait.isSome then s
      else match x.switch with
        | some w =>
          if w.into = some k && x.ctx ≠ some k then
            (s.withdrawShadow c).updCluster c (fun x => { x with switch := some { w with into := none, entry := none } })
          else s
        | none =>
          if x.ctx = some k && (s.proc (3 + c.toNat)).state = .running then
            (s.withdrawShadow c).beginSwitch c .evict none none
          else s)
    let s := s.parkStreams k
    if s.evictBusy k r then s
    else
      let y := s.resSlot r
      if y.switchedIn then
        let b := toBytes 8 (sliceMask y.slices .image) ++ toBytes 8 (sliceMask y.slices .launch)
        let c := ((s.ctx k).lastCluster).getD 0
        (s.updRes r (fun y => { y with switchedIn := false })).mpWrite (some (s.ctx k).partition) (s.saveSource c)
          (s.slicePa k 0 0x200) 2 (awCache (s.saveAttr k)) 8 b [] (.maskWrite k)
      else s.freeResidency r

/-- Every eviction in progress goes on as far as it can (R461). -/
def State.evictions (s : State) : State :=
  s.each ((s.res.slots.filter (fun p => p.2.state = .evicting)).map (·.1)) (fun s r => s.evictStep r)

/-- A resident context is evicted (R110, R461); one still loading when CONTEXT_DESTROY comes is freed when its read ends. -/
def State.beginEvict (s : State) (k : BitVec 20) : State :=
  match s.residentSlot k with
  | some r => if (s.resSlot r).state = .resident then
      ((s.trace 1 procSched 0x0003 [k.toNat, r, 1, 0]).updRes r (fun x => { x with state := .evicting })).evictStep r else s
  | none => s

end Sys2Proof.Machine
end

