-- ==== Sys2Proof/Machine/Windows.lean ====
section
/-! DEFINITION. Reservation windows as they go on (R258 steps 1 to 3), with what they need of clusters, launches and table
entries (R251, R253). -/

namespace Sys2Proof.Machine

/-! ## Clusters and launches -/

/-- The cluster holds no launch and switches nothing. -/
def Cluster.empty (x : Cluster) : Bool :=
  x.active.isNone && x.shadow.isNone && x.chainNext.isNone && x.switch.isNone && x.recovery.isNone && x.hangWait.isNone

/-- A launch waits to be placed (R220, R250): READY, or returned; a chained launch is placed only when it has returned
(R177). -/
def State.waiting (s : State) (x : Entry) : Bool :=
  x.actKind = kLaunch && x.report.isNone && !x.torn && (s.ctx x.ctx).state = .active &&
  (x.place = .returned || (x.place = .none_ && x.state = .ready && x.kind ≠ kChained))

/-- A waiting launch can be placed: its context is resident, its program loaded, its operands held (R111, R338, R312). -/
def State.placeable (s : State) (x : Entry) : Bool :=
  s.waiting x && s.isResident x.ctx && s.bindingReady x && s.operandsHeld x

/-! ## Open windows -/

/-- QUEUE of a table entry (R253). -/
def rtQueue (e : BitVec 128) : BitVec 14 := e.extractLsb' 114 14
/-- CLUSTER. -/
def rtCluster (e : BitVec 128) : Nat := bits e 113 108
/-- FIRST. -/
def rtFirst (e : BitVec 128) : Nat := bits e 107 100
/-- STRIDE. -/
def rtStride (e : BitVec 128) : Nat := bits e 99 92
/-- OFFSET. -/
def rtOffset (e : BitVec 128) : Nat := bits e 91 64
/-- LENGTH. -/
def rtLength (e : BitVec 128) : Nat := bits e 63 36
/-- LEAD. -/
def rtLead (e : BitVec 128) : Nat := bits e 35 8

/-- The launch of the entry's queue that a firing preloads (R258): READY, not in the table's hands, its program loaded. -/
def State.tabledReady (s : State) (q : BitVec 14) : Option (Nat × Entry) :=
  leastBy (fun (p : Nat × Entry) => p.2.ord) (s.lnd.entries.filter (fun p => p.2.queue = q && p.2.kind ≠ kGraphNode &&
    decide (p.2.place = .none_) && s.placeable p.2 && !s.yrd.windows.any (fun w => w.launch = some p.1)))

/-- The shadow bank holds a launch that is not tabled. -/
def Cluster.shadowUntabled (x : Cluster) : Bool := match x.shadow with | some l => !l.tabled | none => false

/-- The shadow bank holds the launch. -/
def Cluster.shadowIs (x : Cluster) (e : Option Nat) : Bool :=
  match x.shadow with | some l => decide (e = some l.entry) | none => false

/-- Slices of a context that a placed launch may take: IMAGE or EMPTY, kept for no pre-empted launch, less those promised
to clusters that are about to switch to it (R452, R123). -/
def State.spareSlices (s : State) (k : BitVec 20) : Nat :=
  match s.residentSlot k with
  | none => 0
  | some r =>
    let l := (s.resSlot r).slices
    let free := (List.range l.length).countP (fun i =>
      (l.getD i .held = .image || l.getD i .held = .empty) && !(s.ctxEntries k).any (fun p => p.2.slice = some i))
    let promised := s.clusters.countP (fun p => p.2.ctx ≠ some k && (match p.2.switch with
      | some w => w.into = some k && (match w.entry.bind s.entry with | some y => y.slice.isNone | none => true)
      | none => false))
    free - promised

/-- The cluster's pending chained launch belongs to a firing of the real-time table (R258 step 5). -/
def State.chainTabled (s : State) (x : Cluster) : Bool :=
  match x.chainNext with
  | none => false
  | some e =>
    let first := match s.entry e with | some y => y.chainOf.getD e | none => e
    s.yrd.windows.any (fun w => w.launch = some first || w.launch = some e)

/-- The cluster's pending chained launch needs nothing more to start (R330, R338, R312). -/
def State.chainCanStart (s : State) (x : Cluster) : Bool :=
  match x.chainNext.bind s.entry with | some y => s.bindingReady y && s.operandsHeld y && !y.torn | none => false

/-- An update of window `n`. -/
def State.updWindow (s : State) (n : Nat) (f : Window → Window) : State :=
  { s with yrd := { s.yrd with windows := s.yrd.windows.modify n f } }

/-- Step 3 of R258 for window `n`, with no switch left to do: the queue's READY launch goes into a shadow bank that is free and
not claimed (R330); the preload has finished once the image can have arrived. -/
def State.windowLoad (s : State) (n : Nat) (w : Window) (c : BitVec 6) (k : BitVec 20) : State :=
  let fin := decide (s.fc ≤ w.instant)
  let s := s.updWindow n (fun v => { v with switched := v.switched || fin })
  let x := s.cluster c
  match x.shadow with
  | some l => if w.launch = some l.entry && l.loaded && fin then s.updWindow n (fun v => { v with loaded := true }) else s
  | none =>
    if w.launch.isNone && !x.chainClaims && x.link = .active && decide (s.fc < w.instant + w.length) then
      match s.tabledReady (rtQueue w.row) with
      | none => s
      | some (i, y) =>
        let l := s.buildLaunch i y true false
        let s := (s.updCluster c (fun z => { z with shadow := some l })).fetchPages l
        let s := s.updCtx k (fun z => { z with lastPlaced := s.fc, lastCluster := some c })
        s.updWindow n (fun v => { v with launch := some i, loaded := fin && l.loaded })
    else s

/-- An open window goes on as far as it can (R258 steps 1 to 3): untabled launches withdrawn and pre-empted, the switch to
the entry's context begun, the queue's READY launch preloaded. While an earlier tabled launch or its chained launch still
runs on the cluster nothing is pre-empted (R247, R260), and a launch of the same context is preloaded beside it. -/
def State.windowGo (s : State) (n : Nat) : State :=
  match s.yrd.windows[n]? with
  | none => s
  | some w =>
    let c := BitVec.ofNat 6 w.cluster
    let x := s.cluster c
    let k := (s.queue (rtQueue w.row)).ctx
    let busy := (match x.active with | some l => l.tabled | none => false) || s.chainTabled x
    if w.inert || w.ended || w.released || !x.inService || x.recovery.isSome || x.hangWait.isSome then s
    else match x.switch with
      | some sw =>
        if sw.into ≠ some k && x.ctx ≠ sw.into then
          let s := if x.shadowUntabled then s.withdrawShadow c else s
          s.updCluster c (fun x => { x with switch := some { sw with into := some k, entry := none } })
        else if x.shadowUntabled && (match x.shadow with | some l => !l.resumed | none => false) then
          (s.withdrawShadow c).updCluster c (fun x => { x with switch := some { sw with entry := none } })
        else s
      | none =>
        let s := if x.shadowUntabled then s.withdrawShadow c else s
        if busy then (if x.ctx = some k then s.windowLoad n w c k else s)
        else if x.active.isSome || s.chainCanStart x then s.beginSwitch c .window (some k) none
        else
          let s := s.keepChain c
          if x.ctx ≠ some k then s.beginSwitch c .window (some k) none else s.windowLoad n w c k

/-- Every open window goes on (R258), but not during a front-end reset (R533). -/
def State.windowsGo (s : State) : State :=
  if s.fwc.feBusy then s else s.each (List.range s.yrd.windows.length) (fun s n => s.windowGo n)

/-- The launch of the window can be released now (R258 step 4): the instant has come, its preload has finished, and nothing
else runs on the cluster. -/
def State.releasable (s : State) (w : Window) : Bool :=
  let x := s.cluster (BitVec.ofNat 6 w.cluster)
  !w.inert && !w.released && !w.ended && decide (w.instant ≤ s.fc) && x.inService && w.launch.isSome &&
  (match x.shadow with | some l => w.launch = some l.entry && l.loaded | none => false) &&
  x.active.isNone && x.chainNext.isNone && x.switch.isNone && x.recovery.isNone

/-- Some release is due: releases take the dispatch hardware ahead of every other placement (R258). -/
def State.releaseDue (s : State) : Bool := !s.fwc.feBusy && s.yrd.windows.any s.releasable

end Sys2Proof.Machine
end

