-- ==== Sys2Proof/Machine/Switch.lean ====
section
/-! DEFINITION. Switches of a cluster's held context (R446 to R466): the stop, the slice written and read, CTRL responses
(R92), save and restore beats (R95, R368), and the replays of hang recovery (R529). -/

namespace Sys2Proof.Machine

/-! ## Slice headers (R450, R455, R456) -/

/-- The first 512 bytes of a slice header (R450). -/
def State.sliceHeader (s : State) (k : BitVec 20) (l : Option Launch) : List Byte :=
  let rep (v : Nat) := toBytes 4 v
  let strm (l : Launch) (i : Nat) : List Byte :=
    let t := l.streams.getD i {}
    if (l.image.lists.getD i []).isEmpty then List.replicate 16 0
    else
      let pc := if t.atBoundary then 0 else t.pc
      let idx := if t.atBoundary then t.replay + 1 else t.replay
      rep (l.image.listStart i + pc) ++ rep idx ++ rep (if t.atBoundary then 0 else t.yields) ++
        [BitVec.ofNat 8 (b2n t.stopped), 0, 0, 0]
  let qd (l : Launch) (q : Nat) : List Byte :=
    let e := (l.queues.getD q []).map (fun e => toBytes 4 e.value.toNat)
    let b := e.flatten
    b ++ List.replicate (64 - b.length) 0
  match l with
  | none =>
    let b := [1, 0, 0, 0] ++ toBytes 4 k.toNat ++ rep 0 ++ rep (capBeats s.fwc.caps) ++ toBytes 8 s.fe.cycles.toNat
    b ++ List.replicate (512 - b.length) 0
  | some l =>
    [2, BitVec.ofNat 8 (b2n l.image.lane)] ++ toBytes 2 l.image.hmap.length ++ toBytes 4 k.toNat ++ rep l.entry ++
    rep (capBeats s.fwc.caps) ++ toBytes 8 s.fe.cycles.toNat ++ List.replicate 8 0 ++
    ((List.range 4).map (strm l)).flatten ++
    ((List.range 32).map (fun i => rep (if i = 0 then 0 else (l.regs.toList.getD i 0).toNat))).flatten ++
    ((List.range 4).map (fun q => rep (l.queues.getD q []).length)).flatten ++ List.replicate 16 0 ++
    ((List.range 4).map (qd l)).flatten

/-- The header of slice `i` passes R456 for context `k`: every field, and zero in every byte that R450 writes as zero; in
slice 0 bytes 0x200 to 0x20F are the masks. `launch` is the pre-empted launch whose LAUNCH slice it is,
with the image it runs, and none for an IMAGE slice. -/
def State.headerPasses (s : State) (k : BitVec 20) (i : Nat) (launch : Option Image) (b : List Byte) : Bool :=
  let zero (off n : Nat) : Bool := (slice b off n).all (· = 0)
  let rest := if i = 0 then 0x210 else 0x200
  zero rest (4096 - rest) && le b 4 4 = k.toNat && le b 0xC 4 = capBeats s.fwc.caps && zero 0x18 8 &&
  (match launch with
   | none => le b 0 1 = 1 && zero 1 3 && zero 8 4 && zero 0x20 480
   | some m =>
     le b 0 1 = 2 && le b 2 2 = m.hmap.length && decide (le b 8 4 < 2 ^ 17) && zero 0x60 4 && zero 0xF0 16 &&
     (List.range 4).all (fun i =>
       let n := (m.lists.getD i []).length
       let o := le b (0x20 + 16 * i) 4
       if n = 0 then zero (0x20 + 16 * i) 16
       else m.listStart i ≤ o && o < m.listStart i + n && le b (0x2C + 16 * i) 4 ≤ 1 &&
         decide (le b (0x2C + 16 * i) 1 ≤ 1)) &&
     (List.range 4).all (fun q =>
       let n := le b (0xE0 + 4 * q) 4
       n ≤ 16 && zero (0x100 + 64 * q + 4 * n) (64 - 4 * n)))

/-- The launch state that a LAUNCH slice's header restores (R455 step 3): streams, registers and queues. A lane whose
replay index is one above the least waits at the replay boundary (R328). -/
def Launch.restore (l : Launch) (b : List Byte) : Launch :=
  let idx (i : Nat) := le b (0x24 + 16 * i) 4
  let low := (l.used.map idx).foldl min (2 ^ 32)
  { l with
    resumed := true
    regs := (List.range 32).foldl (fun r i => regSet r i (BitVec.ofNat 32 (le b (0x60 + 4 * i) 4))) (Vector.replicate 32 0)
    mem := []
    queues := (List.range 4).map (fun q => (List.range (le b (0xE0 + 4 * q) 4)).map (fun e =>
      { value := BitVec.ofNat 32 (le b (0x100 + 64 * q + 4 * e) 4), classes := 0, stream := 0, upto := 0 }))
    streams := (List.range 4).map (fun i =>
      if (l.image.lists.getD i []).isEmpty then ({ done := true } : SeqStream)
      else
        let stop := le b (0x2C + 16 * i) 1 = 1
        let edge := l.image.lane && stop && decide (idx i ≠ low)
        { pc := le b (0x20 + 16 * i) 4 - l.image.listStart i, replay := if edge then low else idx i
          yields := le b (0x28 + 16 * i) 4, done := !stop, atBoundary := edge }) }

/-! ## The stop -/

/-- PREEMPT_STOP (R447, R322): the stop target is fixed; once every stream has reached it, every operation has returned
DONE and every signal has passed, YIELD is sent. With no launch YIELD is sent at once (R454), after the start of a pending
chained launch that can start; for a torn context the streams have stopped already (R462). -/
def execPreemptStop (c : BitVec 6) (s : State) : Host.Outcome State Fault Refusal :=
  let x := s.cluster c
  .next (match x.switch with
    | none => s
    | some w =>
      if w.phase ≠ .stopping || x.link ≠ .active then s
      else
        let yield (s : State) : State := s.updCluster c (fun x => Cluster.sendSync true 15 false
          { x with
            switch := x.switch.map (fun w => { w with phase := .yielding })
            active := x.active.map (fun l => { l with halted := true }) })
        match x.active with
        | some l =>
          if !w.suppressed && !x.preempt then
            let t := l.stopTarget
            s.updCluster c (fun x => { x with preempt := true, target := t, active := some (l.stopAt t) })
          else if (w.suppressed || l.stopReached) && x.ops.isEmpty && x.sigs.isEmpty && x.sync.length < 4 then
            yield (s.charge c)
          else s
        | none =>
          let waits := match x.chainNext.bind s.entry with
            | some y => s.bindingReady y && s.operandsHeld y && !y.torn | none => false
          if waits && !w.suppressed then s
          else if x.ops.isEmpty && x.sync.length < 4 then yield (s.keepChain c) else s)

/-! ## Switch-out -/

/-- Bytes written in bursts of at most 4 KiB. -/
def State.saveBursts (s : State) (c : BitVec 6) (k : BitVec 20) (i off : Nat) (b : List Byte) : State :=
  s.each (List.range ((b.length + 4095) / 4096)) (fun s n =>
    s.saveOut c k i (off + 4096 * n) ((b.drop (4096 * n)).take 4096))

/-- The sequencer record of a switch-out (R454 step 2): the header, in slice 0 all of it but the masks (R450, R453), and for a LAUNCH slice the data memory and the
descriptor image. -/
def State.writeRecord (s : State) (c : BitVec 6) (k : BitVec 20) (i : Nat) (l : Option Launch) : State :=
  let s := if i = 0 then (s.saveOut c k i 0 (s.sliceHeader k l)).saveOut c k i 0x210 (List.replicate 0xDF0 0)
    else s.saveOut c k i 0 (s.sliceHeader k l ++ List.replicate 0xE00 0)
  match l with
  | none => s
  | some l =>
    let mem := ((List.range 4096).map (fun a => toBytes 4 (tget 0 l.mem a).toNat)).flatten
    let d := (l.descs.map (fun x => toBytes 64 x.toNat)).flatten
    let d := d ++ List.replicate (d.length % 128) 0
    (s.saveBursts c k i 0x1000 mem).saveBursts c k i 0x8000 d

/-- SWITCH_OUT (R454, R462): after YIELDED, the record is written and SAVE sent; for a torn context CLEAR is sent and
nothing is saved. -/
def execSwitchOut (c : BitVec 6) (s : State) : Host.Outcome State Fault Refusal :=
  let x := s.cluster c
  .next (match x.switch with
    | none => s
    | some w =>
      if w.phase ≠ .yielded || x.link ≠ .held || x.ctrl.isSome then s
      else if w.suppressed then
        s.updCluster c (fun x => Cluster.sendCtrl ctClear 0 { x with
          clears := x.clears + 1, swCause := .teardown, switch := some { w with phase := .clearing } })
      else match x.ctx, x.slice with
        | some k, some i =>
          let s := s.writeRecord c k i x.active
          let s := match x.active with
            | some l => s.updEntry l.entry (fun e => { e with slice := some i })
            | none => s
          s.updCluster c (fun x => Cluster.sendCtrl ctSave 0 { x with
            swCause := if w.cause = .quiet then x.swCause else w.cause
            switch := some { w with phase := .saving, outSlice := some i } })
        | _, _ => s.updCluster c (fun x => { x with ctx := none, switch := some { w with phase := .saved } }))

/-- SAVE_BEAT (R95, R368): an upward beat is gathered, and written in 4 KiB bursts; a LAST on the wrong beat, or none on
the last, is SAVE_COUNT. Writes of a torn context are suppressed (R462). In LOOPBACK it is compared (R98). No beat is taken
while the cluster's share of the channel is full. -/
def execSaveBeat (c : BitVec 6) (data : BitVec 1024) (last : Bool) (s : State) : Host.Outcome State Fault Refusal :=
  let x := s.cluster c
  .next (if x.link = .loopback then s.loopBeat c data last
    else if x.link ≠ .saving || decide (s.build.channelShare < s.channelHeld c + 128 * (x.up.length + 1)) then s
    else if last ≠ decide (x.beats + 1 = capBeats s.fwc.caps) then s.protocolError c 0x06 false
    else
      let up := x.up ++ [data]
      let n := x.beats + 1
      if last || up.length = 32 then
        let s := s.updCluster c (fun x => { x with beats := n, up := [] })
        match x.switch, x.ctx with
        | some w, some k =>
          if w.suppressed then s
          else s.saveOut c k (w.outSlice.getD 0) (0x30000 + 128 * (n - up.length)) (up.map (fun d => toBytes 128 d.toNat)).flatten
        | _, _ => s
      else s.updCluster c (fun x => { x with beats := n, up }))

/-! ## Switch-in -/

/-- The launch of a cluster's switch-in that resumes from its LAUNCH slice, with its slice (R452). -/
def State.resuming (s : State) (w : Switch) : Option (Nat × Entry × Nat) :=
  w.entry.bind (fun e => (s.entry e).bind (fun y => y.slice.map (fun i => (e, y, i))))

/-- The lowest-numbered slice of a context in a state. -/
def State.sliceIn (s : State) (k : BitVec 20) (v : SliceState) : Option Nat :=
  match s.residentSlot k with
  | some r => ((s.resSlot r).slices.findIdx? (· = v))
  | none => none

/-- The end of a switch: CLS_SWITCH_TIME takes the cclk it took, which the model leaves free (R465). -/
def State.endSwitch (s : State) (c : BitVec 6) : State :=
  let p := s.freshWord
  p.2.updCluster c (fun x => { x with switch := none, switchTime := p.1, header := [] })

/-- The slice a cluster takes becomes HELD, and the context is placed there (R452, R272, R112). -/
def State.takeSlice (s : State) (c : BitVec 6) (k : BitVec 20) (i : Nat) : State :=
  let s := s.setSlice k i .held
  let s := match s.residentSlot k with
    | some r => s.updRes r (fun x => { x with switchedIn := true })
    | none => s
  let s := s.updCtx k (fun x => { x with lastPlaced := s.fc, lastCluster := some c })
  s.updCluster c (fun x => { x with ctx := some k, slice := some i })

/-- More engine state is read ahead of the downward beats (R368): one burst at a time, while the cluster's share of the channel
has room. -/
def State.restoreMore (s : State) (c : BitVec 6) : State :=
  let x := s.cluster c
  match x.ctx, x.slice with
  | some k, some i =>
    let have_ := x.beats + x.down.length
    let total := capBeats s.fwc.caps
    if x.link = .restoring && decide (have_ < total) && !s.restoreOutstanding c &&
        decide (128 * (x.down.length + min 32 (total - have_)) ≤ s.build.channelShare) then
      s.restoreIn c k i (0x30000 + 128 * have_) (128 * min 32 (total - have_))
    else s
  | _, _ => s

/-- The engine is cleared for a context that has been torn down or whose restore failed (R456, R462, R463). -/
def State.clearFor (s : State) (c : BitVec 6) : State :=
  s.updCluster c (fun x => Cluster.sendCtrl ctClear 0 { x with
    clears := x.clears + 1
    switch := x.switch.map (fun w => { w with phase := .clearing, suppressed := true, into := none, entry := none }) })

/-- Slice `i` is taken for a restore, and its header is read (R455 step 1). -/
def State.readHeader (s : State) (c : BitVec 6) (k : BitVec 20) (i : Nat) (w : Switch) : State :=
  let w' : Switch := { w with phase := .header, inSlice := some i }
  ((s.takeSlice c k i).updCluster c (fun x => { x with header := [], switch := some w' })).restoreIn c k i 0 4096

/-- SWITCH_IN (R455, R452, R453, R456): the slice is chosen and becomes HELD; its header is read and checked, then RESTORE
is sent; an EMPTY slice sends CLEAR. At the first switch-in of a residency the masks are read first. With no incoming
context the switch ends with none held. -/
def execSwitchIn (c : BitVec 6) (s : State) : Host.Outcome State Fault Refusal :=
  let x := s.cluster c
  .next <| State.windowsGo <| State.evictions (match x.switch with
    | none => s
    | some w =>
      if x.link ≠ .held || x.ctrl.isSome then s
      else match w.phase with
      | .saved =>
        (match w.into with
         | none => s.endSwitch c
         | some k =>
           match s.residentSlot k with
           | none => s
           | some r =>
             if !(s.resSlot r).masksRead then
               if s.mp.txns.any (fun t => t.purpose = .maskRead k) || s.mp.waiting.any (fun t => t.purpose = .maskRead k) then s
               else s.mpRead (some (s.ctx k).partition) (s.saveSource c) (s.slicePa k 0 0x200) 16 2 (arCache (s.saveAttr k)) 8
                 (.maskRead k)
             else match s.resuming w with
               | some (_, _, i) =>
                 if (s.resSlot r).slices.getD i .empty = .launch then
                   s.readHeader c k i w
                 else s
               | none =>
                 match s.sliceIn k .image with
                 | some i =>
                   s.readHeader c k i w
                 | none =>
                   match s.sliceIn k .empty with
                   | some i =>
                     (s.takeSlice c k i).updCluster c (fun x => Cluster.sendCtrl ctClear 0 { x with
                       clears := x.clears + 1, switch := some { w with phase := .clearing, inSlice := some i } })
                   | none => s)
      | .header =>
        if w.suppressed || w.fail.isSome then s.clearFor c
        else if x.header.isEmpty then s
        else match x.ctx, w.inSlice with
          | some k, some i =>
            let res := s.resuming w
            let launch := match res with | some (e, y, _) => some (s.buildLaunch e y false (decide (y.cls ≠ 2))) | none => none
            if s.headerPasses k i (launch.map (·.image)) x.header then
              let s := match launch with
                | none => s
                | some l =>
                  let n := 64 * l.image.hmap.length
                  let s := s.updEntry l.entry (fun y => { y with slice := none })
                  let s := (s.updCluster c (fun x => { x with shadow := some { l.restore x.header with descs := [] } })).fetchPages l
                  let s := s.each (List.range 4) (fun s m => s.restoreIn c k i (0x1000 + 4096 * m) 4096)
                  s.each (List.range ((n + 4095) / 4096)) (fun s m => s.restoreIn c k i (0x8000 + 4096 * m) (min 4096 (n - 4096 * m)))
              let s := s.updCluster c (fun x => Cluster.sendCtrl ctRestore 0 { x with
                down := [], switch := some { w with phase := .restoring } })
              s.restoreMore c
            else ((s.setSlice k i .empty).teardown k 0x04).clearFor c
          | _, _ => s.clearFor c
      | _ => s)

/-- RESTORE_BEAT (R95, R368): the engine takes the next downward beat. After a failed restore read the beats run on to
the RESTORE response without the data (R462, R463). In LOOPBACK it takes the next beat of the test (R98). -/
def execRestoreBeat (c : BitVec 6) (s : State) : Host.Outcome State Fault Refusal :=
  let x := s.cluster c
  let fails := match x.switch with | some w => w.fail.isSome | none => false
  .next (if x.link = .loopback then s.updCluster c Cluster.loopDown
    else if x.link = .restoring && decide (x.beats < capBeats s.fwc.caps) && (fails || !x.down.isEmpty) then
      (s.updCluster c (fun x => { x with beats := x.beats + 1, down := x.down.drop 1 })).restoreMore c
    else s)

/-- ENABLE goes out once every restore read has been answered and the launch's image can have arrived (R455 steps 3 and 4). -/
def State.tryEnable (s : State) (c : BitVec 6) : State :=
  let x := s.cluster c
  match x.switch with
  | some w =>
    let filling := match x.shadow with | some l => l.resumed && !l.loaded | none => false
    if w.phase = .enabling && x.link = .held && x.ctrl.isNone then
      if w.suppressed || w.fail.isSome then s.clearFor c
      else if s.restoreOutstanding c || filling then s
      else s.updCluster c (Cluster.sendCtrl ctEnable 0)
    else s
  | none => s

/-- Data of a restore read has arrived, from offset `off` of the slice (R455, R368). -/
def State.restoreData (s : State) (c : BitVec 6) (off : Nat) (b : List Byte) : State :=
  let beats := (List.range (b.length / 128)).map (fun i => BitVec.ofNat 1024 (le b (128 * i) 128))
  let words := (List.range (b.length / 4)).map (fun i => (i, BitVec.ofNat 32 (le b (4 * i) 4)))
  let s := s.updCluster c (fun x =>
    if off = 0 then { x with header := b }
    else if off < 0x8000 then
      { x with shadow := x.shadow.map (fun l => { l with
        mem := words.foldl (fun m p => tset 0 m ((off - 0x1000) / 4 + p.1) p.2) l.mem }) }
    else if off < 0x30000 then
      { x with shadow := x.shadow.map (fun l => { l with
        descs := l.descs ++ (List.range (b.length / 64)).map (fun i => BitVec.ofNat 512 (le b (64 * i) 64)) }) }
    else { x with down := x.down ++ beats })
  (s.restoreMore c).tryEnable c

/-- A restore read has failed (R463): the restoring context is torn down with the status, and the engine is cleared before
the cluster takes any other context. -/
def State.restoreFailed (s : State) (c : BitVec 6) (status : BitVec 8) : State :=
  let x := s.cluster c
  let s := s.updCluster c (fun x => { x with switch := x.switch.map (fun w => { w with fail := some (w.fail.getD status) }) })
  match x.ctx with
  | some k => (s.teardown k status).tryEnable c
  | none => s.tryEnable c

/-- The masks of slice 0 have been read (R453): slices take the states IMAGE and LAUNCH that they name. -/
def State.masksArrived (s : State) (k : BitVec 20) (b : List Byte) : State :=
  match s.residentSlot k with
  | none => s
  | some r =>
    let im := le b 0 8
    let la := le b 8 8
    s.updRes r (fun x => { x with masksRead := true, slices := x.slices.mapIdx (fun i v =>
      if v = .held then v else if (la >>> i) % 2 = 1 then .launch else if (im >>> i) % 2 = 1 then .image else .empty) })

/-! ## CTRL responses -/

/-- The launches of the context a cluster has cleared for are reported stopped (R462 step 4), and the cluster holds no
context. -/
def State.finishTear (s : State) (c : BitVec 6) : State :=
  let x := s.cluster c
  let k := x.ctx.getD kernelCtx
  let st := match x.switch.bind (·.fail) with
    | some f => if (s.ctx k).state = .active then f else (s.ctx k).teardown
    | none => (s.ctx k).teardown
  let own := (s.ctx k).state ≠ .active
  let shadow := match x.shadow with | some l => if l.ctx = k then [l.entry] else [] | none => []
  let gone := (match x.active with | some l => [l.entry] | none => []) ++ shadow ++ x.chainNext.toList
  let s := match x.active with | some l => if l.failed then s.report l.entry 0x08 false else s | none => s
  let s := s.each gone (fun s e => s.report e st own)
  s.updCluster c (fun x => { x with
    active := none, chainNext := none, ctx := none, slice := none, preempt := false, tokenFail := false
    shadow := if shadow.isEmpty then x.shadow else none })

/-- CLEAR has been answered: a self-test ends, a recovery goes on, a torn context's launches are reported, or the incoming
context is enabled (R455, R462, R529, R548). -/
def State.clearDone (s : State) (c : BitVec 6) : State :=
  let x := s.cluster c
  let s := s.updCluster c (fun x => { x with link := .held })
  if x.inTest then
    match x.testing with
    | some e => ((s.updCluster c (fun x => { x with testing := none, inTest := false, startFail := false })).returnService c).report e 0x00 false
    | none => s
  else match x.recovery with
    | some r =>
      if x.switch.isSome then
        let s := (s.finishTear c).updCluster c (fun x => { x with switch := none, recovery := some { r with now := none, cleared := true } })
        if r.todo.isEmpty then s.finishRecovery c else s.updCluster c Cluster.linkReset
      else (s.updCluster c (fun x => { x with recovery := some { r with cleared := true } })).recoveryNext c
    | none =>
      match x.switch with
      | none => s
      | some w =>
        if w.suppressed then
          let s := s.finishTear c
          if w.into.isSome then
            s.updCluster c (fun x => { x with switch := some { w with phase := .saved, suppressed := false, cause := .change, fail := none } })
          else s.endSwitch c
        else s.updCluster c (fun x => Cluster.sendCtrl ctEnable 0 { x with switch := some { w with phase := .enabling } })

/-- SAVE has been answered (R454, R95): without its LAST beat that is SAVE_COUNT; else the pre-empted launch returns to
the Yarder, the cluster holds nothing, and a torn context goes on to CLEAR. -/
def State.saveDone (s : State) (c : BitVec 6) : State :=
  let x := s.cluster c
  if x.beats ≠ capBeats s.fwc.caps then s.protocolError c 0x06 false
  else match x.switch with
    | none => s.updCluster c (fun x => { x with link := .held })
    | some w =>
      if w.suppressed then (s.updCluster c (fun x => { x with link := .held })).updCluster c (fun x =>
        Cluster.sendCtrl ctClear 0 { x with clears := x.clears + 1, swCause := .teardown, switch := some { w with phase := .clearing } })
      else
        let s := s.updCluster c (fun x => { x with
          link := .held, active := none, ctx := none, slice := none, preempt := false, saves := x.saves + 1
          switch := some { w with phase := .saved } })
        let s := match x.active with | some l => s.returnLaunch l.entry | none => s
        match x.ctx with | some k => s.settleSlice k (w.outSlice.getD 0) | none => s

/-- RESTORE has been answered (R455). -/
def State.restoreDone (s : State) (c : BitVec 6) : State :=
  (s.updCluster c (fun x => { x with
    link := .held, restores := x.restores + 1, switch := x.switch.map (fun w => { w with phase := .enabling }) })).tryEnable c

/-- ENABLE has been answered (R93 step 7, R84): ISSUE beats may follow; a resumed launch goes on at its saved bundles
(R455 step 4). A context torn down meanwhile is stopped again. -/
def State.enableDone (s : State) (c : BitVec 6) : State :=
  let s := s.updCluster c (fun x => { x with link := .active, credits := (List.range 5).map (capCredit s.fwc.caps) })
  match (s.cluster c).switch with
  | none => s
  | some w =>
    if w.phase ≠ .enabling then s
    else if w.suppressed then s.updCluster c (fun x => { x with switch := some { w with phase := .stopping } })
    else
      let s := s.endSwitch c
      let s := { s with yrd := { s.yrd with windows := s.yrd.windows.map (fun (v : Window) =>
        if v.cluster = c.toNat && decide (s.fc ≤ v.instant) then { v with switched := true } else v) } }
      match (s.cluster c).shadow with
      | some l => if l.resumed then s.swapIn c l else s
      | none => s

/-- CTRL_RESPONSE (R92, R101): completes the outstanding command; dropped and counted with none; CTRL_REFUSED on error. -/
def execCtrlResponse (c : BitVec 6) (data : W32) (err : Bool) (s : State) : Host.Outcome State Fault Refusal :=
  let x := s.cluster c
  .next <| State.windowsGo <| State.evictions (match x.ctrl with
    | none => if x.rstN then s.dropLate c else s
    | some cmd =>
      if err then (s.protocolError c 0x0C false).settleStart
      else
        let s := s.updCluster c (fun x => { x with ctrl := none })
        let code := bits cmd 31 24
        if code = ctCapRead then
          let s := s.updCluster c (fun x => { x with caps := x.caps ++ [data] })
          if x.caps.length + 1 < 64 then s.updCluster c (Cluster.sendCtrl ctCapRead (x.caps.length + 1)) else s.capsRead c
        else if code = ctEnable then s.enableDone c
        else if code = ctSave then s.saveDone c
        else if code = ctRestore then
          (s.updCluster c (fun x => { x with down := [] })).restoreDone c
        else if code = ctClear then s.clearDone c
        else if code = ctLoopOn then s.updCluster c (Cluster.loopBegin s.fwc.caps)
        else s.updCluster c (fun x => Cluster.sendCtrl ctClear 0 { x with link := .held }))

/-- YIELDED (R89): the oldest request, a taken YIELD of the same TAG, is answered, and the engine is HELD; anything else is
SYNC_ORDER. -/
def execYielded (c : BitVec 6) (msg : W32) (s : State) : Host.Outcome State Fault Refusal :=
  let x := s.cluster c
  .next (if bits msg 31 28 ≠ 2 || !x.rstN then s
    else if msg.extractLsb' 16 8 ≠ x.epoch then s.dropLate c
    else if x.link = .loopback then s.loopSync c true msg
    else match x.sync with
      | [] => s.protocolError c 0x0D false
      | r :: rest =>
        if !r.yield || !r.taken || decide (msg.extractLsb' 0 16 ≠ r.tag) then s.protocolError c 0x0D false
        else
          let s := s.updCluster c (fun x => { x with
            sync := rest, link := .held
            switch := x.switch.map (fun w => if w.phase = .yielding then { w with phase := .yielded } else w) })
          if x.recovery.isSome && x.switch.isNone then s.updCluster c (Cluster.sendCtrl ctClear 0) else s)

/-! ## Rows that an open window follows at once (R258) -/

/-- ENTRY_READY (R220, R285): a PENDING entry whose conditions hold becomes READY. -/
def execEntryReady (e : Nat) (s : State) : Host.Outcome State Fault Refusal :=
  .next <| State.windowsGo (match s.entry e with
    | none => s
    | some x =>
      if s.isReady e x && s.inRun then
        (s.updEntry e (fun y => { y with state := .ready, readyAt := s.fc })).obtainCopy e x
      else s)

/-- A chained launch that the cluster has kept is taken up again (R177, R447): on a cluster that holds its context it may
start; else an idle cluster that no window reserves switches to its context first. One that has ended meanwhile is dropped,
and one whose load has failed ends with the load's status (R338). -/
def State.recallChain (s : State) (c : BitVec 6) : State :=
  let x := s.cluster c
  match x.chainWait with
  | [] => s
  | e :: rest =>
    let drop (s : State) : State := s.updCluster c (fun x => { x with chainWait := rest })
    match s.entry e with
    | none => drop s
    | some y =>
      if y.report.isSome || y.torn then drop s
      else match s.bindingFailed y with
        | some st => ((drop s).issue e).report e st false
        | none =>
          if !s.bindingReady y || !s.operandsHeld y || x.link ≠ .active && x.ctx.isSome || x.active.isSome || x.switch.isSome ||
              x.recovery.isSome || x.hangWait.isSome || !x.inService || s.reserved c || !s.coreRuns c then s
          else if x.ctx = some y.ctx then s.updCluster c (fun x => { x with chainNext := some e, chainWait := rest })
          else if x.shadow.isNone && x.hold.isNone && s.isResident y.ctx && decide (0 < s.spareSlices y.ctx) then
            s.beginSwitch c .change (some y.ctx) none
          else s

/-- CHAINED_LAUNCH_START (R330, R177): the first launch has reported OK; the chained launch starts on the same cluster
without placement. Bound to a load still LOADING it waits, and bound to a FAILED one it ends with the load's status without
running (R338). In a reservation window that is not its own, it is pre-empted (R258). With none pending, one that the cluster
has kept through a switch is taken up again. -/
def execChainedLaunchStart (c : BitVec 6) (s : State) : Host.Outcome State Fault Refusal :=
  let x := s.cluster c
  .next <| State.windowsGo (match x.chainNext with
    | none => s.recallChain c
    | some e =>
      match s.entry e with
      | none => s.updCluster c (fun x => { x with chainNext := none })
      | some y =>
        if y.report.isSome then s.updCluster c (fun x => { x with chainNext := none })
        else if (s.bindingFailed y).isSome then
          ((s.updCluster c (fun x => { x with chainNext := none })).issue e).report e ((s.bindingFailed y).getD 0) false
        else if !s.bindingReady y then s
        else if ({ x with switch := match x.switch with
            | some w => if w.phase = .stopping && !w.suppressed then none else some w
            | none => none } : Cluster).canStart && s.operandsHeld y && s.fwc.dumping.isNone then
          let tabled := s.chainTabled x
          let l := s.buildLaunch e y tabled (!tabled && decide (y.cls ≠ 2))
          if !l.loaded then s.fetchPages l
          else
            let s := (s.updEntry e (fun y => { y with state := .issued, phase := 1, startFc := s.fe.cycles })).swapIn c l
            s.updCluster c (fun z => { z with shadow := x.shadow })
        else s)

/-- LAUNCH_COMPLETE (R329): every stream has issued its last bundle; with every operation DONE the final FLUSH is sent,
and once it is answered and every signal has passed the launch is reported complete with OK. -/
def execLaunchComplete (c : BitVec 6) (s : State) : Host.Outcome State Fault Refusal :=
  let x := s.cluster c
  .next <| State.windowsGo <| State.evictions (match x.active with
    | none => s
    | some l =>
      let torn := match x.switch with | some w => w.suppressed | none => false
      if x.link ≠ .active || !l.allDone || !x.ops.isEmpty || x.tokenFail || x.hangWait.isSome || torn then s
      else if !l.flushSent then
        if x.sync.length < 4 then
          s.updCluster c (fun x => Cluster.sendSync false 15 true
            { x with active := x.active.map (fun l => { l with flushSent := true }) })
        else s
      else if l.flushDone && x.sigs.isEmpty && !s.fwc.feBusy then s.completeLaunch c l
      else s)

/-! ## Replays of hang recovery -/

/-- SUSPECT_REPLAY (R529, R530): with the link reset, CLEAR done and the cores running, the next suspect is replayed from
its first bundle; with none left the recovery ends. -/
def execSuspectReplay (c : BitVec 6) (s : State) : Host.Outcome State Fault Refusal :=
  let x := s.cluster c
  .next <| State.windowsGo <| State.evictions (match x.recovery with
    | none => s
    | some r =>
      if x.link ≠ .held || x.ctrl.isSome || !r.cleared || r.now.isSome || s.fwc.feBusy ||
          (s.proc (3 + c.toNat)).state ≠ .running || (s.proc procSched).state ≠ .running then s
      else match r.todo with
        | [] => s.finishRecovery c
        | (p, e) :: rest =>
          match s.entry e with
          | none => s.updCluster c (fun x => { x with recovery := some { r with todo := rest } })
          | some y =>
            let l := y.launch
            if y.report.isSome then s.updCluster c (fun x => { x with recovery := some { r with todo := rest } })
            else if !l.noCopy && !s.copyHeld y.ctx l then s.obtainCopy e y
            else
              let s := match s.sliceIn y.ctx .empty with | some i => s.takeSlice c y.ctx i | none => s
              let b := s.buildLaunch e y false (decide (y.cls ≠ 2))
              let s := s.updEntry e (fun y => { y with
                place := .shadow c, state := .issued, phase := if y.kind = kChained then 1 else y.phase })
              (s.updCluster c (fun x => Cluster.sendCtrl ctEnable 0 { x with
                ctx := some y.ctx, shadow := some { b with suspect := true }
                recovery := some { r with now := some (p, e), todo := rest } })).fetchPages b)

end Sys2Proof.Machine
end

