-- ==== Sys2Proof/Machine/Yarder.lean ====
section
/-! DEFINITION. The Yarder (R249 to R277): share placement (R268, R269), run deques and
stealing (R272, R273), residency loads (R111, R112), the real-time table (R252 to R262), accounting (R267), partitions
(R274 to R276) and the wait-graph probe (R237 to R241). -/

namespace Sys2Proof.Machine

/-- A valid entry of the active table names the queue (R257). -/
def State.tabledQueue (s : State) (q : BitVec 14) : Bool :=
  match s.yrd.table with
  | some t => t.entries.any (fun e => bit e 0 && e.extractLsb' 114 14 = q)
  | none => false

/-- A launch that only the release hardware places (R257). -/
def State.tabledLaunch (s : State) (x : Entry) : Bool :=
  x.cls = 0 && x.kind ≠ kGraphNode && s.tabledQueue x.queue && decide (x.place ≠ .returned)

/-- Share work (R257, R268). -/
def State.shareWork (s : State) (x : Entry) : Bool := x.cls = 1 || (x.cls = 0 && !s.tabledLaunch x)

/-- A launch may go to cluster `c` as that cluster stands (R248, R269, R452): 1 an idle cluster that holds its context, 2
another idle cluster, 3 a cluster that runs its context and whose shadow bank no chained launch claims (R330); 0 where it may
not. -/
def State.fit (s : State) (e : Entry) (c : BitVec 6) : Nat :=
  let x := s.cluster c
  let held := match x.hold with | some k => k = e.ctx && x.ctx = some k | none => true
  if !x.inService || s.reserved c || x.draining || !s.coreRuns c || x.shadow.isSome || !held
      || x.partition ≠ (s.ctx e.ctx).partition then 0
  else if x.empty then
    if x.ctx = some e.ctx && e.slice.isNone && x.link = .active then 1
    else if x.hold.isSome then 0
    else if e.slice.isSome || 0 < s.spareSlices e.ctx then (if x.ctx = some e.ctx then 1 else 2)
    else 0
  else if x.active.isSome && !x.chainClaims && x.switch.isNone && x.recovery.isNone && x.hangWait.isNone && x.ctx = some e.ctx
      && e.slice.isNone then 3
  else 0

/-- The launch goes to the cluster (R248, R221): into the shadow bank, with a switch first where the cluster does not hold
its context or the launch resumes from its own slice. -/
def State.place (s : State) (c : BitVec 6) (e : Nat) (x : Entry) (share : Bool) : State :=
  let l := s.buildLaunch e x false share
  let s := if x.state = .issued then s else s.issue e
  let s := s.updEntry e (fun y => { y with place := .shadow c, phase := if y.kind = kChained then 1 else y.phase })
  let s := s.updCtx x.ctx (fun y => { y with lastPlaced := s.fc, lastCluster := some c })
  let direct := (s.cluster c).ctx = some x.ctx && x.slice.isNone
  let s := (s.updCluster c (fun y => { y with shadow := some l })).fetchPages l
  if direct then s else s.beginSwitch c .change (some x.ctx) (some e)

/-! ## Share placement (R268, R269) -/

/-- Order among share launches: returned ones first, then earliest READY (R268). -/
def ageKey (p : Nat × Entry) : Nat :=
  (if p.2.place = .returned then 0 else 2 ^ 200) + p.2.readyAt * 2 ^ 64 + p.2.ord

/-- The cluster that the dispatch hardware prefers for a launch (R269). -/
def State.preferred (s : State) (x : Entry) : Option (BitVec 6) :=
  leastBy (fun c => s.fit x c) (s.allClusters.filter (fun c => s.fit x c ≠ 0))

/-- Share launches that may go to cluster `c` under R269. -/
def State.shareFor (s : State) (c : BitVec 6) : List (Nat × Entry) :=
  s.lnd.entries.filter (fun p => s.shareWork p.2 && s.placeable p.2 && decide (s.preferred p.2 = some c))

/-- The group's oldest launch in a list. -/
def State.oldestOf (s : State) (l : List (Nat × Entry)) (g : Nat) : Option (Nat × Entry) :=
  leastBy ageKey (l.filter (fun p => (s.ctx p.2.ctx).shareGroup.toNat = g))

/-- Groups of a partition, in order from its round-robin position (R268). -/
def State.groupOrder (s : State) (p : BitVec 3) : List Nat :=
  let rr := (s.part p).rr.toNat
  ((List.range 256).map (fun k => (rr + k) % 256)).filter (fun g => (tget {} s.yrd.groups g).partition = p)

/-- The first group in order with weight, a positive deficit and a launch (R268). -/
def State.roundPick (s : State) (p : BitVec 3) (l : List (Nat × Entry)) : Option (Nat × Nat × Entry) :=
  (s.groupOrder p).findSome? (fun g =>
    let x := tget {} s.yrd.groups g
    if x.weight ≠ 0 && decide (0 < x.deficit) then (s.oldestOf l g).map (fun e => (g, e.1, e.2)) else none)

/-- A new round for a cluster (R268): groups with a launch that may go there gain their quantum up to CAP_FC; a group all of
whose waiting share launches must go elsewhere is passed over; the others keep no credit. -/
def State.newRound (s : State) (p : BitVec 3) (l : List (Nat × Entry)) : State :=
  s.each (s.groupOrder p) (fun s g =>
    { s with yrd := { s.yrd with groups := tupd {} s.yrd.groups g (fun x => { x with
      deficit := satDeficit (if (s.oldestOf l g).isSome then
          min (x.deficit + x.weight.toNat * s.yrd.quantumFc.toNat) s.yrd.capFc.toNat
        else if s.lnd.entries.any (fun e => s.shareWork e.2 && s.waiting e.2 && decide ((s.ctx e.2.ctx).shareGroup.toNat = g))
          then x.deficit
        else min x.deficit 0) }) } })

/-- The chosen share launch goes to the cluster; an RT launch outside the table is counted (R257). -/
def State.placeShare (s : State) (c : BitVec 6) (e : Nat) (x : Entry) : State :=
  let s := if x.cls = 0 && decide (x.place ≠ .returned) then
    { s with yrd := { s.yrd with untabled := s.yrd.untabled + 1 } } else s
  s.place c e x true

/-- Launches whose load has failed are issued without being placed, and end with the load's status (R338). -/
def State.failLoaded (s : State) (f : Entry → Bool) : State :=
  s.each (s.lnd.entries.filter (fun p => s.waiting p.2 && f p.2)) (fun s p =>
    match s.bindingFailed p.2 with
    | some st => (s.issue p.1).report p.1 st false
    | none => s)

/-- SHARE_PLACEMENT (R268, R269): cluster `c` offers itself, and takes the share launch that the deficits choose, unless a release
is due (R258). -/
def execSharePlacement (c : BitVec 6) (s : State) : Host.Outcome State Fault Refusal :=
  .next (if !s.feRuns || s.releaseDue then s
    else
      let s := s.failLoaded s.shareWork
      let l := s.shareFor c
      let p := (s.cluster c).partition
      let weighted := l.any (fun q => (tget {} s.yrd.groups (s.ctx q.2.ctx).shareGroup.toNat).weight ≠ 0)
      let take (s : State) (g e : Nat) (x : Entry) : State :=
        (s.updPart p (fun y => { y with rr := BitVec.ofNat 8 (g + 1) })).placeShare c e x
      match s.roundPick p l with
      | some (g, e, x) => take s g e x
      | none =>
        if weighted then
          let s := s.newRound p l
          match s.roundPick p l with
          | some (g, e, x) => take s g e x
          | none => s
        else match leastBy ageKey l with
          | some (e, x) => s.placeShare c e x
          | none => s)

/-! ## Run deques (R272, R273) -/

/-- Some cluster is due a share placement (R272, R249). -/
def State.shareDue (s : State) (l : List (BitVec 6)) : Bool := l.any (fun c => !(s.shareFor c).isEmpty)

/-- The deque that a best-effort launch is dispatched to (R272): that of a cluster in service. -/
def State.dequeFor (s : State) (x : Entry) : Option (BitVec 6) :=
  let p := (s.ctx x.ctx).partition
  let free (c : BitVec 6) : Bool := (s.cluster c).inService && (s.cluster c).partition = p && decide ((s.cluster c).deque.length < 64)
  match (s.ctx x.ctx).lastCluster with
  | some c => if free c then some c else leastBy (fun c => (s.cluster c).deque.length) (s.allClusters.filter free)
  | none => leastBy (fun c => (s.cluster c).deque.length) (s.allClusters.filter free)

/-- BEST_EFFORT_DISPATCH (R272): with no share placement due, the oldest READY best-effort launch that a deque has room
for goes to the tail of that deque and issues; a returned one goes to the head of the shortest (R250). -/
def execBestEffortDispatch (s : State) : Host.Outcome State Fault Refusal :=
  .next (if !s.feRuns || s.shareDue s.allClusters || s.releaseDue then s
    else
      let s := s.failLoaded (fun x => x.cls = 2)
      match leastBy ageKey (s.lnd.entries.filter (fun p =>
          p.2.cls = 2 && s.placeable p.2 && (s.dequeFor p.2).isSome)) with
      | none => s
      | some (e, x) =>
        if x.place = .returned then s.returnLaunch e
        else match s.dequeFor x with
          | none => s
          | some c =>
            if s.coreRuns c then
              ((s.issue e).updEntry e (fun y => { y with place := .deque c })).updCluster c (fun y => { y with
                deque := y.deque ++ [e] })
            else s)

/-- A deque entry that cluster `c` may take now (R248, R452). -/
def State.mayTake (s : State) (c : BitVec 6) (e : Nat) : Bool :=
  match s.entry e with
  | some x => s.fit x c ≠ 0 && s.isResident x.ctx && s.operandsHeld x && x.report.isNone
  | none => false

/-- An entry leaves the deque of cluster `v` and is placed on cluster `c`. -/
def State.takeFrom (s : State) (v c : BitVec 6) (e : Nat) : State :=
  match s.entry e with
  | some x => (s.updCluster v (fun y => { y with deque := y.deque.filter (fun k => k ≠ e) })).place c e x false
  | none => s

/-- DEQUE_TAKE (R249 source 2, R272): the head of the cluster's own deque, unless the dispatch hardware places on it. -/
def execDequeTake (c : BitVec 6) (s : State) : Host.Outcome State Fault Refusal :=
  .next (match (s.cluster c).deque with
    | [] => s
    | e :: _ => if !s.feRuns || s.shareDue [c] || !s.mayTake c e then s else s.takeFrom c c e)

/-- The deques that a steal probes, in order (R273): c + 1, c − 1, c + 2, c − 2 and so on, at most eight. -/
def State.probeOrder (s : State) (c : BitVec 6) : List (BitVec 6) :=
  let n := s.build.clusters
  let all := (List.range n).map (fun k => [(c.toNat + k + 1) % n, (c.toNat + n - (k + 1)) % n])
  (((dedup all.flatten).filter (fun v => v ≠ c.toNat)).map (BitVec.ofNat 6)).filter
    (fun v => (s.cluster v).partition = (s.cluster c).partition) |>.take 8

/-- STEAL (R273): an idle cluster with an empty deque takes the tail entry of the first deque probed whose tail it may
take. -/
def execSteal (c : BitVec 6) (s : State) : Host.Outcome State Fault Refusal :=
  .next (if !s.feRuns || s.schedState c ≠ .idle || !(s.cluster c).empty || !(s.cluster c).deque.isEmpty || s.shareDue [c]
      then s
    else
      match (s.probeOrder c).findSome? (fun v => (s.cluster v).deque.getLast?.bind (fun e =>
          if s.mayTake c e then some (v, e) else none)) with
      | none => s
      | some (v, e) =>
        let k := match s.entry e with | some x => x.ctx.toNat | none => 0
        ((s.trace 4 (3 + c.toNat) 0x0006 [c.toNat, v.toNat, k]).takeFrom v c e).updCluster c (fun y => { y with steals := y.steals + 1 }))

/-! ## Residency (R111 to R114) -/

/-- The contexts that a table names: those of the queues of its valid entries. -/
def State.tableContexts (s : State) (t : RtTable) : List (BitVec 20) :=
  dedup ((t.entries.filter (fun e => bit e 0 && decide ((s.queue (e.extractLsb' 114 14)).state ≠ .free))).map
    (fun e => (s.queue (e.extractLsb' 114 14)).ctx))

/-- Contexts named by the active table or by the one awaiting its base (R113, R255). -/
def State.tabled (s : State) (k : BitVec 20) : Bool :=
  (match s.yrd.table with | some t => (s.tableContexts t).contains k | none => false) ||
  (match s.yrd.pendingTable with | some (t, _) => (s.tableContexts t).contains k | none => false)

/-- An operation of the context needs its residency (R111, R359, R461). -/
def State.needsResidency (s : State) (k : BitVec 20) : Bool :=
  (s.ctxEntries k).any (fun p => p.2.report.isNone &&
    ((p.2.state = .ready && (p.2.actKind = kLaunch || p.2.actKind = kHaul || p.2.kind = kProgramLoad || p.2.kind = kGraphLoad
        || p.2.kind = kGraphPatch)) ||
      (match p.2.place with | .deque _ => true | .returned => true | _ => false))) ||
  s.hau.parked.any (fun p => p.stream.ctx = k && (!p.stream.stalled || p.marked)) || s.hau.internal.any (fun i => i.ctx = k && i.kind.stops) ||
  (match s.yrd.pendingTable with | some (t, _) => (s.tableContexts t).contains k | none => false)

/-- The class of an eviction victim (R112). -/
def State.victimClass (s : State) (k : BitVec 20) : Nat :=
  let on (e : Entry) : Bool := match e.place with | .active _ => true | .shadow _ => true | .chained _ => true | _ => false
  let l := s.ctxEntries k
  if l.isEmpty then 1
  else if !l.any (fun p => on p.2) then 2
  else if l.all (fun p => !on p.2 || p.2.cls = 2) then 3 else 4

/-- The victim that R112 chooses, if any context is eligible. -/
def State.victim (s : State) : Option Nat :=
  let l := (List.range 64).filter (fun r => (s.resSlot r).state = .resident && !s.tabled (s.resSlot r).ctx)
  let old := l.filter (fun r => 200000 ≤ s.fc - (s.resSlot r).loadedAt)
  leastBy (fun r => s.victimClass (s.resSlot r).ctx * 2 ^ 80 + (s.ctx (s.resSlot r).ctx).lastPlaced)
    (if old.isEmpty then l else old)

/-- RESIDENCY_LOAD (R111, R112, R114): a load of the context begins in a free slot, or it waits and a victim is evicted. -/
def execResidencyLoad (k : BitVec 20) (s : State) : Host.Outcome State Fault Refusal :=
  let s := s.evictions
  .next (if !s.feRuns || (s.ctx k).state ≠ .active || (s.ctx k).resident || !s.needsResidency k
      || decide ((s.proc procSched).state ≠ .running) then s
    else
      let s := if s.res.waiting.contains k then s else { s with res := { s.res with waiting := s.res.waiting ++ [k] } }
      if s.freeRes.isSome then s.startWaiting
      else if s.res.slots.countP (fun p => p.2.state = .evicting) < s.res.waiting.length then
        match s.victim with
        | some r => ((s.trace 1 procSched 0x0003 [(s.resSlot r).ctx.toNat, r, 1, s.victimClass (s.resSlot r).ctx]).updRes r (fun x => { x with state := .evicting })).evictStep r
        | none => s
      else s)

/-! ## The real-time table (R252 to R266) -/

/-- The entry fires in minor frame `m` (R253). -/
def rtFires (e : BitVec 128) (minors m : Nat) : Bool :=
  bit e 0 && decide (m < minors) &&
  (if rtStride e = 0 then m = rtFirst e else decide (rtFirst e ≤ m) && (m - rtFirst e) % rtStride e = 0)

/-- The instants within a major frame at which a valid entry fires, from its start. -/
def RtTable.instants (t : RtTable) (e : BitVec 128) : List Nat :=
  ((List.range t.minors).filter (rtFires e t.minors)).map (fun m => m * (t.majorFc / t.minors) + rtOffset e)

/-- A missed firing or an overrun is counted (R260), which raises RT_FAULT. -/
def State.rtFault (s : State) (n : Nat) (overrun : Bool) : State :=
  let y := s.yrd
  let y := { y with windows := y.windows.modify n (fun w => { w with counted := true }) }
  let y := if overrun then { y with overrun := y.overrun + 1 } else { y with missed := y.missed + 1 }
  State.raise { s with yrd := y } 0x00C

/-- RESERVATION_WINDOW_OPEN (R253, R255, R258, R261): the window of entry `i`'s firing in minor frame `m` opens; in a
front-end reset the firing is missed (R533). -/
def execReservationWindowOpen (i : BitVec 12) (m : BitVec 8) (s : State) : Host.Outcome State Fault Refusal :=
  .next (match s.yrd.table with
    | none => s
    | some t =>
      let e := t.entries.getD i.toNat 0
      if !rtFires e t.minors m.toNat || decide (t.entries.length ≤ i.toNat) || !s.inRun then s
      else
        let at0 := s.yrd.base.toNat + m.toNat * (t.majorFc / t.minors) + rtOffset e
        let at_ := if s.fc < at0 + rtLength e then at0 else at0 + t.majorFc
        if s.fc + rtLead e < at_ || s.yrd.windows.any (fun w => w.entry = i.toNat && w.instant = at_) then s
        else
          let q := s.queue (rtQueue e)
          let inert := decide (q.state ≠ .open_) || decide ((s.ctx q.ctx).state ≠ .active) || s.fwc.feBusy
          let w : Window := { entry := i.toNat, row := e, instant := at_, cluster := rtCluster e, length := rtLength e, launch := none
                              released := false, ended := false, switched := false, loaded := false, counted := false, inert }
          let n := s.yrd.windows.length
          let s := { s with yrd := { s.yrd with windows := s.yrd.windows ++ [w] } }
          if inert then s.rtFault n false
          else (s.updCluster (BitVec.ofNat 6 (rtCluster e)) (fun x => { x with hold := none })).windowsGo)

/-- RT_RELEASE (R258 step 4, R260): from the instant on, the preloaded launch issues, lowest entry index first and one per
fc; a cluster out of service has missed the firing. A launch whose load failed is issued without being placed (R338). -/
def execRtRelease (i : BitVec 12) (s : State) : Host.Outcome State Fault Refusal :=
  let mine (w : Window) : Bool := w.entry = i.toNat && !w.inert && !w.released && !w.ended
  let s := match s.yrd.windows.find? mine with
    | some w => s.failLoaded (fun x => x.queue = rtQueue w.row && s.tabledLaunch x)
    | none => s
  let s := s.windowsGo
  .next (match s.yrd.windows.findIdx? mine with
    | none => s
    | some n =>
      match s.yrd.windows[n]? with
      | none => s
      | some w =>
        if s.fc < w.instant then s
        else if !(s.cluster (BitVec.ofNat 6 w.cluster)).inService then (if w.counted then s else s.rtFault n false)
        else match w.launch with
          | none => s
          | some l =>
            if !s.releasable w || s.fwc.feBusy || s.yrd.releaseFc = some s.fc ||
                s.yrd.windows.any (fun v => decide (v.entry < w.entry) && s.releasable v) then s
            else
              let s := (s.issue l).updEntry l (fun y => { y with place := .shadow (BitVec.ofNat 6 w.cluster) })
              { s with yrd := { s.yrd with
                  released := s.yrd.released + 1, releaseFc := some s.fc
                  windows := s.yrd.windows.modify n (fun w => { w with released := true }) } })

/-- The next window on a cluster after the one of instant position `pos` belongs to context `k` (R262): the valid entry of
that cluster whose window opens soonest after it. -/
def State.nextIsSame (s : State) (t : RtTable) (cluster pos : Nat) (k : BitVec 20) : Bool :=
  let starts (e : BitVec 128) : List Nat := if bit e 0 && rtCluster e = cluster then
    (t.instants e).map (fun i => (i + t.majorFc - rtLead e) % t.majorFc) else []
  let l := (t.entries.map (fun e => (starts e).map (fun p => (((p + 2 * t.majorFc - pos - 1) % t.majorFc), (s.queue (rtQueue e)).ctx)))).flatten
  match leastBy (fun (p : Nat × BitVec 20) => p.1) l with | some p => p.2 = k | none => false

/-- WINDOW_CLOSE (R253, R258 step 6, R260, R262): at I + LENGTH an unreleased firing has missed, an unretired launch
overruns; the window closes then or at the retirement, subject to HOLD; a window of a table no longer active looks at the
windows of the new one from now on. -/
def execWindowClose (i : BitVec 12) (s : State) : Host.Outcome State Fault Refusal :=
  .next (match s.yrd.windows.findIdx? (fun w => w.entry = i.toNat && decide (w.instant + w.length ≤ s.fc)) with
    | none => s
    | some n =>
      match s.yrd.windows[n]? with
      | none => s
      | some w =>
        let c := BitVec.ofNat 6 w.cluster
        if w.released && !w.ended then (if w.counted then s else s.rtFault n true)
        else
          let s := if !w.released && !w.ended && !w.counted then s.rtFault n false else s
          let s := if w.inert || w.released || w.ended || w.launch.isNone then s
            else s.updCluster c (fun x => if x.shadowIs w.launch
              then { x with shadow := none } else x)
          let s := { s with yrd := { s.yrd with windows := s.yrd.windows.eraseIdx n } }
          match s.yrd.table with
          | none => s
          | some t =>
            let k := (s.queue (rtQueue w.row)).ctx
            let pos := if w.old then (s.fc - s.yrd.base.toNat) % t.majorFc
              else (w.instant + 2 * t.majorFc - s.yrd.base.toNat % t.majorFc - rtLead w.row) % t.majorFc
            if bit w.row 1 && !w.inert && !s.reserved c && s.nextIsSame t w.cluster pos k then
              s.updCluster c (fun x => { x with hold := some k })
            else s)

/-- MAJOR_FRAME (R264): the next major frame of the active table begins. -/
def execMajorFrame (s : State) : Host.Outcome State Fault Refusal :=
  .next (match s.yrd.table with
    | some t => if 0 < t.majorFc && decide (s.yrd.base.toNat + t.majorFc ≤ s.fc) then
        let b := s.yrd.base + BitVec.ofNat 64 t.majorFc
        State.trace { s with yrd := { s.yrd with base := b } } 2 procSched 0x0004
          [t.id.toNat, t.entries.length, bits b 31 0, bits b 63 32]
      else s
    | none => s)

/-- TABLE_ACTIVATION (R255): the accepted table becomes active at its base, once every context it names that is still
ACTIVE is resident, at or after START_FC, and at a boundary of the active table; its request completes OK. From the base on
the old table releases nothing more: its firings before the base that have released nothing are missed (R260), those at
or after it are dropped. An image with ENTRIES 0 is kept as the table, so that TABLE_ID, MINORS, MAJOR_FC and the base go on showing
it (DESIGN CHOICE, notes/assumptions/69). -/
def execTableActivation (s : State) : Host.Outcome State Fault Refusal :=
  .next (match s.yrd.pendingTable with
    | none => s
    | some (t, page) =>
      let loaded := (s.tableContexts t).all (fun k => s.isResident k || decide ((s.ctx k).state ≠ .active))
      let boundary := match s.yrd.table with
        | some o => o.entries.isEmpty || (s.fc - s.yrd.base.toNat) % o.majorFc = 0
        | none => true
      if !loaded || decide (s.fc < t.startFc) || !boundary || decide ((s.proc procSched).state ≠ .running) then s
      else
        let late (w : Window) : Bool := decide (w.instant < s.fc) && !w.released && !w.ended && !w.counted
        let s := s.each (List.range s.yrd.windows.length) (fun s n => match s.yrd.windows[n]? with
          | some w => if late w then s.rtFault n false else s
          | none => s)
        let s := s.each (s.yrd.windows.filter (fun w => !w.released)) (fun s w => s.updCluster (BitVec.ofNat 6 w.cluster) (fun x =>
          if x.shadowIs w.launch then { x with shadow := none } else x))
        let s := { s with
          yrd := { s.yrd with
            table := some t, pendingTable := none, base := s.fe.cycles
            windows := (s.yrd.windows.filter (fun (w : Window) => w.released)).map (fun (w : Window) => { w with old := true }) }
          clusters := tmap {} (fun _ x => { x with hold := none }) s.clusters }
        s.mbxDone page 0x00 0)

/-! ## Accounting and partitions -/

/-- ACCOUNTING_TICK (R267): every 65,536 fc the engine time of every running launch is added. -/
def execAccountingTick (s : State) : Host.Outcome State Fault Refusal :=
  .next (if s.yrd.accountFc + 65536 ≤ s.fc then
      let s := s.each s.allClusters (fun s c => s.charge c)
      { s with yrd := { s.yrd with accountFc := s.fc } }
    else s)

/-- A cluster joins a partition (R274): entries left in its deque return to their own partition (R250), CRZ_GEN advances,
and a PART_ASSIGN whose last cluster this was completes OK. -/
def State.join (s : State) (c : BitVec 6) (p : BitVec 3) : State :=
  let left := (s.cluster c).deque
  let s := s.updCluster c (fun x => { x with partition := p, moveTo := none, deque := [] })
  let s := (s.each left.reverse (fun s e => s.returnLaunch e)).cruise
  let moves := s.yrd.moves.map (fun m => (m.1, m.2.filter (fun k => k ≠ c.toNat)))
  let s := s.each (moves.filter (fun m => m.2.isEmpty)) (fun s m => s.mbxDone m.1 0x00 0)
  { s with yrd := { s.yrd with moves := moves.filter (fun m => !m.2.isEmpty) } }

/-- PARTITION_JOIN (R274): a cluster that drains for a move joins its new partition once it has no launch. -/
def execPartitionJoin (c : BitVec 6) (s : State) : Host.Outcome State Fault Refusal :=
  .next (match (s.cluster c).moveTo with
    | none => s
    | some p => if (s.cluster c).empty && (s.proc procSched).state = .running then s.join c p else s)

/-- A bucket after `n` fc (R276). -/
def refill (bucket : Int) (share burst : BitVec 8) (ports n : Nat) : Int :=
  min (bucket + (share.toNat * ports * 2 * n : Nat)) ((burst.toNat * 16384 : Nat) : Int)

/-- REGULATOR_BUCKET_REFILL (R276): both buckets of the partition gain the rate of the fc since their last refill. In a
build of 16 clusters no regulator acts. -/
def execRegulatorBucketRefill (p : BitVec 3) (s : State) : Host.Outcome State Fault Refusal :=
  .next (if s.build.clusters = 16 then s
    else
      State.promoteAll <| s.updPart p (fun x => { x with
        refillFc := s.fc
        rdBucket := refill x.rdBucket x.rdShare x.burst s.build.memPorts (s.fc - x.refillFc)
        wrBucket := refill x.wrBucket x.wrShare x.burst s.build.memPorts (s.fc - x.refillFc) }))

/-! ## The wait-graph probe (R237 to R241) -/

/-- The head blocker of a queue: its oldest PENDING entry (R238, R289), with whether order, BARRIER, its predecessor nodes
or its first launch hold it. -/
def State.headBlocker (s : State) (q : BitVec 14) : Option (Nat × Entry × Bool) :=
  (leastBy (fun (p : Nat × Entry) => p.2.ord) ((s.queueEntries q).filter (fun p => p.2.state = .pending && p.2.kind ≠ kWaitExt &&
    p.2.report.isNone))).map (fun p => (p.1, p.2,
      if p.2.kind = kGraphNode then !s.predsOk p.2 else if p.2.kind = kChained then true
      else !(s.orderMet p.2 && s.barrierMet p.2)))

/-- The earliest-admitted unretired entry that signals a Blaze (R238). -/
def State.signaller (s : State) (b : BitVec 16) : Option Entry :=
  (leastBy (fun (p : Nat × Entry) => p.2.ord) (s.lnd.entries.filter (fun p => p.2.signalled.contains b))).map (·.2)

/-- How a walk ends (R238): with a cycle (its members: queue, head blocker, followed Blaze), with none, or discarded; with
the hops walked. -/
inductive Walked
  | cycle (members : List (BitVec 14 × Nat × BitVec 16)) (hops : Nat)
  | noCycle (hops : Nat)
  | discarded (hops : Nat)
deriving DecidableEq, Repr

/-- The walk of R238, `n` hops at most. -/
def State.walk (s : State) : Nat → BitVec 14 → List (BitVec 14 × Nat × BitVec 16) → Walked
  | 0, _, path => .noCycle path.length
  | n + 1, q, path =>
    if path.any (fun p => p.1 = q) then .cycle (path.dropWhile (fun p => p.1 ≠ q)) path.length
    else match s.headBlocker q with
      | none => .noCycle path.length
      | some (e, x, blocked) =>
        if blocked then .noCycle path.length
        else match s.unmetWait e x with
          | none => .discarded path.length
          | some (b, _) =>
            match s.signaller b with
            | none => .noCycle path.length
            | some y => s.walk n y.queue (path ++ [(q, e, b)])

/-- LND_PROBE_LOG of a probe that has finished (R243), and its start queue's timer restarts. -/
def State.probeDone (s : State) (q : BitVec 14) (outcome hops len : Nat) : State :=
  let k := (s.lnd.probeLog.toNat + 1) % 2 ^ 32
  let s := s.fwAlert procSched 0x0008 [q.toNat, outcome, hops]
  let s := { s with lnd := { s.lnd with
      probeLog := BitVec.ofNat 64 (q.toNat * 2 ^ 50 + outcome * 2 ^ 48 + hops * 2 ^ 41 + len * 2 ^ 34 + k) } }
  s.restartTimer q

/-- A cluster that no longer has the launch entry `k` to run. -/
def Cluster.forget (k : Nat) (x : Cluster) : Cluster :=
  let drop (l : Launch) : Launch := if l.chain = some k then { l with chain := none } else l
  { x with
    active := x.active.map drop, shadow := x.shadow.map drop, chainNext := x.chainNext.filter (· ≠ k)
    chainWait := x.chainWait.filter (· ≠ k)
    switch := x.switch.map (fun w => if w.entry = some k then { w with entry := none } else w)
    recovery := x.recovery.map (fun r => { r with todo := r.todo.filter (fun p => p.2 ≠ k) }) }

/-- The CHAINED entry `k` retires ahead of its first launch, which runs on alone: the packet's completion entry is written at
the first launch's retirement (R162, R240, R241). -/
def State.leaveChain (s : State) (k : Nat) (x : Entry) (status : BitVec 8) : State × Entry :=
  let s : State := { s with clusters := tmap {} (fun _ y => y.forget k) s.clusters }
  match x.chainOf.bind (fun f => (s.entry f).map (fun y => (f, y))) with
  | some (f, y) =>
    if y.chain = some k then
      (s.updEntry f (fun y => { y with chain := none, firstStatus := some status, firstFc := s.fe.cycles }),
        { x with cplReserved := false })
    else (s, x)
  | none => (s, x)

/-- On a queue of the kernel context every PENDING or READY entry retires with the status, a CHAINED one after its first launch
if that does too, the head blocker with PROPAGATED 0 (R240, R241). -/
def State.failKernelQueue (s : State) (q : BitVec 14) (status : BitVec 8) (head : Option Nat) : State :=
  let l := ((s.queueEntries q).filter (fun p => decide (p.2.state ≠ .issued) && p.2.kind ≠ kWaitExt)).mergeSort
    (fun a b => 2 * a.2.ord + b2n a.2.chainOf.isSome ≤ 2 * b.2.ord + b2n b.2.chainOf.isSome)
  s.each l (fun s p =>
    match s.entry p.1 with
    | some x =>
      let r := if x.chainOf.isSome then s.leaveChain p.1 x status else (s, x)
      r.1.retire p.1 r.2 status r.2.ctx (decide (some p.1 ≠ head))
    | none => s)

/-- A declared cycle (R240). -/
def State.deadlock (s : State) (l : List (BitVec 14 × Nat × BitVec 16)) : State :=
  let s := s.each l (fun s m => s.blazeUpdate m.2.2 ⟨5, 0, .err 0x06 (s.queue m.1).ctx false⟩)
  s.each l (fun s m =>
    let k := (s.queue m.1).ctx
    if k = kernelCtx then s.failKernelQueue m.1 0x06 (some m.2.1)
    else
      let s := match s.entry m.2.1 with | some x => s.retire m.2.1 x 0x06 x.ctx false | none => s
      s.teardown k 0x06)

/-- WAIT_GRAPH_PROBE (R237 to R241): the scheduler core probes from the queue that fired first. -/
def execWaitGraphProbe (s : State) : Host.Outcome State Fault Refusal :=
  .next (match s.lnd.fired with
    | [] => s
    | q :: _ =>
      if s.fwc.feBusy || (s.proc procSched).state ≠ .running || s.fwc.state = .outOfService then s
      else match s.walk 64 q [] with
        | .discarded h => s.probeDone q 3 h 0
        | .cycle l h =>
          if l.any (fun m => (s.blaze m.2.2).error) then s.probeDone q 3 h 0
          else (s.deadlock l).probeDone q 2 h l.length
        | .noCycle h =>
          let k := (s.queue q).ctx
          let head := (s.headBlocker q).map (·.1)
          let s := if k = kernelCtx then s.failKernelQueue q 0x05 head else s.teardown k 0x05
          s.probeDone q 1 h 0)

end Sys2Proof.Machine
end

