-- ==== Sys2Proof/Machine/Xlate.lean ====
section
/-! DEFINITION. Translation: the leaf, walk and object caches (R421 to R426), walks (R417, R418), epochs (R429, R430) and
the slash ring (R433 to R440). -/

namespace Sys2Proof.Machine

/-! ## Caches -/

/-- Sets of a part of the translation cache (R421). -/
def Build.sets (b : Build) (full : Nat) : Nat := if b.deckMiB = 64 then full else full / 2

/-- The ways that a context's translations may fill and match (R424). -/
def State.ways (s : State) (k : BitVec 20) : List Nat :=
  if s.build.clusters = 16 then (List.range 16).filter (fun w => (s.part (s.ctx k).partition).ways.getLsbD w)
  else List.range 16

/-- A leaf translates page `vpn` of context `k` (R417, R422, R424). -/
def Leaf.covers (l : Leaf) (k : BitVec 20) (vpn : Nat) (ways : List Nat) : Bool :=
  l.ctx = k && l.vpn = vpn >>> (9 * l.level) && l.range = vpn >>> 9 && ways.contains l.way

/-- Lookup of a page in the leaf cache (R422). -/
def State.leafOf (s : State) (k : BitVec 20) (vpn : Nat) : Option Leaf := s.xlt.leaves.find? (fun l => l.covers k vpn (s.ways k))

/-- The physical page of a leaf for page `vpn` (R417). -/
def Leaf.page (l : Leaf) (vpn : Nat) : BitVec 40 := l.pfn + BitVec.ofNat 40 (vpn % 2 ^ (9 * l.level))

/-- The way that a fill takes: a free one of the set, else the least recently used among those the partition may fill
(R422, R424). -/
def victimWay (used ways : List Nat) : Option Nat :=
  match ways.find? (fun w => !used.contains w) with
  | some w => some w
  | none => (used.filter (fun w => ways.contains w)).getLast?

/-- A leaf is filled (R422 to R424): most recently used, replacing within its set; an entry of the same leaf and range
gives way to it. -/
def State.fillLeaf (s : State) (l : Leaf) : State :=
  let n := s.build.sets 8192
  let set (x : Leaf) : Nat := Config.leafSet x.ctx x.range % n
  let sameTag (x : Leaf) : Bool := x.ctx = l.ctx && x.vpn = l.vpn && x.level = l.level && x.range = l.range
  let used := (s.xlt.leaves.filter (fun x => set x = set l && !sameTag x)).map (·.way)
  match victimWay used (s.ways l.ctx) with
  | none => s
  | some w => { s with xlt := { s.xlt with
      leaves := { l with way := w } :: s.xlt.leaves.filter (fun x => !(set x = set l && (x.way = w || sameTag x))) } }

/-- A table entry of levels 1 to 4 is filled (R421, R424), in place of the least recently used (DESIGN CHOICE, log entry
13), or of an older entry for the same table. -/
def State.fillWalk (s : State) (x : WalkEnt) : State :=
  let n := s.build.sets 2048
  let set (y : WalkEnt) : Nat := Config.walkSet y.ctx (y.prefix_ * 8 + y.level) % n
  let sameTag (y : WalkEnt) : Bool := y.ctx = x.ctx && y.level = x.level && y.prefix_ = x.prefix_
  let used := (s.xlt.walkEnts.filter (fun y => set y = set x && !sameTag y)).map (·.way)
  match victimWay used (s.ways x.ctx) with
  | none => s
  | some w => { s with xlt := { s.xlt with
      walkEnts := { x with way := w } :: s.xlt.walkEnts.filter (fun y => !(set y = set x && (y.way = w || sameTag y))) } }

/-- An object-table entry is cached (R421, R425): 16 of a set; the one filled first is
replaced (DESIGN CHOICE, log entry 13). -/
def State.fillObject (s : State) (k i : BitVec 20) (o : ObjEntry) : State :=
  let n := s.build.sets 2048
  let set (y : BitVec 20 × BitVec 20 × ObjEntry) : Nat := Config.objSet y.1 y.2.1.toNat % n
  let l := s.xlt.objects.filter (fun y => !(y.1 = k && y.2.1 = i))
  let same := l.filter (fun y => set y = Config.objSet k i.toNat % n)
  let l := if 16 ≤ same.length then (match same.getLast? with | some y => l.erase y | none => l) else l
  { s with xlt := { s.xlt with objects := (k, i, o) :: l } }

/-- A leaf looked up becomes the most recently used. -/
def State.touchLeaf (s : State) (l : Leaf) : State :=
  { s with xlt := { s.xlt with leaves := l :: s.xlt.leaves.erase l } }

/-! ## Epochs (R429, R430) -/

/-- An access begins to count under an epoch (R429). -/
def State.epochTake (s : State) (k : BitVec 20) (e : BitVec 2) : State :=
  match s.residentSlot k with
  | some r => s.updRes r (fun x => { x with inFlight := listUpd x.inFlight e.toNat (· + 1) })
  | none => s

/-- TLB_INVALIDATEs whose old epochs have all drained complete OK (R430). -/
def State.settleInvals (s : State) : State :=
  let upd (v : Inval) : Inval := { v with epochs := v.epochs.filter (fun e => s.epochCount v.ctx e ≠ 0) }
  let l := s.xlt.invals.map upd
  let done := l.filter (fun v => v.epochs.isEmpty)
  let s := { s with xlt := { s.xlt with
    invals := l.filter (fun v => !v.epochs.isEmpty), invDone := s.xlt.invDone + BitVec.ofNat 32 done.length } }
  s.each done (fun s v => s.report v.entry 0x00 false)

/-- An access ends its count (R429, R430). -/
def State.epochDone (s : State) (k : BitVec 20) (e : BitVec 2) : State :=
  let s := match s.residentSlot k with
    | some r => s.updRes r (fun x => { x with inFlight := listUpd x.inFlight e.toNat (· - 1) })
    | none => s
  s.settleInvals

/-! ## The slash ring (R433 to R440) -/

/-- The bytes of a record posted at count `k` (R434). -/
def recordBytes (r : FaultRec) (k : W32) (log2 : Nat) : List Byte :=
  toBytes 4 k.toNat ++ [r.cause, BitVec.ofNat 8 (b2n (cplPhase k.toNat log2) + 2 * b2n r.write + 4 * b2n r.advice
    + 8 * b2n r.unposted), BitVec.ofNat 8 r.engine, BitVec.ofNat 8 r.slot] ++ toBytes 8 r.va ++
  toBytes 4 (r.ctx.toNat + r.level * 2 ^ 20) ++ toBytes 2 r.queue.toNat ++ [0, 0] ++ toBytes 8 r.fc.toNat

/-- Room in the ring for a record beyond `n` that go before it. -/
def Xlt.room (x : Xlt) (n : Nat) : Bool :=
  decide (x.ringLog2 ≠ 0) && decide ((x.wp - x.rp).toNat + n < 2 ^ x.ringLog2.toNat)

/-- The write of the record at WP (R433, R436). -/
def State.writeRecordAt (s : State) (r : FaultRec) : State :=
  let x := s.xlt
  s.ringWrite none srcRing (4096 * x.ringPfn.toNat + 32 * (x.wp.toNat % 2 ^ x.ringLog2.toNat))
    (recordBytes r x.wp x.ringLog2.toNat) .faultRecord

/-- The oldest record that waits is written at WP (R436, R437), one at a time. -/
def State.postNext (s : State) : State :=
  match s.xlt.posting, s.xlt.held with
  | none, r :: rest =>
    if s.xlt.room 0 then
      State.writeRecordAt { s with xlt := { s.xlt with posting := some r, held := rest } } r
    else s
  | _, _ => s

/-- A fault record is created (R436, R437): posted in order, or held when the ring has no room. -/
def State.createRecord (s : State) (r : FaultRec) : State :=
  let x := s.xlt
  let out := x.held.length + b2n x.posting.isSome
  if x.held.any (·.unposted) || x.failedFc.isSome || !x.room out then
    State.raise { s with xlt := { x with held := x.held ++ [{ r with unposted := true }], overflow := true } } 0x008 |>.noteFlag .fltOverflow
  else State.postNext { s with xlt := { x with held := x.held ++ [r] } }

/-- An advice record (R440): posted only with room and no record held. -/
def State.createAdvice (s : State) (r : FaultRec) : State :=
  let x := s.xlt
  if x.held.any (·.unposted) || x.failedFc.isSome || !x.room (x.held.length + b2n x.posting.isSome) then
    { s with xlt := { x with adviceDropped := x.adviceDropped + 1 } }
  else State.postNext { s with xlt := { x with held := x.held ++ [r] } }

/-- A record write has received OKAY (R436): WP advances, its stall takes FAULT_SEQ, the source is raised. -/
def State.recordPosted (s : State) : State :=
  match s.xlt.posting with
  | none => s
  | some r =>
    let k := s.xlt.wp
    let key := 64 * r.engine + r.slot
    let s := { s with xlt := { s.xlt with posting := none, wp := k + 1, failedFc := none } }
    let mark (x : Stream) : Stream := if !r.advice && x.ctx = r.ctx && x.stalled && x.seq.isNone then { x with seq := some k } else x
    let s := { s with hau := { s.hau with
      streams := s.hau.streams.map (fun (p : Nat × Stream) => if p.2.ident.getD p.1 = key then (p.1, mark p.2) else p)
      parked := s.hau.parked.map (fun (p : Parked) => if p.key = key then { p with stream := mark p.stream } else p) } }
    (s.raise 0x009).postNext

/-- A record write has failed (R438): the fault records that wait behind it are held. -/
def State.recordFailed (s : State) : State :=
  let s := s.logHw 0x0009 0x00 none none s.xlt.wp.toNat
  let late (r : FaultRec) : Bool := !r.advice && !r.unposted
  let held : List FaultRec := s.xlt.held.map (fun r => if late r then { r with unposted := true } else r)
  State.raise { s with xlt := { s.xlt with
    ringErr := true, failedFc := some s.fc, held, overflow := s.xlt.overflow || s.xlt.held.any late } } 0x008 |>.noteFlag .fltRingErr

/-- SLASH_RING_RETRY (R438): 65,536 fc after a failure the same record is written again. -/
def execSlashRingRetry (s : State) : Host.Outcome State Fault Refusal :=
  .next (match s.xlt.failedFc, s.xlt.posting with
    | some f, some r =>
      let out := (s.mp.txns ++ s.mp.waiting).any (fun t => t.purpose = .faultRecord)
      if f + 65536 ≤ s.fc && !out && s.feRuns then
        State.writeRecordAt { s with xlt := { s.xlt with failedFc := some s.fc } } r
      else s
    | _, _ => s)

/-! ## Walks (R417, R418) -/

/-- What a translation comes to: a leaf, a fault with its cause and level, or a read of the next table. -/
inductive WalkStep
  | leaf (l : Leaf) (notify : Bool)
  | fault (cause : BitVec 8) (level : Nat)
  | next (pfn : BitVec 40)
deriving DecidableEq, Repr

/-- An entry read at a level (R416 to R418), for access to page `vpn` of context `k` that needs `rd` and `wr`. -/
def walkEntry (k : BitVec 20) (vpn level : Nat) (pte : W64) : WalkStep :=
  let v := bit pte 0
  let leaf := bit pte 1
  let attr : BitVec 8 := pte.extractLsb' 52 8
  let pfn : BitVec 40 := pte.extractLsb' 12 40
  let reserved := bits pte 63 60 ≠ 0 || bits pte 7 5 ≠ 0
  let bad := reserved || (leaf && decide (3 ≤ level)) || (!leaf && level = 0) ||
    (!leaf && (attr ≠ 0 || bit pte 4 || bit pte 3 || bit pte 2)) ||
    (leaf && (decide (3 < attr.toNat) || decide (pfn.toNat % 2 ^ (9 * level) ≠ 0)))
  if !v then .fault 0x01 level
  else if bad then .fault 0x03 level
  else if leaf then .leaf { ctx := k, vpn := vpn >>> (9 * level), level, range := vpn >>> 9, pfn, attr, rd := bit pte 2
                            wr := bit pte 3, way := 0 } (bit pte 4)
  else .next pfn

/-- A walk reads its table entry's line (R417, R41). -/
def State.walkTable (s : State) (w : Walk) : State :=
  let pa := 4096 * w.table.toNat + 8 * ((w.vpn >>> (9 * w.level)) % 512)
  let s := { s with xlt := { s.xlt with walkReads := s.xlt.walkReads + 1 } }
  s.walkRead (64 * (pa / 64)) 64 (.walk w.id)

/-- The deepest cached table entry for a page (R421). -/
def State.walkHint (s : State) (k : BitVec 20) (vpn : Nat) : Option WalkEnt :=
  leastBy (fun (x : WalkEnt) => x.level) (s.xlt.walkEnts.filter (fun x =>
    x.ctx = k && x.prefix_ = vpn >>> (9 * x.level) && (s.ways k).contains x.way))

/-- A walk serves an access to page `vpn` of context `k` that counts under the epoch `e`: a walk that a TLB_INVALIDATE
has overtaken serves only accesses of its own epoch (R417, R430). -/
def Walk.serves (w : Walk) (k : BitVec 20) (vpn : Nat) (e : BitVec 2) : Bool :=
  w.ctx = k && w.vpn = vpn && (!w.stale || w.epoch = e)

/-- A table entry that begins a walk becomes the most recently used. -/
def State.touchHint (s : State) (x : Option WalkEnt) : State :=
  match x with
  | some x => { s with xlt := { s.xlt with walkEnts := x :: s.xlt.walkEnts.erase x } }
  | none => s

/-- A walk begins for a page that an access of epoch `e` needs (R417): from the root, or below the deepest cached table,
unless one in flight serves the access. At most 64 are in flight. -/
def State.startWalk (s : State) (k : BitVec 20) (vpn key : Nat) (e : BitVec 2) : State :=
  if s.xlt.walks.any (fun w => w.serves k vpn e) || 64 ≤ s.xlt.walks.length then s
  else
    match s.residentSlot k with
    | none => s
    | some r =>
      let d := (s.resSlot r).desc
      let hint := s.walkHint k vpn
      let start := match hint with
        | some x => (x.level - 1, x.pfn)
        | none => (if d.levels5 then 4 else 3, d.rootPfn)
      let s := s.touchHint hint
      let id := ((List.range 64).find? (fun i => !s.xlt.walks.any (fun w => w.id = i))).getD 64
      let w : Walk := { id, ctx := k, vpn, level := start.1, table := start.2, epoch := s.epoch k, stale := false
                        engine := key / 64, slot := key % 64 }
      (({ s with xlt := { s.xlt with walks := s.xlt.walks ++ [w] } }).epochTake k w.epoch).walkTable w

end Sys2Proof.Machine
end

