-- ==== Sys2Proof/Machine/Haul.lean ====
section
/-! DEFINITION. The haul engines (R349 to R368): operands and chunks (R352, R360), translation of chunks with stalls (R362,
R363), line locks (R355), conversion in the buffers (R354, R383 to R390), writes, ends of streams (R364 to R366), operand
copies (R312), the taking of operations (R359) and what a front-end reset leaves of a stream (R367). -/

namespace Sys2Proof.Machine

/-! ## Operands and chunks -/

/-- Elements of a chunk: `rows` rows from `row`, each with `count` elements from `elem` (R360). -/
structure Frame where
  /-- First row. -/
  row : Nat
  /-- Rows. -/
  rows : Nat
  /-- First element. -/
  elem : Nat
  /-- Elements of each row. -/
  count : Nat
deriving DecidableEq, Repr

/-- Bytes of a row (R352). -/
def Operand.rowBytes (o : Operand) : Nat := o.rowLen * o.width / 8
/-- PITCH, read as the row bytes with one row (R352). -/
def Operand.step (o : Operand) : Nat := if o.rows = 1 then o.rowBytes else o.pitch
/-- Address of the scale array (R352). -/
def Operand.scales (o : Operand) : Nat := o.base + o.rows * o.step
/-- Bytes of the scale array (R381). -/
def Operand.scaleBytes (o : Operand) : Nat := if o.bs = 0 then 0 else o.rowLen * o.rows / o.bs
/-- Bytes of the extent from `base` (R352). -/
def Operand.extent (o : Operand) : Nat :=
  if o.bs = 0 then (o.rows - 1) * o.step + o.rowBytes else o.rows * o.step + o.scaleBytes

/-- The source or destination operand, its object or region beginning at address `base`. -/
def HaulOp.operand (h : HaulOp) (dst : Bool) (base : Nat) : Operand :=
  let raw := h.op = opCopy || h.op = opPrefetch
  let fmt := if dst then h.dstFmt else h.srcFmt
  { deck := if dst then h.dstDeck else h.srcDeck
    base := base + if dst then h.dstOff else h.srcOff
    pitch := if dst then h.dstPitch else h.srcPitch
    fmt, raw
    width := if raw then 8 else fmtWidth fmt
    bs := if raw || !isMx fmt then 0 else mxBlock (if dst then h.dstBs else h.srcBs)
    dir := if dst then h.dstDir else h.srcDir
    rowLen := h.rowLen, rows := h.rows }

/-- Operands that an operation has, with `true` for the destination (R352). -/
def HaulOp.operands (h : HaulOp) (src dst : Nat) : List (Bool × Operand) :=
  (if h.hasSrc then [(false, h.operand false src)] else []) ++ (if h.hasDst then [(true, h.operand true dst)] else [])

/-- How a stream is split (R360): elements and rows of a chunk, and the number of chunks. A chunk takes whole MX blocks of
either operand, and at most 4 KiB of each where one block fits (notes/assumptions). -/
structure Split where
  /-- Elements of a chunk in each row. -/
  elems : Nat
  /-- Rows of a chunk. -/
  rows : Nat
  /-- Chunks side by side in a row. -/
  across : Nat
  /-- Chunks in all. -/
  total : Nat
deriving DecidableEq, Repr

/-- The split of an operation. -/
def HaulOp.split (h : HaulOp) : Split :=
  let l := (h.operands 0 0).map (·.2)
  let unit := l.foldl (fun a o => if o.bs ≠ 0 && !o.dir then max a o.bs else a) 8
  let rows := l.foldl (fun a o => if o.bs ≠ 0 && o.dir then max a o.bs else a) 1
  let bytes (o : Operand) : Nat := unit * rows * o.width / 8 + (if o.bs = 0 then 0 else unit * rows / o.bs)
  let most := l.foldl (fun a o => max a (bytes o)) 1
  let elems := unit * max 1 (4096 / most)
  let across := (h.rowLen + elems - 1) / elems
  { elems, rows, across, total := across * ((h.rows + rows - 1) / rows) }

/-- The elements of chunk `n`. -/
def HaulOp.frame (h : HaulOp) (n : Nat) : Frame :=
  let p := h.split
  let e := n % p.across * p.elems
  let r := n / p.across * p.rows
  { row := r, rows := min p.rows (h.rows - r), elem := e, count := min p.elems (h.rowLen - e) }

/-- Bytes of a chunk in each row of an operand. -/
def Operand.chunkRow (o : Operand) (f : Frame) : Nat := f.count * o.width / 8
/-- Element data of a chunk in bytes; the chunk's scale bytes follow it. -/
def Operand.chunkData (o : Operand) (f : Frame) : Nat := f.rows * o.chunkRow f

/-- An address range cut at 4 KiB boundaries: address and length of each part (R35). -/
def pageParts (a n : Nat) : List (Nat × Nat) :=
  if n = 0 then []
  else (List.range ((a + n - 1) / 4096 - a / 4096 + 1)).map (fun i =>
    let lo := max a ((a / 4096 + i) * 4096)
    let hi := min (a + n) ((a / 4096 + i + 1) * 4096)
    (lo, hi - lo))

/-- The pieces of one range of a chunk: at address `a`, `n` bytes at offset `off`, the first element that needs byte `i` of
it given by `key i`. -/
def rangePieces (deck : Bool) (a n off : Nat) (key : Nat → Nat) : List Piece :=
  if deck then (if n = 0 then [] else [{ deck, addr := a, len := n, off, key := key 0 }])
  else (pageParts a n).map (fun p => { deck, addr := p.1, len := p.2, off := off + (p.1 - a), key := key (p.1 - a) })

/-- The place of an element in the order of R363: row, element, source before destination. -/
def needKey (dst : Bool) (row elem : Nat) : Nat := (row * 2 ^ 24 + elem) * 2 + b2n dst

/-- The pieces of a chunk of an operand: element rows, then the scales of its blocks (R352, R381). -/
def Operand.pieces (o : Operand) (f : Frame) (dst : Bool) : List Piece :=
  let rb := o.chunkRow f
  let data := (List.range f.rows).map (fun r =>
    rangePieces o.deck (o.base + (f.row + r) * o.step + f.elem * o.width / 8) rb (r * rb)
      (fun i => needKey dst (f.row + r) (f.elem + 8 * i / o.width)))
  let at_ := o.chunkData f
  let scale := if o.bs = 0 then []
    else if o.dir then (List.range (f.rows / o.bs)).map (fun k =>
      rangePieces o.deck (o.scales + (f.row / o.bs + k) * o.rowLen + f.elem) f.count (at_ + k * f.count)
        (fun i => needKey dst (f.row + k * o.bs) (f.elem + i)))
    else (List.range f.rows).map (fun r =>
      rangePieces o.deck (o.scales + (f.row + r) * (o.rowLen / o.bs) + f.elem / o.bs) (f.count / o.bs)
        (at_ + r * (f.count / o.bs)) (fun i => needKey dst (f.row + r) (f.elem + i * o.bs)))
  (data ++ scale).flatten

/-- Byte address `a` belongs to the operand's rows or scales. -/
def Operand.covers (o : Operand) (a : Nat) : Bool :=
  (o.base ≤ a && (if o.step = 0 then false else
    decide ((a - o.base) / o.step < o.rows) && decide ((a - o.base) % o.step < o.rowBytes))) ||
  (o.scales ≤ a && decide (a < o.scales + o.scaleBytes))

/-! ## Streams -/

/-- Address at which an operand's object or region begins. -/
def Stream.baseOf (x : Stream) (h : HaulOp) (dst : Bool) : Nat :=
  if dst then (if h.dstDeck then 32768 * (h.dstH.toNat % 64) else x.dstVa)
  else if h.srcDeck then 32768 * (h.srcH.toNat % 64) else x.srcVa

/-- The operands of a stream; only a haul has a destination outside the block's own store (R358, R312). -/
def State.streamOperands (s : State) (x : Stream) : List (Bool × Operand) :=
  let h := s.streamOp x
  (h.operands (x.baseOf h false) (x.baseOf h true)).filter (fun p => !p.1 || x.kind = .haul)

/-- Pieces of chunk `n` of a stream, `true` for the destination's. -/
def State.chunkPieces (s : State) (x : Stream) (n : Nat) : List (Bool × Piece) :=
  let f := (s.streamOp x).frame n
  ((s.streamOperands x).map (fun p => (p.2.pieces f p.1).map (fun q => (p.1, q)))).flatten

/-- The pages that a chunk translates, in the order of R363, with the rights of R419. -/
def State.chunkNeed (s : State) (x : Stream) (n : Nat) : List (Nat × Bool × Bool) :=
  let h := s.streamOp x
  let l := ((s.chunkPieces x n).filter (fun p => !p.2.deck)).mergeSort (fun a b => a.2.key ≤ b.2.key)
  dedup (l.map (fun p => (p.2.addr / 4096, (!p.1 || decide (h.op = opReduce)), p.1)))

/-- The lowest virtual address that a chunk needs on a page (R434). -/
def State.lowestOn (s : State) (x : Stream) (n vpn : Nat) : Nat :=
  let l := ((s.chunkPieces x n).filter (fun p => !p.2.deck && p.2.addr / 4096 = vpn)).map (fun p => p.2.addr)
  l.foldl min (vpn * 4096 + 4095)

/-- The chunk `n` of a stream. -/
def Stream.chunk (x : Stream) (n : Nat) : Option Chunk := x.chunks.find? (fun k => k.n = n)

/-- An update of chunk `n` of the stream in slot `key`. -/
def State.updChunk (s : State) (key n : Nat) (f : Chunk → Chunk) : State :=
  s.updStream key (fun x => { x with chunks := x.chunks.map (fun k => if k.n = n then f k else k) })

/-- A stream's accesses are translated and counted (R413, R429). -/
def StreamKind.virtual : StreamKind → Bool
  | .reclaim _ => false
  | .descriptor _ => false
  | _ => true

/-- The class in which a stream is served (R359): 0 KERNEL, 1 RT, 2 the rest. An internal stream takes that of the
operation it serves; a residency load that of the first in class among its context's operations. -/
def State.serveRank (s : State) (kind : StreamKind) (e : Nat) : Nat :=
  let rank (x : Entry) : Nat := if x.kernelQ then 0 else if x.cls = 0 then 1 else 2
  match kind with
  | .descriptor k => ((s.ctxEntries k).map (fun p => rank p.2)).foldl min 2
  | .copy l => (match s.entry l with | some x => rank x | none => 2)
  | _ => (match s.entry e with | some x => rank x | none => 2)

/-- AxQOS of a translated haul transfer (R41). -/
def State.haulQos (s : State) (x : Stream) : BitVec 4 := if s.serveRank x.kind x.entry = 1 then 0xC else 4

/-! ## Ends of streams -/

/-- The stream leaves its slot; its line locks and waits go with it. -/
def State.dropStream (s : State) (key : Nat) : State :=
  { s with hau := { s.hau with
      streams := ldel s.hau.streams key
      locks := s.hau.locks.filter (fun l => l.2.1 ≠ key)
      lockQueue := s.hau.lockQueue.filter (fun l => l.1 ≠ key) } }

/-- A stream ends with a failure other than translation (R364, R312): its operation, or every launch that waits for the
copy, ends with the status, and its context is torn down. -/
def State.failStream (s : State) (key : Nat) (x : Stream) (status : BitVec 8) : State :=
  let s := (s.hauLog key x status).dropStream key
  let s := match x.kind with
    | .copy e => s.each (s.copyWaiters e) (fun s l => s.report l status false)
    | _ => s.report x.entry status false
  s.teardown x.ctx status

/-- Waiting launches whose operand copy is neither held nor being read have it read (R312). -/
def State.reobtain (s : State) (k : BitVec 20) : State :=
  s.each ((s.ctxEntries k).filter (fun p => p.2.actKind = kLaunch && p.2.report.isNone && p.2.slice.isNone &&
      (p.2.state = .ready || (match p.2.place with | .deque _ => true | .returned => true | _ => false))))
    (fun s p => s.obtainCopy p.1 p.2)

/-- Operand copies of a context are dropped (R312): those of which a part, given as handle, offset and length, or a page
is hit. A copy still being read is read again. -/
def State.dropCopies (s : State) (k : BitVec 20) (hit : W32 × Nat × Nat → Bool) (page : Nat → Bool) : State :=
  let gone (c : OpCopy) : Bool := c.ctx = k && (hit (c.desc.1, c.desc.2.1, 64 * c.desc.2.2) || hit c.sdata || c.pages.any page)
  let past (x : Stream) : Bool := x.ctx = k && (match x.kind with | .copy _ => true | _ => false) &&
    (let h := haulOf x.desc
     hit (h.srcH, h.srcOff, h.rowLen) || (List.range ((x.srcVa + h.srcOff + h.rowLen - 1) / 4096 - (x.srcVa + h.srcOff) / 4096 + 1)).any (fun i =>
         page ((x.srcVa + h.srcOff) / 4096 + i)))
  let s := { s with hau := { s.hau with
    copies := s.hau.copies.filter (fun c => !gone c)
    streams := s.hau.streams.map (fun (p : Nat × Stream) => if past p.2 then (p.1, { p.2 with stale := true }) else p)
    parked := s.hau.parked.map (fun (p : Parked) =>
      if past p.stream then { p with stream := { p.stream with stale := true } } else p) } }
  s.reobtain k

/-! ## The program cache (R345) -/

/-- Pages that the program-cache region takes (R397, R398). -/
def State.cachePages (s : State) : Nat := nth s.build.regionSizes 5 / 4

/-- Whole pages that an operand copy takes (notes/assumptions/65). -/
def OpCopy.size (k : OpCopy) : Nat := (64 * k.desc.2.2 + k.sdata.2.2 + 4095) / 4096

/-- A page of an image that is being copied into a bank stays (R345). -/
def State.pagePinned (s : State) (p : Nat) : Bool :=
  s.clusters.any (fun x => (x.2.active.toList ++ x.2.shadow.toList).any (fun l => l.pages.contains p && !l.wait.isEmpty))

/-- An operand copy is dropped, and read again for the launches that wait for it (R312). -/
def State.dropCopy (s : State) (k : OpCopy) : State :=
  State.reobtain { s with hau := { s.hau with copies := s.hau.copies.erase k } } k.ctx

/-- A cached page is dropped. -/
def State.dropPage (s : State) (p : Nat) : State :=
  { s with lnd := { s.lnd with cached := s.lnd.cached.filter (fun y => y.1 ≠ p) } }

/-- The program cache drops what was used least recently until the rest fits, `n` times at most (R345). -/
def State.cacheTrim : Nat → State → State
  | 0, s => s
  | n + 1, s =>
    if s.lnd.cached.length + (s.hau.copies.map OpCopy.size).sum ≤ s.cachePages then s
    else
      let p := leastBy (fun (p : Nat × Nat) => p.2) (s.lnd.cached.filter (fun p => !s.pagePinned p.1))
      let k := leastBy (fun (k : OpCopy) => k.stamp) (s.hau.copies.filter (fun k => k.missing.isEmpty))
      match p, k with
      | none, none => s
      | some a, none => State.cacheTrim n (s.dropPage a.1)
      | none, some b => State.cacheTrim n (s.dropCopy b)
      | some a, some b => State.cacheTrim n (if a.2 ≤ b.stamp then s.dropPage a.1 else s.dropCopy b)

/-- The program cache holds no more than its region takes. -/
def State.trimCache (s : State) : State := State.cacheTrim (s.lnd.cached.length + s.hau.copies.length) s

/-- An update of every launch in a bank. -/
def State.updLaunches (s : State) (f : Launch → Launch) : State :=
  { s with clusters := tmap {} (fun _ x => { x with active := x.active.map f, shadow := x.shadow.map f }) s.clusters }

/-- A page of the backing area has been read (R344, R345): the cache holds it while a binding names it, and the banks that
waited for it go on. -/
def State.pageArrived (s : State) (p : Nat) : State :=
  let named := s.lnd.bindings.any (fun b => b.pages.contains p)
  let s : State := { s with lnd := { s.lnd with
    cached := s.lnd.cached.filter (fun y => y.1 ≠ p) ++ (if named then [(p, s.lnd.cacheStamp)] else [])
    cacheStamp := s.lnd.cacheStamp + 1 } }
  let s := (s.updLaunches (fun l => l.takePage p)).trimCache
  (s.each s.allClusters State.tryEnable).windowsGo

/-- A page of the backing area could not be read (R42): every launch whose bank waits for it ends with FAULT_ACCESS, and its
context is torn down (notes/assumptions/65). -/
def State.pageFailed (s : State) (p : Nat) : State :=
  let waits (l : Launch) : Bool := l.wait.contains p
  let chain (x : Cluster) : List Nat := x.chainNext.toList.filter (fun e => match s.entry e with
    | some y => (match s.bindingOf y with | some b => b.pages.contains p | none => false)
    | none => false)
  let idle := (s.clusters.map (fun x => (x.2.shadow.toList.filter waits).map (·.entry) ++ chain x.2)).flatten
  let runs := (s.clusters.map (fun x => (x.2.active.toList.filter waits).map (·.entry))).flatten
  let s := s.updLaunches (fun l => if waits l then { l with failed := true } else l)
  let s := s.each idle (fun s e => s.report e 0x08 false)
  s.each (idle ++ runs) (fun s e => match s.entry e with | some y => s.teardown y.ctx 0x08 | none => s)

/-- A cached page that the Deck has lost is read again (R345, R404): for the banks that it was being copied into at once, for
the others when placement next needs it. -/
def State.pageLost (s : State) (p : Nat) : State :=
  let fills (l : Launch) : Bool := l.pages.contains p && !l.wait.isEmpty
  let ls := (s.clusters.map (fun x => (x.2.active.toList ++ x.2.shadow.toList).filter fills)).flatten
  let s := (s.dropPage p).updLaunches (fun l => if fills l then { l with wait := l.wait ++ [p] } else l)
  s.each (ls.take 1) (fun s l => s.fetchPages { l with wait := [p] })

/-- A part of an operand copy has been read (R312): 0 the descriptors, 1 the scalar image. -/
def State.copyPart (s : State) (e : Nat) (x : Stream) : State :=
  match s.entry e with
  | none => s
  | some y =>
    let l := y.launch
    let part := bits x.desc 416 416
    let h := haulOf x.desc
    let pages := (List.range ((x.srcVa + h.srcOff + h.rowLen - 1) / 4096 - (x.srcVa + h.srcOff) / 4096 + 1)).map
      (fun i => (x.srcVa + h.srcOff) / 4096 + i)
    let same (c : OpCopy) : Bool := c.ctx = x.ctx && c.desc = l.desc && c.sdata = l.sdata
    let fresh : OpCopy :=
      { ctx := x.ctx, desc := l.desc, sdata := l.sdata, descs := [], image := [], pages := []
        missing := (if l.desc.2.2 = 0 then [] else [0]) ++ (if l.sdata.2.2 = 0 then [] else [1]) }
    let c := (s.hau.copies.find? same).getD fresh
    let c : OpCopy := { c with
      pages := c.pages ++ pages, missing := c.missing.filter (· ≠ part), stamp := s.lnd.cacheStamp }
    let s : State := { s with lnd := { s.lnd with cacheStamp := s.lnd.cacheStamp + 1 } }
    let c := if part = 0 then { c with descs := x.staged } else { c with image := x.staged }
    if x.stale then s.reobtain x.ctx
    else State.reobtain (State.trimCache
      { s with hau := { s.hau with copies := s.hau.copies.filter (fun c => !same c) ++ [c] } }) x.ctx

/-- A cluster's control core may run the loader for context `k` (R339): in service, of the context's partition, its core not
restarting. -/
def State.mayLoad (s : State) (k : BitVec 20) (c : BitVec 6) : Bool :=
  (s.cluster c).inService && (s.cluster c).partition = (s.ctx k).partition && s.coreRuns c

/-- Loads in progress on a cluster's control core, without entry `e`: staged, and not yet ended (R339). -/
def State.loadsOn (s : State) (e : Nat) (c : BitVec 6) : Nat :=
  s.lnd.entries.countP (fun p => p.1 ≠ e && p.2.kind = kProgramLoad && p.2.state = .issued && p.2.loader = some c &&
    p.2.report.isNone)

/-- The control core that runs the loader for load `e` (R339): the one chosen when the image was staged; where that one may not
now, or none could then, the one with the fewest loads in progress, of several the lowest cluster. -/
def State.loaderCore (s : State) (e : Nat) (x : Entry) : Option (BitVec 6) :=
  match x.loader.filter (s.mayLoad x.ctx) with
  | some c => some c
  | none => leastBy (s.loadsOn e) (s.allClusters.filter (s.mayLoad x.ctx))

/-- A stream has passed every chunk (R366): a haul ends with OK, a load goes on with its staged image (R340), a copy's
part is held. -/
def State.endStream (s : State) (key : Nat) (x : Stream) : State :=
  let s := s.dropStream key
  match x.kind with
  | .load => s.updEntry x.entry (fun y => { y with
      staged := x.staged, phase := 1, loader := s.loaderCore x.entry { y with loader := none } })
  | .copy e => (s.copyPart e x).windowsGo
  | .haul => s.report x.entry 0x00 false
  | _ => s

/-- A stream with no chunk in flight ends, stops, parks or stays (R364 to R366). -/
def State.settleStream (s : State) (key : Nat) : State :=
  match s.stream key with
  | none => s
  | some x =>
    if !x.chunks.isEmpty then s
    else if x.stopping then
      let st := x.killed.getD (s.ctx x.ctx).teardown
      let s := (s.hauLog key x st).dropStream key
      match x.kind with
      | .copy _ => s
      | _ => s.report x.entry st x.killed.isNone
    else match x.fail with
      | some st => s.failStream key x st
      | none =>
        if !x.stalled && decide (x.total ≤ x.next) then s.endStream key x
        else if x.parking then (s.parkStreams x.ctx).evictions
        else s

/-- Chunk `n` leaves the stream: its count ends (R429), its locks are released (R355). -/
def State.endChunk (s : State) (key n : Nat) : State :=
  match s.stream key with
  | none => s
  | some x =>
    match x.chunk n with
    | none => s
    | some k =>
      let s := s.updStream key (fun x => { x with chunks := x.chunks.filter (fun k => k.n ≠ n) })
      let s := { s with hau := { s.hau with
        locks := s.hau.locks.filter (fun l => !(l.2.1 = key && l.2.2 = n))
        lockQueue := s.hau.lockQueue.filter (fun l => !(l.1 = key && l.2 = n)) } }
      let s := if x.kind.virtual then s.epochDone x.ctx k.epoch else s
      s.settleStream key

/-- A burst of chunk `n` has failed (R364): no further chunk starts, and the chunk writes nothing more. -/
def State.markFailed (s : State) (key n : Nat) (status : BitVec 8) : State :=
  (s.updStream key (fun x => { x with fail := some (x.fail.getD status) })).updChunk key n (fun k => { k with bad := true })

/-! ## Conversion in the buffers -/

/-- `w` bits of a byte list from bit `p` (R375). -/
def bitsAt (b : List Byte) (p w : Nat) : Nat := (le b (p / 8) 5 >>> (p % 8)) % 2 ^ w

/-- The elements of a chunk, in row order. -/
def Frame.places (f : Frame) : List (Nat × Nat) :=
  ((List.range f.rows).map (fun r => (List.range f.count).map (fun e => (r, e)))).flatten

/-- The block of an element within a chunk, in the order of the chunk's scale bytes (R381), and its place in the block. -/
def Operand.blockOf (o : Operand) (f : Frame) (r e : Nat) : Nat × Nat :=
  if o.dir then (r / o.bs * f.count + e, r % o.bs) else (r * (f.count / o.bs) + e / o.bs, e % o.bs)

/-- The value of an element of a chunk's bytes, scaled (R354), and whether it was flushed (R388). -/
def Operand.value (o : Operand) (f : Frame) (b : List Byte) (subn : Bool) (r e : Nat) : FVal × Bool :=
  let v := elemIn o.fmt (bitsAt b (8 * r * o.chunkRow f + e * o.width) o.width) subn
  let x := le b (o.chunkData f + (o.blockOf f r e).1) 1
  if o.bs = 0 then v else (scaleVal v.1 x, v.2 && decide (x ≠ 0xFF))

/-- Element codes packed into the rows of a chunk (R375). -/
def Operand.pack (o : Operand) (f : Frame) (code : Nat → Nat → Nat) : List Byte :=
  ((List.range f.rows).map (fun r => toBytes (o.chunkRow f)
    ((List.range f.count).foldl (fun a e => a + (code r e % 2 ^ o.width) <<< (e * o.width)) 0))).flatten

/-- The elements of block `b` of a chunk, in order. -/
def Operand.blockPlaces (o : Operand) (f : Frame) (b : Nat) : List (Nat × Nat) :=
  f.places.filter (fun p => (o.blockOf f p.1 p.2).1 = b)

/-- A free element code of a block that is NaN whole; an MXINT8 element is never written as −128 (R380). -/
def freeElem (fmt c : Nat) : Nat := if fmt = 0x0A && c % 256 = 0x80 then 0 else c

/-- Values written to an operand's chunk: bytes, OVERFLOW and FLUSHED (R383 to R388). The element codes of a block that
becomes NaN whole are free values. -/
def Operand.write (o : Operand) (f : Frame) (h : HaulOp) (v : Nat → Nat → FVal) (free : Nat) : List Byte × Bool × Bool :=
  if o.bs = 0 then
    let out (r e : Nat) : FRes := elemOut o.fmt (v r e) h.trunc h.sat h.subn
    (o.pack f (fun r e => (out r e).code), f.places.any (fun p => (out p.1 p.2).ovf), f.places.any (fun p => (out p.1 p.2).flush))
  else
    let n := f.rows * f.count / o.bs
    let blocks := (List.range n).map (fun b =>
      mxEncode o.fmt ((o.blockPlaces f b).map (fun p => v p.1 p.2)) h.trunc h.sat h.subn)
    let empty : MxBlock := { scale := 0, elems := [], ovf := false, flush := false }
    let code (r e : Nat) : Nat :=
      let i := o.blockOf f r e
      (((blocks.getD i.1 empty).elems.getD i.2 none).getD (freeElem o.fmt (Config.freeByte (free + r * f.count + e)).toNat))
    (o.pack f code ++ blocks.map (fun b => BitVec.ofNat 8 b.scale), blocks.any (·.ovf), blocks.any (·.flush))

/-- The result of a chunk (R354): the destination's bytes with its scales, OVERFLOW and FLUSHED. -/
def HaulOp.result (h : HaulOp) (n : Nat) (src dst : List Byte) (free : Nat) : List Byte × Bool × Bool :=
  let f := h.frame n
  let a := h.operand false 0
  let d := h.operand true 0
  if h.op = opFill then
    let w := if d.bs = 0 then h.fill.toNat else h.fill.toNat / 256
    (d.pack f (fun _ _ => w) ++ (if d.bs = 0 then [] else List.replicate (f.rows * f.count / d.bs) (h.fill.extractLsb' 0 8)),
      false, false)
  else if h.op = opConvert then
    let r := d.write f h (fun r e => (a.value f src h.subn r e).1) free
    (r.1, r.2.1, r.2.2 || f.places.any (fun p => (a.value f src h.subn p.1 p.2).2))
  else if h.op = opReduce then
    let x (r e : Nat) := a.value f src h.subn r e
    let y (r e : Nat) := d.value f dst h.subn r e
    let t (r e : Nat) := sumVal (y r e).1 (x r e).1 h.trunc h.subn (d.bs ≠ 0)
    let r := d.write f h (fun r e => (t r e).1) free
    (r.1, r.2.1 || f.places.any (fun p => (t p.1 p.2).2.1),
     r.2.2 || f.places.any (fun p => (t p.1 p.2).2.2 || (x p.1 p.2).2 || (y p.1 p.2).2))
  else (src, false, false)

/-- HAU_FMT_FLAGS (R389), and source FMT_FLAGS when a flag becomes 1 (R496). -/
def State.fmtFlags (s : State) (x : Stream) (engine : Nat) (ovf flush : Bool) : State :=
  if !ovf && !flush then s
  else
    let rise := (ovf && !s.hau.overflow) || (flush && !s.hau.flushed)
    let s : State := { s with hau := { s.hau with
      overflow := s.hau.overflow || ovf, flushed := s.hau.flushed || flush, lastContext := x.ctx
      lastEngine := BitVec.ofNat 4 engine } }
    let s := if ovf then s.noteFlag .fmtOverflow else s
    let s := if flush then s.noteFlag .fmtFlushed else s
    if rise then s.raise 0x00E else s

/-! ## Reads and writes of a chunk -/

/-- Physical address of a virtual one under a chunk's translations (R417), with the memory attribute. -/
def Chunk.physical (k : Chunk) (va : Nat) : Nat × BitVec 8 :=
  match k.xlats.find? (fun t => t.vpn = va / 4096) with
  | some t => (4096 * t.pfn.toNat + va % 4096, t.attr)
  | none => (va, 0)

/-- Virtual addresses of context `c` that lead to physical address `pa` by the translations at hand: those of a stream's chunks,
where the context is the stream's own, and the leaf cache (R417). -/
def State.aliases (s : State) (x : Stream) (c : BitVec 20) (pa : Nat) : List Nat :=
  (if c = x.ctx then (x.chunks.flatMap (fun k => k.xlats)).filterMap (fun t =>
      if t.pfn.toNat = pa / 4096 then some (4096 * t.vpn + pa % 4096) else none) else []) ++
  s.xlt.leaves.filterMap (fun l =>
    let n := pa / 4096 - l.pfn.toNat
    if l.ctx = c && l.pfn.toNat ≤ pa / 4096 && decide (n < 2 ^ (9 * l.level))
    then some (4096 * (l.vpn * 2 ^ (9 * l.level) + n) + pa % 4096) else none)

/-- Byte `i` of a destination piece belongs to operand `o` of context `c`, under the same address or through another one
(R356). -/
def State.meets (s : State) (x : Stream) (k : Chunk) (p : Piece) (i : Nat) (c : BitVec 20) (o : Operand) : Bool :=
  let a := p.addr + i
  o.deck = p.deck && (if p.deck then o.covers a
    else (c = x.ctx && o.covers a) || (s.aliases x c (k.physical a).1).any o.covers)

/-- The block gives no result for byte `i` of a destination piece (R356): the same operation reads it through its source, or
another operation writes it at the same time, unless both are REDUCE. -/
def State.unresulted (s : State) (x : Stream) (k : Chunk) (p : Piece) (i : Nat) : Bool :=
  let reduce := decide ((s.streamOp x).op = opReduce)
  (s.streamOperands x).any (fun q => !q.1 && s.meets x k p i x.ctx q.2) ||
  x.rivals.any (fun r => !(r.reduce && reduce) && s.meets x k p i r.ctx r.dst)

/-- The destination bytes for which the block gives no result take free values (R356). -/
def State.overlapFree (s : State) (x : Stream) (k : Chunk) (b : List Byte) : List Byte :=
  (((s.chunkPieces x k.n).filter (·.1)).map (·.2)).foldl (fun b (p : Piece) =>
    (List.range p.len).foldl (fun b i =>
      if s.unresulted x k p i then b.set (p.off + i) (Config.freeByte (s.free + 8192 + p.off + i)) else b) b) b

/-- Byte `j` lies in one of some ranges. -/
def inRanges (l : List (Nat × Nat)) (j : Nat) : Bool := l.any (fun p => p.1 ≤ j && decide (j < p.1 + p.2))

/-- An element of a chunk's bytes, or its block's scale, lies in a lost part (R43). -/
def Operand.codeLost (o : Operand) (f : Frame) (l : List (Nat × Nat)) (r e : Nat) : Bool :=
  let lo := 8 * r * o.chunkRow f + e * o.width
  (List.range ((lo + o.width - 1) / 8 - lo / 8 + 1)).any (fun i => inRanges l (lo / 8 + i)) ||
  (o.bs ≠ 0 && inRanges l (o.chunkData f + (o.blockOf f r e).1))

/-- The bytes of a chunk's result whose data came from the lost parts of its source and its destination (R43): byte for byte, or
those of the elements, and for an MX format of the blocks, that were made from them. -/
def HaulOp.lostBytes (h : HaulOp) (n : Nat) (src dst : List (Nat × Nat)) (len : Nat) : List (Nat × Nat) :=
  if src.isEmpty && dst.isEmpty then []
  else if h.op ≠ opConvert && h.op ≠ opReduce then src
  else
    let f := h.frame n
    let d := h.operand true 0
    let elem (r e : Nat) : Bool := (h.operand false 0).codeLost f src r e || (h.op = opReduce && d.codeLost f dst r e)
    let block (b : Nat) : Bool := (d.blockPlaces f b).any (fun p => elem p.1 p.2)
    let bad (r e : Nat) : Bool := if d.bs = 0 then elem r e else block (d.blockOf f r e).1
    ((List.range len).filter (fun j =>
      if j < d.chunkData f then
        let at_ := 8 * (j % d.chunkRow f)
        (List.range ((at_ + 7) / d.width - at_ / d.width + 1)).any (fun i =>
          decide (at_ / d.width + i < f.count) && bad (j / d.chunkRow f) (at_ / d.width + i))
      else block (j - d.chunkData f))).map (fun j => (j, 1))

/-- A piece of a chunk's result goes out: to the Deck's software-managed bytes, unless some of the chunk's data is lost (R404), or
as a write burst (R360 step 5), the lost bytes with WPOISON (R43). -/
def State.writePiece (s : State) (key : Nat) (x : Stream) (k : Chunk) (b : List Byte) (p : Piece) : State :=
  let d := slice b p.off p.len
  if p.deck && !k.lostDst.isEmpty then s
  else if p.deck then { s with dck := { s.dck with
      mem := memWriteBytes s.dck.mem p.addr d, lostRows := s.madeWhole p.addr p.len } }
  else
    let t := k.physical p.addr
    let poison := if k.lostDst.isEmpty then [] else (List.range d.length).map (fun i => inRanges k.lostDst (p.off + i))
    s.mpWrite (some (s.ctx x.ctx).partition) (BitVec.ofNat 6 (key / 64)) t.1 2 (awCache t.2) (s.haulQos x) d poison
      (.chunkWrite (key / 64) (key % 64) k.n)

/-- The staged result of a chunk is written (R360 step 5, R367), and operand copies of the written bytes are dropped
(R312). -/
def State.writeResult (s : State) (key : Nat) (x : Stream) (n : Nat) (b : List Byte) : State :=
  match x.chunk n with
  | none => s
  | some k =>
    let h := s.streamOp x
    let l := ((s.chunkPieces x n).filter (·.1)).map (·.2)
    let out := l.countP (fun p => !p.deck)
    let s := s.updChunk key n (fun k => { k with phase := .writing, dst := [(0, b)], writes := out })
    let s := s.each l (fun s p => s.writePiece key x k b p)
    let hit (c : W32 × Nat × Nat) : Bool := !h.dstDeck && c.1 = h.dstH && decide (0 < c.2.2) &&
      l.any (fun p => decide (p.addr < x.dstVa + c.2.1 + c.2.2) && decide (x.dstVa + c.2.1 < p.addr + p.len))
    let s := s.dropCopies x.ctx hit (fun _ => false)
    if out = 0 then s.endChunk key n else s

/-- A chunk whose reads have all arrived is converted and written (R360 steps 4 and 5), or staged (R340, R312); one of
which a burst has failed ends. -/
def State.chunkGo (s : State) (key n : Nat) : State :=
  match s.stream key with
  | none => s
  | some x =>
    match x.chunk n with
    | none => s
    | some k =>
      if k.phase ≠ .reading || k.reads ≠ 0 then s
      else if k.bad then s.endChunk key n
      else
        let h := s.streamOp x
        let src := gathered k.src
        match x.kind with
        | .haul =>
          let r := h.result n src (gathered k.dst) s.free
          let b := s.overlapFree x k r.1
          let lost := h.lostBytes n k.lostSrc k.lostDst b.length
          let s := { s with free := s.free + 16384 }
          let s := s.updChunk key n (fun k => { k with lostSrc := [], lostDst := lost })
          let x := (s.stream key).getD x
          (s.fmtFlags x (key / 64) r.2.1 r.2.2).writeResult key x n b
        | _ => (s.updStream key (fun x => { x with staged := putBytes x.staged (n * h.split.elems) src })).endChunk key n

/-- A piece is read (R360 step 3): from the Deck at once, or by a read burst. Bytes of a lost row end the stream with
DECK_DATA_LOSS (R404, R364). -/
def State.readPiece (s : State) (key : Nat) (x : Stream) (k : Chunk) (p : Bool × Piece) : State :=
  let put (b : List Byte) (k : Chunk) : Chunk :=
    if p.1 then { k with dst := k.dst ++ [(p.2.off, b)] } else { k with src := k.src ++ [(p.2.off, b)] }
  if p.2.deck then
    let l := (s.swLostIn p.2.addr p.2.len).map (fun r => (p.2.off + r.1, r.2))
    let s := if l.isEmpty then s
      else (s.updStream key (fun x => { x with fail := some (x.fail.getD 0x0E) })).updChunk key k.n (fun k =>
        if p.1 then { k with lostDst := k.lostDst ++ l } else { k with lostSrc := k.lostSrc ++ l })
    s.updChunk key k.n (put (memReadBytes s.dck.mem p.2.addr p.2.len))
  else
    let t := k.physical p.2.addr
    (s.updChunk key k.n (fun k => { k with reads := k.reads + 1 })).mpRead (some (s.ctx x.ctx).partition)
      (BitVec.ofNat 6 (key / 64)) t.1 p.2.len 2 (arCache t.2) (s.haulQos x)
      (.chunkRead (key / 64) (key % 64) k.n p.1 p.2.off)

/-- A chunk reads its source and, for REDUCE, its destination (R360 step 3). -/
def State.beginReads (s : State) (key n : Nat) : State :=
  match s.stream key with
  | none => s
  | some x =>
    match x.chunk n with
    | none => s
    | some k =>
      let h := s.streamOp x
      let l := (s.chunkPieces x n).filter (fun p => !p.1 || decide (h.op = opReduce))
      let s := s.updChunk key n (fun k => { k with phase := .reading })
      (s.each l (fun s p => s.readPiece key x k p)).chunkGo key n

/-- Data of a chunk's read has arrived. -/
def State.chunkData (s : State) (key n : Nat) (isDst : Bool) (off : Nat) (b : List Byte) : State :=
  (s.updChunk key n (fun k =>
    let k := { k with reads := k.reads - 1 }
    if isDst then { k with dst := k.dst ++ [(off, b)] } else { k with src := k.src ++ [(off, b)] })).chunkGo key n

/-- A chunk's read has failed (R42, R364). -/
def State.chunkReadFailed (s : State) (key n : Nat) (status : BitVec 8) : State :=
  ((s.markFailed key n status).updChunk key n (fun k => { k with reads := k.reads - 1 })).chunkGo key n

/-- A chunk's write has been answered (R360 step 6), `ok` false when it failed. -/
def State.chunkWritten (s : State) (key n : Nat) (ok : Bool) : State :=
  let s := if ok then s else s.markFailed key n 0x08
  let s := s.updChunk key n (fun k => { k with writes := k.writes - 1 })
  match (s.stream key).bind (fun x => x.chunk n) with
  | some k => if k.phase = .writing && k.writes = 0 then s.endChunk key n else s
  | none => s

/-! ## Line locks (R355) -/

/-- The destination lines that a REDUCE chunk covers: physical, or marked as the Deck's. -/
def State.chunkLines (s : State) (x : Stream) (k : Chunk) : List Nat :=
  dedup ((((s.chunkPieces x k.n).filter (·.1)).map (fun p =>
    let a := if p.2.deck then p.2.addr else (k.physical p.2.addr).1
    (List.range ((a + p.2.len - 1) / 64 - a / 64 + 1)).map (fun i => a / 64 + i + if p.2.deck then 2 ^ 60 else 0))).flatten)

/-- All of a chunk's lines are free, and it takes their locks; none otherwise. -/
def State.tryLocks (s : State) (key n : Nat) : Option State :=
  match s.stream key with
  | none => none
  | some x =>
    match x.chunk n with
    | none => none
    | some k =>
      let l := s.chunkLines x k
      if l.any (fun a => s.hau.locks.any (fun b => b.1 = a)) then none
      else some { s with hau := { s.hau with
        locks := s.hau.locks ++ l.map (fun a => (a, key, n))
        lockQueue := s.hau.lockQueue.filter (fun q => !(q.1 = key && q.2 = n)) } }

/-! ## Translation of chunks -/

/-- Step 1 has ended for chunk `n` (R360): PREFETCH ends, REDUCE asks for its locks, the others read. -/
def State.translated (s : State) (key n : Nat) : State :=
  match s.stream key with
  | none => s
  | some x =>
    let op := (s.streamOp x).op
    if op = opPrefetch then s.endChunk key n
    else if op = opReduce then
      match s.tryLocks key n with
      | some s => s.beginReads key n
      | none =>
        let s := s.updChunk key n (fun k => { k with phase := .waitingLock })
        { s with hau := { s.hau with
            lockWaits := tupd 0 s.hau.lockWaits (key / 64) (· + 1), lockQueue := s.hau.lockQueue ++ [(key, n)] } }
    else s.beginReads key n

/-- A page of chunk `n` cannot be translated: the stream stalls there (R363). Later chunks leave it; those already
complete are not repeated (R367). -/
def State.stallAt (s : State) (key n : Nat) (cause : BitVec 8) (level vpn : Nat) (wr : Bool) : State :=
  match s.stream key with
  | none => s
  | some x =>
    let late := x.chunks.filter (fun k => n ≤ k.n && k.phase = .translating)
    let done := (x.chunks.filter (fun k => n < k.n && k.phase ≠ .translating)).map (·.n)
    let va := s.lowestOn x n vpn
    let s := if x.stopping then s else s.updStream key (fun x => { x with
      stalled := true, next := n, seq := none, ident := none, skip := x.skip ++ done })
    let s := s.each late (fun s k => s.endChunk key k.n)
    if x.stopping then s
    else
      let s := { s with hau := { s.hau with stalls := s.hau.stalls + 1 } }
      let q := match s.entry x.entry with | some e => e.queue | none => 0
      s.createRecord { cause, write := wr, advice := false, unposted := false, engine := key / 64, slot := key % 64, va
                       ctx := x.ctx, level, queue := q, fc := s.fe.cycles }

/-- The first need of a chunk is met by a leaf. -/
def State.grant (s : State) (key n : Nat) (l : Leaf) : State :=
  s.updChunk key n (fun k => { k with
    need := k.need.tail
    xlats := match k.need with
      | (vpn, _, _) :: _ => k.xlats ++ [{ vpn, pfn := l.page vpn, attr := l.attr }]
      | [] => k.xlats })

/-- The chunk of a stream that translates now: the earliest at step 1 (R362). -/
def Stream.translating (x : Stream) : Option Chunk :=
  leastBy (fun (k : Chunk) => k.n) (x.chunks.filter (fun k => k.phase = .translating))

/-- A stream's translation goes on from the cache until it needs a walk, stalls or ends (R362, R422, R423), `fuel` steps
at most. -/
def State.translate : Nat → State → Nat → State
  | 0, s, _ => s
  | fuel + 1, s, key =>
    match s.stream key with
    | none => s
    | some x =>
      match x.translating with
      | none => s
      | some k =>
        match k.need with
        | [] => State.translate fuel (s.translated key k.n) key
        | (vpn, rd, wr) :: _ =>
          let five := match s.residentSlot x.ctx with | some r => (s.resSlot r).desc.levels5 | none => false
          let joins := s.xlt.walks.any (fun w => w.serves x.ctx vpn k.epoch)
          let miss (s : State) : State := State.startWalk (if joins || decide (s.xlt.walks.length < 64) then
            { s with xlt := { s.xlt with leafMisses := s.xlt.leafMisses + 1 } } else s) x.ctx vpn key k.epoch
          if !five && decide (vpn >>> 36 ≠ 0) then State.translate fuel (s.stallAt key k.n 0x04 3 vpn wr) key
          else match s.leafOf x.ctx vpn with
            | some l =>
              if (l.rd || !rd) && (l.wr || !wr) then State.translate fuel ((s.touchLeaf l).grant key k.n l) key
              else miss { s with xlt := { s.xlt with leaves := s.xlt.leaves.erase l } }
            | none => miss s

/-- Steps enough for everything a stream has yet to translate. -/
def Stream.translateFuel (x : Stream) : Nat := (x.chunks.map (fun k => k.need.length + 2)).sum + 2

/-- The stream in slot `key` translates as far as it can. -/
def State.translateOn (s : State) (key : Nat) : State :=
  match s.stream key with
  | none => s
  | some x => State.translate x.translateFuel s key

/-- Streams whose chunk waits at step 1 for a page that the walk `w` fetches for it (R417, R430). -/
def State.walkWaiters (s : State) (w : Walk) : List Nat :=
  (s.hau.streams.filter (fun (p : Nat × Stream) => match p.2.translating with
    | some c => (match c.need with | (v, _, _) :: _ => w.serves p.2.ctx v c.epoch | [] => false)
    | none => false)).map (·.1)

/-- A walk ends: its count ends, and the streams that have no walk of their own go on (R417, R429). -/
def State.endWalk (s : State) (w : Walk) : State :=
  let s : State := { s with xlt := { s.xlt with walks := s.xlt.walks.filter (fun v => v.id ≠ w.id) } }
  let s := s.epochDone w.ctx w.epoch
  let walking (s : State) (k : BitVec 20) (c : Chunk) : Bool := match c.need with
    | (vpn, _, _) :: _ => s.xlt.walks.any (fun v => v.serves k vpn c.epoch)
    | [] => false
  s.each (s.hau.streams.map (·.1)) (fun s key => match s.stream key with
    | some x => if x.translating.any (walking s x.ctx) then s else s.translateOn key
    | none => s)

/-- A walk has found a leaf or a fault: each access that waits takes it (R417, R363); a leaf that serves one of them is
filled unless a TLB_INVALIDATE has overtaken the walk (R423, R430), with an advice record for NOTIFY (R440). -/
def State.walkResult (s : State) (w : Walk) (r : WalkStep) : State :=
  let l := s.walkWaiters w
  match r with
  | .next _ => s
  | .fault cause level =>
    (s.each l (fun s key => match (s.stream key).bind Stream.translating with
      | some c => (match c.need with
        | (_, _, wr) :: _ => s.stallAt key c.n cause level w.vpn wr
        | [] => s)
      | none => s)).endWalk w
  | .leaf x notify =>
    let fits (key : Nat) : Bool := match (s.stream key).bind Stream.translating with
      | some c => (match c.need with | (_, rd, wr) :: _ => (x.rd || !rd) && (x.wr || !wr) | [] => false)
      | none => false
    let fill := !w.stale && l.any fits
    let s := if fill then s.fillLeaf x else s
    let s := if fill && notify then
        let q := match (s.stream (64 * w.engine + w.slot)).bind (fun x => s.entry x.entry) with
          | some e => e.queue | none => 0
        let va := match s.stream (64 * w.engine + w.slot) with
          | some y => (match y.translating with | some c => s.lowestOn y c.n w.vpn | none => 4096 * w.vpn)
          | none => 4096 * w.vpn
        s.createAdvice { cause := 0x05, write := false, advice := true, unposted := false, engine := w.engine, slot := w.slot
                         va, ctx := w.ctx, level := x.level, queue := q, fc := s.fe.cycles }
      else s
    (s.each l (fun s key => match (s.stream key).bind Stream.translating with
      | some c => (match c.need with
        | (_, rd, wr) :: _ =>
          if (x.rd || !rd) && (x.wr || !wr) then s.grant key c.n x else s.stallAt key c.n 0x02 x.level w.vpn wr
        | [] => s)
      | none => s)).endWalk w

/-- The line of a walk's table read has arrived (R416 to R418). -/
def State.walkArrived (s : State) (id : Nat) (b : List Byte) : State :=
  match s.xlt.walks.find? (fun w => w.id = id) with
  | none => s
  | some w =>
    match walkEntry w.ctx w.vpn w.level (BitVec.ofNat 64 (le b (8 * ((w.vpn >>> (9 * w.level)) % 8)) 8)) with
    | .next pfn =>
      let s := if w.stale then s
        else s.fillWalk { ctx := w.ctx, level := w.level, prefix_ := w.vpn >>> (9 * w.level), pfn, way := 0 }
      let v : Walk := { w with level := w.level - 1, table := pfn }
      State.walkTable { s with xlt := { s.xlt with walks := s.xlt.walks.map (fun y => if y.id = id then v else y) } } v
    | r => s.walkResult w r

/-- A walk's read has failed under R42: the streams that wait for it end with FAULT_ACCESS, and no record is posted
(R435). -/
def State.walkFailed (s : State) (id : Nat) : State :=
  match s.xlt.walks.find? (fun w => w.id = id) with
  | none => s
  | some w =>
    (s.each (s.walkWaiters w) (fun s key => match (s.stream key).bind Stream.translating with
      | some c => (s.markFailed key c.n 0x08).endChunk key c.n
      | none => s)).endWalk w

/-! ## Starting chunks -/

/-- A physical internal stream makes its one transfer (R572): the descriptor page, or the object-table entry. -/
def State.physicalChunk (s : State) (key : Nat) (x : Stream) : State :=
  let part := some (s.ctx x.ctx).partition
  let src := BitVec.ofNat 6 (key / 64)
  match x.kind with
  | .descriptor _ => s.mpRead part src x.srcVa 4096 3 3 8 (.ctxDesc (key / 64) (key % 64))
  | _ => s.mpWrite part src x.srcVa 3 3 8 (toBytes 2 (bits x.desc 15 0)) [] (.reclaim (key / 64) (key % 64))

/-- The stream can start its next chunk (R360 to R365). -/
def State.chunkMayStart (s : State) (key : Nat) (x : Stream) : Bool :=
  s.feRuns && !x.stalled && x.fail.isNone && !x.stopping && !x.parking && decide (x.next < x.total) &&
  decide (x.chunks.length < 32) && x.translating.isNone &&
  decide (s.buffersUsed (key / 64) + s.chunkBuffers x ≤ 112)

/-- CHUNK_START (R360 to R362): the stream's next chunk takes its buffers and the current epoch and translates its pages,
then goes on as far as it can. A chunk that a front-end reset left complete is passed over (R367). -/
def execChunkStart (engine : BitVec 4) (slot : BitVec 6) (s : State) : Host.Outcome State Fault Refusal :=
  let key := 64 * engine.toNat + slot.toNat
  .next (match s.stream key with
    | none => s
    | some x =>
      if !s.chunkMayStart key x then s
      else if x.skip.contains x.next then
        (s.updStream key (fun x => { x with next := x.next + 1 })).settleStream key
      else
        let n := x.next
        let k : Chunk := { n, phase := if x.kind.virtual then .translating else .reading, epoch := s.epoch x.ctx
                           need := if x.kind.virtual then s.chunkNeed x n else [] }
        let s := s.updStream key (fun x => { x with next := n + 1, chunks := x.chunks ++ [k] })
        if x.kind.virtual then
          let s := s.epochTake x.ctx k.epoch
          if x.translating.isSome then s else s.translateOn key
        else s.physicalChunk key x)

/-- LINE_LOCK_ACQUIRE (R355): the chunk that has waited longest for line locks acquires all of its lines once they are
free; it belongs to the stream named. -/
def execLineLockAcquire (engine : BitVec 4) (slot : BitVec 6) (s : State) : Host.Outcome State Fault Refusal :=
  let key := 64 * engine.toNat + slot.toNat
  .next (match s.hau.lockQueue with
    | [] => s
    | (k, n) :: _ =>
      if k ≠ key || !s.feRuns then s
      else match s.tryLocks key n with
        | some s => s.beginReads key n
        | none => s)

/-! ## Taking operations (R359) -/

/-- Descriptor slots of an engine in use, by any context or by one (R349, R359). -/
def Hau.slotsOf (h : Hau) (engine : Nat) (k : Option (BitVec 20)) : Nat :=
  h.streams.countP (fun p => p.1 / 64 = engine && (match k with | some c => p.2.ctx = c | none => true))

/-- The slot that an operation of a context takes: on the engine with the most free slots, the lowest of equals, among
those where the context holds fewer than 32 (R359). -/
def State.haulSlot (s : State) (k : BitVec 20) : Option Nat :=
  let l := (List.range s.build.haulEngines).filter (fun e => s.hau.slotsOf e none < 64 && s.hau.slotsOf e (some k) < 32)
  (leastBy (fun e => s.hau.slotsOf e none) l).bind (fun e =>
    ((List.range 64).find? (fun k => (s.stream (64 * e + k)).isNone)).map (fun k => 64 * e + k))

/-- What an engine can take: a READY entry, an internal stream that waits, a parked stream. -/
inductive Take
  | entry (e : Nat) (x : Entry)
  | internal (i : Nat) (x : Internal)
  | parked (i : Nat) (x : Parked)
deriving DecidableEq, Repr

/-- Haul-kind operations (R221). -/
def Entry.haulKind (x : Entry) : Bool :=
  x.actKind = kHaul || x.kind = kProgramLoad || x.kind = kGraphLoad || x.kind = kGraphPatch

/-- The context that a Take belongs to. -/
def Take.ctx : Take → BitVec 20
  | .entry _ x => x.ctx
  | .internal _ x => x.ctx
  | .parked _ x => x.stream.ctx

/-- The place of a Take in the order of R359: class, then READY time, then admission. -/
def State.takeKey (s : State) (t : Take) : Nat :=
  let age (e : Nat) : Nat := match s.entry e with | some x => x.readyAt * 2 ^ 64 + x.ord | none => 0
  match t with
  | .entry e _ => s.serveRank .haul e * 2 ^ 200 + age e
  | .internal _ x => s.serveRank x.kind x.entry * 2 ^ 200 + age x.entry
  | .parked _ x => s.serveRank x.stream.kind x.stream.entry * 2 ^ 200 + age x.stream.entry

/-- Everything an engine could take now (R359): translated traffic only of resident contexts. -/
def State.takes (s : State) : List Take :=
  let l := (s.lnd.entries.filter (fun p => p.2.haulKind && p.2.state = .ready && p.2.report.isNone && !p.2.torn &&
      s.isResident p.2.ctx)).map (fun p => Take.entry p.1 p.2)
  let i := ((s.hau.internal.mapIdx (fun i x => Take.internal i x)).filter (fun t => match t with
    | .internal _ x => !x.kind.virtual || s.isResident x.ctx | _ => false))
  let p := ((s.hau.parked.mapIdx (fun i x => Take.parked i x)).filter (fun t => s.isResident t.ctx))
  (l ++ i ++ p).filter (fun t => (s.haulSlot t.ctx).isSome)

/-- The operation that the engines take next (R359). -/
def State.nextTake (s : State) : Option Take := leastBy s.takeKey s.takes

/-- A load is rejected (R341, R347): the binding and LND_PROG_REJECT keep the code and the record. -/
def State.rejectLoad (s : State) (e : Nat) (x : Entry) (code : BitVec 8) (record : Nat) : State :=
  let p : BitVec 16 := x.img.extractLsb' 256 16
  let s : State := { s with lnd := { s.lnd with
    rejects := s.lnd.rejects + 1
    progReject := BitVec.ofNat 64 (x.ctx.toNat * 2 ^ 44 + p.toNat * 2 ^ 28 + code.toNat * 2 ^ 20 + record % 2 ^ 20)
    bindings := s.lnd.bindings.map (fun y => if x.ownBinding y
      then { y with code, record := BitVec.ofNat 20 record } else y) } }
  s.report e 0x09 false

/-- The binding value of a PROGRAM_LOAD still lives for an earlier load (R340 step 1). -/
def State.bindingWraps (s : State) (x : Entry) : Bool :=
  x.kind = kProgramLoad && decide (1 < s.lnd.bindings.countP (fun y => y.ctx = x.ctx &&
    y.program = x.img.extractLsb' 256 16 && y.binding = x.img.extractLsb' 304 16))

/-- Virtual base of the object that a handle of a context names, through its reference (R121, R290). -/
def State.objectBase (s : State) (k : BitVec 20) (h : W32) : Nat :=
  match s.refRecord k h with | some i => 4096 * (tget {} s.xlt.refs i).vaPfn.toNat | none => 0

/-- The descriptor of a load: COPY of one row of SRC_LEN bytes (R358). -/
def State.loadDesc (s : State) (x : Entry) : W512 :=
  BitVec.ofNat 512 (opCopy + bits x.img 471 448 * 2 ^ 40 + 2 ^ 64
    + (tget {} s.xlt.refs (bits x.img 336 320)).handle.toNat * 2 ^ 96 + bits x.img 431 384 * 2 ^ 160)

/-- The destination of a haul stream, as another operation meets it (R356). -/
def State.rivalOf (s : State) (x : Stream) : Option Rival :=
  if x.kind ≠ .haul then none
  else ((s.streamOperands x).find? (fun p => p.1)).map (fun p =>
    { ctx := x.ctx, reduce := decide ((s.streamOp x).op = opReduce), dst := p.2 })

/-- The haul streams under way, parked ones among them. -/
def Hau.hauls (h : Hau) : List Stream := (h.streams.map (·.2) ++ h.parked.map (·.stream)).filter (fun x => x.kind = .haul)

/-- A stream comes to the engines: it and the haul operations under way have run at the same time (R356). -/
def State.placeStream (s : State) (key : Nat) (y : Stream) : State :=
  let meet (x : Stream) : Stream := if x.kind = .haul then { x with rivals := x.rivals ++ (s.rivalOf y).toList } else x
  let y := if y.kind = .haul then { y with rivals := s.hau.hauls.filterMap s.rivalOf } else y
  { s with hau := { s.hau with
      streams := lset (s.hau.streams.map (fun p => (p.1, meet p.2))) key y
      parked := s.hau.parked.map (fun (p : Parked) => { p with stream := meet p.stream }) } }

/-- An entry's stream in a slot. -/
def State.entryStream (s : State) (e key : Nat) (x : Entry) : State :=
  let load := x.actKind ≠ kHaul
  let h := if load then haulOf (s.loadDesc x)
    else HaulOp.flat (if x.nodeHaul then haulOf (x.pkt.extractLsb' 512 512) else s.haulResolved x.img)
  let y : Stream := { kind := if load then .load else .haul, entry := e, ctx := x.ctx, desc := if load then s.loadDesc x else 0
                      srcVa := s.objectBase x.ctx h.srcH, dstVa := s.objectBase x.ctx h.dstH, total := h.split.total }
  (s.issue e).placeStream key y

/-- An operation is taken into slot `key` (R359, R221): an entry issues, a load whose binding value still lives is
rejected without taking the slot (R340), a parked stream goes on at its recorded chunk (R365). -/
def State.takeInto (s : State) (t : Take) (key : Nat) : State :=
  match t with
  | .entry e x => if s.bindingWraps x then (s.issue e).rejectLoad e x 0x13 0 else s.entryStream e key x
  | .internal i x =>
    let y : Stream := { kind := x.kind, entry := x.entry, ctx := x.ctx, desc := x.desc, srcVa := x.srcVa
                        total := if x.kind.virtual then (haulOf x.desc).split.total else 1 }
    { s with hau := { s.hau with internal := s.hau.internal.eraseIdx i, streams := lset s.hau.streams key y } }
  | .parked i x =>
    let y : Stream := if x.marked then { x.stream with stalled := false, seq := none }
      else if x.stream.stalled then { x.stream with ident := some x.key } else x.stream
    { s with hau := { s.hau with parked := s.hau.parked.eraseIdx i, streams := lset s.hau.streams key y } }

/-- The engines take operation `t`, if they can now. -/
def State.haulTake (s : State) (t : Take) : State :=
  match s.haulSlot t.ctx with
  | some key => s.takeInto t key
  | none => s

/-- HAUL_TAKE (R359): the next operation goes to the engine with the most free slots. -/
def execHaulTake (s : State) : Host.Outcome State Fault Refusal :=
  .next (if !s.feRuns then s else match s.nextTake with | some t => s.haulTake t | none => s)

/-- Entry `e` goes to an engine if it is the one that the engines take next (R221, R359). -/
def State.haulIssue (s : State) (e : Nat) : State :=
  if !s.feRuns then s
  else match s.nextTake with
    | some (.entry i x) => if i = e then s.haulTake (.entry i x) else s
    | _ => s

/-! ## After a front-end reset (R367) -/

/-- A chunk in flight after a front-end reset: a REDUCE chunk that had issued a write re-issues its staged result under
its locks; every other starts again at step 1 with the current epoch and without locks. -/
def State.restartChunk (s : State) (key : Nat) (x : Stream) (k : Chunk) : State :=
  if (s.streamOp x).op = opReduce && k.phase = .writing && x.kind = .haul then s.writeResult key x k.n (gathered k.dst)
  else
    let s := { s with hau := { s.hau with
      locks := s.hau.locks.filter (fun l => !(l.2.1 = key && l.2.2 = k.n))
      lockQueue := s.hau.lockQueue.filter (fun l => !(l.1 = key && l.2 = k.n)) } }
    if x.kind.virtual then
      let s := s.epochDone x.ctx k.epoch
      let e := s.epoch x.ctx
      let y : Chunk := { n := k.n, phase := .translating, epoch := e, need := s.chunkNeed x k.n, bad := k.bad }
      ((s.updChunk key k.n (fun _ => y)).epochTake x.ctx e)
    else s.physicalChunk key x

/-- Every stream goes on after a front-end reset. -/
def State.restartStreams (s : State) : State :=
  s.each s.hau.streams (fun s p =>
    (s.each p.2.chunks (fun s k => s.restartChunk p.1 p.2 k)).translateOn p.1)

end Sys2Proof.Machine
end

