-- ==== Sys2Proof/Machine/Firmware.lean ====
section
/-! DEFINITION. Firmware processors (R467 to R479): the start of the firmware (R471), the bundle's checks (R472, R473),
failures, watchdogs and restarts (R474 to R478), the sources that processors claim (R501). -/

namespace Sys2Proof.Machine

/-! ## Starting the firmware -/

/-- The boot ROM reads the bundle, its header first (R472, R468), unless check 1 or an area of no pages refuses it. -/
def State.readBundle (s : State) : State :=
  if s.pins.keyHash = 0 || s.pins.keyHash = BitVec.allOnes 384 || s.fwc.bundlePages = 0 then s
  else s.fwAsk { page := none, pa := 4096 * s.fwc.bundlePfn.toNat, len := 0 } 0 256 false

/-- START (R471, R490): FWC_CTRL is written while STATE is IDLE; with START 1 the security core runs its boot ROM. -/
def State.startFirmware (s : State) (v : W64) : State :=
  if s.fwc.state ≠ .idle then s
  else
    let s : State := { s with fwc := { s.fwc with drvIf := v.extractLsb' 16 16, startBit := s.fwc.startBit || bit v 0 } }
    if bit v 0 then (s.updProc procSec (fun p => { p with state := .running })).setFw .verifying else s

/-- The start is refused with a REASON (R472). -/
def State.refuseStart (s : State) (reason : BitVec 8) : State :=
  State.setFw { s with fwc := { s.fwc with reason } } .refused

/-- The first of checks 1 to 10 of R472 that fails. -/
def State.bundleFault (s : State) (b : Option (List Byte)) : Option (BitVec 8) :=
  let room := 4096 * s.fwc.bundlePages.toNat
  let procs := s.build.clusters + 3
  if s.pins.keyHash = 0 || s.pins.keyHash = BitVec.allOnes 384 then some 0x01
  else match b with
    | none => some 0x02
    | some b =>
      if s.fwc.bundlePages = 0 then some 0x02
      else if !bundleForm b room then some 0x03
      else if !keyMatches b s.pins.keyHash then some 0x04
      else if !signatureOk b then some 0x05
      else if !sectionsOk b procs then some 0x06
      else if !containOk b then some 0x07
      else if le b 8 1 ≠ 4 || le b 9 1 ≠ 2 then some 0x08
      else if decide (s.fwc.drvIf.toNat < le b 0x00A 2) || decide (le b 0x00C 2 < s.fwc.drvIf.toNat) then some 0x09
      else if !microOk b then some 0x0A
      else none

/-- The scheduler core writes the firmware fields of a route (R497): bits of a free value. -/
def State.firmwareRoute (s : State) (n k : Nat) : State :=
  let w := Config.firmwareRoute n k
  { s with irq := { s.irq with routes := tupd {} s.irq.routes k (fun r => { r with
      sec := w.getLsbD 10, pwr := w.getLsbD 9, sched := w.getLsbD 8, clsEn := w.getLsbD 7, cluster := w.extractLsb' 0 6 }) } }

/-- The released firmware sets its routes and enable words (R497, R498), whose values the spec leaves to it. -/
def State.firmwareTargets (s : State) : State :=
  let n := s.free
  let s := State.each { s with free := n + 1 } (List.range 0x3FF) (fun s k => s.firmwareRoute n k)
  s.each (List.range (s.build.clusters + 3)) (fun s p => s.updProc p (fun y => { y with enable := Config.firmwareEnable n p }))

/-- What the security core does once checks 1 to 10 have passed (R473): protection, image copies, control store, processors
released, and the link resets that check 11 waits for. -/
def State.acceptBundle (s : State) (b : List Byte) : State :=
  let l := bundleSections b
  let s := s.loadMicrocode (microSection b)
  let s : State := { s with fwc := { s.fwc with
    fwVersion := BitVec.ofNat 64 (le b 0x010 8), ifMin := BitVec.ofNat 16 (le b 0x00A 2)
    ifMax := BitVec.ofNat 16 (le b 0x00C 2), locked := true } }
  let s := s.each (List.range (s.build.clusters + 3)) (fun s p =>
    match textFor l p with
    | x :: _ => s.updProc p (fun y => { y with
        state := .running, contain := if p = 0 then 3 else BitVec.ofNat 2 x.contain, wdogLog2 := BitVec.ofNat 8 x.wdog
        imageLost := false })
    | [] => s)
  let s := s.firmwareTargets
  let s := s.setFw .starting
  s.each s.allClusters (fun s c => s.updCluster c Cluster.linkReset)

/-! ## Failures and restarts -/

/-- The sources that a failed processor holds are completed and become pending again (R501). -/
def State.releaseHeld (s : State) (p : Nat) : State :=
  match (s.proc p).held with
  | none => s
  | some n =>
    let m : BitVec 1024 := BitVec.twoPow 1024 n.toNat &&& ~~~(BitVec.twoPow 1024 0x3FF)
    let q := s.irq
    State.updProc { s with irq := { q with pending := q.pending ||| m, inService := q.inService &&& ~~~m } } p
      (fun x => { x with held := none })

/-- The entry in progress is abandoned (R514, R519, R521): the log, the answer to its mailbox request, the source. From step 1
of R515 on a wake event latched goes with it (R516). -/
def State.abandonEntry (s : State) (reason : BitVec 4) : State :=
  match s.pwr.request with
  | none => s
  | some (t, page) =>
    let p := s.pwr
    let begun := decide (p.phase ≠ .polling)
    let n : W32 := p.refuseLog.extractLsb' 0 32 + 1
    let log : W64 := BitVec.ofNat 8 t.code ++ reason ++ (0 : BitVec 20) ++ n
    let s : State := { s with pwr := { p with
      request := none, phase := .none_, refuseLog := log, quietFc := s.fc
      wake := p.wake && !begun, wakeLate := p.wakeLate && !begun } }
    let s := s.trace 6 procPower 0x0009 [t.code, 0, reason.toNat]
    let s := match page with
      | some m => s.mbxDone m 0x02 (reason.setWidth 512)
      | none => s
    s.raise 0x006

/-- The power core fails during an entry (R477): the entry is abandoned, with a reason that the spec does not give, and the
exit sequence follows where the entry had begun. -/
def State.failEntry (s : State) : State :=
  if s.pwr.request.isNone || s.pwr.phase = .exiting then s
  else
    let begun := decide (s.pwr.phase ≠ .polling)
    let w := s.freshWord
    let s := w.2.abandonEntry (w.1.extractLsb' 0 4)
    if begun then { s with pwr := { s.pwr with phase := .exiting, undoing := true } } else s

/-- The processor has not restarted (R478): its cluster takes a cluster reset, or the block the reset of R523. -/
def State.notRestarted (s : State) (p : Nat) : State :=
  if p = procSched then s.ask kindFrontEnd 0x05
  else if p = procPower then s.ask kindWhole 0x08
  else s.startHang (BitVec.ofNat 6 (p - 3)) 0x03 0

/-- The restart of a failed processor is counted under its kind (R478, R550). -/
def restartCounter (p : Nat) : Nat := if p = procPower then 4 else if p = procSched then 5 else 6

/-- A processor fails (R475 to R478): the security core's failure forces a whole-block reset; another's is a counted event,
and one that fails before it is RUNNING again has not restarted. A power-state entry under way is abandoned when the power
core fails (R477). -/
def State.failProc (s : State) (p : Nat) (cause : BitVec 4) : State :=
  let again := (s.proc p).state = .restarting
  let s := (s.raise 0x003).releaseHeld p
  let s := s.updProc p (fun x => { x with
    cause, restartFc := s.fe.cycles.extractLsb' 0 32, failFc := if again then x.failFc else s.fc, state := .restarting })
  if p = procSec then s.ask kindWhole 0x07
  else if again then s.notRestarted p
  else s.counted (fun s =>
    let s := (s.holdCore p).count (restartCounter p)
    let s := s.updProc p (fun x => { x with restarts := x.restarts + 1 })
    if p = procPower then s.failEntry else s)

/-- A processor is present and can fail: it runs, or it restarts. -/
def State.procLives (s : State) (p : Nat) : Bool :=
  decide (p < s.build.clusters + 3) && decide ((s.proc p).state ≠ .off)

/-- PROCESSOR_FAILURE (R475): a protection fault where PROTECT is in force, a fatal exception, or a memory error. -/
def execProcessorFailure (p : BitVec 7) (cause : BitVec 4) (s : State) : Host.Outcome State Fault Refusal :=
  let contain := if p.toNat = procSec then 3 else (s.proc p.toNat).contain
  .next (if s.procLives p.toNat && ((cause = 2 && bit contain 1) || cause = 3 || cause = 4) then s.failProc p.toNat cause else s)

/-- FW_WATCHDOG_EXPIRY (R474): a processor under WATCHDOG, running or released again by its restart (R476), has not been
serviced for its period. -/
def execFwWatchdogExpiry (p : BitVec 7) (elapsed : Nat) (s : State) : Host.Outcome State Fault Refusal :=
  let x := s.proc p.toNat
  let contain := if p.toNat = procSec then 3 else x.contain
  .next (if decide (p.toNat < s.build.clusters + 3) && x.state ≠ .off && bit contain 0 &&
      decide (2 ^ x.wdogLog2.toNat ≤ elapsed) then s.failProc p.toNat 1 else s)

/-- RESTART_TIMEOUT (R478): a processor is not RUNNING again 2^21 fc after its failure. -/
def execRestartTimeout (p : BitVec 7) (s : State) : Host.Outcome State Fault Refusal :=
  let x := s.proc p.toNat
  .next (if x.state = .restarting && decide (p.toNat ≠ procSec) && !(p.toNat = procSched && s.fwc.feBusy) && decide (x.failFc + 2 ^ 21 ≤ s.fc) then
      s.notRestarted p.toNat else s)

end Sys2Proof.Machine
end

