-- ==== Sys2Proof/Machine/Deck.lean ====
section
/-! DEFINITION. The Deck (R392 to R412): the place of a row (R393, R397, R398), grants (R394, R395), correction, rebuild,
failed banks and lost rows (R401 to R405), scrubbing, late writes (R407), and the software-managed regions (R399, R400). -/

namespace Sys2Proof.Machine

/-! ## Lost rows (R404) -/

/-- A row of a save channel is lost, row `row` of a burst: the gathered bytes that lie there go out with WPOISON (R43, R368). A
restore whose beats wait in the channel fails with DECK_DATA_LOSS. -/
def State.loseChannel (s : State) (c : BitVec 6) (row : Nat) : State × Option (BitVec 20) :=
  let x := s.cluster c
  if !x.up.isEmpty then
    (if 512 * row < 128 * x.up.length then s.updCluster c (fun x => { x with upLost := x.upLost ++ [row] }) else s, x.ctx)
  else if !x.down.isEmpty then
    (s.restoreFailed c 0x0E, match x.switch with | some w => w.into | none => none)
  else (s, none)

/-- The cluster whose save channel an offset of an engine's channel belongs to (R368). -/
def State.channelCluster (s : State) (engine off : Nat) : Nat :=
  engine + s.build.haulEngines * (off / s.build.channelShare)

/-- A row of a chunk's buffers is lost, row `row` of 512 bytes: of the result once it is being written; else of the bytes read, in
the destination's buffer with `second` (R360, R404). -/
def Chunk.lose (k : Chunk) (row : Nat) (second : Bool) : Chunk :=
  if k.phase = .writing || second then { k with lostDst := k.lostDst ++ [(512 * row, 512)] }
  else { k with lostSrc := k.lostSrc ++ [(512 * row, 512)] }

/-- A row of an engine's staging is lost (R404): the chunk that holds it ends with DECK_DATA_LOSS under R364, or a save
channel is hit. Which chunk, and which of its buffers, is a free value. -/
def State.loseStaging (s : State) (engine off : Nat) : State × Option (BitVec 20) :=
  let row := off / 512 % 8
  if 112 * 4096 ≤ off then
    let c := s.channelCluster engine (off - 112 * 4096)
    if c < s.build.clusters then s.loseChannel (BitVec.ofNat 6 c) row else (s, none)
  else
    let l := (s.hau.streams.filter (fun (p : Nat × Stream) => p.1 / 64 = engine && p.2.kind.virtual)).flatMap
      (fun (p : Nat × Stream) => p.2.chunks.map (fun k => (p.1, p.2, k.n)))
    let at_ := Config.stagedIn engine (off / 512) s.free
    let second := bit (Config.freeWord s.free) 0
    let s : State := { s with free := s.free + 1 }
    match l[at_]? with
    | none => (s, none)
    | some (key, x, n) =>
      let s := s.updStream key (fun x => { x with fail := some (x.fail.getD 0x0E) })
      (s.updChunk key n (fun k => k.lose row (second && decide ((s.streamOp x).op = opReduce))), some x.ctx)

/-- Nodes of a version of a graph. -/
def Graph.nodeCount (g : Graph) (v : Nat) : Nat :=
  match g.versions.find? (fun x => x.number = v) with | some x => x.nodes.length | none => 0

/-- A row of the graph store is lost (R404): launches with nodes still to take in and issued patches of the graph end with
DECK_DATA_LOSS, and the number holds no graph. -/
def State.loseGraph (s : State) (row : Nat) : State × Option (BitVec 20) :=
  let i := Config.graphIn row s.free
  let s : State := { s with free := s.free + 1 }
  let gs : List (Nat × Graph) := s.lnd.graphs
  match gs[i]? with
  | none => (s, none)
  | some (key, g) =>
    let k := BitVec.ofNat 20 (key / 4096)
    let n := BitVec.ofNat 12 (key % 4096)
    if !g.holds then (s, none)
    else
      let l : List (Nat × Entry) := (s.ctxEntries k).filter (fun p => p.2.graphNo = n && p.2.state = .issued)
      let s := s.each (l.filter (fun p => p.2.kind = kGraphPatch)) (fun s p => s.report p.1 0x0E false)
      let open_ := l.filter (fun (p : Nat × Entry) => p.2.kind = kGraphLaunch && p.2.phase = 1 && decide (p.2.nextNode < g.nodeCount p.2.version))
      let s := s.each open_ (fun s p => s.updEntry p.1 (fun x => { x with
        nextNode := g.nodeCount x.version, nodeStatus := some (x.nodeStatus.getD 0x0E) }))
      let hit := !open_.isEmpty || l.any (fun p => p.2.kind = kGraphPatch)
      let s := s.updGraph k n (fun g => { g with holds := false, failStatus := 0x0E })
      (if hit then s.teardown k 0x0E else s, if hit then some k else none)

/-- A row of the firmware-shared region is lost (R479): what it holds is a free value. -/
def State.loseShared (s : State) (row : Nat) : State × Option (BitVec 20) :=
  let x := Config.sharedIn row s.free
  let s : State := { s with free := s.free + 1 }
  let p := x.2 % (s.build.clusters + 3)
  match x.1 % 5 with
  | 0 => (s.updProc p (fun y => { y with imageLost := true }), none)
  | 1 => (s, none)
  | 2 =>
    let r := s.resSlot (x.2 % 64)
    if r.state = .free then (s, none) else (s.teardown r.ctx 0x0E, some r.ctx)
  | 3 =>
    let m := BitVec.ofNat 8 x.2
    if (s.mbx m).state = .busy then (s.mbxDone m 0x0E 0, none) else (s, none)
  | _ => if (s.proc p).state = .off then (s, none) else (s.failProc p 4, none)

/-- The consequence of a lost row when a requester reads it (R404), with the context affected. Rows of the translation
cache drop the leaf and walk entries of their sets; a program-cache row loses the page or operand copy that lies there, which
of them is a free value, and it is fetched again (R345). -/
def State.loseData (s : State) (region off : Nat) : State × Option (BitVec 20) :=
  let row := off / 512
  if region = 0 then
    let l := ((List.range 32).map (fun i => BitVec.ofNat 20 (off / 16 + i))).filter (fun k => (s.ctx k).state = .active)
    (s.each l (fun s k => s.teardown k 0x0E), l.head?)
  else if region = 1 then
    let l := s.lnd.entries.filter (fun p => p.1 / 8 = off / 512)
    let s := s.each l (fun s p => s.report (p.2.extOf.getD p.1) 0x0E false)
    (s.each l (fun s p => s.teardown p.2.ctx 0x0E), (l.map (fun p => p.2.ctx)).head?)
  else if region = 2 then
    let l := (List.range 16).map (fun i => BitVec.ofNat 16 (off / 32 + i))
    (s.each l (fun s n => (s.updBlaze n (fun b => { b with value := 0, lost := true, cycle := none })).blazeUpdate n
      ⟨0, 0, .err 0x0E (s.blaze n).owner false⟩), (l.map (fun n => (s.blaze n).owner)).head?)
  else if region = 3 then
    let l := ((List.range 4).map (fun i => BitVec.ofNat 14 (off / 128 + i))).filter (fun q => (s.queue q).state ≠ .free)
    (s.each l (fun s q => (s.failQueueAt q).teardown (s.queue q).ctx 0x0E), (l.map (fun q => (s.queue q).ctx)).head?)
  else if region = 4 then
    let leafs := s.build.sets 8192
    let walks := s.build.sets 2048
    let in_ (base n set : Nat) : Bool := decide (base + set * 256 < off + 512) && decide (off < base + set * 256 + 256) && decide (set < n)
    ({ s with xlt := { s.xlt with
      leaves := s.xlt.leaves.filter (fun l => !in_ 0 leafs (Config.leafSet l.ctx l.range % leafs))
      walkEnts := s.xlt.walkEnts.filter (fun y => !in_ (leafs * 256) walks (Config.walkSet y.ctx (y.prefix_ * 8 + y.level) % walks))
      objects := s.xlt.objects.filter (fun o => !in_ ((leafs + walks) * 256) walks (Config.objSet o.1 o.2.1.toNat % walks)) } }, none)
  else if region = 5 then
    let p := s.freshWord
    let n := p.1.toNat % (s.lnd.cached.length + s.hau.copies.length)
    match s.lnd.cached[n]?, s.hau.copies[n - s.lnd.cached.length]? with
    | some y, _ => (p.2.pageLost y.1, none)
    | none, some k => (if k.missing.isEmpty then p.2.dropCopy k else p.2, none)
    | none, none => (p.2, none)
  else if region = 6 then s.loseStaging (off / (512 * 1024)) (off % (512 * 1024))
  else if region = 7 then s.loseGraph row
  else if region = 8 then s.loseShared row
  else (s, none)

/-- DCK_ERR_LOG (R411) and source DECK_ERROR (R496) of a lost row. -/
def State.logLost (s : State) (bank row region : Nat) (k : Option (BitVec 20)) : State :=
  let n := (s.dck.errLog.toNat + 1) % 2 ^ 20
  let w := BitVec.ofNat 64 (bank * 2 ^ 57 + row * 2 ^ 47 + region * 2 ^ 43 + (match k with | some c => c.toNat * 2 ^ 23 | none => 0) + n)
  State.raise { s with dck := { s.dck with errLog := w } } 0x002

/-- The region of a bank's row, with the offset of its first byte; that of the stripe's first data row for parity. -/
def Build.rowRegion (b : Build) (bank row : Nat) : Nat × Nat :=
  let n := match b.usableRow bank row with
    | some n => n
    | none => 7 * (row * b.deckGroups + ((bank / 8) ^^^ (row % b.deckGroups)))
  regionOf b.regionSizes 0 (512 * n)

/-- A requester has read a lost row (R404); the software-managed region's loss meets the stream that reads it. -/
def State.readLost (s : State) (bank row : Nat) : State :=
  match s.build.usableRow bank row with
  | none => s
  | some _ =>
    let r := s.build.rowRegion bank row
    let t := s.loseData r.1 r.2
    t.1.logLost bank row r.1 t.2

/-- The row is marked lost until it is written (R404, R405). -/
def State.markLost (s : State) (bank row : Nat) : State :=
  if s.dck.lostRows.contains (bank, row) then s
  else { s with dck := { s.dck with lostRows := s.dck.lostRows ++ [(bank, row)] } }

/-! ## Reads of rows (R401 to R403) -/

/-- A bank's rebuilds reach FAIL_THRESH in one pass: it is failed, and DECK_ERROR raised (R403). -/
def State.countRebuild (s : State) (bank : Nat) : State :=
  let n := tget 0 s.dck.rebuilds bank + 1
  let s := State.count { s with dck := { s.dck with rebuilds := tset 0 s.dck.rebuilds bank n } } (32 + bank / 8)
  if s.dck.failThresh ≠ 0 && decide (s.dck.failThresh.toNat ≤ n) && !s.dck.failed.getLsbD bank then
    State.raise { s with dck := { s.dck with failed := s.dck.failed ||| BitVec.twoPow 128 bank } } 0x002
  else s

/-- Inner-code corrections of `n` words of the group of a bank (R401). -/
def State.countWords (s : State) (bank n : Nat) : State := s.each (List.range n) (fun s _ => s.count (16 + bank / 8))

/-- Another bank of the group whose row of the stripe cannot be read: the second that the codes find, a failed bank's, or a
lost one (R402, R403). -/
def State.badBeside (s : State) (bank row : Nat) (second : Option (BitVec 3)) : Option Nat :=
  let bad (k : Nat) : Bool := second.map (·.toNat) = some (k % 8) || s.dck.failed.getLsbD k || s.dck.lostRows.contains (k, row)
  ((List.range 8).map (fun i => 8 * (bank / 8) + i)).find? (fun k => k ≠ bank && bad k)

/-- The stripe is held for `n` accesses, the first of which is this one; at the last the rows `mends` are whole again (R394). -/
def State.holdStripe (s : State) (bank row n : Nat) (mends : List (Nat × Nat)) : State :=
  { s with dck := { s.dck with holds := s.dck.holds ++ [⟨bank / 8, row, n - 1, mends⟩] } }

/-- Rows written are whole again (R404). -/
def State.mendRows (s : State) (l : List (Nat × Nat)) : State :=
  { s with dck := { s.dck with lostRows := s.dck.lostRows.filter (fun x => !l.contains x) } }

/-- A row marked lost without a requester that reads it: recorded in DCK_ERR_LOG, its consequence to come when one does (R404,
R405). -/
def State.loseRow (s : State) (bank row : Nat) : State :=
  if s.dck.lostRows.contains (bank, row) then s
  else (s.markLost bank row).logLost bank row (s.build.rowRegion bank row).1 none

/-- The rebuild of a bank's row from the seven others, with `words` words corrected in them: counted, but for a failed bank's;
with a second row of the stripe that cannot be read both are lost, and true (R402, R403). -/
def State.rebuildRow (s : State) (bank row words : Nat) (second : Option (BitVec 3)) : State × Bool :=
  let s := s.countWords bank words
  match s.badBeside bank row second with
  | some other => ((s.markLost bank row).loseRow other row, true)
  | none => (if s.dck.failed.getLsbD bank then s else s.countRebuild bank, false)

/-- What the codes find on a row read: corrected words counted, a row rebuilt, or the row lost; true if it is lost (R401 to
R403). A failed bank's row is rebuilt without being read: what the codes find is then in the seven others. -/
def State.readRow (s : State) (bank row : Nat) (ecc : RowEcc) : State × Bool :=
  if s.dck.lostRows.contains (bank, row) then (s, true)
  else match s.dck.failed.getLsbD bank, ecc with
    | false, .clean => (s, false)
    | false, .corrected n => (s.countWords bank n, false)
    | false, .uncorrectable _ n second => s.rebuildRow bank row n second
    | true, .clean => s.rebuildRow bank row 0 none
    | true, .corrected n => s.rebuildRow bank row n none
    | true, .uncorrectable first n _ => s.rebuildRow bank row n (some first)

/-- The reads of a part-stripe write, of the old rows and of the parity row: corrected words counted, an uncorrectable row
rebuilt, or lost with the second (R401, R402). -/
def State.writeReads (s : State) (bank row : Nat) : RowEcc → State
  | .clean => s
  | .corrected n => s.countWords bank n
  | .uncorrectable first n second =>
    let k := 8 * (bank / 8) + first.toNat
    let t := s.rebuildRow k row n second
    if t.2 then t.1.logLost k row (t.1.build.rowRegion k row).1 none else t.1

/-- The banks of the data rows that a write names, by their positions in the stripe (R393). -/
def writtenBanks (bank row : Nat) (rows : BitVec 7) : List Nat :=
  ((List.range 7).filter (fun j => rows.getLsbD j)).map (fun j => 8 * (bank / 8) + if j < row % 8 then j else j + 1)

/-- Order of the requests that a bank could grant (R395): a begun access, an aged wide request, a narrow one, a wide one, a
scrub request; the oldest first within each. None for a scrub request that must wait. -/
def deckKey (all : List DeckReq) (r : DeckReq) : Option Nat :=
  let age := 2 ^ 40 - min r.age (2 ^ 40)
  match r.kind with
  | .begun => some age
  | .wide => some (2 ^ 41 * (if 8 ≤ r.age then 1 else 3) + age)
  | .narrow => some (2 ^ 41 * 2 + age)
  | .scrub => if 65536 ≤ r.age || all.length = 1 then some (2 ^ 41 * 4 + age) else none

/-- A request that its bank could grant: an access of a request begun if its stripe is held, a write only if it is not
(R394, R395). -/
def Dck.grantable (d : Dck) (bank : Nat) (r : DeckReq) : Bool :=
  let held := d.holds.any (fun h => h.group = bank / 8 && h.stripe = r.row.toNat)
  match r.kind, r.op with
  | .begun, _ => held
  | _, .write _ _ => !held
  | _, .read => true

/-- The request granted (R395). -/
def Dck.grant (d : Dck) (bank : Nat) (reqs : List DeckReq) : Option DeckReq :=
  let l := reqs.filter (d.grantable bank)
  leastBy (fun r => (deckKey l r).getD 0) (l.filter (fun r => (deckKey l r).isSome))

/-- Row accesses that a granted request costs (R394, R402, R403): one for a read, eight for a rebuilt one, seven for one of a
failed bank; for the write of k rows 2k + 2, or eight for all seven of a stripe, seven more where an old row is rebuilt, and
two fewer for each row of a failed bank, of which only the parity row is written. -/
def Dck.cost (d : Dck) (bank : Nat) (r : DeckReq) (ecc : RowEcc) : Nat :=
  let rebuild := match ecc with
    | .uncorrectable _ _ _ => 7
    | _ => 0
  match r.op with
  | .read => if d.failed.getLsbD bank then 7 else 1 + rebuild
  | .write rows whole =>
    let l := writtenBanks bank r.row.toNat rows
    let failed := (l.filter (fun k => d.failed.getLsbD k)).length
    if l.length = 7 && whole then 8 - failed else 2 * l.length + 2 - 2 * failed + rebuild

/-- The next access of a part-stripe write or of a rebuild; its last ends the hold, and the rows written are whole (R394). -/
def State.begunAccess (s : State) (bank row : Nat) : State :=
  match s.dck.holds.find? (fun h => h.group = bank / 8 && h.stripe = row) with
  | none => s
  | some h =>
    let rest := s.dck.holds.erase h
    if h.left ≤ 1 then State.mendRows { s with dck := { s.dck with holds := rest } } h.mends
    else { s with dck := { s.dck with holds := { h with left := h.left - 1 } :: rest } }

/-- A read granted: it meets R401 to R404, and a rebuild holds the stripe (R402). -/
def State.deckRead (s : State) (bank row n : Nat) (scrub : Bool) (ecc : RowEcc) : State :=
  let t := s.readRow bank row ecc
  let s := if 1 < n then t.1.holdStripe bank row n [] else t.1
  if !t.2 then s
  else if scrub then s.logLost bank row (s.build.rowRegion bank row).1 none
  else s.readLost bank row

/-- A write granted: all seven rows of a stripe at once, without a read; fewer, or a part of them, hold the stripe for their
reads and writes (R394). A lost row of which only a part is written stays lost. -/
def State.deckWrite (s : State) (bank row n : Nat) (rows : BitVec 7) (whole : Bool) (ecc : RowEcc) : State :=
  let l := (writtenBanks bank row rows).map (fun k => (k, row))
  if l.length = 7 && whole then s.mendRows l
  else (s.writeReads bank row ecc).holdStripe bank row n (if whole then l else [])

/-- DECK_ROW_ACCESS (R395): an open bank grants one access: the next one of a request begun, or the first of a request, whose
cost it notes. -/
def execDeckRowAccess (bank : BitVec 7) (reqs : List DeckReq) (ecc : RowEcc) (s : State) : Host.Outcome State Fault Refusal :=
  let k := bank.toNat
  .next (match s.dck.grant k reqs with
    | none => s
    | some r =>
      if s.build.deckGroups ≤ k / 8 || !s.dck.ready || !s.dck.open_.getLsbD (k / 8) then s
      else
        let row := r.row.toNat
        let n := s.dck.cost k r ecc
        match r.kind, r.op with
        | .begun, _ => s.begunAccess k row
        | kind, .read => State.deckRead { s with dck := { s.dck with lastGrant := (k, row, n) } } k row n (kind = .scrub) ecc
        | _, .write rows whole => State.deckWrite { s with dck := { s.dck with lastGrant := (k, row, n) } } k row n rows whole ecc)

/-! ## Scrubbing (R405, R409) -/

/-- PASS_LOG2 as it acts (R409). -/
def passLog (n : Nat) : Nat := clamp 0x1C 0x28 n

/-- Rows of the build. -/
def Build.deckRows (b : Build) : Nat := 8192 * b.deckGroups

/-- A scrub pass reads a row, if its bank has not failed, its group is open and it is not lost already (R405): what the codes
find is met, and a rebuild holds the stripe; true if the row is lost. -/
def State.scrubRow (s : State) (bank row : Nat) (ecc : RowEcc) : State × Bool :=
  let d := s.dck
  if d.failed.getLsbD bank || !d.open_.getLsbD (bank / 8) || d.lostRows.contains (bank, row) then (s, d.lostRows.contains (bank, row))
  else
    let t := s.readRow bank row ecc
    let s := match ecc with
      | .uncorrectable _ _ _ => t.1.holdStripe bank row 8 []
      | _ => t.1
    (if t.2 then s.logLost bank row (s.build.rowRegion bank row).1 none else s, t.2)

/-- The rows of a stripe are all correctable, but its parity is wrong: the parity is rewritten, and one rebuild counted (R549). -/
def State.mendParity (s : State) (bank row : Nat) : State :=
  let group := (List.range 8).map (fun i => 8 * (bank / 8) + i)
  if s.dck.open_.getLsbD (bank / 8) && !group.any (fun k => s.dck.failed.getLsbD k || s.dck.lostRows.contains (k, row)) then
    s.countRebuild (8 * (bank / 8) + row % 8)
  else s

/-- SCRUB_READ (R405): the next row, one read every pass time over rows; rows of failed banks and closed groups are
skipped; at the end of a pass the rebuild counts begin again (R403). -/
def execScrubRead (ecc : RowEcc) (s : State) : Host.Outcome State Fault Refusal :=
  let d := s.dck
  let n := s.build.deckRows
  .next (if d.passLog2 = 0 || !d.ready || decide (s.fc < d.scrubFc + 2 ^ passLog d.passLog2.toNat / n) then s
    else
      let bank := d.scrubNext / 1024
      let row := d.scrubNext % 1024
      let next := (d.scrubNext + 1) % n
      let rebuilds := if next = 0 then [] else s.dck.rebuilds
      let s := (s.scrubRow bank row ecc).1
      { s with dck := { s.dck with
          scrubNext := next, scrubFc := s.fc, scrubbing := true
          rebuilds := if next = 0 then rebuilds else s.dck.rebuilds } })

/-! ## Late writes (R407, R410) -/

/-- A save write has failed (R463, R368): the saving context is torn down with the status, and the slice becomes EMPTY. -/
def State.saveFailed (s : State) (k : BitVec 20) (i : Nat) (status : BitVec 8) : State :=
  (s.setSlice k i .empty).teardown k status

/-- DCK_LATE_LOG of a dropped write (R410). -/
def State.lateLog (s : State) (k : BitVec 20) (group : BitVec 4) (gen : BitVec 8) (engine : Nat) : State :=
  let n := (s.dck.lateLog.toNat + 1) % 2 ^ 20
  let w : W64 := BitVec.ofNat 64 (k.toNat * 2 ^ 44 + group.toNat * 2 ^ 40 + gen.toNat * 2 ^ 32 + engine * 2 ^ 26 + n)
  { s with dck := { s.dck with lateLog := w } }

/-- The slice that a save of context `k` by cluster `c` writes: the one being saved, or one whose last writes are outstanding. -/
def State.savedSlice (s : State) (c : BitVec 6) (k : BitVec 20) : Option Nat :=
  let x := s.cluster c
  if x.link = .saving && x.ctx = some k then x.slice
  else (s.mp.txns ++ s.mp.waiting).findSome? (fun t => match t.purpose with
    | .saveWrite a b i => if a = c && b = k then some i else none
    | _ => none)

/-- The cluster is restoring context `k` (R455). -/
def Cluster.restores_ (x : Cluster) (k : BitVec 20) : Bool :=
  x.ctx = some k && (match x.switch with
    | some w => w.inSlice.isSome && (w.phase = .header || w.phase = .restoring || w.phase = .enabling)
    | none => false)

/-- LATE_WRITE (R407): a write of context `k` that carries an old generation is dropped, counted and logged, and its stream, or
the save or the restore of its save channel, ends with FAULT_ACCESS if it is still there. -/
def execLateWrite (group : BitVec 4) (gen : BitVec 8) (src : LateWrite) (s : State) : Host.Outcome State Fault Refusal :=
  let k := src.ctx
  .next (if s.build.deckGroups ≤ group.toNat || decide (tget 0 s.dck.gens group.toNat = gen) then s
    else match src.sender with
      | .stream engine slot =>
        let key := 64 * engine.toNat + slot.toNat
        let s := s.lateLog k group gen engine.toNat
        (match s.stream key with
         | none => s
         | some x =>
           if x.ctx = k then (s.updStream key (fun x => { x with fail := some (x.fail.getD 0x08) })).settleStream key else s)
      | .save c =>
        let s := s.lateLog k group gen (c.toNat % s.build.haulEngines)
        match s.savedSlice c k with
        | some i => s.saveFailed k i 0x08
        | none => if (s.cluster c).restores_ k then s.restoreFailed c 0x08 else s)

/-! ## Software-managed regions (R399, R400) -/

/-- Region `r` is assigned to context `k` (R399). -/
def State.regionOf (s : State) (r : Nat) (k : BitVec 20) : Bool :=
  let x := tget {} s.dck.regions r
  x.valid && !x.zeroing && x.ctx = k && decide (r < s.build.swRegions)

/-- A write of DCK_SWR_CFGr (R400): ignored and recorded while BUSY or ZEROING; a change of VALID or CONTEXT sets
ZEROING. -/
def State.writeRegion (s : State) (r : Nat) (v : W64) : State :=
  let x := tget {} s.dck.regions r
  if s.build.swRegions ≤ r then s
  else if s.regionBusy r || x.zeroing then s.logHw 0x0008 0x00 none none r
  else
    let y : SwRegion := { valid := bit v 63, ctx := v.extractLsb' 0 20, zeroing := false }
    let y : SwRegion := { y with zeroing := y.valid != x.valid || decide (y.ctx ≠ x.ctx) }
    { s with dck := { s.dck with regions := tset {} s.dck.regions r y } }

/-- DECK_REGION_ZEROED (R400): all 32 KiB of the region have been written zero, and ZEROING clears. -/
def execDeckRegionZeroed (r : BitVec 6) (s : State) : Host.Outcome State Fault Refusal :=
  let n := r.toNat
  .next (if (tget {} s.dck.regions n).zeroing then
      { s with dck := { s.dck with
          regions := tupd {} s.dck.regions n (fun x => { x with zeroing := false }), mem := memZero s.dck.mem (32768 * n) 32768
          lostRows := s.madeWhole (32768 * n) 32768 } }
    else s)

end Sys2Proof.Machine
end

