-- ==== Sys2Proof/Machine/Loader.lean ====
section
/-! DEFINITION. The loader (R334 to R347): Krybipol images, their checks and reject codes (R341), lowering (R340 step 5), the
native image (R343), the static rules (R331), and the backing area (R344). -/

namespace Sys2Proof.Machine

/-! ## Krybipol records (R334 to R336) -/

/-- A record (R335): its index across all streams, and its fields. -/
structure Krec where
  /-- Index counted from 0 across all streams (R341). -/
  n : Nat
  /-- CLASS: 0 S, 1 V, 2 M, 3 LD, 4 ST, 5 SY. -/
  cls : Nat
  /-- JOIN. -/
  join : Bool
  /-- DELAY. -/
  delay : Nat
  /-- Bits 119:96. -/
  rsvd : Nat
  /-- SLOT, bits 95:0. -/
  slot : Nat
deriving DecidableEq, Repr

/-- A bundle as the loader forms it: its first record, DELAY, and its slots by class. -/
structure Kbundle where
  /-- First record (R341). -/
  record : Nat
  /-- DELAY. -/
  delay : Nat
  /-- Class and slot word. -/
  slots : List (Nat × Nat)
deriving DecidableEq, Repr

/-- RECORDS of stream `i` (R334). -/
def krecords (b : List Byte) (i : Nat) : Nat := le b (0x10 + 4 * i) 4

/-- Records of all streams. -/
def krecordsAll (b : List Byte) : Nat := ((List.range 4).map (krecords b)).sum

/-- Record `n` of an image (R335). -/
def krecordAt (b : List Byte) (n : Nat) : Krec :=
  let v := le b (64 + 16 * n) 16
  { n, cls := sb v 127 125, join := sb v 124 124 = 1, delay := sb v 123 120, rsvd := sb v 119 96, slot := sb v 95 0 }

/-- The records of stream `i`, in order (R334). -/
def kstream (b : List Byte) (i : Nat) : List Krec :=
  let first := ((List.range i).map (krecords b)).sum
  (List.range (krecords b i)).map (fun k => krecordAt b (first + k))

/-- An LCAP record (R336). -/
def Krec.lcap (r : Krec) : Bool := r.cls = 0 && sb r.slot 31 26 = 0x3F

/-- The bundle is an LCAP alone. -/
def Kbundle.lcap (k : Kbundle) : Bool := k.slots.any (fun p => p.1 = 0 && sb p.2 31 26 = 0x3F)

/-- Width of a class's slot in bits (R301). -/
def slotBits (cls : Nat) : Nat := 16 * slotUnits.getD cls 0

/-- A record follows R335 and R336 taken alone. -/
def Krec.ok (r : Krec) : Bool :=
  decide (r.cls < 6) && r.rsvd = 0 && decide (r.slot < 2 ^ slotBits r.cls) && (!r.join || r.delay = 0) &&
  (!r.lcap || (!r.join && sb r.slot 20 16 = 0 && decide (sb r.slot 15 0 ≤ 62)))

/-- The bundles of a stream's records, or the first record that breaks R335 or R336; `acc` holds those formed, last first. -/
def formBundles : List Krec → List Kbundle → Except Nat (List Kbundle)
  | [], acc => .ok acc.reverse
  | r :: rest, acc =>
    if !r.ok then .error r.n
    else if r.join then
      match acc with
      | [] => .error r.n
      | k :: ks =>
        if k.lcap || k.slots.any (fun p => p.1 = r.cls) then .error r.n
        else formBundles rest ({ k with slots := k.slots ++ [(r.cls, r.slot)] } :: ks)
    else formBundles rest ({ record := r.n, delay := r.delay, slots := [(r.cls, r.slot)] } :: acc)

/-- The bundles of streams 0 to 3. -/
def formAll : List (List Krec) → Except Nat (List (List Kbundle))
  | [] => .ok []
  | l :: rest =>
    match formBundles l [] with
    | .error n => .error n
    | .ok x =>
      match formAll rest with
      | .error n => .error n
      | .ok xs => .ok (x :: xs)

/-- The container follows R334 and R298 (code CONTAINER of R341). -/
def containerOk (b : List Byte) : Bool :=
  let lane := le b 0x06 1 = 1
  decide (64 ≤ b.length) && le b 0 4 = 0x4259524B && decide (le b 0x06 1 ≤ 1) && le b 0x07 1 = 0 && le b 0x30 16 = 0 &&
  decide (b.length = 64 + 16 * krecordsAll b) && decide (krecordsAll b ≠ 0) &&
  (List.range 4).all (fun q => if lane then le b (8 + q) 1 = 0 else decide (le b (8 + q) 1 ≤ 16)) &&
  (lane || (krecords b 2 = 0 && krecords b 3 = 0))

/-- Opcodes that R308 assigns to a class: 1 V, 2 M, 3 LD, 4 ST. -/
def assignedOps (cls : Nat) : List Nat :=
  if cls = 1 then List.range 0x0D ++ [0x10, 0x11, 0x18] else if cls = 2 then [0, 1, 2, 3] else [0, 1]

/-- Opcode of an engine slot. -/
def slotOp (cls slot : Nat) : Nat := if cls = 1 then sb slot 63 56 else sb slot 95 88

/-- Bit `n` of a class's opcode mask in the capability descriptor (R99). -/
def capOp (caps : List W32) (cls n : Nat) : Bool := (caps.getD (8 + 8 * cls + n / 32) 0).getLsbD (n % 32)

/-- A slot's opcode is reserved, unsupported, or private to another engine (code UNSUPPORTED_OP of R341). -/
def Krec.opBad (r : Krec) (caps : List W32) (engine : Nat) : Bool :=
  if r.cls = 0 then
    let op := sb r.slot 31 26
    !(decide (op ≤ 0x11) || (decide (0x20 ≤ op) && decide (op ≤ 0x2A)) || op = 0x30 || op = 0x3F)
  else if r.cls = 5 then !(decide (1 ≤ sb r.slot 31 28) && decide (sb r.slot 31 28 ≤ 6))
  else
    let op := slotOp r.cls r.slot
    !capOp caps r.cls op ||
    (if 0x80 ≤ op then decide (engine ≠ (caps.getD 1 0).toNat) else !(assignedOps r.cls).contains op)

/-- A FMT_NEED mask holds a bit that the class's FMT mask lacks (code UNSUPPORTED_FMT of R341). -/
def formatsBad (b : List Byte) (caps : List W32) : Bool :=
  (List.range 4).any (fun i => decide (BitVec.ofNat 32 (le b (0x20 + 4 * i) 4) &&& ~~~(caps.getD (48 + i) 0) ≠ 0))

/-! ## Lowering and layout (R340 steps 5 to 8, R343) -/

/-- LCAP lowered: ADDI, or LUI and ORI in two bundles (R340 step 5). -/
def Kbundle.lower (k : Kbundle) (caps : List W32) : List Kbundle :=
  match k.slots with
  | [(0, w)] =>
    if sb w 31 26 ≠ 0x3F then [k]
    else
      let rd := sb w 25 21
      let v := caps.getD (sb w 15 0) 0
      if -32768 ≤ v.toInt && v.toInt ≤ 32767 then
        [{ k with slots := [(0, 0x20 * 2 ^ 26 + rd * 2 ^ 21 + bits v 15 0)] }]
      else
        [{ k with slots := [(0, 0x30 * 2 ^ 26 + rd * 2 ^ 21 + bits v 31 11)] },
         { k with delay := 0, slots := [(0, 0x22 * 2 ^ 26 + rd * 2 ^ 21 + rd * 2 ^ 16 + bits v 10 0)] }]
  | _ => [k]

/-- The slot word of a class in a bundle. -/
def Kbundle.slot (k : Kbundle) (cls : Nat) : Option Nat := (k.slots.find? (fun p => p.1 = cls)).map (·.2)

/-- A value as 16-bit units, least significant first (R301). -/
def toUnits : Nat → Nat → List (BitVec 16)
  | 0, _ => []
  | n + 1, v => BitVec.ofNat 16 v :: toUnits n (v / 65536)

/-- The native bundle (R300, R301). -/
def Kbundle.native (k : Kbundle) (last : Bool) : List (BitVec 16) :=
  let mask := ((List.range 6).map (fun c => if (k.slot c).isSome then 2 ^ c else 0)).sum
  BitVec.ofNat 16 (b2n last * 2 ^ 15 + k.delay * 2 ^ 8 + mask) ::
    (List.range 6).flatMap (fun c => match k.slot c with | some w => toUnits (slotUnits.getD c 0) w | none => [])

/-- The native list of a stream: LAST on its last bundle (R340 step 6). -/
def nativeList : List Kbundle → List (BitVec 16)
  | [] => []
  | [k] => k.native true
  | k :: rest => k.native false ++ nativeList rest

/-- The handles that a bundle's used fields name, in the order of R340 step 7. -/
def Kbundle.handles (k : Kbundle) : List (BitVec 16) :=
  let h (w hi lo : Nat) (u : Bool) : List (BitVec 16) := if u then [BitVec.ofNat 16 (sb w hi lo)] else []
  (match k.slot 1 with
   | some w => h w 55 40 (sb w 7 7 = 1) ++ h w 39 24 (sb w 6 6 = 1) ++ h w 23 8 (sb w 5 5 = 1) | none => []) ++
  (match k.slot 2 with
   | some w => h w 87 72 (sb w 39 39 = 1) ++ h w 71 56 (sb w 38 38 = 1) ++ h w 55 40 (sb w 37 37 = 1) | none => []) ++
  (match k.slot 3 with | some w => h w 87 72 true ++ h w 71 56 true | none => []) ++
  (match k.slot 4 with | some w => h w 87 72 true ++ h w 71 56 true | none => [])

/-- The handle set of a program (R311, R340 step 7). -/
def handleSet (l : List (List Kbundle)) : List (BitVec 16) := dedup (l.flatten.flatMap Kbundle.handles)

/-- The native image of a program (R343). -/
def nativeImage (b : List Byte) (l : List (List Kbundle)) : Image :=
  { lane := le b 0x06 1 = 1, init := (List.range 4).map (fun q => le b (8 + q) 1), hmap := handleSet l
    lists := l.map nativeList }

/-- Bytes of a native image (R343). -/
def Image.size (m : Image) : Nat :=
  ((List.range 4).map (fun i => let n := (m.lists.getD i []).length
    if n = 0 then 0 else 2 * (m.listStart i + n))).foldl max (0x40 + 2 * m.hmap.length)

/-- A native image as it lies in the bank (R343). -/
def Image.bytes (m : Image) : List Byte :=
  let n (i : Nat) := (m.lists.getD i []).length
  let units (l : List (BitVec 16)) := l.flatMap (fun u => toBytes 2 u.toNat)
  let head := toBytes 2 0x0402 ++ toBytes 1 (b2n m.lane) ++ [0] ++ (List.range 4).map (fun q => BitVec.ofNat 8 (nth m.init q)) ++
    toBytes 2 m.hmap.length ++ List.replicate 6 0 ++
    (List.range 4).flatMap (fun i => toBytes 4 (m.listStart i)) ++ (List.range 4).flatMap (fun i => toBytes 4 (n i)) ++
    List.replicate 16 0 ++ units m.hmap
  (List.range 4).foldl (fun b i => if n i = 0 then b else putBytes (b ++ List.replicate (2 * m.listStart i - b.length) 0)
    (2 * m.listStart i) (units (m.lists.getD i []))) head

/-! ## Static rules (R331) -/

/-- The first record of the first bundle, in stream and list order, that breaks a rule. -/
def firstBad (l : List (List Kbundle)) (p : Nat → Kbundle → Bool) : Option Nat :=
  ((l.zipIdx.flatMap (fun x => (x.1.filter (p x.2)).map (·.record))).head?)

/-- Slots that R298 allows a stream's bundles. -/
def allowedSlots (lane : Bool) (s : Nat) : List Nat :=
  if lane then [0, 1 + s, 5] else if s = 0 then [0, 3, 4, 5] else if s = 1 then [1, 2, 5] else []

/-- Scalar registers that a stream may name (R298). -/
def mayName (lane : Bool) (s r : Nat) : Bool := if lane then r = 0 || r / 8 = s else s = 0

/-- KIND of a bundle's SY slot, 0 with none. -/
def Kbundle.kind (k : Kbundle) : Nat := match k.slot 5 with | some w => sb w 31 28 | none => 0

/-- The SY slot word, 0 with none. -/
def Kbundle.sy (k : Kbundle) : Nat := (k.slot 5).getD 0

/-- Reserved bits of a SY slot are not zero (R318). -/
def syReserved (lane : Bool) (w : Nat) : Bool :=
  match sb w 31 28 with
  | 2 => decide (sb w 2 0 ≠ 0)
  | 3 => decide (sb w 23 9 ≠ 0) || (!lane && decide (sb w 27 26 ≠ 0))
  | 4 => decide (sb w 15 0 ≠ 0)
  | 5 => decide (sb w 27 24 ≠ 0) || decide (sb w 21 21 ≠ 0) || decide (sb w 15 0 ≠ 0)
  | 6 => decide (sb w 27 0 ≠ 0)
  | _ => false

/-- Rule 2, opcodes apart: a reserved bit or an unused handle field is not zero. -/
def Kbundle.reserved (lane : Bool) (k : Kbundle) : Bool :=
  let un (w u hi lo : Nat) : Bool := sb w u u = 0 && decide (sb w hi lo ≠ 0)
  (match k.slot 0 with | some w => decide (sb w 31 26 ≤ 0x11) && decide (sb w 10 0 ≠ 0) | none => false) ||
  (match k.slot 1 with | some w => un w 7 55 40 || un w 6 39 24 || un w 5 23 8 | none => false) ||
  (match k.slot 2 with | some w => un w 39 87 72 || un w 38 71 56 || un w 37 55 40 | none => false) ||
  (match k.slot 5 with | some w => syReserved lane w | none => false)

/-- Index sources of a bundle (R302, R305, R306). -/
def Kbundle.sources (k : Kbundle) : List Nat :=
  (match k.slot 2 with | some w => [sb w 33 28] | none => []) ++
  (match k.slot 3 with | some w => [sb w 55 50, sb w 49 44] | none => []) ++
  (match k.slot 4 with | some w => [sb w 55 50, sb w 49 44] | none => [])

/-- Rule 3: an index source is not NONE, a register that the stream may name, or the queue that the bundle pops. -/
def Kbundle.sourceBad (lane : Bool) (s : Nat) (k : Kbundle) : Bool :=
  k.sources.any (fun i => !(i = 0 || (decide (i < 0x20) && mayName lane s i) ||
    (k.kind = 5 && decide (0x20 ≤ i) && i = 0x20 + sb k.sy 23 22)))

/-- Rule 4: the record at which the handle set outgrows `half`, if it does. -/
def handleOver (half : Nat) : List Kbundle → List (BitVec 16) → Option Nat
  | [], _ => none
  | k :: rest, seen =>
    let seen := dedup (seen ++ k.handles)
    if half < seen.length then some k.record else handleOver half rest seen

/-- Registers that an S slot names, and the one it writes (R314, R315). -/
def sRegs (w : Nat) : List Nat × Option Nat :=
  let op := sb w 31 26
  if op ≤ 0x11 then ([sb w 25 21, sb w 20 16, sb w 15 11], some (sb w 25 21))
  else if op = 0x30 || op = 0x2A then ([sb w 25 21], some (sb w 25 21))
  else ([sb w 25 21, sb w 20 16], if op = 0x29 then none else some (sb w 25 21))

/-- Rule 5: an S slot names a register that the stream may not name, or writes the register that the bundle's QPOP writes
(R317). -/
def Kbundle.regBad (lane : Bool) (s : Nat) (k : Kbundle) : Bool :=
  match k.slot 0 with
  | none => false
  | some w =>
    let r := sRegs w
    r.1.any (fun i => !mayName lane s i) ||
    (k.kind = 5 && decide (sb k.sy 20 16 ≠ 0) && r.2 = some (sb k.sy 20 16))

/-- Rule 6: the form of the signals. -/
def Kbundle.signalBad (lane : Bool) (s : Nat) (k : Kbundle) : Bool :=
  if k.kind = 1 then sb k.sy 7 0 = 0
  else if k.kind = 2 then
    let r := sb k.sy 7 3
    decide (r % 2 = 1) || !mayName lane s r || !mayName lane s (r + 1)
  else false

/-- Rule 7: the data queues are used in their direction, with classes of the stream; in EXECUTE with no register (R321). -/
def Kbundle.queueBad (lane : Bool) (s : Nat) (k : Kbundle) : Bool :=
  if k.kind = 4 || k.kind = 5 then
    let from_ := sb k.sy 23 22 / 2
    lane || decide (s ≠ (if k.kind = 4 then from_ else 1 - from_)) ||
    (s = 1 && (decide (sb k.sy 20 16 ≠ 0) || (k.kind = 4 && sb k.sy 21 21 = 1))) ||
    (k.kind = 4 && decide (sb k.sy 27 24 &&& (if s = 0 then 3 else 12) ≠ 0))
  else false

/-- A blocking sync operation (R320, R321). -/
inductive BlockOp
  | push (q : Nat)
  | pop (q : Nat)
  | bar (id lanes : Nat)
deriving DecidableEq, Repr

/-- The blocking operation of a bundle, with its record. -/
def Kbundle.blockOp (k : Kbundle) : Option (Nat × BlockOp) :=
  if k.kind = 4 then some (k.record, .push (sb k.sy 23 22))
  else if k.kind = 5 then some (k.record, .pop (sb k.sy 23 22))
  else if k.kind = 3 then some (k.record, .bar (sb k.sy 7 0) (sb k.sy 27 24))
  else none

/-- The streams' operations with the first `i` for which one can move moved on: entry counts and operations left. -/
def blockMove (c : List Nat) (l : List (List (Nat × BlockOp))) : Option (List Nat × List (List (Nat × BlockOp))) :=
  (List.range 4).findSome? (fun i =>
    match l.getD i [] with
    | [] => none
    | (_, .push q) :: rest => if nth c q < 16 then some (listUpd c q (· + 1), l.set i rest) else none
    | (_, .pop q) :: rest => if 0 < nth c q then some (listUpd c q (· - 1), l.set i rest) else none
    | (_, .bar id lanes) :: _ =>
      let named := laneStreams lanes
      if named.all (fun t => match l.getD t [] with | (_, o) :: _ => o = .bar id lanes | [] => false) then
        some (c, l.mapIdx (fun t x => if named.contains t then x.drop 1 else x))
      else none)

/-- The operations run until none can move, `fuel` at most (R331): what is left. -/
def blockRun : Nat → List Nat → List (List (Nat × BlockOp)) → List (List (Nat × BlockOp))
  | 0, _, l => l
  | fuel + 1, c, l => match blockMove c l with | none => l | some (c, l) => blockRun fuel c l

/-- The record at which the first stream that waits for ever waits. -/
def blockStuck (c : List Nat) (l : List (List (Nat × BlockOp))) : Option Nat :=
  ((blockRun (l.map List.length).sum c l).flatMap (fun x => (x.take 1).map (·.1))).head?

/-- The blocking operations of the streams that a test keeps. -/
def blockOps (l : List (List Kbundle)) (keep : BlockOp → Bool) : List (List (Nat × BlockOp)) :=
  l.map (fun x => (x.filterMap Kbundle.blockOp).filter (fun o => keep o.2))

/-- A data-queue operation. -/
def BlockOp.isQueue : BlockOp → Bool
  | .bar _ _ => false
  | _ => true

/-- A data-queue operation on queue `q`. -/
def BlockOp.onQueue (o : BlockOp) (q : Nat) : Bool := o = .push q || o = .pop q

/-- Pushes of queue `q` do not equal its pops: its first operation's record. -/
def unbalanced (l : List (List (Nat × BlockOp))) (q : Nat) : Option Nat :=
  let o := l.flatten.filter (fun x => x.2.onQueue q)
  if o.countP (fun x => x.2 = .push q) = o.countP (fun x => x.2 = .pop q) then none else o.head?.map (·.1)

/-- Rule 9's form: LANES names its own stream and only non-empty ones. -/
def Kbundle.lanesBad (l : List (List Kbundle)) (s : Nat) (k : Kbundle) : Bool :=
  k.kind = 3 && (!(laneStreams (sb k.sy 27 24)).contains s ||
    (laneStreams (sb k.sy 27 24)).any (fun t => (l.getD t []).isEmpty))

/-- Rule 9: the barriers of one replay. -/
def barrierBad (l : List (List Kbundle)) : Option Nat :=
  match firstBad l (fun s k => k.lanesBad l s) with
  | some r => some r
  | none => blockStuck [] (blockOps l (fun o => !o.isQueue))

/-- Rule 8: the queue operations of two replays; and, with the barriers where those alone pass, since one run of both
settles that no stream waits for ever (R331, R342). -/
def balanceBad (init : List Nat) (l : List (List Kbundle)) : Option Nat :=
  let ops := blockOps l BlockOp.isQueue
  let all := blockOps l (fun _ => true)
  match (List.range 4).findSome? (unbalanced ops) with
  | some r => some r
  | none =>
    match blockStuck init (ops.map (fun x => x ++ x)) with
    | some r => some r
    | none => if (barrierBad l).isSome then none else blockStuck init (all.map (fun x => x ++ x))

/-- The barriers of a lane with the YIELDs before each and how many like it came before: identity, LANES, occurrence, YIELDs,
record. -/
def yieldMarks : List Kbundle → Nat → List (Nat × Nat) → List (Nat × Nat × Nat × Nat × Nat)
  | [], _, _ => []
  | k :: rest, y, seen =>
    if k.kind = 6 then yieldMarks rest (y + 1) seen
    else if k.kind = 3 then
      let key := (sb k.sy 7 0, sb k.sy 27 24)
      (key.1, key.2, seen.countP (· = key), y, k.record) :: yieldMarks rest y (key :: seen)
    else yieldMarks rest y seen

/-- Rule 10: YIELD in lane mode only; the same number of YIELDs in every named lane before each barrier. -/
def yieldBad (lane : Bool) (l : List (List Kbundle)) : Option Nat :=
  if !lane then firstBad l (fun _ k => k.kind = 6)
  else
    let marks := l.map (fun x => yieldMarks x 0 [])
    (marks.flatten.find? (fun m => (laneStreams m.2.1).any (fun t =>
      !(marks.getD t []).any (fun n => n.1 = m.1 && n.2.1 = m.2.1 && n.2.2.1 = m.2.2.1 && n.2.2.2.1 = m.2.2.2.1)))).map
        (fun m => m.2.2.2.2)

/-- Rule 11 for a lane: the bundle at which a run passes 4,096 bundles; a YIELD bundle ends its run. -/
def runOver : List Kbundle → Nat → Option Nat
  | [], _ => none
  | k :: rest, n => if 4096 ≤ n then some k.record else runOver rest (if k.kind = 6 then 0 else n + 1)

/-- The first rule of R331 that the native image breaks: reject code and record (R341). -/
def ruleBroken (lane : Bool) (init : List Nat) (half : Nat) (l : List (List Kbundle)) : Option (Nat × Nat) :=
  let code (c : Nat) (r : Option Nat) : Option (Nat × Nat) := r.map (fun n => (c, n))
  [code 0x07 (firstBad l (fun s k => k.slots.any (fun p => !(allowedSlots lane s).contains p.1))),
   code 0x08 (firstBad l (fun _ k => k.reserved lane)),
   code 0x09 (firstBad l (fun s k => k.sourceBad lane s)),
   code 0x0A (handleOver half l.flatten []),
   code 0x0B (firstBad l (fun s k => k.regBad lane s)),
   code 0x0C (firstBad l (fun s k => k.signalBad lane s)),
   code 0x0D (firstBad l (fun s k => k.queueBad lane s)),
   code 0x0E (balanceBad init l),
   code 0x0F (barrierBad l),
   code 0x10 (yieldBad lane l),
   code 0x11 (if lane then l.findSome? (fun x => runOver x 0) else none)].findSome? id

/-- Steps 3 to 9 of R340: the native image, or the reject code and record of R341. -/
def verifyImage (b : List Byte) (caps : List W32) : Except (Nat × Nat) Image :=
  if !containerOk b then .error (0x01, 0)
  else if le b 4 2 ≠ 1 then .error (0x02, 0)
  else
    match formAll ((List.range 4).map (kstream b)) with
    | .error n => .error (0x03, n)
    | .ok l =>
      let recs := ((List.range 4).map (kstream b)).flatten
      match recs.find? (fun r => r.opBad caps (le b 0x0C 4)) with
      | some r => .error (0x04, r.n)
      | none =>
        if formatsBad b caps then .error (0x05, 0)
        else
          let l := l.map (fun x => x.flatMap (fun k => k.lower caps))
          let m := nativeImage b l
          if 262144 < m.size then .error (0x06, 0)
          else match ruleBroken m.lane m.init (capDescSlots caps / 2) l with
            | some e => .error e
            | none => .ok m

/-! ## The backing area (R344) and the load (R340) -/

/-- The `n` lowest pages of the backing area that no image takes. -/
def State.backingPages (s : State) (n : Nat) : List Nat :=
  let used := s.lnd.bindings.flatMap (fun (b : Binding) => b.pages)
  ((List.range s.lnd.backPages.toNat).filter (fun p => !used.contains p)).take n

/-- Page `p` of the backing area is written with the image's bytes, by a haul engine with the attributes of RING, as traffic
of the load's context (R344). -/
def State.writeImage (s : State) (x : Entry) (m : Image) (pages : List Nat) : State :=
  let b := m.bytes
  let s : State := { s with lnd := { s.lnd with cached := s.lnd.cached.filter (fun p => !pages.contains p.1) } }
  s.each pages.zipIdx (fun s p =>
    s.ringWrite (some (s.ctx x.ctx).partition) 0 (4096 * (s.lnd.backPfn.toNat + p.1)) (slice b (4096 * p.2) 4096)
      (.imageWrite x.ord))

/-- Image writes of a load not yet answered. -/
def State.imageOut (s : State) (ord : Nat) : Bool :=
  (s.mp.txns ++ s.mp.waiting).any (fun t => t.purpose = .imageWrite ord)

/-- A write of a native image has been answered (R340 step 10): the load ends with OK once all have; a failed one ends it with
FAULT_ACCESS and tears its context down (R42). -/
def State.imageWritten (s : State) (ord : Nat) (ok : Bool) : State :=
  match s.lnd.entries.find? (fun p => p.2.kind = kProgramLoad && p.2.ord = ord && p.2.phase = 2 && p.2.report.isNone) with
  | none => s
  | some (e, x) =>
    if !ok then (s.report e 0x08 false).teardown x.ctx 0x08
    else if s.imageOut ord then s else s.report e 0x00 false

/-- The step of R340 at which a reject code is found. -/
def rejectStep (code : Nat) : Nat :=
  if code ≤ 3 then 3 else if code ≤ 5 then 4 else if code = 6 then 8 else if code ≤ 0x11 then 9 else 10

/-- PROG_LOAD trace records of the steps that the loader runs, the last with its status (R487, R489). -/
def State.traceLoad (s : State) (c : BitVec 6) (x : Entry) (last status : Nat) : State :=
  s.each (List.range (last - 2)) (fun s i => s.trace 5 (3 + c.toNat) 0x0007
    [x.ctx.toNat, bits x.img 271 256, bits x.img 319 304, if i + 3 = last then status else 0])

/-- RECORD as LND_PROG_REJECT gives it: zero for the codes that R347 names. -/
def rejectRecord (code n : Nat) : Nat := if [0x01, 0x02, 0x05, 0x06, 0x12, 0x13].contains code then 0 else n

/-- LOADER_RUN (R340): a staged image is checked, lowered, laid out and verified; it is written into free backing pages, or
the load is rejected. -/
def execLoaderRun (e : Nat) (s : State) : Host.Outcome State Fault Refusal :=
  .next (match s.entry e with
    | none => s
    | some x =>
      if x.kind ≠ kProgramLoad || x.state ≠ .issued || x.phase ≠ 1 || x.report.isSome || x.torn || !s.feRuns then s
      else match s.loaderCore e x with
        | none => s
        | some c =>
          match verifyImage x.staged s.fwc.caps with
          | .error (code, n) =>
            (s.traceLoad c x (rejectStep code) 0x09).rejectLoad e x (BitVec.ofNat 8 code) (rejectRecord code n)
          | .ok m =>
            let n := (m.size + 4095) / 4096
            if s.lnd.freePages.toNat < n || (s.backingPages n).length < n then
              (s.traceLoad c x 10 0x09).rejectLoad e x 0x12 0
            else
              let pages := s.backingPages n
              let s := s.traceLoad c x 10 0
              let s := s.updEntry e (fun y => { y with phase := 2, loader := some c })
              let s : State := { s with lnd := { s.lnd with
                freePages := s.lnd.freePages - BitVec.ofNat 24 n
                bindings := s.lnd.bindings.map (fun (y : Binding) =>
                  if x.ownBinding y then { y with image := m, pages } else y) } }
              s.writeImage x m pages)

/-- The image writes of loads that a front-end reset cut off go out again. -/
def State.rewriteImages (s : State) : State :=
  s.each (s.lnd.entries.filter (fun p => p.2.kind = kProgramLoad && p.2.phase = 2 && p.2.report.isNone)) (fun s p =>
    match s.lnd.bindings.find? p.2.ownBinding with
    | some y => s.writeImage p.2 y.image y.pages
    | none => s)

end Sys2Proof.Machine
end

