-- ==== Sys2Proof/Machine/Ports.lean ====
section
/-! DEFINITION. Responses on the manager ports (R42 to R51): acceptance, re-issue, failure, late and stray responses, and
the consequence of each transaction at its source; transactions that wait too long (R48, R523). -/

namespace Sys2Proof.Machine

/-! ## Context descriptors (R106) -/

/-- The descriptor fields of a page (R106). -/
def descriptorOf (b : List Byte) : Descriptor :=
  { rootPfn := BitVec.ofNat 40 (le b 0 8 / 4096), levels5 := le b 0 8 % 2 = 1
    objPa := BitVec.ofNat 64 (le b 8 8), objLen := BitVec.ofNat 32 (le b 16 4)
    savePa := BitVec.ofNat 64 (le b 0x18 8), saveSpan := BitVec.ofNat 8 (le b 0x20 1)
    saveAttr := BitVec.ofNat 8 (le b 0x21 1)
    windows := (List.range 6).map (fun i => BitVec.ofNat 64 (le b (0x40 + 16 * i) 8)) }

/-- Window entry `i` of a descriptor page follows R427. -/
def windowOk (b : List Byte) (windows i : Nat) : Bool :=
  let w := le b (0x40 + 16 * i) 8
  let pages := w / 2 ^ 40 % 2 ^ 22
  le b (0x48 + 16 * i) 8 = 0 && (i < windows || pages = 0) && decide (w % 2 ^ 40 + pages ≤ 2 ^ 40)

/-- The descriptor page follows R106: reserved fields zero, and every field within its range (R107, R414, R415, R427). -/
def descriptorOk (b : List Byte) (caps : List W32) : Bool :=
  let root := le b 0 8
  let objPa := le b 8 8
  let len := le b 16 4
  let savePa := le b 0x18 8
  let span := le b 0x20 1
  root < 2 ^ 52 && root / 2 % 2 ^ 11 = 0 && objPa % 4096 = 0 && objPa < 2 ^ 52 && 1 ≤ len && len ≤ 2 ^ 20 &&
  le b 20 4 = 0 && savePa % 65536 = 0 && savePa < 2 ^ 52 && 1 ≤ span && span ≤ 64 && le b 0x21 1 ≤ 3 &&
  le b 0x22 30 = 0 && (List.range 6).all (windowOk b (capWindows caps)) && le b 0xA0 3936 = 0

/-- The descriptor read of a load has been answered (R110, R106, R572): the slot becomes RESIDENT, or FREE with the context
torn down; a CONTEXT_DESTROY that has come meanwhile evicts it. `data` is none for a failed read. -/
def State.descArrived (s : State) (key : Nat) (data : Option (List Byte)) : State :=
  match s.stream key with
  | none => s
  | some x =>
    let status : BitVec 8 := match data with
      | none => 0x08
      | some b => if descriptorOk b s.fwc.caps then 0x00 else 0x04
    let s := (if status = 0 then s else s.hauLog key x status).dropStream key
    let k := x.ctx
    match s.residentSlot k with
    | none => s
    | some r =>
      match data with
      | none => (s.teardown k status).freeResidency r
      | some b =>
        if status ≠ 0 then (s.teardown k status).freeResidency r
        else
          let d := descriptorOf b
          let s := s.updRes r (fun (y : ResSlot) => { y with
            state := .resident, loadedAt := s.fc, desc := d, epoch := 0, inFlight := [0, 0, 0, 0]
            slices := List.replicate d.saveSpan.toNat .empty, switchedIn := false, masksRead := false })
          if (s.ctx k).destroys.isEmpty then s else s.beginEvict k

/-! ## Object reads (R206, R425) -/

/-- An object-table entry of 16 bytes that is VALID (R118). -/
def objEntryOf (v : Nat) : Option ObjEntry :=
  if v >>> 114 % 4 = 1 then
    some { gen := BitVec.ofNat 12 (v >>> 116), wr := v >>> 113 % 2 = 1, rd := v >>> 112 % 2 = 1
           pages := BitVec.ofNat 36 (v >>> 76), vaPfn := BitVec.ofNat 45 (v >>> 31) }
  else none

/-- Thread `t` waits for handle `h` of context `c`: its handle-list entry and micro-register. A thread whose packet will be
discarded waits for nothing more. -/
def State.missOf (s : State) (t : BitVec 4) (c : BitVec 20) (h : W32) : Option (Nat × Nat) :=
  let th := s.thread t
  match th.trap, th.miss with
  | some .xltMiss, some (g, i, td) =>
    if g = h && (s.missCtx th = c || !s.check1 th.queue th.pkt) then some (i, td) else none
  | _, _ => none

/-- The object-table entry has been read: it is cached if VALID, and the thread's handle resolves or not (R119, R120). -/
def State.objArrived (s : State) (t : BitVec 4) (c : BitVec 20) (h : W32) (b : List Byte) : State :=
  let e := objEntryOf (le b (16 * bits h 19 0 % 64) 16)
  let s := match e with
    | some o => if (s.ctx c).objTable.isSome then s.fillObject c (h.extractLsb' 0 20) o else s
    | none => s
  match s.missOf t c h with
  | none => s
  | some (i, td) =>
    s.objPut t c h i td (e.filter (fun o => o.gen = h.extractLsb' 20 12 && !s.isRetiring c h))

/-- The object-table fields of the descriptor page have been read, and are kept until CONTEXT_DESTROY (R425); the entry is
read next, unless INDEX is not below OBJ_TABLE_LEN (R120). -/
def State.fieldsArrived (s : State) (t : BitVec 4) (c : BitVec 20) (h : W32) (b : List Byte) : State :=
  let s := if (s.ctx c).state = .free then s
    else s.updCtx c (fun x => { x with objTable := some (BitVec.ofNat 64 (le b 8 8), BitVec.ofNat 32 (le b 16 4)) })
  match s.missOf t c h with
  | none => s
  | some (i, td) =>
    if (s.ctx c).objTable.isNone || decide (le b 16 4 ≤ bits h 19 0) then s.objPut t c h i td none
    else s.objectRead t c h

/-- A read of a thread's object has failed: the packet is rejected with FAULT_ACCESS (R206, R572). -/
def State.objFailed (s : State) (t : BitVec 4) (c : BitVec 20) (h : W32) : State :=
  match s.missOf t c h with
  | none => s
  | some _ => s.updThread t (fun x => { x with miss := none, reject := some 0x08 })

/-- Thread numbers of a purpose from here on stand for the Landing entry of a graph load or patch (check 9 of R281). -/
def graphAsker : Nat := 16

/-- An issued graph load or patch whose image has been read, of context `c` (R281, R291). -/
def State.graphAsks (s : State) (e : Nat) (c : BitVec 20) : Bool :=
  match s.entry e with
  | some x => (x.kind = kGraphLoad || x.kind = kGraphPatch) && x.state = .issued && x.phase = 1 && x.report.isNone && x.ctx = c
  | none => false

/-- An object-table entry that a graph image names has been read (R281 check 9): the image breaks the encoding if the
handle does not resolve. -/
def State.graphObject (s : State) (e : Nat) (c : BitVec 20) (h : W32) (b : List Byte) : State :=
  let o := objEntryOf (le b (16 * bits h 19 0 % 64) 16)
  let s := match o with
    | some y => if (s.ctx c).objTable.isSome then s.fillObject c (h.extractLsb' 0 20) y else s
    | none => s
  if !s.graphAsks e c then s
  else match o.filter (fun y => y.gen = h.extractLsb' 20 12 && !s.isRetiring c h) with
    | some y => s.updEntry e (fun x => { x with objs := x.objs ++ [(h, y)] })
    | none => s.report e 0x04 false

/-- The object-table fields of the context have been read for a graph load or patch (R425). -/
def State.graphFields (s : State) (c : BitVec 20) (b : List Byte) : State :=
  if (s.ctx c).state = .free then s
  else s.updCtx c (fun x => { x with objTable := some (BitVec.ofNat 64 (le b 8 8), BitVec.ofNat 32 (le b 16 4)) })

/-- A read for a graph load or patch has failed: it ends as its image read would (R183). -/
def State.graphReadFailed (s : State) (e : Nat) (c : BitVec 20) : State :=
  if s.graphAsks e c then (s.report e 0x08 false).teardown c 0x08 else s

/-! ## Consequences by source -/

/-- A submission-ring read has been answered (R150, R151): its units join those read, if they are still the next ones; a
failed read stops the queue. -/
def State.ringArrived (s : State) (q : BitVec 14) (pa : Nat) (data : Option (List Byte)) (n : Nat) : State :=
  let s := s.updQueue q (fun x => { x with
    reading := (s.mp.txns ++ s.mp.waiting).any (fun t => match t.purpose with | .ringRead p _ => p = q | _ => false) })
  let x := s.queue q
  let next := 4096 * x.ringPfn.toNat +
    64 * ((x.rp.toNat + s.threadUnits q + x.units.length) % 2 ^ x.ringLog2.toNat)
  if x.state ≠ .open_ && x.state ≠ .draining then s
  else match data with
    | none => s.packetlessRejection q 0x08 true
    | some b =>
      if next = pa then
        s.updQueue q (fun x => { x with
          units := x.units ++ (List.range n).map (fun i => BitVec.ofNat 512 (le b (64 * i) 64)) })
      else s

/-- How many entries in a row from count `w` on are in the list. -/
def runFrom (l : List W32) : Nat → W32 → Nat
  | 0, _ => 0
  | n + 1, w => if l.contains w then runFrom l n (w + 1) + 1 else 0

/-- CPL_WP passes the entries that have been answered, in their order (R163). -/
def Queue.passCpl (x : Queue) (k : W32) : Queue :=
  let l := k :: x.cplAhead
  let n := runFrom l l.length x.cplWp
  { x with
    cplWp := x.cplWp + BitVec.ofNat 32 n, cplReserved := x.cplReserved - n
    cplAhead := l.filter (fun y => decide (n ≤ (y - x.cplWp).toNat)) }

/-- What an answered completion-entry write is to the block (R164): on OKAY the source is raised, a failure is recorded. -/
def State.cplAnswered (s : State) (q : BitVec 14) (c : Option (BitVec 20)) (k : W32) (ok : Bool) : State :=
  if ok then s.raise 0x00F else s.logHw 0x0005 0x00 c (some q) k.toNat

/-- A completion-entry write has been answered (R163, R164): CPL_WP passes it, and a failure marks the queue. -/
def State.cplWritten (s : State) (q : BitVec 14) (k : W32) (ok : Bool) : State :=
  (s.updQueue q (fun x => { x.passCpl k with cplLost := x.cplLost || !ok })).cplAnswered q (some (s.queue q).ctx) k ok

/-- A mirror write has been answered (R232): a failure is recorded and marks the Blaze; a BLAZE_CONFIG whose write it was
ends with OK, and one that waited for it writes now. A change made while the write was outstanding is written next also where
the write failed (DESIGN CHOICE, notes/assumptions/69). -/
def State.mirrorWritten (s : State) (n : BitVec 16) (ok : Bool) : State :=
  let s := s.updBlaze n (fun b => { b with mirrorOut := false, mirrorLost := b.mirrorLost || !ok })
  let s := if ok then s else s.logHw 0x0007 0x00 none none n.toNat
  let s := s.each (s.configsAt n 2) (fun s e => s.report e 0x00 false)
  if (s.configsAt n 1).isEmpty then s else s.mirrorIssue n

/-- An interrupt message has been answered (R54): a failure is recorded, and the message waits to be sent again. -/
def State.messageAnswered (s : State) (v : Nat) (ok : Bool) : State :=
  let w := BitVec.ofNat 3 v
  if ok then s.updVec w (fun x => { x with msgOut := false, failedFc := none })
  else (s.logHw 0x0002 0x00 none none v).updVec w (fun x => { x with failedFc := some s.fc })

/-- The reclaim write of an OBJECT_FREE has been answered (R122, R425, R312): on OKAY the object is gone, also for a graph image
under check that had resolved it (check 9 of R281), and the command completes; a failure ends it with FAULT_ACCESS, and the object stays retiring. -/
def State.reclaimed (s : State) (key : Nat) (ok : Bool) : State :=
  match s.stream key with
  | none => s
  | some x =>
    let s := (if ok then s else s.hauLog key x 0x08).dropStream key
    let mine (r : Retiring) : Bool := r.ctx = x.ctx && r.entry = some x.entry
    match s.xlt.retiring.find? mine with
    | none => s.report x.entry (if ok then 0x00 else 0x08) false
    | some r =>
      if ok then
        let forget (y : Entry) : Entry := if y.ctx = x.ctx && (y.kind = kGraphLoad || y.kind = kGraphPatch)
          then { y with objs := y.objs.filter (fun o => o.1 ≠ r.handle) } else y
        let s : State := { s with lnd := { s.lnd with entries := s.lnd.entries.map (fun (p : Nat × Entry) => (p.1, forget p.2)) } }
        let s := { s with xlt := { s.xlt with
          retiring := s.xlt.retiring.filter (fun r => !mine r)
          objects := s.xlt.objects.filter (fun o => !(o.1 = x.ctx && o.2.1 = r.handle.extractLsb' 0 20)) } }
        (s.dropCopies x.ctx (fun p => p.1 = r.handle) (fun _ => false)).report x.entry 0x00 false
      else
        let s := { s with xlt := { s.xlt with
          retiring := s.xlt.retiring.map (fun r => if mine r then { r with entry := none } else r) } }
        s.report x.entry 0x08 false

/-! ## Firmware and table images (R472, R211, R254) -/

/-- Bytes of the header that is read first: a bundle's header (R468), or that of a table image (R252). -/
def headerBytes (page : Option (BitVec 8)) : Nat := if page.isNone then 256 else 64

/-- Bytes of an image as its header gives them: TOTAL_LEN of a bundle that lies within the area (R468, R472 check 3), the
entries of a table (R252); no more than the header where that is out of range. -/
def Fwc.imageLen (f : Fwc) (page : Option (BitVec 8)) (h : List Byte) : Nat :=
  match page with
  | none => if le h 0x18 4 ≤ 4096 * f.bundlePages.toNat && le h 0x18 4 ≤ 16 * 2 ^ 20 then max 256 (le h 0x18 4) else 256
  | some _ => if le h 6 2 ≤ 4096 then 64 + 16 * le h 6 2 else 64

/-- A burst of an image has been answered (R42, R472): its bytes join those read; once the header is whole the rest is asked
for. -/
def State.imageArrived (s : State) (page : Option (BitVec 8)) (off : Nat) (data : Option (List Byte)) : State :=
  match s.fwc.readOf page with
  | none => s
  | some r =>
    let r : FwRead := { r with
      left := r.left - 1, failed := r.failed || data.isNone
      parts := match data with | some b => r.parts ++ [(off, b)] | none => r.parts }
    let s : State := { s with fwc := { s.fwc with reads := s.fwc.reads.filter (fun x => x.page ≠ page) ++ [r] } }
    if r.left ≠ 0 || r.whole then s
    else if r.failed then { s with fwc := { s.fwc with reads := s.fwc.reads.filter (fun x => x.page ≠ page) ++ [{ r with whole := true }] } }
    else s.fwAsk r r.len (s.fwc.imageLen page (gathered r.parts) - r.len) true

/-- The start of a context's descriptor has been read for check 6 of R254: its SAVE_SPAN (R106). -/
def State.spanArrived (s : State) (page : BitVec 8) (k : BitVec 20) (data : Option (List Byte)) : State :=
  match s.fwc.readOf (some page) with
  | none => s
  | some r =>
    let r : FwRead := { r with
      left := r.left - 1, failed := r.failed || data.isNone
      spans := match data with | some b => r.spans ++ [(k, le b 0x20 1)] | none => r.spans }
    { s with fwc := { s.fwc with reads := s.fwc.reads.filter (fun x => x.page ≠ some page) ++ [r] } }

/-- The masks of a context that leaves residency have been written, and its slot becomes FREE (R453, R461); a failure is
a failed save write (R463). -/
def State.masksWritten (s : State) (k : BitVec 20) (ok : Bool) : State :=
  (if ok then s else s.saveFailed k 0 0x08).evictions

/-- The data of a read has been accepted (R42). -/
def State.readOkay (s : State) (t : Txn) (b : List Byte) : State :=
  match t.purpose with
  | .ringRead q n => s.ringArrived q t.pa (some b) n
  | .objEntry th c h => if graphAsker ≤ th then s.graphObject (th - graphAsker) c h b else s.objArrived (BitVec.ofNat 4 th) c h b
  | .descFields th c h => if graphAsker ≤ th then s.graphFields c b else s.fieldsArrived (BitVec.ofNat 4 th) c h b
  | .ctxDesc engine slot => s.descArrived (64 * engine + slot) (some b)
  | .walk i => s.walkArrived i b
  | .chunkRead engine slot n isDst off => s.chunkData (64 * engine + slot) n isDst off b
  | .restoreRead c off => s.restoreData c off b
  | .maskRead k => s.masksArrived k b
  | .firmware p off => s.imageArrived p off (some b)
  | .spanRead p k => s.spanArrived p k (some b)
  | .backPage p => s.pageArrived p
  | _ => s

/-- A read has failed (R42, R572); with `poison` its data was poisoned (R43, R463). -/
def State.readFailed (s : State) (t : Txn) (poison : Bool) : State :=
  let save : BitVec 8 := if poison then 0x0E else 0x08
  match t.purpose with
  | .ringRead q n => s.ringArrived q t.pa none n
  | .objEntry th c h => if graphAsker ≤ th then s.graphReadFailed (th - graphAsker) c else s.objFailed (BitVec.ofNat 4 th) c h
  | .descFields th c h => if graphAsker ≤ th then s.graphReadFailed (th - graphAsker) c else s.objFailed (BitVec.ofNat 4 th) c h
  | .ctxDesc engine slot => s.descArrived (64 * engine + slot) none
  | .walk i => s.walkFailed i
  | .chunkRead engine slot n _ _ => s.chunkReadFailed (64 * engine + slot) n 0x08
  | .restoreRead c _ => s.restoreFailed c save
  | .maskRead k => s.teardown k save
  | .firmware p off => s.imageArrived p off none
  | .spanRead p k => s.spanArrived p k none
  | .backPage p => s.pageFailed p
  | _ => s

/-- A write has been answered, `ok` true for OKAY: it is observable, and what waited for it follows (R44); false for a
failure under R42. -/
def State.writeAnswered (s : State) (t : Txn) (ok : Bool) : State :=
  match t.purpose with
  | .chunkWrite engine slot n => s.chunkWritten (64 * engine + slot) n ok
  | .cplEntry q k => s.cplWritten q k ok
  | .cplPast q k => s.cplAnswered q none k ok
  | .mirror n => s.mirrorWritten n ok
  | .irqMessage v => s.messageAnswered v ok
  | .faultRecord => if ok then s.recordPosted else s.recordFailed
  | .reclaim engine slot => s.reclaimed (64 * engine + slot) ok
  | .saveWrite _ k i => if ok then s.settleSlice k i else s.saveFailed k i 0x08
  | .maskWrite k => s.masksWritten k ok
  | .dump n => s.dumpWritten n ok
  | .imageWrite ord => s.imageWritten ord ok
  | _ => s

/-- A block-owned transfer in the sense of R42: WALK, RING, MIRROR, FWLOAD, DUMP and FWLOG of R36, less the reads that R572
makes for one context. -/
def Txn.blockOwned (t : Txn) : Bool :=
  0x10 ≤ t.source.toNat && t.source ≠ srcIrq &&
  (match t.purpose with | .objEntry _ _ _ => false | .descFields _ _ _ => false | _ => true)

/-- A failed block-owned transfer is recorded and raises the port-error interrupt (R42, R546). -/
def State.portFail (s : State) (t : Txn) : State :=
  if t.blockOwned then (s.logHw 0x0001 0x00 none none t.pa).raise 0x001 else s

/-! ## Responses -/

/-- The epoch bit inverts once a reset waits for it and no transaction of the previous epoch is outstanding (R46, R48); what
has waited for it is issued. -/
def State.tryInvert (s : State) : State :=
  if s.mp.invertDue && !s.mp.abandoned.any (fun t => t.epoch != s.mp.epoch) then
    State.promoteAll { s with mp := { s.mp with epoch := !s.mp.epoch, invertDue := false } }
  else s

/-- A response to an abandoned transaction ends it, and its SLOT is free (R40). -/
def State.drainOne (s : State) (mine : Txn → Bool) : State :=
  let l := s.mp.abandoned.eraseP mine
  (State.tryInvert { s with mp := { s.mp with
    abandoned := l, drainFc := if l.isEmpty then none else s.mp.drainFc } }).promoteAll

/-- A response that no transaction of the current epoch explains (R47): late or stray. It ends an abandoned transaction; one
that was abandoned in the current epoch, which has still to invert, is discarded (notes/assumptions/22). -/
def State.unexpected (s : State) (write : Bool) (ifc : Nat) (epoch : Bool) (source : BitVec 6) (slot : Nat) : State :=
  let mine (t : Txn) : Bool := t.write == write && t.ifc == ifc && t.source = source && t.slot == slot && t.epoch == epoch
  if epoch ≠ s.mp.epoch then State.drainOne { s with mp := { s.mp with late := s.mp.late + 1 } } mine
  else if s.mp.abandoned.any mine then s.drainOne mine
  else State.raise { s with mp := { s.mp with stray := s.mp.stray + 1 } } 0x001

/-- A transaction whose consequence touches no context, Landing entry or Blaze, and so goes on out of service (R537): the crash
dump, interrupt messages, fault records, completion entries and the firmware log. -/
def Purpose.goesOnOos : Purpose → Bool
  | .dump _ => true
  | .irqMessage _ => true
  | .faultRecord => true
  | .cplEntry _ _ => true
  | .cplPast _ _ => true
  | .fwLog => true
  | _ => false

/-- The purpose is a write of the crash dump (R541). -/
def Purpose.isDump : Purpose → Bool
  | .dump _ => true
  | _ => false

/-- The unit that a response would act on runs: in a whole-block reset only the dump sequencer does, and out of service
contexts, Landing entries and Blazes stay as they are (R535, R537). -/
def State.unitActs (s : State) (p : Purpose) : Bool :=
  if s.fwc.wholeBusy.isSome then p.isDump
  else s.fwc.state ≠ .outOfService || p.goesOnOos

/-- What follows once a transaction has its response (R42): on acceptance `accept`; on SLVERR and EXOKAY the burst again, up
to RETRY_LIMIT times; else `fail`. An interrupt message is not re-issued here (R54). The ports re-issue and record out of
service too, where only the consequence at the source may be held back. -/
def State.answer (s : State) (t : Txn) (resp : Resp) (poison : Bool) (accept fail : State → State) : State :=
  let s := { s with mp := { s.mp with txns := s.mp.txns.erase t } }
  let act (f : State → State) (s : State) : State := if s.unitActs t.purpose then f s else s
  let s := if s.fwc.wholeBusy.isSome && !t.purpose.isDump then s
    else if resp = .okay && !poison then act accept s
    else if resp ≠ .decerr && resp ≠ .okay && !poison && t.source ≠ srcIrq && t.retries < s.mp.retryLimit.toNat then
      s.issueTxn { t with retries := t.retries + 1 }
    else act fail (s.portFail t)
  s.promoteAll

/-- The transaction of an ID on an interface and channel (R38, R40). -/
def Mp.find (m : Mp) (write : Bool) (ifc : Nat) (epoch : Bool) (source : BitVec 6) (slot : Nat) : Option Txn :=
  if epoch ≠ m.epoch then none
  else m.txns.find? (fun t => t.write == write && t.ifc == ifc && t.source = source && t.slot == slot)

/-- MANAGER_READ_RESPONSE (R42, R47): `data` holds the bytes of the burst's beats (R35), `poison` is RPOISON on any beat. -/
def execManagerReadResponse (ifc : BitVec 6) (id : BitVec 12) (resp : Resp) (poison : Bool) (data : List Byte) (s : State) :
    Host.Outcome State Fault Refusal :=
  let epoch := bit id 11
  let source : BitVec 6 := id.extractLsb' 5 6
  let slot := bits id 4 0
  .next (if s.pins.fRst || s.pins.aoRst then s else match s.mp.find false ifc.toNat epoch source slot with
    | none => s.unexpected false ifc.toNat epoch source slot
    | some t => s.answer t resp poison (fun s => s.readOkay t (slice data (t.pa % 64) t.len)) (fun s => s.readFailed t poison))

/-- MANAGER_WRITE_RESPONSE (R42, R44, R47). -/
def execManagerWriteResponse (ifc : BitVec 6) (id : BitVec 12) (resp : Resp) (s : State) : Host.Outcome State Fault Refusal :=
  let epoch := bit id 11
  let source : BitVec 6 := id.extractLsb' 5 6
  let slot := bits id 4 0
  .next (if s.pins.fRst || s.pins.aoRst then s else match s.mp.find true ifc.toNat epoch source slot with
    | none => s.unexpected true ifc.toNat epoch source slot
    | some t => s.answer t resp false (fun s => s.writeAnswered t true) (fun s => s.writeAnswered t false))

/-! ## Transactions that wait too long -/

/-- 2^DRAIN_LOG2 fc as it acts (R49). -/
def Mp.drainLimit (m : Mp) : Nat := 2 ^ clamp 0x10 0x24 m.drainLog2.toNat

/-- PORT_TIMEOUT (R523): a transaction has been outstanding for the limit with no reset in progress; a front-end reset
follows. -/
def execPortTimeout (s : State) : Host.Outcome State Fault Refusal :=
  .next (if s.feRuns && s.fwc.asked.isEmpty && s.mp.txns.any (fun t => t.fc + s.mp.drainLimit ≤ s.fc) then
      s.ask kindFrontEnd 0x06
    else s)

/-- Transactions that a reset has abandoned and that are outstanding from the previous epoch (R48). -/
def Mp.previous (m : Mp) : List Txn := m.abandoned.filter (fun t => t.epoch != m.epoch)

/-- DRAIN_TIMEOUT (R48): transactions of the previous epoch remain when the limit has passed since the reset began: their
ports are HUNG, and the block goes out of service. -/
def execDrainTimeout (s : State) : Host.Outcome State Fault Refusal :=
  .next (match s.mp.drainFc with
    | none => s
    | some f =>
      if decide (f + s.mp.drainLimit ≤ s.fc) && !s.mp.previous.isEmpty then
        let hung := s.mp.previous.foldl (fun h t => h ||| BitVec.ofNat 8 (2 ^ (t.ifc / 8))) s.mp.hung
        let s : State := { s with
          mp := { s.mp with hung, drainFc := none, invertDue := false }, fwc := { s.fwc with wholeBusy := none } }
        (s.raise 0x001).enterOos 0x0B
      else s)

end Sys2Proof.Machine
end

