-- ==== Sys2Proof/Machine/Routines.lean ====
section
/-! DEFINITION. The shipped routines of the opcodes that R170 names, each as one act on the packet that a thread holds:
check 5 with the opcode's own conditions, check 6 with XLT_MISS, the Blazes named in the parameters (R168), the payload
(R216) and ADMIT (R203). The microwords of the shipped microcode are private; what they decide is R172 to R191. -/

namespace Sys2Proof.Machine

/-! ## Shared steps -/

/-- What a routine checks and hands to ADMIT. -/
structure Routine where
  /-- The PROGRAM and GRAPH records that it reads, as region and key (R201, R209). -/
  notes : List (Nat × Nat) := []
  /-- An opcode condition that names no object fails (check 5). -/
  bad : Bool
  /-- The handles that check 6 resolves, by handle-list entry. -/
  handles : List W32 := []
  /-- A condition on the resolved objects fails (check 5); none stands for a handle that does not resolve. -/
  range : List (Option ObjEntry) → Bool := fun _ => false
  /-- The Blazes named in the parameters. -/
  blazes : List (BitVec 16) := []
  /-- The payload of the image, given the reference record of each handle (R216). -/
  payload : (W32 → Nat) → W512 := fun _ => 0
  /-- KIND. -/
  kind : Nat
  /-- Landing entries. -/
  n : Nat := 1
  /-- Commit actions (R203). -/
  acts : Nat := 0
  /-- Their operand. -/
  ta : W64 := 0

/-- The routine of opcode `op` may act on thread `t`: it holds such a packet that passed the header checks, it is at START
(R193, R195), and it is the thread chosen (R194). -/
def State.atRoutine (s : State) (t : BitVec 4) (op : Nat) : Bool :=
  let th := s.thread t
  s.feRuns && s.chosen = some t.toNat && th.busy && th.trap.isNone && th.reject.isNone && th.count = 0 &&
  (pktOpcode th.pkt).toNat = op

/-- Handles of the list from entry `i` on are resolved in context `c` (R120, R202); true when the thread waits for one: for the
Deck where the entry is cached or known to be past the table's end, else for the table entry (R206). -/
def State.resolveAll (c : BitVec 20) (t : BitVec 4) : List W32 → Nat → State → State × Bool
  | [], _, s => (s, false)
  | h :: rest, i, s =>
    let th := s.thread t
    let known := th.unresolved.contains h || (match th.handles.getD i none with | some r => decide (r.handle = h) | none => false)
    if known then State.resolveAll c t rest (i + 1) s
    else match s.resolve c h with
      | some o => ((s.objPut t c h i 0 o).park t .deckWait, true)
      | none => (s.objMiss t c h i 0, true)

/-- The object that a thread's handle resolved to. -/
def State.threadObj (s : State) (t : BitVec 4) (h : W32) : Option ObjEntry :=
  ((s.thread t).objects.find? (fun r => r.handle = h)).map (·.obj)

/-- The reference record that admission takes for each of the thread's handles (R121). -/
def State.refOf (s : State) (t : BitVec 4) (h : W32) : Nat :=
  let th := s.thread t
  let x := s.queue th.queue
  let taken := s.takeRefs x.ctx th.objects x.kernel
  match taken.2.find? (fun p => p.1 = h) with | some p => p.2 | none => 0

/-- The failure of the parameter Blazes (R168, R398): MALFORMED at or above the count, PRIVILEGE where the context is not
admitted. -/
def State.paramBlazes (s : State) (c : BitVec 20) (l : List (BitVec 16)) : Option (BitVec 8) :=
  if l.any (fun n => s.build.blazes ≤ n.toNat) then some 0x04
  else if l.any (fun n => !s.blazeAdmits n c) then some 0x03 else none

/-- Records of some regions that the thread's routine has read since START. -/
def Thread.readsOf (th : Thread) (p : Nat → Bool) : Nat := th.reads.countP (fun r => p r.1)

/-- A record is read: the thread waits for the Deck (R206), and notes what it read (R203). -/
def State.readRecord (s : State) (t : BitVec 4) (region key : Nat) : State :=
  (s.updThread t (fun x => { x with reads := x.reads ++ [(region, key, s.lnd.commits)] })).park t .deckWait

/-- The tests of a routine whose records have been read and whose handles are resolved (R154, R168, R202): the conditions on
the objects, then the parameter Blazes one at a time, each a Deck read, then ADMIT. -/
def State.routineEnd (s : State) (t : BitVec 4) (y : Routine) : State :=
  let th := s.thread t
  let c := (s.queue th.queue).ctx
  if y.range (y.handles.map (s.threadObj t)) then s.reject t 0x04
  else match y.blazes.drop (th.readsOf (fun g => g = 6)) with
    | n :: _ => (s.updThread t (fun x => { x with reject := s.paramBlazes c [n] })).readRecord t 6 n.toNat
    | [] => (s.updThread t (fun x => { x with img := headerImage x.pkt ||| y.payload (s.refOf t) })).admitPacket t y.kind y.n y.acts y.ta

/-- One routine acts on thread `t` (R154, R202, R203), up to its next trap: the records it reads, the conditions of check 5
that name no object, the handles, and the rest. -/
def State.routine (s : State) (t : BitVec 4) (op : Nat) (r : State → Routine) : State :=
  if !s.atRoutine t op then s
  else
    let th := s.thread t
    let y := r s
    match y.notes.drop (th.readsOf (fun g => g = 2 || g = 3)) with
    | k :: _ => s.readRecord t k.1 k.2
    | [] =>
      if y.bad then s.reject t 0x04
      else
        let p := s.resolveAll (s.queue th.queue).ctx t y.handles 0
        if p.2 then p.1 else p.1.routineEnd t y

/-- The record of a program number of the context, as R201 reads it. -/
def programNote (c : BitVec 20) (p : BitVec 16) : Nat × Nat := (2, 65536 * c.toNat + p.toNat)

/-- The record of a graph number of the context, as R201 reads it. -/
def graphNote (c : BitVec 20) (p : Packet) : Nat × Nat := (3, 4096 * c.toNat + pf p 331 320)

/-- Bytes of an object (R118). -/
def ObjEntry.bytes (o : ObjEntry) : Nat := 4096 * o.pages.toNat

/-- A range of bytes reaches past the end of a resolved object. -/
def pastEnd (o : Option ObjEntry) (last : Nat) : Bool :=
  match o with | some o => decide (o.bytes < last) | none => false

/-! ## LAUNCH (R174 to R176) -/

/-- The LAUNCH fields at offset `o` of a packet, from unit 1 on only with `long` (R174). -/
structure LaunchFields where
  /-- PROGRAM. -/
  program : BitVec 16
  /-- DESC_HANDLE. -/
  descH : W32
  /-- SDATA_HANDLE. -/
  sdataH : W32
  /-- DESC_COUNT. -/
  count : Nat
  /-- SDATA_LEN. -/
  len : Nat
  /-- DESC_OFF. -/
  descOff : Nat
  /-- SDATA_OFF. -/
  sdataOff : Nat

/-- The fields at offset `o`. -/
def launchFields (p : Packet) (o : Nat) (long : Bool) : LaunchFields :=
  { program := p.extractLsb' (320 + o) 16, descH := p.extractLsb' (384 + o) 32, sdataH := p.extractLsb' (416 + o) 32
    count := pf p (464 + o) (448 + o), len := pf p (494 + o) (480 + o)
    descOff := if long then pf p (559 + o) (512 + o) else 0, sdataOff := if long then pf p (623 + o) (576 + o) else 0 }

/-- A field breaks its range or alignment (R174), or no PROGRAM_LOAD of PROGRAM has been admitted (R175). -/
def State.launchBad (s : State) (c : BitVec 20) (f : LaunchFields) : Bool :=
  tget 0 s.lnd.current (65536 * c.toNat + f.program.toNat) = 0 ||
  decide (65536 < f.count) || decide (16384 < f.len) || f.len % 4 ≠ 0 || f.descOff % 64 ≠ 0 || f.sdataOff % 4 ≠ 0 ||
  (f.count = 0 && decide (f.descH ≠ 0)) || (f.len = 0 && decide (f.sdataH ≠ 0))

/-- The handles that the fields name. -/
def LaunchFields.handles (f : LaunchFields) : List W32 :=
  (if f.count = 0 then [] else [f.descH]) ++ (if f.len = 0 then [] else [f.sdataH])

/-- A table or image reaches past the end of its object (R175). -/
def LaunchFields.past (f : LaunchFields) (obj : W32 → Option ObjEntry) : Bool :=
  (f.count ≠ 0 && pastEnd (obj f.descH) (f.descOff + 64 * f.count)) ||
  (f.len ≠ 0 && pastEnd (obj f.sdataH) (f.sdataOff + f.len))

/-- A list of resolved objects by handle. -/
def objAt (l : List W32) (o : List (Option ObjEntry)) (h : W32) : Option ObjEntry :=
  ((l.zip o).find? (fun p => p.1 = h)).bind (·.2)

/-- The routine of LAUNCH (R174 to R176): with LEN 3 the chained launch's fields obey the same rules. -/
def State.launchRoutine (s : State) (t : BitVec 4) : Routine :=
  let p := (s.thread t).pkt
  let c := (s.queue (s.thread t).queue).ctx
  let len := pktLen p
  let a := launchFields p 0 (decide (1 ≤ len))
  let b := launchFields p 1024 true
  let two := len = 3
  let l := a.handles ++ if two then b.handles else []
  { notes := programNote c a.program :: (if two then [programNote c b.program] else [])
    bad := s.launchBad c a || (two && s.launchBad c b)
    handles := l
    range := fun o => a.past (objAt l o) || (two && b.past (objAt l o))
    blazes := if two && bit p 1032 then [p.extractLsb' 1088 16] else []
    payload := fun _ => launchPayload p 0 (decide (1 ≤ len)) 0
    kind := kLaunch, n := if two then 2 else 1 }

/-! ## HAUL (R179, R350 to R353) -/

/-- MX fields of an operand that must be zero: it is not used, or its format is not MX (R352, R353 rule 3). -/
def mxOk (used : Bool) (fmt bs : Nat) (dir : Bool) : Bool :=
  if used && isMx fmt then bs ≤ 4 else bs = 0 && !dir

/-- Rules 1 to 6 of R353 and the ranges of R350. -/
def haulForm (d : W512) : Bool :=
  let h := haulOf d
  let z (hi lo : Nat) : Bool := bits d hi lo = 0
  let src := h.hasSrc
  let dst := h.hasDst
  let raw := h.op = opCopy || h.op = opPrefetch
  let elem := h.op = opConvert || h.op = opReduce
  let ops := (h.operands 0 0).map (·.2)
  1 ≤ h.op && h.op ≤ 5 && z 7 3 && z 15 13 && z 23 21 && z 31 30 && z 95 82 && z 223 208 && z 287 272 && z 319 316 &&
  z 351 348 && z 511 416 && 1 ≤ h.rowLen && 1 ≤ h.rows &&
  (src || (z 12 8 && !h.srcDeck && h.srcBs = 0 && !h.srcDir && h.srcH = 0 && h.srcOff = 0 && h.srcPitch = 0)) &&
  (dst || (z 20 16 && !h.dstDeck && h.dstBs = 0 && !h.dstDir && h.dstH = 0 && h.dstOff = 0 && h.dstPitch = 0)) &&
  (h.op ≠ opPrefetch || !h.srcDeck) && (!raw || (h.srcFmt = 0 && h.dstFmt = 0)) &&
  (h.op = opFill || h.fill = 0) && (elem || (z 25 24 && !h.sat && !h.subn)) &&
  bits d 25 24 ≤ 1 && fmtOk h.srcFmt && fmtOk h.dstFmt &&
  mxOk (src && !raw) h.srcFmt h.srcBs h.srcDir && mxOk (dst && !raw) h.dstFmt h.dstBs h.dstDir &&
  ops.all (fun o => (o.rowLen * o.width) % 8 = 0 &&
    (o.bs = 0 || (if o.dir then o.rows % o.bs = 0 else o.rowLen % o.bs = 0)) &&
    (o.rows ≤ 1 || o.rowBytes ≤ o.pitch)) &&
  (h.op ≠ opReduce || !(isInt h.dstFmt || h.dstFmt = 0x0A)) &&
  (!(src && h.srcDeck) || bits h.srcH 31 6 = 0) && (!(dst && h.dstDeck) || bits h.dstH 31 6 = 0)

/-- A Deck operand lies within a region assigned to the context (R353 rules 7 and 9, R399). -/
def State.deckOperands (s : State) (c : BitVec 20) (h : HaulOp) : Bool :=
  (h.operands 0 0).all (fun p => !p.2.deck ||
    (s.regionOf (if p.1 then h.dstH else h.srcH).toNat c && decide (p.2.base + p.2.extent ≤ 32768)))

/-- Rules 7 and 8 of R353 on the resolved objects: an extent past the end, or an access that the object does not permit. -/
def haulObjects (h : HaulOp) (obj : W32 → Option ObjEntry) : Bool :=
  (h.operands 0 0).any (fun p => !p.2.deck &&
    (match obj (if p.1 then h.dstH else h.srcH) with
     | none => false
     | some o => decide (o.bytes < p.2.base + p.2.extent) ||
         (if p.1 then !o.wr || (h.op = opReduce && !o.rd) else !o.rd)))

/-- The routine of HAUL (R179). -/
def State.haulRoutine (s : State) (t : BitVec 4) : Routine :=
  let p := (s.thread t).pkt
  let c := (s.queue (s.thread t).queue).ctx
  let d : W512 := p.extractLsb' 512 512
  let h := haulOf d
  { bad := !haulForm d || !s.deckOperands c h
    handles := h.handles
    range := fun o => haulObjects h (objAt h.handles o)
    payload := fun r => haulPayload d (if h.srcDeck || !h.hasSrc then 0 else r h.srcH) (if h.dstDeck || !h.hasDst then 0 else r h.dstH)
    kind := kHaul }

/-! ## The other user opcodes -/

/-- The routine of NOP: only its header acts. -/
def nopRoutine : Routine := { bad := false, kind := kNop }

/-- The routine of SIGNAL (R180). -/
def signalRoutine (p : Packet) : Routine :=
  let two := bit p 352
  { bad := !two && (pf p 351 336 ≠ 0 || pf p 511 448 ≠ 0)
    blazes := p.extractLsb' 320 16 :: (if two then [p.extractLsb' 336 16] else [])
    payload := fun _ => BitVec.ofNat 512 (pf p 447 384 * 2 ^ 256 + pf p 511 448 * 2 ^ 320 + pf p 352 320 * 2 ^ 384)
    kind := kSignal }

/-- The routine of WAIT (R181). -/
def waitRoutine (p : Packet) : Routine :=
  let n := pktLen p
  { bad := false
    blazes := ((List.range n).map (fun u => (List.range 4).map (fun i =>
      (p.extractLsb' (512 * (u + 1) + 128 * i) 16 : BitVec 16)))).flatten
    kind := kWait, n := 1 + n }

/-- Payload words 4 to 7 of a load (R358). -/
def loadPayload (p : Packet) (ref : Nat) : W512 :=
  BitVec.ofNat 512 (pf p 335 320 * 2 ^ 256 + ref * 2 ^ 320 + pf p 431 384 * 2 ^ 384 + pf p 471 448 * 2 ^ 448)

/-- The routine of a load: it reads the record `note` of its number; SRC_OFF aligned, SRC_LEN in its limits, the image within
its object (R182). -/
def loadRoutine (p : Packet) (note : Nat × Nat) (kind lo hi step acts : Nat) (bad : Bool) : Routine :=
  let h : W32 := p.extractLsb' 352 32
  let len := pf p 471 448
  { notes := [note], bad := bad || pf p 431 384 % 64 ≠ 0 || decide (len < lo) || decide (hi < len) || len % step ≠ 0
    handles := [h]
    range := fun o => pastEnd (objAt [h] o h) (pf p 431 384 + len)
    payload := fun r => loadPayload p (r h)
    kind, acts, ta := BitVec.ofNat 64 (pf p 335 320) }

/-- The graph that a graph packet names is claimed and not releasing (R184). -/
def State.graphOpen (s : State) (t : BitVec 4) : Bool :=
  let p := (s.thread t).pkt
  let g := s.graph (s.queue (s.thread t).queue).ctx (p.extractLsb' 320 12)
  g.claimed && !g.releasing

/-- The graph that a graph packet names is claimed (R184). -/
def State.graphClaimed (s : State) (t : BitVec 4) : Bool :=
  (s.graph (s.queue (s.thread t).queue).ctx ((s.thread t).pkt.extractLsb' 320 12)).claimed

/-- Payload of GRAPH_LAUNCH and GRAPH_RELEASE (R295). -/
def graphPayload (p : Packet) (arg : Nat) : W512 := BitVec.ofNat 512 (arg * 2 ^ 256 + pf p 331 320 * 2 ^ 320)

/-- The routine of GRAPH_LAUNCH (R184). -/
def State.graphLaunchRoutine (s : State) (t : BitVec 4) : Routine :=
  let p := (s.thread t).pkt
  { notes := [graphNote (s.queue (s.thread t).queue).ctx p], bad := !s.graphOpen t, payload := fun _ => graphPayload p (pf p 447 384), kind := kGraphLaunch }

/-- The routine of GRAPH_RELEASE (R184). -/
def graphReleaseRoutine (c : BitVec 20) (p : Packet) : Routine :=
  { notes := [graphNote c p], bad := false, payload := fun _ => graphPayload p 0, kind := kGraphRelease, acts := 4
    ta := BitVec.ofNat 64 (pf p 331 320) }

/-! ## Kernel opcodes (R185 to R191): their payload is the packet, kept with the entry -/

/-- A context identifier at or above the build's count (R398). -/
def State.ctxOut (s : State) (n : Nat) : Bool := s.build.contexts ≤ n

/-- The routine of CONTEXT_CREATE and of CONTEXT_DESTROY: an identifier out of the build's count (R185, R186, R398). -/
def State.ctxRoutine (s : State) (t : BitVec 4) (kind : Nat) : Routine :=
  { bad := s.ctxOut (pf (s.thread t).pkt 339 320), kind }

/-- QUEUE_BIND's check-5 conditions (R115, R134, R187, R398). -/
def State.bindBad (s : State) (p : Packet) : Bool :=
  let ring := pf p 365 361
  let cpl := pf p 370 366
  decide (s.build.queueSlots ≤ pf p 333 320) || s.ctxOut (pf p 355 336) || pf p 359 358 = 3 ||
  (bit p 356 && (pf p 355 336 ≠ 0 || cpl = 0)) || (bit p 360 && cpl = 0) ||
  !(ring = 0 || (6 ≤ ring && ring ≤ 20)) || !(cpl = 0 || (7 ≤ cpl && cpl ≤ 16))

/-- The routine of QUEUE_BIND. -/
def State.bindRoutine (s : State) (t : BitVec 4) : Routine := { bad := s.bindBad (s.thread t).pkt, kind := 0x22 }

/-- The routine of QUEUE_UNBIND (R116, R186). -/
def State.unbindRoutine (s : State) (t : BitVec 4) : Routine :=
  let q := pf (s.thread t).pkt 333 320
  { bad := decide (s.build.queueSlots ≤ q) || q = (s.thread t).queue.toNat, kind := 0x23 }

/-- The routine of TLB_INVALIDATE (R188). -/
def State.invalRoutine (s : State) (t : BitVec 4) : Routine :=
  let p := (s.thread t).pkt
  { bad := s.ctxOut (pf p 339 320) ||
      (if bit p 340 then pf p 428 384 ≠ 0 || pf p 483 448 ≠ 0 else pf p 483 448 = 0)
    kind := 0x25 }

/-- The routine of FAULT_RESUME (R189). -/
def State.resumeRoutine (s : State) (t : BitVec 4) : Routine :=
  let p := (s.thread t).pkt
  { bad := s.ctxOut (pf p 339 320) || decide (s.build.haulEngines ≤ pf p 355 352), kind := 0x26 }

/-- The routine of CONTEXT_KILL (R186). -/
def State.killRoutine (s : State) (t : BitVec 4) : Routine :=
  let p := (s.thread t).pkt
  let why := pf p 351 344
  { bad := s.ctxOut (pf p 339 320) || pf p 339 320 = 0 || !(why = 0x07 || why = 0x08 || why = 0x10), kind := 0x27 }

/-- A USER entry of BLAZE_CONFIG follows R190 and R398. -/
def State.userOk (s : State) (w : W32) : Bool :=
  if bit w 31 then bits w 30 20 = 0 && !s.ctxOut (bits w 19 0) else w = 0

/-- The four USER entries of a BLAZE_CONFIG packet. -/
def cfgUsers (p : Packet) : List W32 := (List.range 4).map (fun i => p.extractLsb' (512 + 32 * i) 32)

/-- The routine of BLAZE_CONFIG (R190). -/
def State.configRoutine (s : State) (t : BitVec 4) : Routine :=
  let p := (s.thread t).pkt
  { bad := s.ctxOut (pf p 355 336) || !(cfgUsers p).all s.userOk ||
      (if bit p 357 then pf p 450 448 ≠ 0 || pf p 511 500 ≠ 0 else pf p 511 448 ≠ 0) ||
      decide (s.build.blazes ≤ pf p 335 320)
    blazes := [p.extractLsb' 320 16], kind := 0x28 }

/-- The routine of SELF_TEST (R191). -/
def State.testRoutine (s : State) (t : BitVec 4) : Routine :=
  let p := (s.thread t).pkt
  let target := pf p 321 320
  { bad := target = 3 || (if target = 0 then decide (s.build.clusters ≤ pf p 333 328) else pf p 333 328 ≠ 0), kind := 0x29 }

/-- OBJECT_FREE (R122, R186): its handle is looked up in the context it names, without a reference and without
STALE_HANDLE; RETIRE_OBJECT marks the object, if it resolves, at the commit. -/
def State.freeRoutine (s : State) (t : BitVec 4) : State :=
  if !s.atRoutine t 0x24 then s
  else
    let p := (s.thread t).pkt
    let k : BitVec 20 := p.extractLsb' 320 20
    let h : W32 := p.extractLsb' 352 32
    if s.ctxOut k.toNat then s.reject t 0x04
    else
      let r := if (s.ctx k).state = .free then (s, false) else s.resolveAll k t [h] 0
      if r.2 then r.1
      else match r.1.admitTrap t with
        | some c => r.1.park t c
        | none =>
          let found := r.1.threadObj t h
          let s := match found with
            | some o => if (r.1.objCached k h).isNone then r.1.fillObject k (h.extractLsb' 0 20) o else r.1
            | none => r.1
          let s := s.updThread t (fun x => { x with
            img := headerImage x.pkt, stale := false, unresolved := [], handles := List.replicate 8 none })
          s.admitPacket t 0x24 1 (if found.isSome then 8 else 0) (BitVec.ofNat 64 (k.toNat * 2 ^ 32 + h.toNat))

end Sys2Proof.Machine
end

