-- ==== Sys2Proof/Machine/Graphs.lean ====
section
/-! DEFINITION. Stored command graphs (R278 to R295): the encoding of images and patches, loading, patching, launching and
releasing a graph, and the admission of its nodes. -/

namespace Sys2Proof.Machine

/-! ## The encoding of images (R278 to R281, R291) -/

/-- The packet whose bits 320 up a node body holds (R279). -/
def nodePacket (r : BitVec 1024) : Packet := (r >>> 192).setWidth 2048

/-- A node header follows R279 and R167, and names no Blaze out of the build's count (checks 1, 3 and 10 of R281, R398). -/
def nodeHeader (b : Build) (r : BitVec 1024) : Bool :=
  let z (hi lo : Nat) : Bool := bits r hi lo = 0
  let cpl := bit r 8
  let w0 := bit r 9
  let w1 := bit r 10
  let inBlaze (lo : Nat) : Bool := decide (bits r (lo + 15) lo < b.blazes)
  bits r 7 0 ≤ 3 && z 15 14 && z 31 16 && z 63 55 && z 127 112 && z 191 160 && z 511 332 && bits r 54 48 ≤ 64 &&
  (if cpl then !z 159 128 && inBlaze 64 else z 79 64 && z 159 128) &&
  (if w0 then inBlaze 80 else z 95 80 && z 255 192) && (if w1 then inBlaze 96 else z 111 96 && z 319 256) &&
  (!bit r 11 || w0 || w1) && (!bit r 12 || bits r 7 0 = kSignal) && (!bit r 13 || bits r 7 0 = kLaunch)

/-- A node body follows R279, R174 and R175 (without objects), R353 rules 1 to 6 and 9, and R180 (checks 6 to 8 of R281). -/
def State.nodeBody (s : State) (c : BitVec 20) (r : BitVec 1024) : Bool :=
  let k := bits r 7 0
  let p := nodePacket r
  if k = kNop then bits r 1023 512 = 0
  else if k = kLaunch then
    let f := launchFields p 0 true
    (launchReserved 0 true).all (fun q => pf p q.1 q.2 = 0) && !s.launchBad c f && (!bit r 13 || decide (8 ≤ f.len))
  else if k = kHaul then
    let d : W512 := r.extractLsb' 512 512
    haulForm d && s.deckOperands c (haulOf d)
  else
    let y := signalRoutine p
    !y.bad && pf p 383 353 = 0 && pf p 1023 512 = 0 && y.blazes.all (fun n => decide (n.toNat < s.build.blazes))

/-- A node's body is within its objects (checks 6 and 7 of R281). -/
def nodeObjects (r : BitVec 1024) (obj : W32 → Option ObjEntry) : Bool :=
  let k := bits r 7 0
  if k = kLaunch then !(launchFields (nodePacket r) 0 true).past obj
  else if k = kHaul then !haulObjects (haulOf (r.extractLsb' 512 512)) obj
  else true

/-- Record `i` of an image or patch. -/
def nodeAt (b : List Byte) (i : Nat) : BitVec 1024 := BitVec.ofNat 1024 (le b (64 + 128 * i) 128)

/-- NODES, PATCH_NODES and EDGES of a graph image. -/
def imageNodes (b : List Byte) : Nat := le b 2 2
/-- PATCH_NODES. -/
def imagePatch (b : List Byte) : Nat := le b 4 2
/-- EDGES. -/
def imageEdges (b : List Byte) : Nat := le b 8 4

/-- The edge entries of an image (R280). -/
def edgesOf (b : List Byte) : List (BitVec 16) :=
  (List.range (imageEdges b)).map (fun i => BitVec.ofNat 16 (le b (64 + 128 * imageNodes b + 2 * i) 2))

/-- The predecessor list of a node record (R280). -/
def predsOf (edges : List (BitVec 16)) (r : BitVec 1024) : List Nat :=
  (List.range (bits r 54 48)).map (fun i => (edges.getD (bits r 47 32 + i) 0).toNat)

/-- Check 5 of R281 for node `i`. -/
def predsForm (edges : List (BitVec 16)) (i : Nat) (r : BitVec 1024) : Bool :=
  let l := predsOf edges r
  (bits r 54 48 = 0 || bits r 47 32 + bits r 54 48 ≤ edges.length) && l.all (· < i) && (dedup l).length = l.length

/-- A graph image of `len` bytes passes checks 1 to 8 and 10 of R281, the objects apart. -/
def State.imageForm (s : State) (c : BitVec 20) (b : List Byte) (len : Nat) : Bool :=
  let n := imageNodes b
  let e := imageEdges b
  let edges := edgesOf b
  le b 0 2 = 1 && 1 ≤ n && n ≤ 4096 && imagePatch b ≤ n && le b 6 2 = 0 && e ≤ 65535 && le b 12 52 = 0 &&
  len = 64 + 128 * n + 64 * ((e + 31) / 32) && le b (64 + 128 * n + 2 * e) (64 * ((e + 31) / 32) - 2 * e) = 0 &&
  edges.all (fun x => bits x 15 12 = 0) &&
  (List.range n).all (fun i =>
    let r := nodeAt b i
    nodeHeader s.build r && bits r 331 320 = i && predsForm edges i r && s.nodeBody c r)

/-- COUNT of a patch image. -/
def patchCount (b : List Byte) : Nat := le b 4 2

/-- INDEX values rise strictly. -/
def indexRise : List (BitVec 1024) → Bool
  | a :: b :: r => decide (bits a 331 320 < bits b 331 320) && indexRise (b :: r)
  | _ => true

/-- A patch image of `len` bytes passes R291 against the current nodes of the graph, the objects apart. -/
def State.patchForm (s : State) (c : BitVec 20) (g : Graph) (nodes : List (BitVec 1024)) (b : List Byte) (len : Nat) : Bool :=
  let n := patchCount b
  let l := (List.range n).map (nodeAt b)
  le b 0 2 = 1 && le b 2 2 = nodes.length && 1 ≤ n && n ≤ g.patchNodes && le b 6 58 = 0 && len = 64 + 128 * n && indexRise l &&
  l.all (fun r =>
    let i := bits r 331 320
    i < nodes.length && bits r 47 32 = bits (nodes.getD i 0) 47 32 && bits r 54 48 = bits (nodes.getD i 0) 54 48 &&
    nodeHeader s.build r && s.nodeBody c r)

/-! ## Objects and references of an image (R281 check 9, R290) -/

/-- The distinct handles that node records name. -/
def nodesHandles (l : List (BitVec 1024)) : List W32 := dedup ((l.map nodeHandles).flatten)

/-- How the handles of an image stand: all resolved, some waiting for a read, or one that does not resolve. -/
inductive Resolving | done | waiting | broken
deriving DecidableEq, Repr

/-- The handles are resolved one by one from the cache; an uncached one is read from the object table (R206). -/
def State.resolveGraph (e : Nat) (c : BitVec 20) : List W32 → State → Resolving → State × Resolving
  | [], s, a => (s, a)
  | h :: rest, s, a =>
    match s.entry e with
    | none => (s, .broken)
    | some x =>
      if x.objs.any (fun p => p.1 = h) then
        if s.isRetiring c h then (s, .broken) else State.resolveGraph e c rest s a
      else match s.resolve c h with
        | some (some o) => State.resolveGraph e c rest (s.updEntry e (fun x => { x with objs := x.objs ++ [(h, o)] })) a
        | some none => (s, .broken)
        | none =>
          let mine (t : Txn) : Bool := match t.purpose with
            | .objEntry i k g => i = graphAsker + e && k = c && g = h
            | .descFields i k _ => i = graphAsker + e && k = c
            | _ => false
          if (s.mp.txns ++ s.mp.waiting).any mine then State.resolveGraph e c rest s .waiting
          else match (s.ctx c).objTable with
            | none => State.resolveGraph e c rest (s.walkRead (4096 * (s.ctx c).descPfn.toNat) 64 (.descFields (graphAsker + e) c h)) .waiting
            | some (pa, _) => State.resolveGraph e c rest
                (s.walkRead (64 * ((pa.toNat + 16 * bits h 19 0) / 64)) 64 (.objEntry (graphAsker + e) c h)) .waiting

/-- The object of a handle of an image. -/
def Entry.graphObj (x : Entry) (h : W32) : Option ObjEntry := (x.objs.find? (fun p => p.1 = h)).map (·.2)

/-- Reference records are free for the new objects of a graph (R290, R121). -/
def State.refsFit (s : State) (c : BitVec 20) (kernel : Bool) (l : List W32) : Bool :=
  let fresh := l.countP (fun h => (s.refRecord c h).isNone)
  decide (s.refsHeld + fresh ≤ s.build.refRecords) &&
  (kernel || decide (s.xlt.refs.countP (fun p => !p.2.kernelOnly) + fresh ≤ s.build.refRecords - kernelReserve))

/-- The graph takes one reference on each object of a list that it does not hold yet (R290). -/
def State.graphRefs (s : State) (c : BitVec 20) (g : BitVec 12) (x : Entry) (l : List W32) : State :=
  s.each l (fun s h =>
    let held := (s.graph c g).refs.any (fun i => (tget {} s.xlt.refs i).handle = h)
    match x.graphObj h with
    | some o =>
      if held then s
      else
        let p := s.takeRef c { handle := h, obj := o } x.kernelQ
        p.1.updGraph c g (fun y => { y with refs := y.refs ++ [p.2] })
    | none => s)

/-- The footprint of an image (R282). -/
def footprintOf (nodes patch edges : Nat) : Nat :=
  1 + 2 * (nodes + 3 * patch) + 4 * ((nodes + 31) / 32) + 2 * ((edges + 31) / 32)

/-! ## GRAPH_LOAD -/

/-- The image of a GRAPH_LOAD has been read (R281, R282, R290): the graph is stored as version 0, or the load ends with
MALFORMED or BUSY_REFUSED, or waits for references. -/
def State.applyLoad (s : State) (e : Nat) (x : Entry) : State :=
  let c := x.ctx
  let g := x.graphNo
  let b := x.staged
  if !s.imageForm c b (bits x.img 471 448) then s.report e 0x04 false
  else
    let nodes := (List.range (imageNodes b)).map (nodeAt b)
    let l := nodesHandles nodes
    let p := s.resolveGraph e c l .done
    let s := p.1
    match p.2, s.entry e with
    | .broken, _ => s.report e 0x04 false
    | .done, some x =>
      let units := footprintOf (imageNodes b) (imagePatch b) (imageEdges b)
      if !nodes.all (fun r => nodeObjects r x.graphObj) then s.report e 0x04 false
      else if s.freeUnits < units then
        State.report { s with lnd := { s.lnd with noRoom := s.lnd.noRoom + 1 } } e 0x02 false
      else if !s.refsFit c x.kernelQ l then s
      else
        let s := s.updGraph c g (fun y => { y with
          holds := true, versions := [{ number := 0, nodes }], nextVersion := 1, shown := 0, edges := edgesOf b
          patchNodes := imagePatch b, footprint := units })
        (s.graphRefs c g x l).report e 0x00 false
    | _, _ => s

/-- GRAPH_LOAD (R184): its routine; its issue to a haul engine; and, once the image has been read, its check and its
storing. -/
def execGraphLoad (st : OpStep) (s : State) : Host.Outcome State Fault Refusal :=
  .next (match st with
    | .routine t => s.routine t 0x06 (fun s => loadRoutine (s.thread t).pkt
        (graphNote (s.queue (s.thread t).queue).ctx (s.thread t).pkt) kGraphLoad 64 1048576 64 2 (s.graphClaimed t))
    | .execute e =>
      match s.entry e with
      | some x =>
        if x.kind ≠ kGraphLoad || !s.feRuns then s
        else if x.state = .ready then s.haulIssue e
        else if x.state = .issued && x.phase = 1 && x.report.isNone then s.applyLoad e x
        else s
      | none => s)

/-! ## GRAPH_PATCH -/

/-- An earlier patch of the same graph has issued and not been applied (R292). -/
def State.patchBefore (s : State) (e : Nat) (x : Entry) : Bool :=
  s.lnd.entries.any (fun p => p.1 ≠ e && p.2.kind = kGraphPatch && p.2.ctx = x.ctx && p.2.graphNo = x.graphNo &&
    p.2.state = .issued && p.2.report.isNone &&
    (decide (p.2.startFc < x.startFc) || (p.2.startFc = x.startFc && decide (p.2.ord < x.ord))))

/-- The nodes of the newest version of a graph, to which the next patch applies. -/
def Graph.current (g : Graph) : List (BitVec 1024) := match g.versions.getLast? with | some v => v.nodes | none => []

/-- Nodes with the replacement records of a patch put in (R291). -/
def patched (nodes l : List (BitVec 1024)) : List (BitVec 1024) :=
  l.foldl (fun n r => n.set (bits r 331 320) r) nodes

/-- The image of a GRAPH_PATCH has been read and its turn has come (R291 to R293): the next version is made, in a node-map
slot that no live version takes, and launches pin it from the patch's retirement on; or the patch ends with MALFORMED or
VERSION_LIMIT, or waits for references. -/
def State.applyPatch (s : State) (e : Nat) (x : Entry) : State :=
  let c := x.ctx
  let g := x.graphNo
  let y := s.graph c g
  let b := x.staged
  if (y.claimed && !y.loaded) || s.patchBefore e x then s
  else if !y.holds || !s.patchForm c y y.current b (bits x.img 471 448) then s.report e 0x04 false
  else
    let l := (List.range (patchCount b)).map (nodeAt b)
    let hs := nodesHandles l
    let p := s.resolveGraph e c hs .done
    let s := p.1
    match p.2, s.entry e with
    | .broken, _ => s.report e 0x04 false
    | .done, some x =>
      if !l.all (fun r => nodeObjects r x.graphObj) then s.report e 0x04 false
      else if 4 ≤ (s.liveVersions c g).length then
        State.report { s with lnd := { s.lnd with versionLimits := s.lnd.versionLimits + 1 } } e 0x0F false
      else if !s.refsFit c x.kernelQ hs then s
      else
        let used := (s.liveVersions c g).map (fun (v : GVersion) => v.slot)
        let v : GVersion := { number := y.nextVersion, slot := ((List.range 4).find? (fun k => !used.contains k)).getD 0
                              nodes := patched y.current l }
        let s := (s.graphRefs c g x hs).updEntry e (fun x => { x with version := y.nextVersion })
        let s := s.updGraph c g (fun y => { y with versions := y.versions ++ [v], nextVersion := y.nextVersion + 1 })
        (s.settleGraph c g).report e 0x00 false
    | _, _ => s

/-- GRAPH_PATCH (R184). -/
def execGraphPatch (st : OpStep) (s : State) : Host.Outcome State Fault Refusal :=
  .next (match st with
    | .routine t => s.routine t 0x08 (fun s => loadRoutine (s.thread t).pkt
        (graphNote (s.queue (s.thread t).queue).ctx (s.thread t).pkt) kGraphPatch 64 1048576 64 0 (!s.graphOpen t))
    | .execute e =>
      match s.entry e with
      | some x =>
        if x.kind ≠ kGraphPatch || !s.feRuns then s
        else if x.state = .ready then s.haulIssue e
        else if x.state = .issued && x.phase = 1 && x.report.isNone then s.applyPatch e x
        else s
      | none => s)

/-! ## GRAPH_LAUNCH and its nodes -/

/-- GRAPH_LAUNCH issues (R284, R292, R293): it returns its quota charge and pins the current version; while the load has
not retired it waits; a number that holds no graph ends it with the load's status, and a number freed since its admission
with a status that the spec does not give: a free value. -/
def State.startGraph (s : State) (e : Nat) (x : Entry) : State :=
  let y := s.graph x.ctx x.graphNo
  let s := (s.issue e).updEntry e (fun x => { x with charged := false })
  if !y.claimed then
    let w := s.freshWord
    w.2.report e (w.1.extractLsb' 0 8) false
  else if !y.loaded then s
  else if !y.holds then s.report e y.failStatus false
  else
    s.updEntry e (fun x => { x with phase := 1, version := y.shown })

/-- GRAPH_LAUNCH (R184). -/
def execGraphLaunch (st : OpStep) (s : State) : Host.Outcome State Fault Refusal :=
  .next (match st with
    | .routine t => s.routine t 0x07 (fun s => s.graphLaunchRoutine t)
    | .execute e =>
      match s.entry e with
      | some x => if x.kind = kGraphLaunch && x.state = .ready && s.feRuns then s.startGraph e x else s
      | none => s)

/-- The entry of node `i` of an issued GRAPH_LAUNCH (R284, R286, R295): the header with ARG applied, the parent and ARG in
the payload, and the record kept with it. -/
def State.nodeEntry (s : State) (e : Nat) (x : Entry) (i : Nat) (r : BitVec 1024) : Entry :=
  let arg : W64 := x.img.extractLsb' 256 64
  let add (lo : Nat) (on : Bool) : W64 := (r.extractLsb' lo 64 : W64) + if bit r 11 && on then arg else 0
  let slot := match (s.graph x.ctx x.graphNo).versions.find? (fun v => v.number = x.version) with
    | some v => v.slot | none => 0
  let head := bits r 10 8 + kGraphNode * 2 ^ 8 + bits r 95 80 * 2 ^ 16 + bits r 111 96 * 2 ^ 32 + bits r 79 64 * 2 ^ 48
  let img : W512 := BitVec.ofNat 512 ((add 192 (bit r 9)).toNat + (add 256 (bit r 10)).toNat * 2 ^ 64 + head * 2 ^ 128
    + (bits r 159 128 + x.serial.toNat * 2 ^ 32) * 2 ^ 192 + (i + x.graphNo.toNat * 2 ^ 16 + slot * 2 ^ 28) * 2 ^ 256
    + e * 2 ^ 320 + arg.toNat * 2 ^ 384)
  let bound := if bits r 7 0 = kLaunch then tget 0 s.lnd.current (65536 * x.ctx.toNat + bits r 527 512) else 0
  { img, pkt := r.setWidth 2048 ||| ((bound.setWidth 2048 : Packet) <<< 1024), queue := x.queue, ctx := x.ctx
    kernelQ := x.kernelQ, cls := x.cls, opcode := x.opcode, ord := s.lnd.ord, parent := some e, node := i
    version := x.version, bind := if bits r 7 0 = kLaunch then s.bindOrd x.ctx (r.extractLsb' 512 16) else 0 }

/-- The Blazes that a node names (R168, R284). -/
def nodeBlazes (r : BitVec 1024) : List (BitVec 16) :=
  (if bit r 8 then [r.extractLsb' 64 16] else []) ++ (if bit r 9 then [r.extractLsb' 80 16] else []) ++
  (if bit r 10 then [r.extractLsb' 96 16] else []) ++ (if bits r 7 0 = kSignal then (signalRoutine (nodePacket r)).blazes else [])

/-- GRAPH_NODE_ADMISSION (R284): the next node of an issued GRAPH_LAUNCH takes a Landing entry, unless a bound of R156
holds; its admission restarts the queue's timer (R159, R289); a node that fails its Blaze or handle check retires with PRIVILEGE or STALE_HANDLE and tears its context down. -/
def execGraphNodeAdmission (e : Nat) (s : State) : Host.Outcome State Fault Refusal :=
  .next (match s.entry e with
    | none => s
    | some x =>
      if x.kind ≠ kGraphLaunch || x.state ≠ .issued || x.phase ≠ 1 || x.torn || !s.admits then s
      else match (s.graph x.ctx x.graphNo).versions.find? (fun v => v.number = x.version) with
        | none => s
        | some v =>
          match v.nodes[x.nextNode]? with
          | none => s
          | some r =>
            if (s.bound x.queue 1 []).isSome then s
            else
              let n := s.freeEntryNo
              let s := s.putEntry (s.nodeEntry e x x.nextNode r)
              let s := s.updEntry e (fun y => { y with nextNode := y.nextNode + 1 })
              let s := { s with lnd := { s.lnd with ord := s.lnd.ord + 1, nodesAdmitted := s.lnd.nodesAdmitted + 1 } }
              let s := (s.meetAtCommit n).restartTimer x.queue
              if (nodeBlazes r).any (fun b => !s.blazeAdmits b x.ctx) then (s.report n 0x03 false).teardown x.ctx 0x03
              else if (nodeHandles r).any (fun h => s.isRetiring x.ctx h) then (s.report n 0x0A false).teardown x.ctx 0x0A
              else s)

/-! ## GRAPH_RELEASE -/

/-- GRAPH_RELEASE (R184, R294): OK once the number that it released is free, at once with nothing to release. -/
def execGraphRelease (st : OpStep) (s : State) : Host.Outcome State Fault Refusal :=
  .next (match st with
    | .routine t => s.routine t 0x09 (fun s => graphReleaseRoutine (s.queue (s.thread t).queue).ctx (s.thread t).pkt)
    | .execute e =>
      match s.entry e with
      | some x =>
        if x.kind = kGraphRelease && x.state = .ready && s.feRuns then
          let s := s.issue e
          if (s.graph x.ctx x.graphNo).releases.contains e then s.settleGraph x.ctx x.graphNo else s.report e 0x00 false
        else s
      | none => s)

end Sys2Proof.Machine
end

