-- ==== Sys2Proof/Machine/Commands.lean ====
section
/-! DEFINITION. The packet opcodes other than the graph commands: their routines, and what their executors do (R169 to R191,
R221): the Landing's own kinds, the Yarder's and the haul engines' acts on one entry, and the kernel command executor. -/

namespace Sys2Proof.Machine

/-- Entry `e` of a kind starts: it is READY, its executor takes it, and `f` is what it does (R221). -/
def State.start (s : State) (e : Nat) (kind : Nat) (f : State → Entry → State) : State :=
  match s.entry e with
  | some x => if x.actKind = kind && x.state = .ready && x.report.isNone && s.feRuns then f (s.issue e) x else s
  | none => s

/-! ## User opcodes -/

/-- NOP (R170): only its header acts. -/
def execNop (st : OpStep) (s : State) : Host.Outcome State Fault Refusal :=
  .next (match st with
    | .routine t => s.routine t 0x00 (fun _ => nopRoutine)
    | .execute e => s.start e kNop (fun s _ => s.report e 0x00 false))

/-- The clusters in ascending order, as the Yarder's placement would act for each. -/
def State.placements (s : State) : List State :=
  (execBestEffortDispatch s :: s.allClusters.map (fun c => execSharePlacement c s)).filterMap (fun o => match o with
    | .next t => some t
    | _ => none)

/-- LAUNCH (R174, R221): its routine; its placement, when it is the launch that the Yarder would place now. -/
def execLaunch (st : OpStep) (s : State) : Host.Outcome State Fault Refusal :=
  .next (match st with
    | .routine t => s.routine t 0x01 (fun s => s.launchRoutine t)
    | .execute e =>
      match s.entry e with
      | some x =>
        if x.actKind = kLaunch && x.state = .ready && s.feRuns then
          (s.placements.find? (fun t => match t.entry e with | some y => decide (y.state = .issued) | none => false)).getD s
        else s
      | none => s)

/-- HAUL (R179, R359): its routine; its issue to a haul engine, when it is the next. -/
def execHaul (st : OpStep) (s : State) : Host.Outcome State Fault Refusal :=
  .next (match st with
    | .routine t => s.routine t 0x02 (fun s => s.haulRoutine t)
    | .execute e =>
      match s.entry e with
      | some x => if x.actKind = kHaul && x.state = .ready then s.haulIssue e else s
      | none => s)

/-- SIGNAL (R180): both Blazes are set in the cycle it issues; it retires in the next. -/
def execSignal (st : OpStep) (s : State) : Host.Outcome State Fault Refusal :=
  .next (match st with
    | .routine t => s.routine t 0x03 (fun s => signalRoutine (s.thread t).pkt)
    | .execute e => s.start e kSignal (fun s x =>
        (s.each x.signals (fun s g => s.blazeUpdate g.1 ⟨2, 0, .set g.2⟩)).report e 0x00 false))

/-- WAIT (R181): it issues once all its waits are met, and retires at once. -/
def execWait (st : OpStep) (s : State) : Host.Outcome State Fault Refusal :=
  .next (match st with
    | .routine t => s.routine t 0x04 (fun s => waitRoutine (s.thread t).pkt)
    | .execute e => s.start e kWait (fun s _ => s.report e 0x00 false))

/-- PROGRAM_LOAD (R183, R340): its routine with BIND_PROGRAM; the issue of its image read. The loader goes on (LOADER_RUN). -/
def execProgramLoad (st : OpStep) (s : State) : Host.Outcome State Fault Refusal :=
  .next (match st with
    | .routine t => s.routine t 0x05 (fun s => loadRoutine (s.thread t).pkt
        (programNote (s.queue (s.thread t).queue).ctx ((s.thread t).pkt.extractLsb' 320 16)) kProgramLoad 16 4194304 16 1 false)
    | .execute e =>
      match s.entry e with
      | some x => if x.kind = kProgramLoad && x.state = .ready then s.haulIssue e else s
      | none => s)

/-! ## Contexts -/

/-- CONTEXT_CREATE at issue (R108, R124, R185). -/
def State.createContext (s : State) (p : Packet) : State × BitVec 8 :=
  let k : BitVec 20 := p.extractLsb' 320 20
  let g := pf p 351 344
  let part : BitVec 3 := p.extractLsb' 340 3
  if (s.ctx k).state ≠ .free then (s, 0x02)
  else if (tget {} s.yrd.groups g).partition ≠ part then (s, 0x04)
  else
    let x : Context := { state := .active, partition := part, shareGroup := BitVec.ofNat 8 g
                         jobTag := p.extractLsb' 384 32, descPfn := p.extractLsb' 416 40, quota := p.extractLsb' 352 18 }
    (s.updCtx k (fun _ => x), 0x00)

/-- CONTEXT_CREATE. -/
def execContextCreate (st : OpStep) (s : State) : Host.Outcome State Fault Refusal :=
  .next (match st with
    | .routine t => s.routine t 0x20 (fun s => s.ctxRoutine t 0x20)
    | .execute e => s.start e 0x20 (fun s x =>
        let r := s.createContext x.pkt
        r.1.report e r.2 false))

/-- The entries of the active table that name a context stay inert until the next table is activated: their VALID bits
clear (R261). -/
def State.inertEntries (s : State) (k : BitVec 20) : State :=
  let clear (t : RtTable) : RtTable := { t with entries := t.entries.map (fun (e : BitVec 128) =>
    if bit e 0 && decide ((s.queue (rtQueue e)).ctx = k) && decide ((s.queue (rtQueue e)).state ≠ .free)
    then e &&& ~~~(BitVec.twoPow 128 0) else e) }
  { s with yrd := { s.yrd with
      table := s.yrd.table.map clear, pendingTable := s.yrd.pendingTable.map (fun p => (clear p.1, p.2)) } }

/-- CONTEXT_DESTROY at issue (R108, R116, R186): an ACTIVE context is torn down first; its queues are marked for release,
its graphs become releasing, it is evicted, and it is FREE once drained. -/
def State.destroyContext (s : State) (e : Nat) (k : BitVec 20) : State :=
  if k = kernelCtx then s.report e 0x04 false
  else if (s.ctx k).state = .free then s.report e 0x00 false
  else
    let s := s.teardown k 0x10
    let s := s.inertEntries k
    let s := s.each (s.ctxQueues k) (fun s q => s.updQueue q (fun x => { x with release := true }))
    let s := s.updCtx k (fun x => { x with destroys := x.destroys ++ [e] })
    let s := { s with res := { s.res with waiting := s.res.waiting.filter (· ≠ k) } }
    ((s.releaseGraphs k).beginEvict k).settle k

/-- CONTEXT_DESTROY. -/
def execContextDestroy (st : OpStep) (s : State) : Host.Outcome State Fault Refusal :=
  .next (match st with
    | .routine t => s.routine t 0x21 (fun s => s.ctxRoutine t 0x21)
    | .execute e => s.start e 0x21 (fun s x => s.destroyContext e (x.pkt.extractLsb' 320 20)))

/-- CONTEXT_KILL at issue (R186): an ACTIVE context is torn down with REASON; any other gives OK with no effect. -/
def execContextKill (st : OpStep) (s : State) : Host.Outcome State Fault Refusal :=
  .next (match st with
    | .routine t => s.routine t 0x27 (fun s => s.killRoutine t)
    | .execute e => s.start e 0x27 (fun s x =>
        let why : BitVec 8 := x.pkt.extractLsb' 344 8
        (s.teardownWith (x.pkt.extractLsb' 320 20) why true (why ≠ 0x10)).report e 0x00 false))

/-! ## Queues -/

/-- QUEUE_BIND at issue (R116, R187). -/
def State.bindQueue (s : State) (p : Packet) : State × BitVec 8 :=
  let q : BitVec 14 := p.extractLsb' 320 14
  let k : BitVec 20 := p.extractLsb' 336 20
  if (s.queue q).state ≠ .free then (s, 0x02)
  else if (s.ctx k).state ≠ .active then (s, 0x04)
  else
    let x : Queue := { state := .open_, ctx := k, kernel := bit p 356, retire := bit p 357, cls := p.extractLsb' 358 2
                       diag := bit p 360, ringLog2 := p.extractLsb' 361 5, cplLog2 := p.extractLsb' 366 5
                       tmoLog2 := p.extractLsb' 371 6, ringPfn := p.extractLsb' 384 40, ringAttr := p.extractLsb' 424 8
                       cplPfn := p.extractLsb' 432 40, expSerial := p.extractLsb' 480 32, timerFc := s.fc }
    (s.updQueue q (fun _ => x), 0x00)

/-- QUEUE_BIND. -/
def execQueueBind (st : OpStep) (s : State) : Host.Outcome State Fault Refusal :=
  .next (match st with
    | .routine t => s.routine t 0x22 (fun s => s.bindRoutine t)
    | .execute e => s.start e 0x22 (fun s x =>
        let r := s.bindQueue x.pkt
        r.1.report e r.2 false))

/-- QUEUE_UNBIND at issue (R116, R142): an OPEN queue becomes DRAINING with its cell emptied and its fetcher stopped; a FAILED
one is marked for release; the command ends when the queue is FREE. -/
def State.unbindQueue (s : State) (e : Nat) (q : BitVec 14) : State :=
  if (s.queue q).state = .free then s.report e 0x00 false
  else
    let s := s.updQueue q (fun x =>
      let x : Queue := { x with unbinds := x.unbinds ++ [e] }
      if x.state = .open_ then { x with state := .draining, cell := none, inl := [], fstate := .stopped, block := .none_
                                        units := [], turn := 0 }
      else if x.state = .failed then { x with release := true } else x)
    let k := (s.queue q).ctx
    (s.drainQueue q).settle k

/-- QUEUE_UNBIND. -/
def execQueueUnbind (st : OpStep) (s : State) : Host.Outcome State Fault Refusal :=
  .next (match st with
    | .routine t => s.routine t 0x23 (fun s => s.unbindRoutine t)
    | .execute e => s.start e 0x23 (fun s x => s.unbindQueue e (x.pkt.extractLsb' 320 14)))

/-! ## Objects and translations -/

/-- OBJECT_FREE at issue (R122): the reclaim of the object it retired starts once no reference is left; with none retired it
ends with OK. -/
def execObjectFree (st : OpStep) (s : State) : Host.Outcome State Fault Refusal :=
  .next (match st with
    | .routine t => s.freeRoutine t
    | .execute e => s.start e 0x24 (fun s _ =>
        match s.xlt.retiring.find? (fun r => r.entry = some e) with
        | some r => (s.updEntry e (fun x => { x with phase := 1 })).startReclaim r.ctx r.handle
        | none => s.report e 0x00 false))

/-- The translations and copies of a range of a context are dropped (R430 steps 1 to 3, R312). -/
def State.dropRange (s : State) (k : BitVec 20) (all : Bool) (first pages : Nat) : State :=
  let hits (base span : Nat) : Bool := all || (decide (base < first + pages) && decide (first < base + span))
  let s := { s with xlt := { s.xlt with
    leaves := s.xlt.leaves.filter (fun l => !(l.ctx = k && hits l.vpn (2 ^ (9 * l.level))))
    walkEnts := s.xlt.walkEnts.filter (fun w => !(w.ctx = k && hits (w.prefix_ * 2 ^ (9 * w.level)) (2 ^ (9 * w.level)))) } }
  s.dropCopies k (fun _ => all) (fun v => all || (decide (first ≤ v) && decide (v < first + pages)))

/-- TLB_INVALIDATE at issue (R430): the range is dropped, a resident context's epoch advances, and the command waits for the
old epochs that have not drained. -/
def State.invalidate (s : State) (e : Nat) (p : Packet) : State :=
  let k : BitVec 20 := p.extractLsb' 320 20
  let s := s.dropRange k (bit p 340) (pf p 428 384) (pf p 483 448)
  let walks : List Walk := s.xlt.walks.map (fun (w : Walk) => if w.ctx = k then { w with stale := true } else w)
  let s : State := { s with xlt := { s.xlt with walks := walks } }
  let old := s.epoch k
  let s := match s.residentSlot k with
    | some r => s.updRes r (fun x => { x with epoch := x.epoch + 1 })
    | none => s
  let wait := if (s.residentSlot k).isSome then [old, old - 1, old - 2] else []
  State.settleInvals { s with xlt := { s.xlt with invals := s.xlt.invals ++ [{ entry := e, ctx := k, epochs := wait }] } }

/-- TLB_INVALIDATE (R188, R431): it stays READY while the epoch that would become current still drains. -/
def execTlbInvalidate (st : OpStep) (s : State) : Host.Outcome State Fault Refusal :=
  .next (match st with
    | .routine t => s.routine t 0x25 (fun s => s.invalRoutine t)
    | .execute e =>
      match s.entry e with
      | some x =>
        let k : BitVec 20 := x.pkt.extractLsb' 320 20
        if x.kind = 0x25 && s.epochCount k (s.epoch k + 1) ≠ 0 then s
        else s.start e 0x25 (fun s x => s.invalidate e x.pkt)
      | none => s)

/-- FAULT_RESUME at issue (R189, R365): the stream stalled under the record goes on, at once or, parked, at its context's
next residency; without a match nothing happens. -/
def State.faultResume (s : State) (p : Packet) : State :=
  let k : BitVec 20 := p.extractLsb' 320 20
  let key := 64 * pf p 355 352 + pf p 361 356
  let seq : W32 := p.extractLsb' 384 32
  let hit (x : Stream) (at_ : Nat) : Bool := x.stalled && x.ctx = k && x.seq = some seq && at_ = key
  { s with hau := { s.hau with
      streams := s.hau.streams.map (fun (q : Nat × Stream) =>
        if hit q.2 (q.2.ident.getD q.1) then (q.1, { q.2 with stalled := false, seq := none }) else q)
      parked := s.hau.parked.map (fun (q : Parked) => if hit q.stream q.key then { q with marked := true } else q) } }

/-- FAULT_RESUME. -/
def execFaultResume (st : OpStep) (s : State) : Host.Outcome State Fault Refusal :=
  .next (match st with
    | .routine t => s.routine t 0x26 (fun s => s.resumeRoutine t)
    | .execute e => s.start e 0x26 (fun s x => (s.faultResume x.pkt).report e 0x00 false))

/-! ## Blazes -/

/-- The record that BLAZE_CONFIG writes over the old one (R190, R230, R232), after every other update of its cycle (R225). -/
def cfgRecord (p : Packet) (y : BlazeCycle) (old : Blaze) : Blaze :=
  { value := p.extractLsb' 384 64, configured := true, owner := p.extractLsb' 336 20, anyPart := bit p 356
    users := ((cfgUsers p).filter (fun w => bit w 31)).map (fun (w : W32) => w.extractLsb' 0 20)
    mirrorEn := bit p 357, mirrorPa := p.extractLsb' 448 64, mirrorOut := old.mirrorOut
    cycle := some { y with config := true } }

/-- BLAZE_CONFIG at issue (R190): BUSY_REFUSED while another entry names the Blaze; else the record is written, and the
command ends once its mirror write, if it makes one, has been answered (R232). -/
def State.configBlaze (s : State) (e : Nat) (p : Packet) : State :=
  let n : BitVec 16 := p.extractLsb' 320 16
  if s.blazeNamed n e then s.report e 0x02 false
  else
    let s := s.updBlaze n (cfgRecord p (s.blazeCycle n))
    if !bit p 357 then s.report e 0x00 false
    else
      let s := s.updEntry e (fun x => { x with phase := 1 })
      if (s.blaze n).mirrorOut then s else s.mirrorIssue n

/-- BLAZE_CONFIG. -/
def execBlazeConfig (st : OpStep) (s : State) : Host.Outcome State Fault Refusal :=
  .next (match st with
    | .routine t => s.routine t 0x28 (fun s => s.configRoutine t)
    | .execute e => s.start e 0x28 (fun s x => s.configBlaze e x.pkt))

/-! ## Self-tests (R191, R548, R549) -/

/-- The routine of SELF_TEST, for the row of TARGET `target`; TARGET 0b11 is refused by the row of CLUSTER. -/
def State.testGo (s : State) (t : BitVec 4) (target : Nat) : State :=
  let n := pf (s.thread t).pkt 321 320
  if n = target || (n = 3 && target = 0) then s.routine t 0x29 (fun s => s.testRoutine t) else s

/-- A SELF_TEST of TARGET `target` starts (R191). -/
def State.startTest (s : State) (e target : Nat) (f : State → Entry → State) : State :=
  s.start e 0x29 (fun t x => if pf x.pkt 321 320 = target then f t x else s)

/-- The cluster that a SELF_TEST names. -/
def Entry.testCluster (x : Entry) : BitVec 6 := x.pkt.extractLsb' 328 6

/-- Step 3 of R548 begins: the link is reset. -/
def State.beginTest (s : State) (c : BitVec 6) (e : Nat) : State :=
  s.updCluster c (fun x => { x.linkReset with testing := some e, inTest := true })

/-- A cluster SELF_TEST goes on once its drain allows it (R548): a held context is switched out with no launch, then the
cluster leaves service and its test begins; in a recovery it waits (R531), and a cluster already out is tested at once. One that names a cluster under test waits for that
test to end (notes/assumptions/61). -/
def State.testLeave (s : State) (e : Nat) (c : BitVec 6) : State :=
  let s := s.updCluster c (fun x => { x with testing := some (x.testing.getD e) })
  let x := s.cluster c
  if x.testing ≠ some e || x.inTest || x.recovery.isSome || x.hangWait.isSome || !s.feRuns then s
  else if x.link = .out then s.beginTest c e
  else if x.active.isSome || x.shadow.isSome || x.chainNext.isSome || !x.chainWait.isEmpty || x.switch.isSome then s
  else if x.ctx.isSome then (if s.coreRuns c then s.beginSwitch c .quiet none none else s)
  else (s.leaveService c).beginTest c e

/-- SELF_TEST with TARGET CLUSTER (R548): the routine; the start; the end of the drain; and the end of the
march test, with what it found. A pass goes on to LOOPBACK_ON, the loopback of R98, LOOPBACK_OFF and CLEAR, whose answer
returns the cluster to service. -/
def execSelfTestCluster (st : TestStep) (s : State) : Host.Outcome State Fault Refusal :=
  .next (match st with
    | .routine t => s.testGo t 0
    | .execute e => s.startTest e 0 (fun s x =>
        let c := x.testCluster
        if (s.cluster c).startFail then s.report e 0x02 false
        else s.testLeave e c)
    | .leave e =>
      match s.entry e with
      | some x => if x.kind = 0x29 && x.state = .issued && x.report.isNone then s.testLeave e x.testCluster else s
      | none => s
    | .finish e pass =>
      match s.entry e with
      | none => s
      | some x =>
        let c := x.testCluster
        let y := s.cluster c
        if x.kind ≠ 0x29 || y.testing ≠ some e || !y.inTest || y.link ≠ .held || y.ctrl.isSome then s
        else if pass then s.updCluster c (Cluster.sendCtrl ctLoopOn 0)
        else s.failTest c
    | .row _ _ _ _ => s
    | .parity _ _ _ => s)

/-- The caches that a front-end self-test empties (R549). -/
def State.emptyCaches (s : State) : State :=
  { s with xlt := { s.xlt with leaves := [], walkEnts := [], objects := [] } }

/-- A front-end or Deck self-test starts: BUSY_REFUSED while any user work is admitted or running (R191). That it is refused
also while another such test runs is the model's choice (DESIGN CHOICE, notes/assumptions/61). -/
def State.blockTest (s : State) (e : Nat) : State :=
  if s.userHeld ≠ 0 || s.fwc.selfTest.isSome then s.report e 0x02 false
  else { s with fwc := { s.fwc with selfTest := some e } }

/-- SELF_TEST with TARGET FRONT_END (R549): a failure ends with START_REFUSED, and the block leaves service with STATE REFUSED
and REASON SELF_TEST (R191, R472). -/
def execSelfTestFrontEnd (st : TestStep) (s : State) : Host.Outcome State Fault Refusal :=
  .next (match st with
    | .routine t => s.testGo t 1
    | .execute e => s.startTest e 1 (fun s _ =>
        let t := s.blockTest e
        if t.fwc.selfTest = some e then t.emptyCaches else t)
    | .leave _ => s
    | .finish e pass =>
      match s.entry e with
      | some x =>
        if s.fwc.selfTest = some e && pf x.pkt 321 320 = 1 && s.feRuns then
          let s := { s with fwc := { s.fwc with selfTest := none } }
          if pass then s.report e 0x00 false
          else (s.report e 0x11 false).refuseStart 0x0C
        else s
      | none => s
    | .row _ _ _ _ => s
    | .parity _ _ _ => s)

/-- The Deck self-test of entry `e` runs. -/
def State.deckTests (s : State) (e : Nat) : Bool :=
  s.fwc.selfTest = some e && (match s.entry e with | some x => pf x.pkt 321 320 = 2 | none => false) && s.feRuns

/-- SELF_TEST with TARGET DECK (R549): its pass reads every row and mends wrong parity; it ends OK, or with DECK_DATA_LOSS when
a row proves unrecoverable. -/
def execSelfTestDeck (st : TestStep) (s : State) : Host.Outcome State Fault Refusal :=
  .next (match st with
    | .routine t => s.testGo t 2
    | .execute e => s.startTest e 2 (fun s _ =>
        let t := s.blockTest e
        if t.fwc.selfTest = some e then { t with dck := { t.dck with testLost := false } } else t)
    | .leave _ => s
    | .row e bank row ecc =>
      if s.deckTests e && decide (bank.toNat / 8 < s.build.deckGroups) then
        let t := s.scrubRow bank.toNat row.toNat ecc
        if t.2 then { t.1 with dck := { t.1.dck with testLost := true } } else t.1
      else s
    | .parity e bank row =>
      if s.deckTests e && decide (bank.toNat / 8 < s.build.deckGroups) then s.mendParity bank.toNat row.toNat else s
    | .finish e pass =>
      if s.deckTests e then
        State.report { s with fwc := { s.fwc with selfTest := none } } e (if pass && !s.dck.testLost then 0x00 else 0x0E) false
      else s)

end Sys2Proof.Machine
end

