-- ==== Sys2Proof/Machine/Mailbox.lean ====
section
/-! DEFINITION. The mailbox: its pages and their accesses (R480 to R483), the requests of R484 with their effects (R254, R270,
R271, R274 to R276, R485, R211, R519, R551), and the accesses that wait for the scheduler core (R32). -/

namespace Sys2Proof.Machine

/-! ## Requests -/

/-- The fields of a request's words (R481, R485, R519, R551), as word, high bit and low bit; every other bit is reserved. -/
def requestFields (code : Nat) : List (Nat × Nat × Nat) :=
  [(0, 63, 32), (0, 8, 0)] ++
  match code with
  | 0x02 => [(1, 51, 6)]
  | 0x03 => [(1, 62, 32), (1, 31, 0)]
  | 0x04 => [(1, 31, 16), (1, 10, 8), (1, 7, 0)]
  | 0x05 => [(1, 31, 16), (1, 15, 8), (1, 2, 0), (2, 63, 0)]
  | 0x06 => [(1, 39, 32), (1, 31, 24), (1, 23, 16), (1, 8, 8), (1, 2, 0)]
  | 0x07 => [(1, 47, 32), (1, 19, 0)]
  | 0x08 => [(1, 51, 12), (2, 23, 0)]
  | 0x09 => [(1, 6, 0), (2, 63, 0)]
  | 0x0B => [(1, 63, 0)]
  | 0x0C => [(1, 51, 12), (2, 14, 0)]
  | 0x0D => [(1, 2, 0), (1, 5, 4), (1, 23, 16), (1, 31, 24)]
  | _ => []

/-- Every reserved bit of a request is zero (R483). -/
def requestForm (req : W512) : Bool :=
  (requestFields (bits req 7 0)).foldl (fun (r : W512) f => putBits r (64 * f.1 + f.2.1) (64 * f.1 + f.2.2) 0) req = 0

/-- The codes that R484 assigns. -/
def requestAssigned (code : Nat) : Bool := 1 ≤ code && code ≤ 0x0D

/-- Word `k` of a request. -/
def reqWord (req : W512) (k : Nat) : W64 := req.extractLsb' (64 * k) 64

/-- A response whose first words are given. -/
def respWords (l : List W64) : W512 := BitVec.ofNat 512 (ofBytes ((l.map (fun w => toBytes 8 w.toNat)).flatten))

/-- HELLO (R484). -/
def State.helloResp (s : State) : W512 :=
  respWords [s.fwc.fwVersion, BitVec.ofNat 64 (s.fwc.ifMin.toNat + s.fwc.ifMax.toNat * 2 ^ 16 + s.fwc.drvIf.toNat * 2 ^ 32)]

/-! ## Real-time table images (R252 to R254) -/

/-- The table that an image's bytes hold (R252, R253). -/
def tableOf (b : List Byte) : RtTable :=
  { id := BitVec.ofNat 16 (le b 0x08 2), majorFc := le b 0 4, minors := le b 4 2, startFc := le b 0x10 8
    entries := (List.range (le b 6 2)).map (fun i => BitVec.ofNat 128 (le b (0x40 + 16 * i) 16)) }

/-- Check 1 of R254: the header (R252). -/
def tableHeader (b : List Byte) : Bool :=
  let major := le b 0 4
  let minors := le b 4 2
  200000 ≤ major && major ≤ 200000000 && 1 ≤ minors && minors ≤ 256 && le b 6 2 ≤ 4096 && le b 0x0A 6 = 0 &&
  le b 0x18 40 = 0 && major % minors = 0 && 20000 ≤ major / minors

/-- Check 2 of R254 for a valid entry: its fields (R253), with QUEUE a slot that the build has (R398). -/
def RtTable.fieldsOk (t : RtTable) (queues : Nat) (e : BitVec 128) : Bool :=
  (rtQueue e).toNat < queues && rtFirst e < t.minors && 1 ≤ rtLength e && rtOffset e + rtLength e ≤ t.majorFc / t.minors &&
  4000 ≤ rtLead e && rtLead e + rtLength e ≤ t.majorFc && bits e 7 2 = 0

/-- The valid entries of a table. -/
def RtTable.valid (t : RtTable) : List (BitVec 128) := t.entries.filter (fun e => bit e 0)

/-- The reservation windows of a table in one major frame: entry position, cluster, start modulo MAJOR_FC, and length. -/
def RtTable.spans (t : RtTable) : List (Nat × BitVec 128 × Nat × Nat) :=
  (t.entries.zipIdx.filter (fun p => bit p.1 0)).flatMap (fun p =>
    (t.instants p.1).map (fun i => (p.2, p.1, (i + t.majorFc - rtLead p.1) % t.majorFc, rtLead p.1 + rtLength p.1)))

/-- Two ranges overlap, counted modulo `m`. -/
def spanOverlap (m a la b lb : Nat) : Bool := decide ((b + m - a) % m < la) || decide ((a + m - b) % m < lb)

/-- No two ranges of a list on one cluster overlap (check 5 of R254). -/
def spansApart (m : Nat) : List (Nat × BitVec 128 × Nat × Nat) → Bool
  | [] => true
  | x :: rest => rest.all (fun y => rtCluster x.2.1 ≠ rtCluster y.2.1 || !spanOverlap m x.2.2.1 x.2.2.2 y.2.2.1 y.2.2.2) &&
      spansApart m rest

/-- The context is resident, and its residency slot holds its descriptor (R106, R110). -/
def State.descHeld (s : State) (k : BitVec 20) : Bool :=
  match s.residentSlot k with | some r => (s.resSlot r).state ≠ .loading | none => false

/-- SAVE_SPAN of a context (R106): from its residency slot, or as it has been read for the image of a mailbox page. -/
def State.spanOf (s : State) (page : BitVec 8) (k : BitVec 20) : Option Nat :=
  if s.descHeld k then (match s.residentSlot k with | some r => some (s.resSlot r).desc.saveSpan.toNat | none => none)
  else (s.fwc.readOf (some page)).bind (fun r => (r.spans.find? (fun p => p.1 = k)).map (·.2))

/-- Check 6 of R254: at no instant do the windows of one context cover more than its SAVE_SPAN clusters. The clusters covered
are most at the start of some window. -/
def State.spanFits (s : State) (page : BitVec 8) (t : RtTable) : Bool :=
  let l := t.spans
  l.all (fun x =>
    let k := (s.queue (rtQueue x.2.1)).ctx
    let here := l.filter (fun y => (s.queue (rtQueue y.2.1)).ctx = k &&
      decide ((x.2.2.1 + t.majorFc - y.2.2.1) % t.majorFc < y.2.2.2))
    decide ((dedup (here.map (fun y => rtCluster y.2.1))).length ≤ (s.spanOf page k).getD 0))

/-- The first check of R254 that refuses an image, of mailbox page `page`. -/
def State.tableRefused (s : State) (page : BitVec 8) (b : List Byte) : Option Nat :=
  let t := tableOf b
  let l := t.valid
  let old := match s.yrd.table with | some o => s.tableContexts o | none => []
  if !tableHeader b then some 1
  else if !l.all (t.fieldsOk s.build.queueSlots) then some 2
  else if !l.all (fun e => let q := s.queue (rtQueue e); q.state = .open_ && q.cls = 0 && (s.ctx q.ctx).state = .active) then some 3
  else if !l.all (fun e =>
      let c := BitVec.ofNat 6 (rtCluster e)
      rtCluster e < s.build.clusters && (s.cluster c).inService &&
        (s.cluster c).partition = (s.ctx (s.queue (rtQueue e)).ctx).partition) then some 4
  else if !spansApart t.majorFc t.spans then some 5
  else if !s.spanFits page t then some 6
  else if 48 < (dedup (s.tableContexts t ++ old)).length then some 7
  else if s.yrd.pendingTable.isSome then some 8
  else if l.any (fun e => (s.cluster (BitVec.ofNat 6 (rtCluster e))).moveTo.isSome) then some 9
  else none

/-- The context of an image whose SAVE_SPAN check 6 of R254 still lacks: its descriptor is read first
(notes/assumptions/57). -/
def State.spanWanted (s : State) (page : BitVec 8) (image : Option (List Byte)) : Option (BitVec 20) :=
  match image with
  | none => none
  | some b => if tableHeader b then (s.tableContexts (tableOf b)).find? (fun k => (s.spanOf page k).isNone) else none

/-- The start of a context's descriptor is read by physical address, as an FWLOAD transfer of the request's image. -/
def State.spanRead (s : State) (page : BitVec 8) (k : BitVec 20) : State :=
  let s : State := { s with fwc := { s.fwc with reads := s.fwc.reads.map (fun (r : FwRead) =>
    if r.page = some page then { r with left := r.left + 1 } else r) } }
  s.mpRead none srcFwload (4096 * (s.ctx k).descPfn.toNat) 64 3 3 8 (.spanRead page k)

/-- RT_TABLE_LOAD (R254, R255): the image is accepted, and its request completes at its base, or it is refused. A failed read
ends the request with FAULT_ACCESS (R484). -/
def State.loadTable (s : State) (page : BitVec 8) (image : Option (List Byte)) : State :=
  match image with
  | none => s.mbxDone page 0x08 0
  | some b =>
    let r := s.tableRefused page b
    match r with
    | some n => State.mbxDone { s with yrd := { s.yrd with refuse := BitVec.ofNat 4 n } } page 0x04 0
    | none => { s with yrd := { s.yrd with pendingTable := some (tableOf b, page) } }

/-! ## Shares and partitions -/

/-- SG_CFG (R271, R485): weight and partition of a group; refused while a context of the group is ACTIVE and the group would
move. -/
def State.groupConfig (s : State) (page : BitVec 8) (w : W64) : State :=
  let g := bits w 7 0
  let p : BitVec 3 := w.extractLsb' 8 3
  let active := s.ctxs.any (fun x => x.2.state = .active && x.2.shareGroup.toNat = g)
  if (tget {} s.yrd.groups g).partition ≠ p && active then s.mbxDone page 0x02 0
  else
    State.mbxDone { s with yrd := { s.yrd with
      groups := tupd {} s.yrd.groups g (fun x => { x with partition := p, weight := w.extractLsb' 16 16 }) } } page 0x00 0

/-- A valid entry of the active or the pending table names the cluster (R274). -/
def State.tableNames (s : State) (c : Nat) : Bool :=
  (s.yrd.table.toList ++ s.yrd.pendingTable.toList.map (·.1)).any (fun t => t.valid.any (fun e => rtCluster e = c))

/-- In a build of 16 clusters every partition that holds a cluster owns ports and ways, and no two own one in common (R275);
`holds` tells which partitions hold a cluster. -/
def partsApart (l : List (BitVec 8 × BitVec 16)) (holds : Nat → Bool) : Bool :=
  let own := (l.zipIdx.filter (fun p => holds p.2)).map (·.1)
  own.all (fun p => decide (p.1 ≠ 0) && decide (p.2 ≠ 0)) &&
  own.zipIdx.all (fun a => own.zipIdx.all (fun b => decide (b.2 ≤ a.2) ||
    (decide (a.1.1 &&& b.1.1 = 0) && decide (a.1.2 &&& b.1.2 = 0))))

/-- PART_ASSIGN is malformed: bits of absent clusters or ports, or WAYS and PORTS set in a build that has none (R485). -/
def State.assignBad (s : State) (w : W64) (m : W64) : Bool :=
  (if s.build.clusters = 16 then decide (2 ^ s.build.memPorts ≤ bits w 15 8) else decide (bits w 31 8 ≠ 0)) ||
  decide (2 ^ s.build.clusters ≤ m.toNat)

/-- PART_ASSIGN (R274, R275, R485): ports and ways of the partition, and the clusters that move to it: those out of service at
once, the others DRAINING; the request completes once all have joined. A partition to which a cluster drains already holds it,
and so does the one that it leaves. -/
def State.assignPart (s : State) (page : BitVec 8) (w m : W64) : State :=
  let p : BitVec 3 := w.extractLsb' 0 3
  if s.assignBad w m then s.mbxDone page 0x04 0
  else
    let moving := (List.range s.build.clusters).filter (fun c => m.getLsbD c && decide ((s.cluster (BitVec.ofNat 6 c)).partition ≠ p))
    let holds (q : Nat) : Bool := (List.range s.build.clusters).any (fun c => 
          (s.cluster (BitVec.ofNat 6 c)).partition.toNat = q || (s.cluster (BitVec.ofNat 6 c)).moveTo = some (BitVec.ofNat 3 q)) ||
      (q = p.toNat && !moving.isEmpty)
    let sets := (List.range 8).map (fun q =>
      if q = p.toNat then (w.extractLsb' 8 8, w.extractLsb' 16 16)
      else ((s.part (BitVec.ofNat 3 q)).ports, (s.part (BitVec.ofNat 3 q)).ways))
    if moving.any s.tableNames || (s.build.clusters = 16 && !partsApart sets holds) then s.mbxDone page 0x02 0
    else
      let s := if s.build.clusters = 16 then
          let t := s.updPart p (fun x => { x with ports := w.extractLsb' 8 8, ways := w.extractLsb' 16 16 })
          if (s.part p).ports = w.extractLsb' 8 8 then t else t.cruise
        else s
      let now := moving.filter (fun c => !(s.cluster (BitVec.ofNat 6 c)).inService)
      let later := moving.filter (fun c => (s.cluster (BitVec.ofNat 6 c)).inService)
      let s := s.each now (fun s c => s.join (BitVec.ofNat 6 c) p)
      let s := s.each later (fun s c => s.updCluster (BitVec.ofNat 6 c) (fun x => { x with moveTo := some p }))
      if later.isEmpty then s.mbxDone page 0x00 0
      else { s with yrd := { s.yrd with moves := s.yrd.moves ++ [(page, later)] } }

/-- Sum of SHARE over the partitions in a direction, partition `p` taking `share` (R276). -/
def State.shareSum (s : State) (p : BitVec 3) (write : Bool) (share : Nat) : Nat :=
  ((List.range 8).map (fun q => if q = p.toNat then share else ((s.part (BitVec.ofNat 3 q)).share write).toNat)).sum

/-- PART_REGULATE (R276, R277): refused when the sum of SHARE would exceed 256 in a direction. The buckets gain what the old
setting has earned. -/
def State.regulatePart (s : State) (page : BitVec 8) (w : W64) : State :=
  let p : BitVec 3 := w.extractLsb' 0 3
  if 256 < s.shareSum p false (bits w 39 32) || 256 < s.shareSum p true (bits w 31 24) then s.mbxDone page 0x04 0
  else
    let s := s.updPart p (fun x => { x with
      refillFc := s.fc
      rdBucket := refill x.rdBucket x.rdShare x.burst s.build.memPorts (s.fc - x.refillFc)
      wrBucket := refill x.wrBucket x.wrShare x.burst s.build.memPorts (s.fc - x.refillFc) })
    let s := s.updPart p (fun x => { x with
      rdShare := w.extractLsb' 32 8, wrShare := w.extractLsb' 24 8, burst := w.extractLsb' 16 8, borrow := bit w 8 })
    (s.mbxDone page 0x00 0).promoteAll

/-! ## Programs, microcode, ledger, dump and power -/

/-- MBX_RESP word 0 of PROG_QUERY (R485). -/
def State.progQuery (s : State) (w : W64) : W64 :=
  let k : BitVec 20 := w.extractLsb' 0 20
  let p : BitVec 16 := w.extractLsb' 32 16
  let b := tget 0 s.lnd.current (65536 * k.toNat + p.toNat)
  if b = 0 then 0
  else
    match s.binding k p with
    | none => b.setWidth 64
    | some x =>
      BitVec.ofNat 64 (b.toNat + (match x.state with | .loading => 1 | .ready => 2 | .failed => 3) * 2 ^ 16 +
        x.status.toNat * 2 ^ 24 + x.code.toNat * 2 ^ 32 + x.record.toNat * 2 ^ 40)

/-- UCODE_PATCH (R211, R484): refused before the control store is loaded; an image whose read failed cannot be verified; any
other is checked and applied, after the patches before it. -/
def State.patchRequest (s : State) (page : BitVec 8) (w2 : W64) (image : Option (List Byte)) : State :=
  if !s.uc.loaded then s.mbxDone page 0x02 0
  else match image with
    | none => s.mbxDone page 0x09 0
    | some b => State.patchOn { s with uc := { s.uc with patchWait := s.uc.patchWait ++ [(page, slice b 0 (bits w2 23 0))] } }

/-- The ledger counters that the build has (R550). -/
def State.ledgerIndex (s : State) (i : Nat) : Bool :=
  i ≤ 9 || (16 ≤ i && i < 16 + s.build.deckGroups) || (32 ≤ i && i < 32 + s.build.deckGroups) ||
  (64 ≤ i && i < 64 + s.build.clusters)

/-- LEDGER_RESTORE (R551): the value is added once; counters saturate (R550). -/
def State.ledgerAdd (s : State) (page : BitVec 8) (w1 v : W64) : State :=
  let i := bits w1 6 0
  if !s.ledgerIndex i then s.mbxDone page 0x04 0
  else if s.lgr.restored.getLsbD i then s.mbxDone page 0x00 0
  else
    State.mbxDone { s with lgr := { s.lgr with
      restored := s.lgr.restored ||| BitVec.twoPow 128 i
      counts := tupd 0 s.lgr.counts i (fun x => BitVec.ofNat 64 (min (x.toNat + v.toNat) (2 ^ 64 - 1))) } } page 0x00 1

/-- LEDGER_FLUSH (R551). -/
def State.ledgerCopy (s : State) (page : BitVec 8) : State :=
  let s := s.powered
  State.mbxDone { s with lgr := { s.lgr with snaps := s.lgr.counts } } page 0x00 (s.fe.cycles.setWidth 512)

/-- DUMP_AREA (R551, R544). -/
def State.dumpRequest (s : State) (page : BitVec 8) (w1 w2 : W64) : State :=
  if 16384 < bits w2 14 0 then s.mbxDone page 0x04 0
  else
    State.mbxDone { s with fwc := { s.fwc with
      dumpPfn := w1.extractLsb' 12 40, dumpPages := w2.extractLsb' 0 15, armed := decide (bits w2 14 0 ≠ 0) } } page 0x00 0

/-- A poll begins for an entry (R514): its target, and the page of the request or none for an automatic entry. -/
def State.beginPoll (s : State) (t : PState) (page : Option (BitVec 8)) : State :=
  let s : State := { s with pwr := { s.pwr with request := some (t, page), phase := .polling, pollFc := s.fc } }
  s.trace 6 procPower 0x0009 [t.code, 0, 0]

/-- The power core can begin a poll: it runs, the block is in RUN or IDLE, and no entry is in progress (R514, R477). -/
def State.mayPoll (s : State) : Bool :=
  s.pwr.request.isNone && s.pwr.phase = .none_ && s.inRun && (s.proc procPower).state = .running

/-- The oldest power request that waits begins its poll, once it can. -/
def State.nextPoll (s : State) : State :=
  match s.pwr.later with
  | [] => s
  | (t, page) :: rest =>
    if s.mayPoll then State.beginPoll { s with pwr := { s.pwr with later := rest } } t (some page) else s

/-- The state that ENTER names (R519). -/
def enterState (n : Nat) : Option PState :=
  if n = 2 then some .sleep else if n = 3 then some .deep else if n = 4 then some .off else none

/-- POWER_POLICY (R519): the policy is written; with ENTER the entry is requested. -/
def State.powerRequest (s : State) (page : BitVec 8) (w : W64) : State :=
  let enter := bits w 2 0
  let sl := bits w 23 16
  let dp := bits w 31 24
  if (enter ≠ 0 && (enterState enter).isNone) || bits w 5 4 = 3 || sl < 20 || 40 < sl || dp < sl || 40 < dp then s.mbxDone page 0x04 0
  else
    let s : State := { s with pwr := { s.pwr with
      auto := w.extractLsb' 4 2, sleepLog2 := w.extractLsb' 16 8, deepLog2 := w.extractLsb' 24 8 } }
    match enterState enter with
    | none => s.mbxDone page 0x00 0
    | some t => State.nextPoll { s with pwr := { s.pwr with later := s.pwr.later ++ [(t, page)] } }

/-! ## Carrying out a request -/

/-- The codes whose requests name an image in host memory (R485). -/
def requestImage (code : Nat) : Bool := code = 0x02 || code = 0x08

/-- A started request is carried out (R483, R484); `image` is what a read of its image has given, none where it failed. -/
def State.carryOut (s : State) (page : BitVec 8) (image : Option (List Byte)) : State :=
  let req := (s.mbx page).req
  let s := s.updMbx page (fun m => { m with awaiting := false })
  if !requestAssigned (bits req 7 0) || !requestForm req then s.mbxDone page 0x04 0
  else
    let w1 := reqWord req 1
    let w2 := reqWord req 2
    match bits req 7 0 with
    | 0x01 => s.mbxDone page 0x00 s.helloResp
    | 0x02 => (s.loadTable page image).dropRead (some page)
    | 0x03 => State.mbxDone { s with yrd := { s.yrd with
        capFc := (w1.extractLsb' 32 31).setWidth 32, quantumFc := w1.extractLsb' 0 32 } } page 0x00 0
    | 0x04 => s.groupConfig page w1
    | 0x05 => s.assignPart page w1 w2
    | 0x06 => s.regulatePart page w1
    | 0x07 => s.mbxDone page 0x00 ((s.progQuery w1).setWidth 512)
    | 0x08 => (s.patchRequest page w2 image).dropRead (some page)
    | 0x09 => s.ledgerAdd page w1 w2
    | 0x0A => s.ledgerCopy page
    | 0x0B => State.mbxDone { s with lgr := { s.lgr with wallclock := w1, wallclockFc := s.fe.cycles } } page 0x00 0
    | 0x0C => s.dumpRequest page w1 w2
    | _ => s.powerRequest page w1

/-- An ignored write of MBX_GO is recorded (R482, R546). -/
def State.goIgnored (s : State) (page : BitVec 8) (v : W32) : State :=
  s.logHw 0x000A 0x00 none none (page.toNat + v.toNat * 2 ^ 32)

/-- The image that a request names begins to be read: a table's header first (R252, R485), a patch of the length given (R485).
A patch that the control store cannot take yet is refused unread (R484). -/
def State.readImage (s : State) (page : BitVec 8) : State :=
  let req := (s.mbx page).req
  let w1 := reqWord req 1
  let r : FwRead := { page := some page, pa := w1.toNat, len := 0 }
  if bits req 7 0 = 0x02 then s.fwAsk r 0 64 false
  else if s.uc.loaded then s.fwAsk r 0 (bits (reqWord req 2) 23 0) true
  else s

/-- A write of `v` to MBX_GO of a page (R482). A request that names an image waits for it to be read; every other is carried
out. -/
def State.mbxGo (s : State) (page : BitVec 8) (v : W32) : State :=
  let m := s.mbx page
  if v = m.seq && m.state ≠ .idle then s
  else if m.state = .busy || v ≠ m.req.extractLsb' 32 32 then s.goIgnored page v
  else
    let s := s.updMbx page (fun m => { m with state := .busy, seq := v })
    let s := s.trace 0 procSched 0x0002 [page.toNat, bits m.req 7 0, v.toNat, 0]
    if requestImage (bits m.req 7 0) && requestForm m.req then (s.updMbx page (fun m => { m with awaiting := true })).readImage page
    else s.carryOut page none

/-! ## Accesses to mailbox pages (R480) -/

/-- Offset of mailbox page `m` in the host window (R553). -/
def mbxOffset (m off : Nat) : Nat := 0x200000 + 0x1000 * m + off

/-- A write of a mailbox page has a size that its register allows (R480). -/
def mbxWriteOk (off : Nat) (n : HostSize) : Bool :=
  if off < 0x40 || 0xC0 ≤ off && off < 0x100 then n = .b8 || n = .b64
  else (off = 0x40 || off = 0x80) && n = .b8

/-- A read of a mailbox page has a size that its register allows (R480). -/
def mbxReadOk (off : Nat) (n : HostSize) : Bool := mbxWriteOk off n

/-- The scheduler core serves a write of a mailbox page (R480, R482). -/
def State.mbxWrite (s : State) (page : BitVec 8) (off : Nat) (n : HostSize) (data : W512) : State :=
  let s := s.respond .okay 0
  if off < 0x40 then
    s.updMbx page (fun m =>
      if m.state = .busy then m
      else if n = .b64 then { m with req := data }
      else { m with req := putBits m.req (8 * off + 63) (8 * off) (bits data 63 0) })
  else if off = 0x40 then s.mbxGo page (data.extractLsb' 0 32)
  else s

/-- MBX_STATUS (R483). -/
def Mbx.statusWord (m : Mbx) : W64 :=
  BitVec.ofNat 64 ((match m.state with | .idle => 0 | .busy => 1 | .done => 2) + m.status.toNat * 2 ^ 8 + m.seq.toNat * 2 ^ 32)

/-- The scheduler core serves a read of a mailbox page (R480). -/
def State.mbxRead (s : State) (page : BitVec 8) (off : Nat) (n : HostSize) : State :=
  let m := s.mbx page
  let word (x : W512) (o : Nat) : W512 := if n = .b64 then x else (x.extractLsb' (8 * o) 64).setWidth 512
  s.respond .okay
    (if off < 0x40 then word m.req off else if off = 0x80 then m.statusWord.setWidth 512
     else if 0xC0 ≤ off then word m.resp (off - 0xC0) else 0)

/-- The scheduler core serves an access of a mailbox page. -/
def State.mbxServeOne (s : State) (a : HostAccess) : State :=
  match a with
  | .write w => s.mbxWrite (BitVec.ofNat 8 (w.addr.toNat / 0x1000)) (w.addr.toNat % 0x1000) w.size w.data
  | .read r => s.mbxRead (BitVec.ofNat 8 (r.addr.toNat / 0x1000)) (r.addr.toNat % 0x1000) r.size

/-- The mailbox page that an access addresses. -/
def accessPage (a : HostAccess) : Nat :=
  match a with | .write w => w.addr.toNat / 0x1000 % 256 | .read r => r.addr.toNat / 0x1000 % 256

/-- The scheduler core serves the mailbox: it runs, and no front-end reset is in progress. -/
def State.servesMbx (s : State) : Bool := (s.proc procSched).state = .running && !s.fwc.feBusy

/-- An access of a mailbox page of an allowed size: served by the scheduler core, or waiting for it (R32, R558). -/
def State.mbxAccess (s : State) (a : HostAccess) : State :=
  if s.servesMbx then s.mbxServeOne a else s.waitAccess a s.fc

/-! ## The commands -/

/-- A write of `v` to MBX_GO of a page whose request `mine` selects; nothing for any other. -/
def State.mbxRow (s : State) (page : BitVec 8) (v : W64) (mine : W512 → Bool) : State :=
  if !mine (s.mbx page).req then s
  else
    let a := hostWr (mbxOffset page.toNat 0x40) 8 v.toNat
    s.host a (fun s => s.mbxAccess a)

/-- A request that waits for its image is carried out once that has been read, and the scheduler core runs (R483). -/
def State.mbxImage (s : State) (page : BitVec 8) (v : W64) (code : Nat) : State :=
  let m := s.mbx page
  let ready := m.awaiting && bits m.req 7 0 = code && v.extractLsb' 0 32 = m.seq && s.servesMbx && s.inRun
  match s.fwc.imageRead (some page) with
  | some image =>
    if !ready then s
    else match if code = 0x02 then s.spanWanted page image else none with
      | some k => s.spanRead page k
      | none => s.carryOut page image
  | none => if ready && (s.fwc.readOf (some page)).isNone then s.carryOut page none else s

/-- The two steps of a request that names an image: the write of MBX_GO starts the reads of the image, unless none is needed,
and the request is carried out once they have been answered. -/
def State.mbxImageRow (s : State) (page : BitVec 8) (v : W64) (code : Nat) (step : ImageStep) : State :=
  match step with
  | .read =>
    let t := s.mbxRow page v (fun r => bits r 7 0 = code)
    if (s.mbx page).awaiting then t else t.mbxImage page v code
  | .check => s.mbxImage page v code

/-- HELLO (R484). -/
def execHello (page : BitVec 8) (v : W64) (s : State) : Host.Outcome State Fault Refusal :=
  .next (s.mbxRow page v (fun r => bits r 7 0 = 0x01))
/-- RT_TABLE_LOAD (R254, R255). -/
def execRtTableLoad (page : BitVec 8) (v : W64) (image : ImageStep) (s : State) : Host.Outcome State Fault Refusal :=
  .next (s.mbxImageRow page v 0x02 image)
/-- SHARE_CFG (R270). -/
def execShareCfg (page : BitVec 8) (v : W64) (s : State) : Host.Outcome State Fault Refusal :=
  .next (s.mbxRow page v (fun r => bits r 7 0 = 0x03))
/-- SG_CFG (R271). -/
def execSgCfg (page : BitVec 8) (v : W64) (s : State) : Host.Outcome State Fault Refusal :=
  .next (s.mbxRow page v (fun r => bits r 7 0 = 0x04))
/-- PART_ASSIGN (R274, R275). -/
def execPartAssign (page : BitVec 8) (v : W64) (s : State) : Host.Outcome State Fault Refusal :=
  .next (s.mbxRow page v (fun r => bits r 7 0 = 0x05))
/-- PART_REGULATE (R276). -/
def execPartRegulate (page : BitVec 8) (v : W64) (s : State) : Host.Outcome State Fault Refusal :=
  .next (s.mbxRow page v (fun r => bits r 7 0 = 0x06))
/-- PROG_QUERY (R485). -/
def execProgQuery (page : BitVec 8) (v : W64) (s : State) : Host.Outcome State Fault Refusal :=
  .next (s.mbxRow page v (fun r => bits r 7 0 = 0x07))
/-- UCODE_PATCH (R211). -/
def execUcodePatch (page : BitVec 8) (v : W64) (image : ImageStep) (s : State) : Host.Outcome State Fault Refusal :=
  .next (s.mbxImageRow page v 0x08 image)
/-- LEDGER_RESTORE (R551). -/
def execLedgerRestore (page : BitVec 8) (v : W64) (s : State) : Host.Outcome State Fault Refusal :=
  .next (s.mbxRow page v (fun r => bits r 7 0 = 0x09))
/-- LEDGER_FLUSH (R551). -/
def execLedgerFlush (page : BitVec 8) (v : W64) (s : State) : Host.Outcome State Fault Refusal :=
  .next (s.mbxRow page v (fun r => bits r 7 0 = 0x0A))
/-- WALLCLOCK (R551). -/
def execWallclock (page : BitVec 8) (v : W64) (s : State) : Host.Outcome State Fault Refusal :=
  .next (s.mbxRow page v (fun r => bits r 7 0 = 0x0B))
/-- DUMP_AREA (R551). -/
def execDumpArea (page : BitVec 8) (v : W64) (s : State) : Host.Outcome State Fault Refusal :=
  .next (s.mbxRow page v (fun r => bits r 7 0 = 0x0C))
/-- POWER_POLICY (R519). -/
def execPowerPolicy (page : BitVec 8) (v : W64) (s : State) : Host.Outcome State Fault Refusal :=
  .next (s.mbxRow page v (fun r => bits r 7 0 = 0x0D))
/-- MBX_GO_RESERVED_CODE (R483): a reserved code, or a non-zero reserved bit. -/
def execMbxGoReservedCode (page : BitVec 8) (v : W64) (s : State) : Host.Outcome State Fault Refusal :=
  .next (s.mbxRow page v (fun r => !requestAssigned (bits r 7 0) || !requestForm r))

end Sys2Proof.Machine
end

