-- ==== Sys2Proof/Machine/Irq.lean ====
section
/-! DEFINITION. The interrupt controller (R495 to R511): eligibility, claims and completions, the pending and enable words,
host vectors and their messages (R52 to R54). -/

namespace Sys2Proof.Machine

/-! ## Eligibility (R498, R504) -/

/-- Sources that an event can raise (R496). -/
def raisable (clusters n : Nat) : Bool :=
  (n ≤ 0xF && n ≠ 7) || (0x100 ≤ n && n < 0x200) || (0x200 ≤ n && n < 0x200 + clusters) || (0x300 ≤ n && n < 0x3FF)

/-- The source waits for delivery: pending and not in service. -/
def Irq.live (q : Irq) (n : Nat) : Bool := q.pending.getLsbD n && !q.inService.getLsbD n

/-- Sources whose enable bit has changed less than 12 fc ago (R504). -/
def State.inGrace (s : State) (n : Nat) : Bool := s.irq.grace.any (fun g => g.1 = n && decide (s.fc ≤ g.2))

/-- The enable of a source for host vectors; a free value while a change of it takes effect (R504). -/
def State.hostEnabled (s : State) (n : Nat) : Bool :=
  if s.inGrace n then (Config.freeWord (s.free + n / 64)).getLsbD (n % 64) else s.irq.enable.getLsbD n

/-- The lowest-numbered source eligible for host vector `v` (R498). -/
def State.hostEligible (s : State) (v : BitVec 3) : Option Nat :=
  (s.irq.routes.find? (fun p => p.1 < 0x3FF && p.2.host.getLsbD v.toNat && s.irq.live p.1 && s.hostEnabled p.1)).map (·.1)

/-- The free values used for eligibility are used up. -/
def State.spendGrace (s : State) : State := if s.irq.grace.isEmpty then s else { s with free := s.free + 16 }

/-- A delivery of source `n` to a host vector: a disabled source is delivered at most once (R504). -/
def State.delivered (s : State) (n : Nat) : State :=
  if s.irq.enable.getLsbD n then s else { s with irq := { s.irq with grace := s.irq.grace.filter (fun g => g.1 ≠ n) } }

/-- The route names processor `p` (R497). -/
def Route.names (r : Route) (p : Nat) : Bool :=
  if p = procSec then r.sec else if p = procPower then r.pwr else if p = procSched then r.sched
  else r.clsEn && r.cluster.toNat = p - 3

/-- The lowest-numbered source eligible for firmware processor `p` (R498). -/
def State.fwEligible (s : State) (p : Nat) : Option Nat :=
  (s.irq.routes.find? (fun r => r.1 < 0x3FF && r.2.names p && s.irq.live r.1 && (s.proc p).enable.getLsbD r.1)).map (·.1)

/-- A claim takes source `n` (R499): no longer pending, and in service. -/
def State.takeSource (s : State) (n : Nat) : State :=
  let m : BitVec 1024 := BitVec.twoPow 1024 n
  { s with irq := { s.irq with pending := s.irq.pending &&& ~~~m, inService := s.irq.inService ||| m } }

/-- A completion ends the service of source `n` (R500). -/
def State.endService (s : State) (n : Nat) : State :=
  { s with irq := { s.irq with inService := s.irq.inService &&& ~~~(BitVec.twoPow 1024 n) } }

/-- A completion of a source that the target does not hold is ignored and recorded (R500, R546). -/
def State.completeBad (s : State) (n : Nat) : State := s.logHw 0x000B 0x00 none none n

/-- FE_CYCLES of the last write of the IRQ block (R505). -/
def State.irqWritten (s : State) : State := { s with irq := { s.irq with writeFc := some s.fc } }

/-! ## The host's registers of the controller -/

/-- A claim by host vector `v` (R499, R500, R502), with the number it returns. -/
def State.claim (s : State) (v : BitVec 3) : State × Nat :=
  if (s.vec v).state = .serving then (s, 0x3FF)
  else
    let r := s.hostEligible v
    let s := s.spendGrace
    match r with
    | none => (if (s.vec v).state = .sent then s.updVec v (fun x => { x with state := .idle }) else s, 0x3FF)
    | some n => (((s.takeSource n).delivered n).updVec v (fun x => { x with
        state := .serving, held := some (BitVec.ofNat 10 n) }), n)

/-- A read of IRQ_CLAIMv. -/
def State.claimRead (s : State) (v : BitVec 3) : State :=
  let r := s.claim v
  r.1.respond .okay (BitVec.ofNat 512 r.2)

/-- A write of IRQ_COMPLETEv (R500, R502). -/
def State.completeWrite (s : State) (v : BitVec 3) (value : W64) : State :=
  let n := value.extractLsb' 0 10
  let s := s.irqWritten
  if (s.vec v).state = .serving && (s.vec v).held = some n then
    (s.endService n.toNat).updVec v (fun x => { x with state := .idle, held := none })
  else s.completeBad n.toNat

/-- A read of IRQ_SYNC (R505, R509). -/
def State.syncRead (s : State) : State :=
  let t := match s.irq.writeFc with | some f => f + 13 | none => 0
  { s with fe := { s.fe with resp := { resp := .okay, data := 0, notBefore := max s.fc t, id := s.fe.hostId } } }

/-- Word `k` of a 1,024-bit register replaced (R508). -/
def putWord (x : BitVec 1024) (k : Nat) (v : W64) : BitVec 1024 := putBits x (64 * k + 63) (64 * k) v.toNat

/-- Source 0x3FF has no bit (R495, R508). -/
def noSpurious (x : BitVec 1024) : BitVec 1024 := x &&& ~~~(BitVec.twoPow 1024 0x3FF)

/-- A write of IRQ_PENDINGk; sources in `events` have an event in the same cycle, which wins (R503, R558). -/
def State.pendingWrite (s : State) (k : BitVec 4) (value events : W64) : State :=
  let s := { s.irqWritten with irq := { s.irqWritten.irq with pending := noSpurious (putWord s.irq.pending k.toNat value) } }
  s.each ((List.range 64).filter (fun i => events.getLsbD i && raisable s.build.clusters (64 * k.toNat + i)))
    (fun s i => s.raise (64 * k.toNat + i))

/-- A write of IRQ_ENABLEk (R503, R504). -/
def State.enableWrite (s : State) (k : BitVec 4) (value : W64) : State :=
  let new := noSpurious (putWord s.irq.enable k.toNat value)
  let changed := (List.range 64).filter (fun i => new.getLsbD (64 * k.toNat + i) ≠ s.irq.enable.getLsbD (64 * k.toNat + i))
  let marks := changed.map (fun i => (64 * k.toNat + i, s.fc + 12))
  let old := s.irq.grace.filter (fun g => decide (s.fc ≤ g.2) && !marks.any (fun m => m.1 = g.1))
  { s.irqWritten with irq := { s.irqWritten.irq with enable := new, grace := old ++ marks } }

/-- A write of IRQ_VEC_ADDRv, ignored while the vector is SENT (R510). -/
def State.vecAddrWrite (s : State) (v : BitVec 3) (value : W64) : State :=
  let s := s.irqWritten
  if (s.vec v).state = .sent then s else s.updVec v (fun x => { x with addr := value.extractLsb' 2 50 })

/-- A write of IRQ_VEC_CTRLv (R510). -/
def State.vecCtrlWrite (s : State) (v : BitVec 3) (value : W64) : State := s.irqWritten.updVec v (fun x => { x with en := bit value 0 })

/-- A write of IRQ_ROUTEs changes HOST (R497). -/
def State.routeWrite (s : State) (n : Nat) (value : W64) : State :=
  { s.irqWritten with irq := { s.irqWritten.irq with
      routes := tupd {} s.irq.routes n (fun r => { r with host := value.extractLsb' 56 8 }) } }

/-- Offset of an IRQ register in the host window (R554). -/
def irqOffset (off : Nat) : Nat := 0x60000 + off

/-- IRQ_CLAIM (R499, R511). -/
def execIrqClaim (v : BitVec 3) (s : State) : Host.Outcome State Fault Refusal :=
  .next (s.host (hostRd (irqOffset (0x300 + 8 * v.toNat))) (fun s => s.claimRead v))
/-- IRQ_COMPLETE (R500, R511). -/
def execIrqComplete (v : BitVec 3) (value : W64) (s : State) : Host.Outcome State Fault Refusal :=
  .next (s.host (hostWr (irqOffset (0x340 + 8 * v.toNat)) 8 value.toNat) (fun s => (s.completeWrite v value).respond .okay 0))
/-- IRQ_SYNC (R505, R509). -/
def execIrqSync (s : State) : Host.Outcome State Fault Refusal := .next (s.host (hostRd (irqOffset 0x180)) (fun s => s.syncRead))
/-- IRQ_PENDING_WRITE (R503). -/
def execIrqPendingWrite (k : BitVec 4) (value events : W64) (s : State) : Host.Outcome State Fault Refusal :=
  .next (s.host (hostWr (irqOffset (8 * k.toNat)) 8 value.toNat) (fun s => (s.pendingWrite k value events).respond .okay 0))
/-- IRQ_ENABLE_WRITE (R504). -/
def execIrqEnableWrite (k : BitVec 4) (value : W64) (s : State) : Host.Outcome State Fault Refusal :=
  .next (s.host (hostWr (irqOffset (0x80 + 8 * k.toNat)) 8 value.toNat) (fun s => (s.enableWrite k value).respond .okay 0))

/-! ## Messages (R52 to R54, R502) -/

/-- The message of a vector goes out (R52): four bytes on interface 0.0. -/
def State.sendMessage (s : State) (v : BitVec 3) (source : BitVec 10) : State :=
  State.issueTxn (s.updVec v (fun x => { x with msgOut := true, msgSource := source, msgFc := s.fc, failedFc := none }))
    { write := true, ifc := 0, epoch := s.mp.epoch, source := srcIrq, slot := 0, pa := 4 * (s.vec v).addr.toNat, len := 4
      prot := 3, cache := 0, qos := 0xF, retries := 0, data := toBytes 4 source.toNat
      purpose := .irqMessage v.toNat, fc := s.fc }

/-- VECTOR_MESSAGE (R502): an IDLE vector with EN and an eligible source issues one message and is SENT; none while an earlier
message awaits its response. -/
def execVectorMessage (v : BitVec 3) (s : State) : Host.Outcome State Fault Refusal :=
  let x := s.vec v
  .next (if !x.en || x.state ≠ .idle || x.msgOut || s.fwc.feBusy || s.fwc.wholeBusy.isSome || s.pins.fRst || s.pins.aoRst ||
        (s.pwr.state ≠ .run && s.pwr.state ≠ .idle) then s
    else
      let r := s.hostEligible v
      match r with
      | none => s.spendGrace
      | some n => State.sendMessage ((s.spendGrace.delivered n).updVec v (fun x => { x with state := .sent })) v (BitVec.ofNat 10 n))

/-- IRQ_MESSAGE_RESEND (R54): 65,536 fc after a failure the message goes out again with the same data. -/
def execIrqMessageResend (v : BitVec 3) (s : State) : Host.Outcome State Fault Refusal :=
  .next (match (s.vec v).failedFc with
    | none => s
    | some f => if f + 65536 ≤ s.fc && !s.fwc.feBusy && s.fwc.wholeBusy.isNone then s.sendMessage v (s.vec v).msgSource else s)

/-- MESSAGE_AWAIT_TIMEOUT (R507, R514): during a poll, a message that has awaited its response for 65,536 fc refuses the
entry. -/
def execMessageAwaitTimeout (v : BitVec 3) (s : State) : Host.Outcome State Fault Refusal :=
  .next (if s.pwr.phase = .polling && (s.vec v).msgOut && decide ((s.vec v).msgFc + 65536 ≤ s.fc) then
      State.nextPoll (s.abandonEntry 5)
    else s)

/-! ## Firmware targets (R501) -/

/-- FIRMWARE_CLAIM (R499 to R501): a running processor that holds no source takes its lowest eligible one. -/
def execFirmwareClaim (p : BitVec 7) (s : State) : Host.Outcome State Fault Refusal :=
  let x := s.proc p.toNat
  .next (if x.state ≠ .running || x.held.isSome then s
    else match s.fwEligible p.toNat with
      | none => s
      | some n => (s.takeSource n).updProc p.toNat (fun x => { x with held := some (BitVec.ofNat 10 n) }))

/-- FIRMWARE_COMPLETE (R500, R501). -/
def execFirmwareComplete (p : BitVec 7) (source : BitVec 10) (s : State) : Host.Outcome State Fault Refusal :=
  let x := s.proc p.toNat
  .next (if x.state ≠ .running then s
    else if x.held = some source then (s.endService source.toNat).updProc p.toNat (fun x => { x with held := none })
    else s.completeBad source.toNat)

end Sys2Proof.Machine
end

