-- ==== Sys2Proof/Machine/HostPort.lean ====
section
/-! DEFINITION. The host subordinate port (R26 to R33) and the register and window map (R553 to R561): which accesses a window
takes, what each register reads, what a write of it does, and the commands that are host accesses. -/

namespace Sys2Proof.Machine

/-! ## Writes of the global window -/

/-- The offset names a register of the build (R560, R556). -/
def State.isRegister (s : State) (off : Nat) : Bool :=
  let procs := 8 * (s.build.clusters + 3)
  let inR (a b : Nat) : Bool := decide (a ≤ off) && decide (off < b)
  [0x0, 0x8, 0x100, 0x200, 0x208, 0x210, 0xF000, 0xF008, 0x10000, 0x10008, 0x20100, 0x3F000, 0x3F008, 0x3F010, 0x60180, 0x80000,
   0x90000, 0x90008, 0x90010, 0xD0180, 0xD01F8].contains off ||
  inR 0x10100 0x10118 || inR 0x10200 0x10210 || inR 0x10300 0x10318 || inR 0x20000 0x20030 || inR 0x20200 0x20240 ||
  inR 0x21000 0x22000 || inR 0x30000 0x30020 || inR 0x30100 (0x30100 + 8 * s.build.haulEngines) || inR 0x40000 0x40030 ||
  inR 0x40100 (0x40100 + 8 * s.build.swRegions) || inR 0x50000 0x50028 || inR 0x60000 0x60180 || inR 0x60200 0x60280 ||
  inR 0x60300 0x60380 || inR 0x62000 0x63FF8 || inR 0x70000 0x70018 || inR 0x80100 (0x80100 + procs) || inR 0x90040 0x90060 ||
  inR 0x90100 (0x90100 + procs) || inR 0x90400 0x90430 || inR 0xA0000 0xA0828 || inR 0xA1000 0xA2000 || inR 0xD0000 0xD00FC ||
  inR 0xD0100 0xD0120 || inR 0xD0140 0xD0180 ||
  (inR 0xB0000 (0xB0000 + 0x400 * s.build.clusters) && decide (0x100 ≤ off % 0x400) && decide (off % 0x400 < 0x148))

/-- Bits 63:32 of the register hold an RW or RWL field (R555). -/
def highField (off : Nat) : Bool :=
  [0x10300, 0x50000, 0x50008, 0x90000, 0x90040, 0x90048].contains off || (0x40100 ≤ off && off < 0x40300) ||
  (0x60000 ≤ off && off < 0x60100) || (0x60200 ≤ off && off < 0x60280 && off % 16 = 0) || (0x62000 ≤ off && off < 0x63FF8)

/-- A write of LND_PROG_BACKING (R347), ignored once the block has reached READY. -/
def State.backingWrite (s : State) (v : W64) : State :=
  if s.fwc.state = .ready || s.fwc.state = .outOfService then s
  else { s with lnd := { s.lnd with
    backPfn := v.extractLsb' 24 40, backPages := v.extractLsb' 0 24, freePages := v.extractLsb' 0 24 } }

/-- A write of XLT_FLT_RING (R439, R441). -/
def State.faultRingWrite (s : State) (v : W64) : State :=
  let n := bits v 4 0
  let held := s.xlt.held.any (fun r => r.unposted)
  if held || s.xlt.posting.isSome || !(n = 0 || (7 ≤ n && n ≤ 16)) then s.logHw 0x0009 0x00 none none v.toNat
  else State.postNext { s with xlt := { s.xlt with
    ringPfn := v.extractLsb' 24 40, ringLog2 := v.extractLsb' 0 5, wp := 0, rp := 0 } }

/-- A write of XLT_FLT_PTRS.RP (R439): records held are posted into the room it frees (R437). -/
def State.faultRpWrite (s : State) (v : W64) : State :=
  let rp : W32 := v.extractLsb' 32 32
  if 2 ^ s.xlt.ringLog2.toNat < (s.xlt.wp - rp).toNat then s.logHw 0x0009 0x00 none none v.toNat
  else State.postNext { s with xlt := { s.xlt with rp } }

/-- A write of FWC_LOG_RING (R493). -/
def State.logRingWrite (s : State) (v : W64) : State :=
  { s with fwc := { s.fwc with logPfn := v.extractLsb' 24 40, logLog2 := v.extractLsb' 0 5, logWp := 0, logRp := 0 } }

/-- A write of FWC_LOG_PTRS.RP, ignored when out of range (R493). -/
def State.logRpWrite (s : State) (v : W64) : State :=
  let rp : W32 := v.extractLsb' 32 32
  if 2 ^ s.fwc.logSize < (s.fwc.logWp - rp).toNat then s else { s with fwc := { s.fwc with logRp := rp } }

/-- FWC_RESET.WHOLE (R538, R536). -/
def State.askWhole (s : State) : State :=
  State.ask { s with fwc := { s.fwc with resetWhole := true, stamps := [], escTotal := 0 } } kindWhole 0x0A

/-- FWC_RESET.FRONT_END, ignored unless STATE is READY (R538). -/
def State.askFrontEnd (s : State) : State :=
  if s.fwc.state = .ready then State.ask { s with fwc := { s.fwc with resetFe := true } } kindFrontEnd 0x0A else s

/-- A write of FWC_RESET (R538). -/
def State.resetWrite (s : State) (v : W64) : State :=
  let s := if bit v 1 then s.askWhole else s
  if bit v 0 then s.askFrontEnd else s

/-- A write of a CLS page (R103, R526). -/
def State.clsWrite (s : State) (c : BitVec 6) (off : Nat) (v : W64) : State :=
  if off = 0x108 then (if s.w1c (.elinkErr c.toNat) true (bit v 0) then s else s.updCluster c (fun x => { x with err := none }))
  else if off = 0x138 then s.updCluster c (fun x => { x with wdogLog2 := v.extractLsb' 0 8 })
  else s

/-- A write of the IRQ block (R503, R497, R510, R511). -/
def State.irqWrite (s : State) (off : Nat) (v : W64) : State :=
  if off < 0x80 then s.pendingWrite (BitVec.ofNat 4 (off / 8)) v 0
  else if off < 0x100 then s.enableWrite (BitVec.ofNat 4 ((off - 0x80) / 8)) v
  else if 0x200 ≤ off && off < 0x280 then
    let n := BitVec.ofNat 3 ((off - 0x200) / 16)
    if off % 16 = 0 then s.vecAddrWrite n v else s.vecCtrlWrite n v
  else if 0x340 ≤ off && off < 0x380 then s.completeWrite (BitVec.ofNat 3 ((off - 0x340) / 8)) v
  else if 0x2000 ≤ off && off < 0x3FF8 then s.routeWrite ((off - 0x2000) / 8) v
  else s

/-- A write of 64 bits to a register of the global window: only its RW, W1C, W1S and WO fields change (R556); a flag that hardware
sets in the same cycle stays (R558). -/
def State.regWrite (s : State) (off : Nat) (v : W64) : State :=
  match off with
  | 0x00208 => { s with uc := { s.uc with
      runaway := s.w1c .runaway s.uc.runaway (bit v 2), csUncorr := s.w1c .csUncorr s.uc.csUncorr (bit v 3) } }
  | 0x0F000 => { s with fe := { s.fe with fnEnable := bit v 0, chipNum := v.extractLsb' 16 16 } }
  | 0x10300 => s.backingWrite v
  | 0x30018 => { s with hau := { s.hau with
      flushed := s.w1c .fmtFlushed s.hau.flushed (bit v 0), overflow := s.w1c .fmtOverflow s.hau.overflow (bit v 1) } }
  | 0x3F000 => { s with mp := { s.mp with retryLimit := v.extractLsb' 0 4, drainLog2 := v.extractLsb' 24 8 } }
  | 0x40008 => { s with dck := { s.dck with failThresh := v.extractLsb' 0 8, passLog2 := v.extractLsb' 24 8 } }
  | 0x50000 => s.faultRingWrite v
  | 0x50008 => s.faultRpWrite v
  | 0x50010 => { s with xlt := { s.xlt with
      overflow := s.w1c .fltOverflow s.xlt.overflow (bit v 1), ringErr := s.w1c .fltRingErr s.xlt.ringErr (bit v 2) } }
  | 0x90000 => if s.fwc.state = .idle then
      { s with fwc := { s.fwc with bundlePfn := v.extractLsb' 24 40, bundlePages := v.extractLsb' 0 13 } } else s
  | 0x90008 => s.startFirmware v
  | 0x90040 => s.logRingWrite v
  | 0x90048 => s.logRpWrite v
  | 0x90058 => { s with fwc := { s.fwc with trace := v.extractLsb' 0 8 } }
  | 0x90400 => s.resetWrite v
  | 0x90410 => { s with fwc := { s.fwc with limit := v.extractLsb' 0 4, winLog2 := v.extractLsb' 8 6 } }
  | _ =>
    if 0x40100 ≤ off && off < 0x40300 then s.writeRegion ((off - 0x40100) / 8) v
    else if 0x60000 ≤ off && off < 0x70000 then s.irqWrite (off - 0x60000) v
    else if 0xB0000 ≤ off && off < 0xB0000 + 0x400 * s.build.clusters then
      s.clsWrite (BitVec.ofNat 6 ((off - 0xB0000) / 0x400)) (off % 0x400) v
    else s

/-! ## The windows (R553, R555) -/

/-- The host port performs a write (R28). -/
def writeForm (w : HostWrite) : Bool :=
  w.lenZero && w.strobesExact && w.atop = 0 && !w.lock && w.size ≠ .other &&
  w.addr.toNat % (match w.size with | .b4 => 4 | .b8 => 8 | _ => 64) = 0

/-- The host port performs a read (R28). -/
def readForm (r : HostRead) : Bool :=
  r.lenZero && r.size ≠ .other && r.addr.toNat % (match r.size with | .b4 => 4 | .b8 => 8 | _ => 64) = 0

/-- A write of the global window (R555, R556). -/
def State.globalWrite (s : State) (a : Nat) (n : HostSize) (v : W64) : State :=
  match n with
  | .b8 => (s.regWrite a v).respond .okay 0
  | .b4 =>
    if 0xD0000 ≤ a && a < 0xD0100 then s.respond .okay 0
    else if !s.isRegister (a - a % 8) then s.respond .okay 0
    else if a % 8 = 4 || highField a then s.respond .slverr 0
    else (s.regWrite a (v &&& 0xFFFFFFFF)).respond .okay 0
  | _ => s.respond .slverr 0

/-- A write of a doorbell page (R138). -/
def State.doorbellWrite (s : State) (q : BitVec 14) (off : Nat) (n : HostSize) (data : W512) : State :=
  let word := data.extractLsb' 0 64
  let ok := n = .b4 || (n = .b8 && bits word 63 32 = 0)
  if off = 0 && n = .b64 then (s.atOpenQueue q 0 (fun s => s.inlinePacket q data)).respond .okay 0
  else if off = 0x40 && ok then (s.atOpenQueue q 0x40 (fun s => s.wpDoorbell q (data.extractLsb' 0 32))).respond .okay 0
  else if off = 0x80 && ok then (s.atOpenQueue q 0x80 (fun s => s.cplRpDoorbell q (data.extractLsb' 0 32))).respond .okay 0
  else s.respond .slverr 0

/-- A host write that the port performs, by its window (R553, R555). -/
def State.hostWrite (s : State) (w : HostWrite) : State :=
  let a := w.addr.toNat
  let v : W64 := w.data.extractLsb' 0 64
  if !writeForm w then s.respond .slverr 0
  else if a < 0x100000 then s.globalWrite a w.size v
  else if a < 0x200000 then
    if w.size = .b8 && a % 16 = 0 then (s.hostSignal (BitVec.ofNat 16 ((a - 0x100000) / 16)) v).respond .okay 0
    else s.respond .slverr 0
  else if a < 0x300000 then
    if mbxWriteOk (a % 0x1000) w.size then s.mbxAccess (.write w) else s.respond .slverr 0
  else if a < 0x4000000 then s.respond .okay 0
  else s.doorbellWrite (BitVec.ofNat 14 ((a - 0x4000000) / 0x1000)) (a % 0x1000) w.size w.data

/-- The status view of a queue slot (R144 to R147). -/
def State.statusView (s : State) (q : BitVec 14) : W512 :=
  let x := s.queue q
  if s.build.queueSlots ≤ q.toNat then 0
  else
    let qs := match x.state with | .free => 0 | .open_ => 1 | .draining => 2 | .failed => 3
    let fs := match x.fstate with | .parked => 0 | .woken => 1 | .fetching => 2 | .blocked => 3 | .gap => 4 | .stopped => 5
    let bl := match x.block with | .none_ => 0 | .landing => 1 | .quota => 2 | .refs => 3 | .cpl => 4 | .serial => 5
    let serial := match x.cell with | some u => (pktSerial (unitPkt u)).toNat | none => 0
    respWords [packW [(x.wp.toNat, 0), (x.rp.toNat, 32)], packW [(x.expSerial.toNat, 0), (serial, 32)],
      packW [(b2n (s.tmoArmed q), 1), (b2n x.dbSeen, 2), (b2n x.cell.isSome, 3), (b2n x.cplLost, 5), (qs, 6), (fs, 9), (bl, 12),
             ((s.queueEntries q).length, 46)],
      packW [(x.dupCnt.toNat, 0)], packW [(x.inlRefused.toNat, 0), (x.staleWp.toNat, 32)],
      packW [(x.cplWp.toNat, 0), (x.cplRp.toNat, 32)]]

/-- BLZ_STATE (R230). -/
def Blaze.stateReg (b : Blaze) : W64 :=
  packW [(b2n b.error, 0), (b2n b.configured, 1), (b2n b.mirrorEn, 2), (b2n b.anyPart, 3), (b2n b.propagated, 4),
         (b2n b.mirrorLost, 5), (b.owner.toNat, 12), (b.errStatus.toNat, 36), (b.errContext.toNat, 44)]

/-- `n` of 4, 8 or 64 bytes of a 64-byte view from offset `o`. -/
def viewPart (x : W512) (o : Nat) (n : HostSize) : W512 :=
  match n with
  | .b4 => (x.extractLsb' (8 * o) 32).setWidth 512
  | .b8 => (x.extractLsb' (8 * o) 64).setWidth 512
  | _ => x

/-- A read of the global window (R555); a read of IRQ_CLAIMv or of either half is a claim (R511). -/
def State.globalRead (s : State) (a : Nat) (n : HostSize) : State :=
  if n = .b64 then s.respond .slverr 0
  else if 0x60300 ≤ a && a < 0x60340 then
    let r := s.claim (BitVec.ofNat 3 ((a - 0x60300) / 8))
    r.1.respond .okay (if a % 8 = 4 then 0 else BitVec.ofNat 512 r.2)
  else if a - a % 8 = 0x60180 then s.syncRead
  else
    let x := (s.regRead (a - a % 8)).setWidth 512
    let s : State := if a / 0x10000 = 12 && s.pins.testMode then { s with free := s.free + 1 } else s
    s.respond .okay (viewPart x (a % 8) n)

/-- A host read that the port performs, by its window (R553, R555). -/
def State.hostRead (s : State) (r : HostRead) : State :=
  let a := r.addr.toNat
  if !readForm r then s.respond .slverr 0
  else if a < 0x100000 then s.globalRead a r.size
  else if a < 0x200000 then
    let b := s.blaze (BitVec.ofNat 16 ((a - 0x100000) / 16))
    if r.size ≠ .b8 then s.respond .slverr 0
    else s.respond .okay ((if a % 16 = 0 then b.value else b.stateReg).setWidth 512)
  else if a < 0x300000 then
    if mbxReadOk (a % 0x1000) r.size then s.mbxAccess (.read r) else s.respond .slverr 0
  else if a < 0x4000000 then
    if s.pins.testMode then
      State.respond { s with free := s.free + 8 } .okay
        (viewPart (respWords ((List.range 8).map (fun i => Config.freeWord (s.free + i)))) 0 r.size)
    else s.respond .okay 0
  else
    let off := a % 0x1000
    let q := BitVec.ofNat 14 ((a - 0x4000000) / 0x1000)
    s.respond .okay (if off < 0x40 then viewPart (s.statusView q) off r.size else 0)

/-- An access that the port serves. -/
def State.serve (s : State) (a : HostAccess) : State :=
  match a with
  | .write w => s.hostWrite w
  | .read r => s.hostRead r

/-- The access is of a mailbox page, in a form that the scheduler core serves (R28, R480). -/
def isMailbox : HostAccess → Bool
  | .write w => writeForm w && decide (0x200000 ≤ w.addr.toNat) && decide (w.addr.toNat < 0x300000) && mbxWriteOk (w.addr.toNat % 0x1000) w.size
  | .read r => readForm r && decide (0x200000 ≤ r.addr.toNat) && decide (r.addr.toNat < 0x300000) && mbxReadOk (r.addr.toNat % 0x1000) r.size

/-- The accesses held in SLEEP are served, oldest first (R33, R518), in their turn on each channel (R31). -/
def State.serveHeld (s : State) : State :=
  let l := s.pwr.held
  State.each { s with pwr := { s.pwr with held := [] } } l (fun s a =>
    if s.behind a then s.waitAccess a s.fc else (s.forAccess a).serve a)

/-- The accesses that have waited are served, oldest first, up to a mailbox access that waits on for the scheduler core and
whatever follows it on its channel (R30, R31). -/
def State.mbxServe (s : State) : State :=
  let l := s.fwc.mbxWait
  State.each { s with fwc := { s.fwc with mbxWait := [] } } l (fun s a =>
    if s.behind a.1 || (isMailbox a.1 && !s.servesMbx) then s.waitAccess a.1 a.2 else (s.forAccess a.1).serve a.1)

/-- MAILBOX_ACCESS_TIMEOUT (R32): the oldest access of a page that has waited 16,384 fc receives SLVERR, with no effect; what
has waited behind it is served. -/
def execMailboxAccessTimeout (page : BitVec 8) (s : State) : Host.Outcome State Fault Refusal :=
  .next (match s.fwc.mbxWait.find? (fun a => isMailbox a.1 && accessPage a.1 = page.toNat && decide (a.2 + 16384 ≤ s.fc)) with
    | none => s
    | some a => State.mbxServe (State.respond (State.forAccess { s with fwc := { s.fwc with mbxWait := s.fwc.mbxWait.erase a } } a.1) .slverr 0))

/-! ## The commands -/

/-- INLINE_DOORBELL (R140, R138). -/
def execInlineDoorbell (q : BitVec 14) (unit : W512) (s : State) : Host.Outcome State Fault Refusal :=
  .next (s.host (hostWr (doorbellOffset q 0) 64 unit.toNat) (fun s => s.doorbellWrite q 0 .b64 unit))
/-- WRITE_POINTER_DOORBELL (R139, R138). -/
def execWritePointerDoorbell (q : BitVec 14) (wp : W32) (s : State) : Host.Outcome State Fault Refusal :=
  .next (s.host (hostWr (doorbellOffset q 0x40) 4 wp.toNat) (fun s => s.doorbellWrite q 0x40 .b4 (wp.setWidth 512)))
/-- COMPLETION_READ_POINTER_DOORBELL (R161, R138). -/
def execCompletionReadPointerDoorbell (q : BitVec 14) (rp : W32) (s : State) : Host.Outcome State Fault Refusal :=
  .next (s.host (hostWr (doorbellOffset q 0x80) 4 rp.toNat) (fun s => s.doorbellWrite q 0x80 .b4 (rp.setWidth 512)))
/-- SLEEP_HOST_ACCESS (R33): an access accepted in SLEEP is held, and is a wake event. -/
def execSleepHostAccess (a : HostAccess) (s : State) : Host.Outcome State Fault Refusal :=
  .next (if s.hostHolds then s.holdAccess a else s)
/-- HOST_SIGNAL (R229). -/
def execHostSignal (n : BitVec 16) (v : W64) (s : State) : Host.Outcome State Fault Refusal :=
  .next (s.host (hostWr (0x100000 + 16 * n.toNat) 8 v.toNat) (fun s => (s.hostSignal n v).respond .okay 0))
/-- XLT_FLT_RING_WRITE (R439, R441). -/
def execXltFltRingWrite (v : W64) (s : State) : Host.Outcome State Fault Refusal :=
  .next (s.host (hostWr 0x50000 8 v.toNat) (fun s => (s.faultRingWrite v).respond .okay 0))
/-- XLT_FLT_RP_WRITE (R439, R442). -/
def execXltFltRpWrite (v : W64) (s : State) : Host.Outcome State Fault Refusal :=
  .next (s.host (hostWr 0x50008 8 v.toNat) (fun s => (s.faultRpWrite v).respond .okay 0))
/-- FWC_LOG_RING_WRITE (R493). -/
def execFwcLogRingWrite (v : W64) (s : State) : Host.Outcome State Fault Refusal :=
  .next (s.host (hostWr 0x90040 8 v.toNat) (fun s => (s.logRingWrite v).respond .okay 0))
/-- FWC_LOG_RP_WRITE (R493). -/
def execFwcLogRpWrite (v : W64) (s : State) : Host.Outcome State Fault Refusal :=
  .next (s.host (hostWr 0x90048 8 v.toNat) (fun s => (s.logRpWrite v).respond .okay 0))
/-- LND_PROG_BACKING_WRITE (R347). -/
def execLndProgBackingWrite (v : W64) (s : State) : Host.Outcome State Fault Refusal :=
  .next (s.host (hostWr 0x10300 8 v.toNat) (fun s => (s.backingWrite v).respond .okay 0))
/-- DCK_SWR_CFG_WRITE (R400). -/
def execDckSwrCfgWrite (r : BitVec 6) (v : W64) (s : State) : Host.Outcome State Fault Refusal :=
  .next (s.host (hostWr (0x40100 + 8 * r.toNat) 8 v.toNat) (fun s => (s.writeRegion r.toNat v).respond .okay 0))
/-- START (R471, R490): a write of FWC_CTRL. -/
def execStart (v : W64) (s : State) : Host.Outcome State Fault Refusal :=
  .next (s.host (hostWr 0x90008 8 v.toNat) (fun s => (s.startFirmware v).respond .okay 0))
/-- FWC_RESET_WHOLE (R538). -/
def execFwcResetWhole (s : State) : Host.Outcome State Fault Refusal :=
  .next (s.host (hostWr 0x90400 8 2) (fun s => s.askWhole.respond .okay 0))
/-- FWC_RESET_FRONT_END (R538). -/
def execFwcResetFrontEnd (s : State) : Host.Outcome State Fault Refusal :=
  .next (s.host (hostWr 0x90400 8 1) (fun s => s.askFrontEnd.respond .okay 0))
/-- REGISTER_WRITE (R28, R555, R556): any host write. -/
def execRegisterWrite (w : HostWrite) (s : State) : Host.Outcome State Fault Refusal :=
  .next (s.host (.write w) (fun s => s.hostWrite w))

end Sys2Proof.Machine
end

