-- ==== Sys2Proof/Machine/Power.lean ====
section
/-! DEFINITION. Power states (R512 to R522): IDLE, the poll, the entry and its undoing, the controller handshake (R61 to R63),
the domain controls (R64, R65), wake events (R66, R516, R517) and the exit (R518). -/

namespace Sys2Proof.Machine

/-! ## IDLE (R513) -/

/-- A save channel carries traffic: a save or restore burst, or an access to the masks, awaits its response (R368, R453). -/
def State.channelsBusy (s : State) : Bool :=
  (s.mp.txns ++ s.mp.waiting).any (fun t => match t.purpose with
    | .saveWrite _ _ _ => true
    | .restoreRead _ _ => true
    | .maskRead _ => true
    | .maskWrite _ => true
    | _ => false)

/-- The conditions of IDLE hold (R513). -/
def State.quiet (s : State) : Bool :=
  s.lnd.entries.isEmpty && !s.uc.threads.any (fun p => p.2.busy) && s.hau.streams.isEmpty && s.hau.internal.isEmpty &&
  !s.channelsBusy &&
  !s.clusters.any (fun p => p.2.active.isSome || p.2.shadow.isSome || p.2.chainNext.isSome || !p.2.chainWait.isEmpty || p.2.switch.isSome ||
    p.2.recovery.isSome || !p.2.down.isEmpty || !p.2.up.isEmpty) &&
  !s.fwc.mbx.any (fun p => p.2.state = .busy) && s.uc.patchPage.isNone && s.fwc.failedOrder.isEmpty &&
  s.res.waiting.isEmpty && s.yrd.pendingTable.isNone && s.lnd.fired.isEmpty

/-- IDLE_ENTRY (R513): the conditions have held for 256 fc. -/
def execIdleEntry (s : State) : Host.Outcome State Fault Refusal :=
  .next (if s.inRun && s.pwr.state = .run && s.pwr.phase = .none_ && s.quiet && decide (s.pwr.quietFc + 256 ≤ s.fc) then
      { s with pwr := { s.pwr with state := .idle, quietFc := s.fc } }
    else s)

/-- IDLE_EXIT (R513): an event that needs an idle part. -/
def execIdleExit (s : State) : Host.Outcome State Fault Refusal := .next s.leaveIdle

/-- AUTO_POWER_ENTRY (R519): the block has been IDLE for the time of the policy. -/
def execAutoPowerEntry (s : State) : Host.Outcome State Fault Refusal :=
  let due (n : Nat) : Bool := decide (s.pwr.quietFc + 2 ^ n ≤ s.fc)
  .next (if s.pwr.state ≠ .idle || !s.mayPoll then s
    else if s.pwr.auto = 2 && due s.pwr.deepLog2.toNat then s.beginPoll .deep none
    else if s.pwr.auto ≠ 0 && due s.pwr.sleepLog2.toNat then s.beginPoll .sleep none
    else s)

/-! ## The poll (R514) -/

/-- The Landing and front end refuse (R514). -/
def State.landingRefuses (s : State) : Bool :=
  !s.lnd.entries.isEmpty ||
  s.queues.any (fun p => p.2.cell.isSome || p.2.fstate = .woken || p.2.fstate = .fetching)

/-- The firmware refuses (R514). -/
def State.firmwareRefuses (s : State) : Bool :=
  s.fwc.procs.any (fun p => p.2.state = .restarting) ||
  s.fwc.mbx.any (fun p => p.2.state = .busy && bits p.2.req 7 0 ≠ 0x0D)

/-- The first subsystem that refuses the entry, as REASON of R521 gives it. -/
def State.refusal (s : State) (t : PState) : Option (BitVec 4) :=
  if s.landingRefuses then some 1
  else if s.yrd.pendingTable.isSome || (match s.yrd.table with | some x => !x.entries.isEmpty | none => false) then some 2
  else if s.fe.fnEnable then some 3
  else if s.firmwareRefuses then some 4
  else if s.irq.vecs.toList.any (fun v => v.msgOut && decide (v.msgFc + 65536 ≤ s.fc)) then some 5
  else if t = .off && s.ctxs.any (fun p => p.1 ≠ 0 && decide (p.2.state ≠ .free)) then some 6
  else if s.pwr.wake then some 7
  else none

/-- A subsystem delays the entry (R514): a doorbell being decoded, a patch being applied, a message that awaits its
response. -/
def State.delays (s : State) : Bool :=
  s.uc.threads.any (fun p => p.2.busy) || s.queues.any (fun p => !p.2.inl.isEmpty || !p.2.rejections.isEmpty) ||
  s.uc.patchPage.isSome || s.irq.vecs.toList.any (fun v => v.msgOut)

/-- POWER_POLL (R514): the first refusal abandons the entry, a delay holds the poll, and else step 1 of R515 follows:
admission closes. -/
def execPowerPoll (s : State) : Host.Outcome State Fault Refusal :=
  .next (match s.pwr.request with
    | none => s
    | some (t, _) =>
      if s.pwr.phase ≠ .polling || (s.proc procPower).state ≠ .running then s
      else match s.refusal t with
        | some r => (s.abandonEntry r).nextPoll
        | none =>
          if s.delays then s
          else State.trace { s with pwr := { s.pwr with phase := .carrying, admitClosed := true } } 6 procPower 0x0009 [t.code, 0, 0])

/-- POLL_TIMEOUT (R514): the poll has not finished within 2^20 fc. -/
def execPollTimeout (s : State) : Host.Outcome State Fault Refusal :=
  .next (if s.pwr.phase = .polling && decide (s.pwr.pollFc + 2 ^ 20 ≤ s.fc) then (s.abandonEntry 8).nextPoll else s)

/-! ## The entry (R515) -/

/-- The Deck groups that the build has. -/
def Build.groupMask (b : Build) : BitVec 16 := BitVec.ofNat 16 (2 ^ b.deckGroups - 1)

/-- Every group closes (R406): its generation advances, its OPEN bit clears; the scrubber stops. -/
def State.closeGroups (s : State) : State :=
  let d := s.dck
  { s with dck := { d with
      open_ := 0, scrubbing := false, holds := []
      gens := (List.range s.build.deckGroups).foldl (fun g k => tupd 0 g k (· + 1)) d.gens } }

/-- Every group reopens, and the scrubber restarts (R406, R518). -/
def State.openGroups (s : State) : State :=
  { s with dck := { s.dck with open_ := s.build.groupMask, scrubbing := true, scrubFc := s.fc } }

/-- Clusters whose context has still to be switched out, or whose link has still to be held in reset (R515, R79). -/
def State.lowering (s : State) : List (BitVec 6) := s.allClusters.filter (fun c => (s.cluster c).rstN)

/-- Step 2 of R515 goes on: a cluster that holds a context switches out with no launch; one that holds none drives EL_RST_N
to 0. -/
def State.lowerClusters (s : State) : State :=
  s.each s.lowering (fun s c =>
    let x := s.cluster c
    if x.switch.isSome || x.recovery.isSome then s
    else if x.ctx.isSome then (if s.coreRuns c then s.beginSwitch c .quiet none none else s)
    else s.updCluster c Cluster.linkDown)

/-- The links of the clusters in service reset under R93 (R518). -/
def State.resetLinks (s : State) : State :=
  s.each (s.allClusters.filter (fun c => (s.cluster c).inService && !(s.cluster c).rstN)) (fun s c => s.updCluster c Cluster.linkReset)

/-- Steps 6 to 1 of R515 are undone, in reverse order. -/
def State.undoEntry (s : State) : State :=
  let s := (if s.dck.open_ = s.build.groupMask then s else s.openGroups).resetLinks
  State.serveHeld { s with pwr := { s.pwr with hostHeld := false, admitClosed := false } }

/-- The entry is undone and abandoned (R515 steps 5 and 7). -/
def State.giveUp (s : State) (reason : BitVec 4) : State := (s.undoEntry.abandonEntry reason).nextPoll

/-- Positions of a kind of domain present in the build: MEM (R64). -/
def Build.memDomains (b : Build) : BitVec 90 := b.domains &&& 0x3FC#90
/-- CLS positions. -/
def Build.clsDomains (b : Build) : BitVec 90 := b.domains &&& (0xFFFFFFFFFFFFFFFF#90 <<< 26)
/-- Domains that power down for a state (R512). -/
def Build.affected (b : Build) (t : PState) : BitVec 90 :=
  if t = .sleep then b.memDomains ||| b.clsDomains else b.domains
/-- Those of them that keep their state (R512). -/
def Build.kept (b : Build) (t : PState) : BitVec 90 :=
  if t = .sleep then b.clsDomains else if t = .deep then b.domains &&& ~~~(b.memDomains ||| 2#90) else 0

/-- Steps 2 and 3 of the power-down of R65, one at a time: PD_RET of the domains that keep state, then PD_PWR_REQ. -/
def State.powerDownStep (s : State) : State :=
  let p := s.pwr
  if p.phase ≠ .handshake then s
  else if p.pdStep = 1 then { s with pwr := { p with pdRet := p.pdRet ||| s.build.kept p.state, pdStep := 2 } }
  else if p.pdStep = 2 then { s with pwr := { p with pdReq := p.pdReq &&& ~~~(s.build.affected p.state), pdStep := 3 } }
  else s

/-- Steps 6 and 7 of R515: with the host port held, or for DEEP and OFF closed and every access it had accepted served, the
handshake of R63 begins. -/
def State.handshake (s : State) (t : PState) : State :=
  if (t = .sleep || s.fwc.mbxWait.isEmpty) && !s.pwr.pwrAck then
    { s with pwr := { s.pwr with pwrState := BitVec.ofNat 3 t.code, pwrReq := true, phase := .handshake } }
  else s

/-- POWER_ENTRY (R515 steps 2 to 8): the clusters are switched out and their links held in reset; once that is done and no
transaction is outstanding on any manager interface, the groups close; unless a wake event is latched, the host port is held
and the handshake follows. Once the handshake has ended it takes the next step of the power-down (R65). -/
def execPowerEntry (s : State) : Host.Outcome State Fault Refusal :=
  .next (match s.pwr.request with
    | none => s.powerDownStep
    | some (t, _) =>
      if s.pwr.phase ≠ .carrying || !s.inRun || (s.proc procPower).state ≠ .running then s
      else
        if s.pwr.hostHeld then s.handshake t
        else
          let s := s.lowerClusters
          if !s.lowering.isEmpty || !s.mp.out.isEmpty || !s.mp.waiting.isEmpty || s.pwr.pwrAck then s
          else
            let s := s.closeGroups
            if s.pwr.wake then s.giveUp 7 else State.handshake { s with pwr := { s.pwr with hostHeld := true } } t)

/-! ## Domains (R64, R65) -/

/-- Step 8 of R515: the request completes, the firmware processors are held in reset, and the affected domains begin to power
down under R65, with step 1: PD_ISO. -/
def State.powerDown (s : State) (t : PState) (page : Option (BitVec 8)) : State :=
  let a := s.build.affected t
  let s := { s with
    fwc := { s.fwc with procs := tmap ({} : Proc) (fun (_ : Nat) (p : Proc) => if p.state = ProcState.running then { p with state := .off } else p) s.fwc.procs }
    pwr := { s.pwr with
      state := t, request := none, pdIso := s.pwr.pdIso ||| a, pdStep := 1 } }
  let s := match page with | some m => s.mbxDone m 0x00 0 | none => s
  s.raise 0x006

/-- The always-on domain's state, with everything else as after a start; `epoch` is the epoch bit from then on (R559, R46). -/
def State.restartBlock (s : State) (epoch : Bool) : State :=
  let n := State.atStart s.build
  let p := s.pwr
  let f := s.fwc
  let keep : Fwc := { n.fwc with
    rcvStartFc := f.rcvStartFc, rcvCause := f.rcvCause, rcvKind := f.rcvKind, rcvCluster := f.rcvCluster
    escTotal := f.escTotal, stamps := f.stamps, svcBase := f.svcBase
    dumpPfn := f.dumpPfn, dumpPages := f.dumpPages, dumpSeq := f.dumpSeq, dumpCause := f.dumpCause
    dumpComplete := f.dumpComplete, armed := f.armed }
  { n with
    mp := { n.mp with epoch }
    lgr := s.lgr
    fwc := keep
    pwr := { n.pwr with
      deepEntries := p.deepEntries, sleepEntries := p.sleepEntries, replayed := p.replayed, offEntries := p.offEntries
      pwrState := p.pwrState, pwrReq := p.pwrReq, pwrAck := p.pwrAck, pdReq := p.pdReq, pdIso := p.pdIso, pdRet := p.pdRet
      pdAck := p.pdAck, pdStep := p.pdStep, wakeN := p.wakeN, wake := p.wake, wakeLate := p.wakeLate, state := p.state
      phase := p.phase }
    pins := s.pins, free := s.free, pending := s.pending }

/-- The exit begins (R518 step 1): the wake event is consumed, and the handshake runs with PWR_STATE RUN. -/
def State.beginExit (s : State) : State :=
  { s with pwr := { s.pwr with
      phase := .exiting, undoing := false, pdStep := 0, pwrState := 0, pwrReq := true, wake := false, wakeLate := false } }

/-- The last domain is down: the target state is reached (R515, R517, R522). -/
def State.reachTarget (s : State) : State :=
  let t := s.pwr.state
  let s : State := { s with pwr := { s.pwr with
    phase := .none_
    sleepEntries := if t = .sleep then s.pwr.sleepEntries + 1 else s.pwr.sleepEntries
    deepEntries := if t = .deep then s.pwr.deepEntries + 1 else s.pwr.deepEntries
    offEntries := if t = .off then s.pwr.offEntries + 1 else s.pwr.offEntries } }
  let s := if t = .off then s.restartBlock false else s
  if s.pwr.wakeLate then State.beginExit { s with pwr := { s.pwr with replayed := s.pwr.replayed + 1 } } else s

/-- PWR_ACK (R63), followed also while AORST_N is asserted: its rise takes PWR_DENY and clears PWR_REQ; its fall ends the handshake: an entry is undone if refused, and
else goes on to step 8; an exit supplies every domain. -/
def execPwrAck (ack deny : Bool) (s : State) : Host.Outcome State Fault Refusal :=
  let p := s.pwr
  .next (if s.pins.aoRst then { s with pwr := { p with pwrAck := ack } }
    else if ack = p.pwrAck then s
    else if ack then
      { s with pwr := { p with pwrAck := true, denied := if p.pwrReq then deny else p.denied, pwrReq := false } }
    else
      let s : State := { s with pwr := { p with pwrAck := false } }
      match p.phase, p.request with
      | .handshake, some (t, page) => if p.pwrReq then s else if p.denied then s.giveUp 9 else s.powerDown t page
      | .exiting, _ =>
        if p.pwrReq || p.undoing then s
        else { s with pwr := { s.pwr with pdReq := s.build.domains } }
      | _, _ => s)

/-- With every domain requested and supplied and no sequence running, retention and isolation end (R65); so it is after a
release of AORST_N. -/
def State.clearIso (s : State) : State :=
  if s.pwr.phase = .none_ && s.pwr.pdReq = s.build.domains && decide (s.build.domains &&& ~~~s.pwr.pdAck = 0) then
    { s with pwr := { s.pwr with pdIso := 0, pdRet := 0 } }
  else s

/-- PD_PWR_ACK (R65, R517): the supply of a present domain has gone or come, while AORST_N is asserted too; with the last of
those that power down gone the target state is reached. -/
def execPdPwrAck (k : BitVec 7) (good : Bool) (s : State) : Host.Outcome State Fault Refusal :=
  let m : BitVec 90 := BitVec.twoPow 90 k.toNat &&& s.build.domains
  let ack := if good then s.pwr.pdAck ||| m else s.pwr.pdAck &&& ~~~m
  let s' : State := { s with pwr := { s.pwr with pdAck := ack } }
  let down := s.pwr.phase = .handshake && s.pwr.request.isNone && s.pwr.pdStep = 3 && decide (ack &&& ~~~s.pwr.pdReq = 0)
  .next (if s.pins.aoRst then s' else if down then s'.reachTarget else s'.clearIso)

/-! ## Wake events (R66, R516) -/

/-- WAKE_N (R66): each fall latches one wake event, in every power state; the level is followed while AORST_N is asserted. -/
def execWakeN (level : Bool) (s : State) : Host.Outcome State Fault Refusal :=
  let s' : State := { s with pwr := { s.pwr with wakeN := level } }
  .next (if s.pwr.wakeN && !level && !s.pins.aoRst then s'.latchWake else s')

/-- WAKE_CONSUME (R516): with no entry in progress the power core consumes a wake event latched in RUN or IDLE. -/
def execWakeConsume (s : State) : Host.Outcome State Fault Refusal :=
  .next (if s.inRun && s.pwr.phase = .none_ && (s.proc procPower).state = .running then
      { s with pwr := { s.pwr with wake := false, wakeLate := false } }
    else s)

/-! ## The exit (R518) -/

/-- Steps 3 and 4 of the power-up of R65: unretained state is that of the reset which follows, and PD_RET ends. -/
def State.powerUpStep (s : State) : State := { s with pwr := { s.pwr with pdRet := 0, pdStep := 4 } }

/-- Isolation ends (R65 step 5), and steps 3 to 8 of R518 follow; after OFF the start of R564 instead. -/
def State.finishExit (s : State) : State :=
  let off := decide (s.pwr.state = .off)
  let s : State := { s with pwr := { s.pwr with pdIso := 0, pdStep := 0, phase := .none_, state := .run, quietFc := s.fc } }
  if off then s
  else
    let s : State := { s with fwc := { s.fwc with
      procs := tmap ({} : Proc) (fun (_ : Nat) (p : Proc) => if p.state = .off then { p with state := .running } else p) s.fwc.procs } }
    let s := s.undoEntry
    (s.raise 0x006).nextPoll

/-- POWER_EXIT (R518): a wake event latched below IDLE, or an entry that the power core's failure has abandoned (R477), begins
the exit; once its handshake has ended and every domain is supplied, retention ends, then isolation, and the exit ends in RUN. -/
def execPowerExit (s : State) : Host.Outcome State Fault Refusal :=
  let p := s.pwr
  let low := p.state ≠ .run && p.state ≠ .idle
  .next (if s.pins.aoRst || p.pwrReq || p.pwrAck then s
    else if (p.phase = .none_ && p.wake && low) || (p.phase = .exiting && p.undoing) then s.beginExit
    else if p.phase = .exiting && p.pdReq = s.build.domains && decide (s.build.domains &&& ~~~p.pdAck = 0) then
      (if p.pdStep = 4 then s.finishExit else s.powerUpStep)
    else s)

end Sys2Proof.Machine
end

