-- ==== Sys2Proof/Machine/Recovery.lean ====
section
/-! DEFINITION. The start of the firmware (R472, R473), the restart of a processor (R476, R477), the front-end reset (R533,
R534), the whole-block reset (R535), going out of service (R537), and the tokens that the block applies (R58, R547). -/

namespace Sys2Proof.Machine

/-! ## Firmware processors -/

/-- The checks of the bundle (R472, R473): the security core has read the bundle, or a read of it has failed, or it reads none (checks 1 and
2). Once the scheduler core is released it serves the mailbox (R565). -/
def State.checkBundle (s : State) : State :=
  let unset := s.pins.keyHash = 0 || s.pins.keyHash = BitVec.allOnes 384
  let image := if unset || s.fwc.bundlePages = 0 then some none else s.fwc.imageRead none
  match image with
  | none => s
  | some b =>
    if s.fwc.state ≠ .verifying || !s.inRun then s
    else
      let s : State := State.dropRead { s with fwc := { s.fwc with keyProvisioned := !unset } } none
      match s.bundleFault b with
      | some r => s.refuseStart r
      | none => (match b with | some b => (s.acceptBundle b).mbxServe | none => s)

/-- BUNDLE_CHECK (R472, R473): the boot ROM starts to read the bundle, or checks it. -/
def execBundleCheck (bundle : ImageStep) (s : State) : Host.Outcome State Fault Refusal :=
  .next (match bundle with
    | .read => if s.fwc.state = .verifying && s.inRun && (s.fwc.readOf none).isNone then s.readBundle else s
    | .check => s.checkBundle)

/-- PROCESSOR_RESTART (R476, R477): the security core has reloaded the processor that failed first and releases it; what
waited for it goes on. A lost image copy forces a whole-block reset (R479). -/
def execProcessorRestart (p : BitVec 7) (s : State) : Host.Outcome State Fault Refusal :=
  let n := p.toNat
  .next (match s.fwc.failedOrder with
    | [] => s
    | f :: rest =>
      if f ≠ n || (s.proc n).state ≠ .restarting || (s.proc procSec).state ≠ .running || !s.inRun ||
          (n = procSched && s.fwc.feBusy) then s
      else if (s.proc n).imageLost then s.ask kindWhole 0x09
      else
        let x := s.proc n
        let failed := x.restartFc = BitVec.ofNat 32 x.failFc && x.cause ≠ 0
        let s : State := { s with fwc := { s.fwc with failedOrder := rest } }
        let s := s.updProc n (fun y => { y with state := .running })
        let s := if failed then s.fwAlert n 0x0001 [n, x.cause.toNat, s.fc - x.failFc] else s
        let s := if 3 ≤ n then s.flushEnds (BitVec.ofNat 6 (n - 3)) else s
        s.evictions.windowsGo.mbxServe.nextPoll)

/-! ## Fabric tokens that are applied (R58, R547) -/

/-- A token is applied: every ACTIVE context with its job tag is torn down with ABORTED_REMOTE, and no token is sent. -/
def State.applyToken (s : State) (t : W64) : State :=
  let l := (s.ctxs.filter (fun p => p.2.state = .active && p.2.jobTag = tokenTag t)).map (fun p => BitVec.ofNat 20 p.1)
  (s.each l (fun s k => s.teardownWith k 0x0B false false)).raise 0x00B

/-! ## The front-end reset (R524, R533) -/

/-- Work whose own state outlives a front-end reset, outside the haul chunks of R367: its transaction is made again. -/
def Purpose.survives : Purpose → Bool
  | .ringRead _ _ => false
  | .walk _ => false
  | .chunkRead _ _ _ _ _ => false
  | .chunkWrite _ _ _ => false
  | .ctxDesc _ _ => false
  | .reclaim _ _ => false
  | .irqMessage _ => false
  | .objEntry t _ _ => decide (graphAsker ≤ t)
  | .descFields t _ _ => decide (graphAsker ≤ t)
  | _ => true

/-- Step 3 of R533: every transaction is abandoned, and the epoch bit inverts under R46 and R48. What outlives the reset is
asked for again in the new epoch (notes/assumptions/23), and every vector in SENT sends its message again (R506). -/
def State.abandonPorts (s : State) : State :=
  let m := s.mp
  let again := (m.txns ++ m.waiting).filter (fun t => t.purpose.survives)
  let gone := m.abandoned ++ m.txns
  let late := !m.previous.isEmpty
  let s : State := { s with
    mp := { m with
      txns := [], waiting := [], abandoned := gone, drainFc := if gone.isEmpty then none else some (s.fc : Int)
      epoch := if late then m.epoch else !m.epoch, invertDue := late }
    irq := { s.irq with vecs := s.irq.vecs.map (fun (v : Vec) => { v with msgOut := false }) } }
  let s := s.each again (fun s t => s.issueTxn { t with retries := 0 })
  s.each ((List.range 8).map (BitVec.ofNat 3)) (fun s v =>
    if (s.vec v).state = .sent then s.sendMessage v (s.vec v).msgSource else s)

/-- Step 2 of R533: a firing whose window is open and that has released nothing is missed (R260); its preload is dropped. -/
def State.missWindows (s : State) : State :=
  s.each (List.range s.yrd.windows.length) (fun s n =>
    match s.yrd.windows[n]? with
    | none => s
    | some w =>
      if w.inert || w.released || w.ended then s
      else
        let s := if w.counted then s else s.rtFault n false
        let s := if w.launch.isNone then s else s.updCluster (BitVec.ofNat 6 w.cluster) (fun x =>
          if x.shadowIs w.launch then { x with shadow := none } else x)
        { s with yrd := { s.yrd with windows := s.yrd.windows.modify n (fun w => { w with inert := true, launch := none }) } })

/-- Steps 1 to 3 of R533. -/
def State.beginFrontEnd (s : State) (cause : BitVec 8) : State :=
  let s := ((s.rcvStatus kindFrontEnd cause 0).logReset kindFrontEnd cause 0).count 2
  let s := (s.releaseHeld procSched).updProc procSched (fun p => if p.state = .off then p else { p with state := .restarting })
  let s : State := { s with fwc := { s.fwc with
    feBusy := true, failedOrder := s.fwc.failedOrder.filter (fun p => p ≠ procSched) } }
  (s.raise 0x004).missWindows.abandonPorts

/-- The unit state of a queue that a front-end reset clears: ring units, inline cell, packets on their way; an OPEN queue is
WOKEN (R524, R533 step 5). -/
def wokenQueue (fc : Nat) (x : Queue) : Queue :=
  let x : Queue := { x with cell := none, inl := [], units := [], reading := false, turn := 0, parking := false }
  if x.state = .open_ then { x with fstate := .woken, block := .none_, timerFc := fc, fired := false } else x

/-- Step 4 of R533: the fetch logic, the threads, the translation unit and the scheduler core are reset. The control store,
loaded again with its patches in order, holds what it held. While TEST_MODE is 1 the flip-flops take no reset from the block
itself (R71). -/
def State.resetUnits (s : State) : State :=
  if s.pins.testMode then s.updProc procSched (fun p => if p.state = .restarting then { p with state := .running } else p)
  else
  let walks := s.xlt.walks
  let s : State := { s with
    uc := { s.uc with threads := [], lockHolder := none }
    xlt := { s.xlt with walks := [] }
    queues := tmap {} (fun _ x => wokenQueue s.fc x) s.queues
    lnd := { s.lnd with fired := s.lnd.fired.filter (fun q => decide ((s.queue q).state ≠ .open_)) } }
  let s := s.emptyCaches.each walks (fun s w => s.epochDone w.ctx w.epoch)
  let s := s.patchOn
  s.updProc procSched (fun p => if p.state = .restarting then { p with state := .running } else p)

/-- Steps 5 and 6 of R533: what has waited for the front end goes on. -/
def State.endFrontEnd (s : State) : State :=
  let s : State := { s.resetUnits with fwc := { s.resetUnits.fwc with feBusy := false } }
  let s := s.restartStreams
  let held := s.fe.rxHeld
  let s := State.each { s with fe := { s.fe with rxHeld := [] } } held (fun s t => s.applyToken t)
  let s := s.stampWaiting
  let s := s.each s.allClusters (fun s c => (s.passSignals c).failLaunch c)
  let s := s.each s.allClusters (fun s c =>
    match (s.cluster c).hangWait with
    | some cause => State.startHang (s.updCluster c (fun x => { x with hangWait := none })) c cause 0
    | none => s)
  (s.raise 0x004).evictions.windowsGo.mbxServe

/-- FRONT_END_RESET (R523, R533): one that a detector has asked for begins, if it does not escalate (R536); the one in
progress ends once the epoch bit has inverted. -/
def execFrontEndReset (s : State) : Host.Outcome State Fault Refusal :=
  let ready := s.inRun && s.fwc.dumping.isNone && decide ((s.proc procSec).state ≠ .restarting)
  .next (if !ready then s
    else if s.fwc.feBusy then
      if s.mp.invertDue then s
      else if (s.proc procSched).imageLost && (s.proc procSched).state = .restarting then s.ask kindWhole 0x09
      else s.endFrontEnd
    else match s.fwc.asked.find? (fun a => a.1 = kindFrontEnd) with
      | none => s
      | some a =>
        let s : State := { s with fwc := { s.fwc with
          resetFe := false, asked := s.fwc.asked.filter (fun b => b.1 ≠ kindFrontEnd) } }
        s.counted (fun s => s.beginFrontEnd a.2))

/-! ## The whole-block reset (R524, R535) -/

/-- The whole-block reset that stands: the driver's first (R523). -/
def State.wholeAsked (s : State) : Option (BitVec 8) :=
  let l := (s.fwc.asked.filter (fun a => a.1 = kindWhole)).map (·.2)
  if l.contains 0x0A then some 0x0A else l.head?

/-- Step 1 of R535: every unit stops. A mailbox access that the scheduler core has not served receives SLVERR, and an access
that has waited behind one on its channel is served. -/
def State.stopBlock (s : State) (cause : BitVec 8) : State :=
  let s := ((s.rcvStatus kindWhole cause 0).logReset kindWhole cause 0).count 1
  let waits := s.fwc.mbxWait
  let s : State := { s with
    clusters := tmap {} (fun _ x => { x.linkDown with recovery := none, hangWait := none }) s.clusters
    mp := { s.mp with waiting := [], drainFc := some (s.fc : Int) }
    fwc := { s.fwc with
      procs := tmap {} (fun _ p => { p with state := .off, held := none }) s.fwc.procs
      wholeBusy := some cause, asked := [], resetWhole := false, resetFe := false, feBusy := false, mbxWait := [] } }
  let s := s.each waits (fun s a =>
    let s := s.forAccess a.1
    if isMailbox a.1 then s.respond .slverr 0 else s.serve a.1)
  s.startDump cause

/-- Steps 3 to 5 of R535: the epoch bit inverts, every domain but the always-on domain resets, the base of the service time
grows by FE_CYCLES (R536), and STATE becomes IDLE. The transactions that it abandons are outstanding still (R47, R48). While
TEST_MODE is 1 the flip-flops take no reset from the block itself (R71), and only the sequence's own steps remain. -/
def State.finishWhole (s : State) : State :=
  let n := if s.pins.testMode then { s with
        fwc := { s.fwc with wholeBusy := none, state := .idle }, mp := { s.mp with epoch := !s.mp.epoch } }
    else s.restartBlock (!s.mp.epoch)
  let gone := s.mp.out
  { n with
    mp := { n.mp with
      txns := [], waiting := [], abandoned := gone
      drainFc := if gone.isEmpty then none else s.mp.drainFc.map (fun f => if s.pins.testMode then f else f - s.fc) }
    pwr := { n.pwr with state := .run, phase := .none_ }
    fwc := { n.fwc with svcBase := s.fwc.svcBase + s.fc } }

/-- WHOLE_BLOCK_RESET (R523, R535, R536): one that stands begins: a counted one unless it escalates, the driver's always; once
the dump has been written and no transaction of the previous epoch is outstanding (R48), it ends. -/
def execWholeBlockReset (s : State) : Host.Outcome State Fault Refusal :=
  let live := (s.pwr.state = .run || s.pwr.state = .idle) && !s.pins.fRst && !s.pins.aoRst && s.fwc.dumping.isNone &&
    s.pwr.phase ≠ .handshake && s.pwr.phase ≠ .exiting
  .next (if !live then s
    else match s.fwc.wholeBusy with
      | some _ => if s.mp.previous.isEmpty then s.finishWhole else s
      | none =>
        match s.wholeAsked with
        | none => s
        | some cause =>
          if cause = 0x0A then s.stopBlock cause
          else State.counted { s with fwc := { s.fwc with asked := s.fwc.asked.filter leavesOos } } (fun s => s.stopBlock cause))

/-- OUT_OF_SERVICE (R537): the block goes out of service, as a detector has asked for. -/
def execOutOfService (s : State) : Host.Outcome State Fault Refusal :=
  .next (match s.fwc.asked.find? (fun a => a.1 = kindOos) with
    | none => s
    | some a => if s.inRun then s.enterOos a.2 else s)

end Sys2Proof.Machine
end

