-- ==== Sys2Proof/Machine/Pins.lean ====
section
/-! DEFINITION. The fabric notice port (R55 to R60), the test access port and memory BIST (R68 to R71, R568 to R570), the
reset inputs (R72 to R75, R562 to R565) and the clock inputs (R73, R563). -/

namespace Sys2Proof.Machine

/-! ## Fabric notices -/

/-- A received token is discarded (R58). -/
def State.tokenBad (s : State) (t : W64) : Bool :=
  !s.fe.fnEnable || tokenTag t = 0 || bits t 7 0 ≠ 0 || t.extractLsb' 8 16 = s.fe.chipNum

/-- FN_RX_READY (R58, R75); the port has a clock in RUN and IDLE (R512). -/
def State.rxReady (s : State) : Bool :=
  !s.pins.fRst && !s.pins.aoRst && (s.pwr.state = .run || s.pwr.state = .idle) &&
  (match s.fe.rxFc with | some f => decide (f + 4 ≤ s.fc) | none => true)

/-- TOKEN_RECEIVE (R58, R534): a token passes; it is discarded, or applied, at once or when a front-end reset ends. -/
def execTokenReceive (t : W64) (s : State) : Host.Outcome State Fault Refusal :=
  .next (if !s.rxReady then s
    else
      let s : State := { s with fe := { s.fe with rxFc := some s.fc } }
      if s.tokenBad t then { s with fe := { s.fe with rxDiscarded := s.fe.rxDiscarded + 1 } }
      else
        let s : State := { s.leaveIdle with fe := { s.fe with rxAccepted := s.fe.rxAccepted + 1 } }
        if s.fwc.feBusy then { s with fe := { s.fe with rxHeld := s.fe.rxHeld ++ [t] } } else s.applyToken t)

/-- Tokens in the fault path join the queue while it has room, oldest first (R57). -/
def refillTokens (f : Fe) : Fe :=
  f.txWait.foldl (fun f t => f.queueToken t) { f with txWait := [] }

/-- TOKEN_SEND (R57, R55, R60): the token at the head of the queue passes; none out of service (R537). -/
def execTokenSend (s : State) : Host.Outcome State Fault Refusal :=
  .next (match s.fe.txq with
    | [] => s
    | _ :: rest => if s.inRun then { s with fe := refillTokens { s.fe with txq := rest, txSent := s.fe.txSent + 1 } } else s)

/-! ## Test access -/

/-- The 32-bit IDCODE register (R69). -/
def idcode : BitVec 32 := (0x2#4) ++ (0x7404#16) ++ Config.idManufacturer ++ (1#1)

/-- Some reset input of the build is asserted (R72). -/
def State.anyReset (s : State) : Bool :=
  s.pins.aoRst || s.pins.fRst || s.pins.dRst || s.pins.hRst ||
  (List.range s.build.memPorts).any (fun p => s.pins.mRst.getLsbD p) ||
  (List.range s.build.clusters).any (fun c => s.pins.cRst.getLsbD c)

/-- Every reset input other than AORST_N is asserted. -/
def State.allButAo (s : State) : Bool :=
  s.pins.fRst && s.pins.dRst && s.pins.hRst &&
  (List.range s.build.memPorts).all (fun p => s.pins.mRst.getLsbD p) &&
  (List.range s.build.clusters).all (fun c => s.pins.cRst.getLsbD c)

/-- MBIST_CTRL with START 1 (R568, R570): MBIST_STATUS clears and a run begins; one of a reserved CLASS ends at once. -/
def startBist (p : Pins) (v : W32) : Pins :=
  if bits v 31 28 ≤ 6 then { p with mbistStatus := 0, bistRun := true } else { p with mbistStatus := 3 }

/-- The next state of the TAP controller for TMS (R68, IEEE 1149.1). -/
def TapState.next (x : TapState) (tms : Bool) : TapState :=
  match x, tms with
  | .testLogicReset, true => .testLogicReset
  | .testLogicReset, false => .runTestIdle
  | .runTestIdle, true => .selectDr
  | .runTestIdle, false => .runTestIdle
  | .selectDr, true => .selectIr
  | .selectDr, false => .captureDr
  | .captureDr, true => .exit1Dr
  | .captureDr, false => .shiftDr
  | .shiftDr, true => .exit1Dr
  | .shiftDr, false => .shiftDr
  | .exit1Dr, true => .updateDr
  | .exit1Dr, false => .pauseDr
  | .pauseDr, true => .exit2Dr
  | .pauseDr, false => .pauseDr
  | .exit2Dr, true => .updateDr
  | .exit2Dr, false => .shiftDr
  | .updateDr, true => .selectDr
  | .updateDr, false => .runTestIdle
  | .selectIr, true => .testLogicReset
  | .selectIr, false => .captureIr
  | .captureIr, true => .exit1Ir
  | .captureIr, false => .shiftIr
  | .shiftIr, true => .exit1Ir
  | .shiftIr, false => .shiftIr
  | .exit1Ir, true => .updateIr
  | .exit1Ir, false => .pauseIr
  | .pauseIr, true => .exit2Ir
  | .pauseIr, false => .pauseIr
  | .exit2Ir, true => .updateIr
  | .exit2Ir, false => .shiftIr
  | .updateIr, true => .selectDr
  | .updateIr, false => .runTestIdle

/-- TDO_OE (R68): the TAP drives TDO while it shifts. -/
def Pins.tdoOe (p : Pins) : Bool := p.tap = .shiftDr || p.tap = .shiftIr

/-- The instruction selects the bypass register (R69, R70). -/
def Pins.bypassed (p : Pins) (ir : BitVec 8) : Bool :=
  ir ≠ 0x01 && ((ir ≠ 0x10 && ir ≠ 0x11) || !p.testMode)

/-- The data register that an instruction selects: the value that it captures, and its length (R69, R70). -/
def Pins.register (p : Pins) (ir : BitVec 8) : W64 × Nat :=
  if ir = 0x01 then (idcode.setWidth 64, 32)
  else if p.bypassed ir then (0, 1)
  else if ir = 0x10 then (p.mbistCtrl.setWidth 64, 32)
  else (p.mbistStatus, 64)

/-- Update-DR (R568): MBIST_CTRL takes the shifted value, and START begins a run unless one goes on or a reset input is
asserted (`held`). Other data registers have no update. -/
def Pins.updateDr (p : Pins) (held : Bool) : Pins :=
  if p.ir ≠ 0x10 || p.bypassed p.ir then p
  else
    let v : W32 := p.dr.setWidth 32
    let q : Pins := { p with mbistCtrl := v &&& 0xFFFC0000#32 }
    if bit v 0 && !q.bistRun && !held then startBist q v else q

/-- One cycle of TCK with TMS and TDI (R68): the action of the controller's state, then its next state. With TRST_N asserted
nothing happens. -/
def Pins.tck (held : Bool) (p : Pins) (tms tdi : Bool) : Pins :=
  if p.trst then p
  else
    let q : Pins := match p.tap with
      | .testLogicReset => { p with ir := 0x01 }
      | .captureDr => { p with dr := (p.register p.ir).1, drLen := (p.register p.ir).2, tdo := [] }
      | .shiftDr => { p with
          tdo := p.tdo ++ [p.dr.getLsbD 0]
          dr := (p.dr >>> 1) ||| (if tdi then BitVec.twoPow 64 (p.drLen - 1) else 0) }
      | .captureIr => { p with irShift := 0x01, tdo := [] }
      | .shiftIr => { p with tdo := p.tdo ++ [p.irShift.getLsbD 0], irShift := (p.irShift >>> 1) ||| (if tdi then 0x80 else 0) }
      | .updateDr => p.updateDr held
      | .updateIr => { p with ir := p.irShift }
      | _ => p
    { q with tap := p.tap.next tms }

/-- TMS and TDI of `n` shift cycles of a value, the last of which leaves the shift state. -/
def shiftBits (v n : Nat) : List (Bool × Bool) := (List.range n).map (fun i => (decide (i + 1 = n), v / 2 ^ i % 2 = 1))

/-- TMS and TDI of a scan from Test-Logic-Reset or Run-Test/Idle: the instruction, then `n` bits of its data register. -/
def scanBits (ir : BitVec 8) (v n : Nat) : List (Bool × Bool) :=
  [(false, false), (true, false), (true, false), (false, false), (false, false)] ++ shiftBits ir.toNat 8 ++
  [(true, false), (true, false), (false, false), (false, false)] ++ shiftBits v n ++ [(true, false), (false, false)]

/-- A scan of an instruction and of its data register. -/
def State.scan (s : State) (ir : BitVec 8) (v n : Nat) : State :=
  { s with pins := (scanBits ir v n).foldl (fun p b => p.tck s.anyReset b.1 b.2) s.pins }

/-- IDCODE (R68, R69): the 32 bits of the register are shifted out. -/
def execIdcode (s : State) : Host.Outcome State Fault Refusal := .next (s.scan 0x01 0 32)

/-- BYPASS (R69, R70): an instruction that selects the bypass register, and one bit through it. -/
def execBypass (ir : BitVec 8) (s : State) : Host.Outcome State Fault Refusal :=
  .next (if s.pins.bypassed ir then s.scan ir 0 1 else s)

/-- MBIST_CTRL (R568, R570): a value is shifted in and updated. START is ignored during a run and while a reset input is
asserted; without TEST_MODE the instruction selects the bypass register (R70). -/
def execMbistCtrl (v : W32) (s : State) : Host.Outcome State Fault Refusal := .next (s.scan 0x10 v.toNat 32)

/-- MBIST_STATUS (R569, R70): the 64 bits of the register are shifted out. -/
def execMbistStatus (s : State) : Host.Outcome State Fault Refusal := .next (s.scan 0x11 0 64)

/-- MBIST_STATUS at the end of a run (R569). -/
def bistStatus : Option BistResult → W64
  | none => 1
  | some r => r.failClass ++ r.failInstance ++ r.failAddr ++ r.failCount ++ (0 : BitVec 14) ++ (3 : BitVec 2)

/-- MBIST_RUN_END (R570, R569): the run in progress ends. -/
def execMbistRunEnd (r : Option BistResult) (s : State) : Host.Outcome State Fault Refusal :=
  .next (if s.pins.bistRun then { s with pins := { s.pins with bistRun := false, mbistStatus := bistStatus r } } else s)

/-! ## Reset inputs -/

/-- The domain is present in the build (R72). -/
def Build.hasDomain (b : Build) : Domain → Bool
  | .m p => decide (p.toNat < b.memPorts)
  | .c c => decide (c.toNat < b.clusters)
  | _ => true

/-- The level of a reset input: `v` true while it is asserted. -/
def setReset (p : Pins) (v : Bool) : Domain → Pins
  | .ao => { p with aoRst := v }
  | .f => { p with fRst := v }
  | .d => { p with dRst := v }
  | .h => { p with hRst := v }
  | .t => { p with trst := v }
  | .m k => { p with mRst := if v then p.mRst ||| BitVec.twoPow 8 k.toNat else p.mRst &&& ~~~(BitVec.twoPow 8 k.toNat) }
  | .c k => { p with cRst := if v then p.cRst ||| BitVec.twoPow 64 k.toNat else p.cRst &&& ~~~(BitVec.twoPow 64 k.toNat) }

/-- A reset input is asserted. -/
def Pins.held (p : Pins) : Domain → Bool
  | .ao => p.aoRst
  | .f => p.fRst
  | .d => p.dRst
  | .h => p.hRst
  | .t => p.trst
  | .m k => p.mRst.getLsbD k.toNat
  | .c k => p.cRst.getLsbD k.toNat

/-- The always-on domain in reset (R75, R559): its retention is lost, and the power controls take their reset values. -/
def State.resetAlwaysOn (s : State) : State :=
  let n := State.atStart s.build
  let f := s.fwc
  let fwc : Fwc := { f with
    rcvStartFc := 0, rcvCause := 0, rcvKind := 0, rcvCluster := 0, escTotal := 0, stamps := [], svcBase := 0
    dumpPfn := 0, dumpPages := 0, dumpSeq := 0, dumpCause := 0, dumpComplete := false, armed := false, dumping := none }
  { s with
    clusters := tmap {} (fun _ x => x.linkDown) s.clusters, lgr := {}, fwc, mp := { s.mp with epoch := false }
    pwr := { n.pwr with pdReq := 0, pdIso := s.build.domains, pdAck := s.pwr.pdAck, pwrAck := s.pwr.pwrAck, wakeN := s.pwr.wakeN } }

/-- Assertion of a domain's reset input (R74): its state is that of a start. -/
def State.resetDomain (s : State) : Domain → State
  | .ao => s.resetAlwaysOn
  | .f => { s.restartBlock s.mp.epoch with clusters := s.clusters, dck := s.dck }
  | .d => { s with dck := {} }
  | .t => { s with pins := { s.pins with tap := .testLogicReset, ir := 0x01 } }
  | .h => { s with pwr := { s.pwr with held := [] }, fwc := { s.fwc with mbxWait := [] } }
  | .m p => { s with mp := { s.mp with
      txns := s.mp.txns.filter (fun t => t.ifc / 8 ≠ p.toNat), waiting := s.mp.waiting.filter (fun t => t.ifc / 8 ≠ p.toNat)
      abandoned := s.mp.abandoned.filter (fun t => t.ifc / 8 ≠ p.toNat) } }
  | .c c => s.updCluster c (fun _ => {})

/-- RESET_ASSERT (R74, R75). -/
def execResetAssert (dom : Domain) (s : State) : Host.Outcome State Fault Refusal :=
  .next (if !s.build.hasDomain dom || s.pins.held dom then s
    else State.resetDomain { s with pins := setReset s.pins true dom } dom)

/-- The start (R562, R565, R524): the state of a start with the always-on retention; the epoch bit inverts (R46), the ledger
counts a whole-block reset, and the escalation history is clear. -/
def State.startUp (s : State) : State :=
  let n := s.restartBlock (!s.mp.epoch)
  State.count (State.clearIso { n with
    pwr := { n.pwr with state := .run, phase := .none_, pdReq := s.build.domains }
    fwc := { n.fwc with stamps := [], escTotal := 0 } }) 1

/-- RESET_RELEASE (R562): AORST_N brings the domains' supplies up (R65); with the last input released the block starts. -/
def execResetRelease (dom : Domain) (s : State) : Host.Outcome State Fault Refusal :=
  .next (if !s.build.hasDomain dom || !s.pins.held dom then s
    else
      let s : State := { s with pins := setReset s.pins false dom }
      let s := if dom = .ao then State.clearIso { s with pwr := { s.pwr with pdReq := s.build.domains } } else s
      if s.anyReset || dom = .t then s else s.startUp)

/-! ## Test mode and clocks -/

/-- TEST_MODE_CHANGE (R71): with every reset input asserted TEST_MODE changes; with any released the block's state is
undefined. -/
def execTestModeChange (level : Bool) (s : State) : Host.Outcome State Fault Refusal :=
  if level = s.pins.testMode then .next s
  else if s.pins.aoRst && s.allButAo then .next { s with pins := { s.pins with testMode := level } }
  else .fault .stateUndefined

/-- Positions of the power domains that a clock input serves (R64, R72); none for AOCLK. -/
def domainBits : Domain → BitVec 90
  | .ao => 0
  | .f => 1
  | .d => 1
  | .h => 2
  | .t => 0
  | .m p => BitVec.twoPow 90 (2 + p.toNat)
  | .c c => BitVec.twoPow 90 (26 + c.toNat)

/-- The domain of a clock input is powered down (R65). -/
def State.clockDown (s : State) (dom : Domain) : Bool := dom ≠ .ao && decide (dom ≠ .t) && decide (s.pwr.pdReq &&& domainBits dom = 0)

/-- Power states in which the clock may stop (R73, R512). -/
def State.mayStop (s : State) (dom : Domain) : Bool :=
  match s.pwr.state with
  | .sleep => decide (dom ≠ .h) && decide (dom ≠ .ao)
  | .deep => decide (dom ≠ .ao)
  | .off => decide (dom ≠ .ao)
  | _ => false

/-- What R73 and R563 allow a clock input to do; TCK is no clock of R72, and may do anything up to 50 MHz (R68). -/
def State.clockAllowed (s : State) (dom : Domain) (ev : ClockEvent) : Bool :=
  if dom = .t then true
  else match ev with
  | .changes =>
    (match dom with
     | .ao => true
     | .f => s.pins.fRst && s.pins.dRst
     | .d => s.pins.fRst && s.pins.dRst
     | _ => s.pins.held dom || s.clockDown dom)
  | .stops => s.pins.held dom || s.clockDown dom || s.mayStop dom
  | .leavesRange => s.pins.held dom || s.clockDown dom

/-- CLOCK_CHANGE (R563): where it is allowed it has no effect of its own; at any other time the block's state is undefined. -/
def execClockChange (dom : Domain) (ev : ClockEvent) (s : State) : Host.Outcome State Fault Refusal :=
  if !s.build.hasDomain dom || s.clockAllowed dom ev then .next s else .fault .stateUndefined

end Sys2Proof.Machine
end

