-- ==== Sys2Proof/Machine/Tick.lean ====
section
/-! DEFINITION. What happens on an empty queue of commands: one fclk cycle passes (R20, R21, R513; notes/assumptions/5). -/

namespace Sys2Proof.Machine

/-- FCLK counts: in RUN and IDLE, with its reset released (R20). -/
def State.counts (s : State) : Bool :=
  (s.pwr.state = .run || s.pwr.state = .idle) && !s.pins.fRst && !s.pins.aoRst

/-- One fclk cycle: FE_CYCLES counts (R20), and the conditions of IDLE hold from the next cycle on, while they do not hold
now (R513). -/
def State.tick (s : State) : State :=
  if s.counts then
    let s : State := { s with fe := { s.fe with cycles := s.fe.cycles + 1 } }
    if s.pwr.state = .run && !s.quiet then { s with pwr := { s.pwr with quietFc := s.fc } } else s
  else s

end Sys2Proof.Machine
end

