-- ==== Sys2Proof/Machine/Dispatch.lean ====
section
/-! DEFINITION. The dispatch of a command to its meaning: one arm per constructor of Instr. -/

namespace Sys2Proof.Machine

open Sys2Proof

def exec (i : Instr) (s : State) : Host.Outcome State Fault Refusal :=
  match i with
  | .inlineDoorbell q unit => Sys2Proof.Machine.execInlineDoorbell q unit s
  | .writePointerDoorbell q wp => Sys2Proof.Machine.execWritePointerDoorbell q wp s
  | .completionReadPointerDoorbell q rp => Sys2Proof.Machine.execCompletionReadPointerDoorbell q rp s
  | .sleepHostAccess a => Sys2Proof.Machine.execSleepHostAccess a s
  | .hostSignal n v => Sys2Proof.Machine.execHostSignal n v s
  | .irqClaim v => Sys2Proof.Machine.execIrqClaim v s
  | .irqComplete v value => Sys2Proof.Machine.execIrqComplete v value s
  | .irqSync => Sys2Proof.Machine.execIrqSync s
  | .irqPendingWrite k value events => Sys2Proof.Machine.execIrqPendingWrite k value events s
  | .irqEnableWrite k value => Sys2Proof.Machine.execIrqEnableWrite k value s
  | .xltFltRingWrite value => Sys2Proof.Machine.execXltFltRingWrite value s
  | .xltFltRpWrite value => Sys2Proof.Machine.execXltFltRpWrite value s
  | .fwcLogRingWrite value => Sys2Proof.Machine.execFwcLogRingWrite value s
  | .fwcLogRpWrite value => Sys2Proof.Machine.execFwcLogRpWrite value s
  | .lndProgBackingWrite value => Sys2Proof.Machine.execLndProgBackingWrite value s
  | .dckSwrCfgWrite r value => Sys2Proof.Machine.execDckSwrCfgWrite r value s
  | .deckRegionZeroed r => Sys2Proof.Machine.execDeckRegionZeroed r s
  | .start value => Sys2Proof.Machine.execStart value s
  | .fwcResetWhole => Sys2Proof.Machine.execFwcResetWhole s
  | .fwcResetFrontEnd => Sys2Proof.Machine.execFwcResetFrontEnd s
  | .registerWrite w => Sys2Proof.Machine.execRegisterWrite w s
  | .mailboxAccessTimeout page => Sys2Proof.Machine.execMailboxAccessTimeout page s
  | .hello page v => Sys2Proof.Machine.execHello page v s
  | .rtTableLoad page v image => Sys2Proof.Machine.execRtTableLoad page v image s
  | .tableActivation => Sys2Proof.Machine.execTableActivation s
  | .shareCfg page v => Sys2Proof.Machine.execShareCfg page v s
  | .sgCfg page v => Sys2Proof.Machine.execSgCfg page v s
  | .partAssign page v => Sys2Proof.Machine.execPartAssign page v s
  | .partitionJoin c => Sys2Proof.Machine.execPartitionJoin c s
  | .partRegulate page v => Sys2Proof.Machine.execPartRegulate page v s
  | .progQuery page v => Sys2Proof.Machine.execProgQuery page v s
  | .ucodePatch page v image => Sys2Proof.Machine.execUcodePatch page v image s
  | .ledgerRestore page v => Sys2Proof.Machine.execLedgerRestore page v s
  | .ledgerFlush page v => Sys2Proof.Machine.execLedgerFlush page v s
  | .wallclock page v => Sys2Proof.Machine.execWallclock page v s
  | .dumpArea page v => Sys2Proof.Machine.execDumpArea page v s
  | .powerPolicy page v => Sys2Proof.Machine.execPowerPolicy page v s
  | .fetchTurn => Sys2Proof.Machine.execFetchTurn s
  | .threadDispatch q => Sys2Proof.Machine.execThreadDispatch q s
  | .uopNop t => Sys2Proof.Machine.execUopNop t s
  | .uopAdd t => Sys2Proof.Machine.execUopAdd t s
  | .uopSub t => Sys2Proof.Machine.execUopSub t s
  | .uopAnd t => Sys2Proof.Machine.execUopAnd t s
  | .uopOr t => Sys2Proof.Machine.execUopOr t s
  | .uopXor t => Sys2Proof.Machine.execUopXor t s
  | .uopShl t => Sys2Proof.Machine.execUopShl t s
  | .uopShr t => Sys2Proof.Machine.execUopShr t s
  | .uopAddi t => Sys2Proof.Machine.execUopAddi t s
  | .uopAndi t => Sys2Proof.Machine.execUopAndi t s
  | .uopShli t => Sys2Proof.Machine.execUopShli t s
  | .uopMovi t => Sys2Proof.Machine.execUopMovi t s
  | .uopFld t => Sys2Proof.Machine.execUopFld t s
  | .uopBr t => Sys2Proof.Machine.execUopBr t s
  | .uopDrd t => Sys2Proof.Machine.execUopDrd t s
  | .uopObj t => Sys2Proof.Machine.execUopObj t s
  | .uopBlz t => Sys2Proof.Machine.execUopBlz t s
  | .uopSte t => Sys2Proof.Machine.execUopSte t s
  | .uopAdmit t => Sys2Proof.Machine.execUopAdmit t s
  | .uopRej t => Sys2Proof.Machine.execUopRej t s
  | .uopRejif t => Sys2Proof.Machine.execUopRejif t s
  | .deckWait t => Sys2Proof.Machine.execDeckWait t s
  | .xltMiss t => Sys2Proof.Machine.execXltMiss t s
  | .order t => Sys2Proof.Machine.execOrder t s
  | .header t => Sys2Proof.Machine.execHeader t s
  | .lock t => Sys2Proof.Machine.execLock t s
  | .runaway t uncorr => Sys2Proof.Machine.execRunaway t uncorr s
  | .rejectionPassage q => Sys2Proof.Machine.execRejectionPassage q s
  | .entryReady e => Sys2Proof.Machine.execEntryReady e s
  | .retirement e => Sys2Proof.Machine.execRetirement e s
  | .mirrorWrite n => Sys2Proof.Machine.execMirrorWrite n s
  | .nop st => Sys2Proof.Machine.execNop st s
  | .launch st => Sys2Proof.Machine.execLaunch st s
  | .haul st => Sys2Proof.Machine.execHaul st s
  | .signal st => Sys2Proof.Machine.execSignal st s
  | .wait st => Sys2Proof.Machine.execWait st s
  | .programLoad st => Sys2Proof.Machine.execProgramLoad st s
  | .graphLoad st => Sys2Proof.Machine.execGraphLoad st s
  | .graphLaunch st => Sys2Proof.Machine.execGraphLaunch st s
  | .graphNodeAdmission e => Sys2Proof.Machine.execGraphNodeAdmission e s
  | .graphPatch st => Sys2Proof.Machine.execGraphPatch st s
  | .graphRelease st => Sys2Proof.Machine.execGraphRelease st s
  | .contextCreate st => Sys2Proof.Machine.execContextCreate st s
  | .contextDestroy st => Sys2Proof.Machine.execContextDestroy st s
  | .queueBind st => Sys2Proof.Machine.execQueueBind st s
  | .queueUnbind st => Sys2Proof.Machine.execQueueUnbind st s
  | .objectFree st => Sys2Proof.Machine.execObjectFree st s
  | .tlbInvalidate st => Sys2Proof.Machine.execTlbInvalidate st s
  | .faultResume st => Sys2Proof.Machine.execFaultResume st s
  | .contextKill st => Sys2Proof.Machine.execContextKill st s
  | .blazeConfig st => Sys2Proof.Machine.execBlazeConfig st s
  | .selfTestCluster st => Sys2Proof.Machine.execSelfTestCluster st s
  | .selfTestFrontEnd st => Sys2Proof.Machine.execSelfTestFrontEnd st s
  | .selfTestDeck st => Sys2Proof.Machine.execSelfTestDeck st s
  | .microcodeDefinedOpcode t => Sys2Proof.Machine.execMicrocodeDefinedOpcode t s
  | .haulTake => Sys2Proof.Machine.execHaulTake s
  | .chunkStart engine slot => Sys2Proof.Machine.execChunkStart engine slot s
  | .lineLockAcquire engine slot => Sys2Proof.Machine.execLineLockAcquire engine slot s
  | .slashRingRetry => Sys2Proof.Machine.execSlashRingRetry s
  | .managerReadResponse ifc id resp poison data => Sys2Proof.Machine.execManagerReadResponse ifc id resp poison data s
  | .managerWriteResponse ifc id resp => Sys2Proof.Machine.execManagerWriteResponse ifc id resp s
  | .portTimeout => Sys2Proof.Machine.execPortTimeout s
  | .drainTimeout => Sys2Proof.Machine.execDrainTimeout s
  | .loaderRun e => Sys2Proof.Machine.execLoaderRun e s
  | .sharePlacement c => Sys2Proof.Machine.execSharePlacement c s
  | .bestEffortDispatch => Sys2Proof.Machine.execBestEffortDispatch s
  | .dequeTake c => Sys2Proof.Machine.execDequeTake c s
  | .steal c => Sys2Proof.Machine.execSteal c s
  | .residencyLoad ctx => Sys2Proof.Machine.execResidencyLoad ctx s
  | .reservationWindowOpen idx m => Sys2Proof.Machine.execReservationWindowOpen idx m s
  | .rtRelease idx => Sys2Proof.Machine.execRtRelease idx s
  | .windowClose idx => Sys2Proof.Machine.execWindowClose idx s
  | .majorFrame => Sys2Proof.Machine.execMajorFrame s
  | .accountingTick => Sys2Proof.Machine.execAccountingTick s
  | .queueTimerFire q => Sys2Proof.Machine.execQueueTimerFire q s
  | .waitGraphProbe => Sys2Proof.Machine.execWaitGraphProbe s
  | .launchStart c => Sys2Proof.Machine.execLaunchStart c s
  | .bundleIssue c stream cclk => Sys2Proof.Machine.execBundleIssue c stream cclk s
  | .launchComplete c => Sys2Proof.Machine.execLaunchComplete c s
  | .chainedLaunchStart c => Sys2Proof.Machine.execChainedLaunchStart c s
  | .preemptStop c => Sys2Proof.Machine.execPreemptStop c s
  | .switchOut c => Sys2Proof.Machine.execSwitchOut c s
  | .switchIn c => Sys2Proof.Machine.execSwitchIn c s
  | .doneToken c valid data epoch => Sys2Proof.Machine.execDoneToken c valid data epoch s
  | .creditReturn c pools => Sys2Proof.Machine.execCreditReturn c pools s
  | .flushed c msg => Sys2Proof.Machine.execFlushed c msg s
  | .yielded c msg => Sys2Proof.Machine.execYielded c msg s
  | .syncError c msg => Sys2Proof.Machine.execSyncError c msg s
  | .ctrlResponse c data err => Sys2Proof.Machine.execCtrlResponse c data err s
  | .saveBeat c data last => Sys2Proof.Machine.execSaveBeat c data last s
  | .restoreBeat c => Sys2Proof.Machine.execRestoreBeat c s
  | .engineReady c => Sys2Proof.Machine.execEngineReady c s
  | .engineReadyFall c => Sys2Proof.Machine.execEngineReadyFall c s
  | .readyTimeout c elapsed => Sys2Proof.Machine.execReadyTimeout c elapsed s
  | .ctrlTimeout c elapsed => Sys2Proof.Machine.execCtrlTimeout c elapsed s
  | .deckRowAccess bank reqs ecc => Sys2Proof.Machine.execDeckRowAccess bank reqs ecc s
  | .scrubRead ecc => Sys2Proof.Machine.execScrubRead ecc s
  | .lateWrite group gen src => Sys2Proof.Machine.execLateWrite group gen src s
  | .vectorMessage v => Sys2Proof.Machine.execVectorMessage v s
  | .irqMessageResend v => Sys2Proof.Machine.execIrqMessageResend v s
  | .firmwareClaim p => Sys2Proof.Machine.execFirmwareClaim p s
  | .firmwareComplete p source => Sys2Proof.Machine.execFirmwareComplete p source s
  | .bundleCheck bundle => Sys2Proof.Machine.execBundleCheck bundle s
  | .processorFailure p cause => Sys2Proof.Machine.execProcessorFailure p cause s
  | .fwWatchdogExpiry p elapsed => Sys2Proof.Machine.execFwWatchdogExpiry p elapsed s
  | .processorRestart p => Sys2Proof.Machine.execProcessorRestart p s
  | .restartTimeout p => Sys2Proof.Machine.execRestartTimeout p s
  | .idleEntry => Sys2Proof.Machine.execIdleEntry s
  | .idleExit => Sys2Proof.Machine.execIdleExit s
  | .autoPowerEntry => Sys2Proof.Machine.execAutoPowerEntry s
  | .powerPoll => Sys2Proof.Machine.execPowerPoll s
  | .pollTimeout => Sys2Proof.Machine.execPollTimeout s
  | .powerEntry => Sys2Proof.Machine.execPowerEntry s
  | .pwrAck ack deny => Sys2Proof.Machine.execPwrAck ack deny s
  | .pdPwrAck k good => Sys2Proof.Machine.execPdPwrAck k good s
  | .wakeN level => Sys2Proof.Machine.execWakeN level s
  | .wakeConsume => Sys2Proof.Machine.execWakeConsume s
  | .powerExit => Sys2Proof.Machine.execPowerExit s
  | .clusterWatchdogExpiry c elapsed => Sys2Proof.Machine.execClusterWatchdogExpiry c elapsed s
  | .suspectReplay c => Sys2Proof.Machine.execSuspectReplay c s
  | .frontEndReset => Sys2Proof.Machine.execFrontEndReset s
  | .wholeBlockReset => Sys2Proof.Machine.execWholeBlockReset s
  | .outOfService => Sys2Proof.Machine.execOutOfService s
  | .tokenReceive data => Sys2Proof.Machine.execTokenReceive data s
  | .tokenSend => Sys2Proof.Machine.execTokenSend s
  | .idcode => Sys2Proof.Machine.execIdcode s
  | .bypass ir => Sys2Proof.Machine.execBypass ir s
  | .mbistCtrl value => Sys2Proof.Machine.execMbistCtrl value s
  | .mbistStatus => Sys2Proof.Machine.execMbistStatus s
  | .mbistRunEnd result => Sys2Proof.Machine.execMbistRunEnd result s
  | .resetAssert dom => Sys2Proof.Machine.execResetAssert dom s
  | .resetRelease dom => Sys2Proof.Machine.execResetRelease dom s
  | .testModeChange level => Sys2Proof.Machine.execTestModeChange level s
  | .clockChange dom ev => Sys2Proof.Machine.execClockChange dom ev s
  | .regulatorBucketRefill p => Sys2Proof.Machine.execRegulatorBucketRefill p s
  | .messageAwaitTimeout v => Sys2Proof.Machine.execMessageAwaitTimeout v s
  | .syncRequestTaken c => Sys2Proof.Machine.execSyncRequestTaken c s
  | .mbxGoReservedCode page v => Sys2Proof.Machine.execMbxGoReservedCode page v s

end Sys2Proof.Machine
end

