-- ==== Sys2Proof/Safety.lean ====
section
/-! DEFINITION. What counts as a safe state of the block, in the terms that the statements use. -/

namespace Sys2Proof.Machine

/-- A run goes on: the step answers a next state. -/
def State.goesOn (s : State) : Prop := ∃ t, step s = .next t

/-- The build parameters have values that R3 allows. -/
abbrev Build.legal (b : Build) : Prop :=
  (b.clusters = 16 ∨ b.clusters = 32 ∨ b.clusters = 64) ∧ (b.memPorts = 4 ∨ b.memPorts = 8) ∧
  (b.deckMiB = 32 ∨ b.deckMiB = 64) ∧ (b.haulEngines = 8 ∨ b.haulEngines = 16)

/-- Source 0x3FF is neither pending, nor enabled, nor in service (R495, R508). -/
abbrev Irq.noSpurious (q : Irq) : Prop :=
  q.pending.getLsbD 0x3FF = false ∧ q.enable.getLsbD 0x3FF = false ∧ q.inService.getLsbD 0x3FF = false

/-- What every step keeps: a legal build (R3), no trace of source 0x3FF (R495), and the canonical form of the record tables and
of the Deck's software-managed bytes, so that equal machines are equal data. -/
structure State.Inv (s : State) : Prop where
  /-- The build is legal. -/
  build : s.build.legal
  /-- Source 0x3FF leaves no trace. -/
  irq : s.irq.noSpurious
  /-- The context records are in canonical form. -/
  ctxs : tblWf {} s.ctxs = true
  /-- The queue slots are in canonical form. -/
  queues : tblWf {} s.queues = true
  /-- The clusters are in canonical form. -/
  clusters : tblWf {} s.clusters = true
  /-- The Deck's bytes are in canonical form. -/
  mem : memWf s.dck.mem = true
  /-- The interrupt routes are in canonical form. -/
  routes : tblWf {} s.irq.routes = true
  /-- The Blazes are in canonical form. -/
  blazes : tblWf {} s.lnd.blazes = true
  /-- The graphs are in canonical form. -/
  graphs : tblWf {} s.lnd.graphs = true
  /-- The residency slots are in canonical form. -/
  slots : tblWf {} s.res.slots = true
  /-- The mailbox pages are in canonical form. -/
  mbx : tblWf {} s.fwc.mbx = true
  /-- The firmware processors are in canonical form. -/
  procs : tblWf {} s.fwc.procs = true
  /-- The threads are in canonical form. -/
  threads : tblWf {} s.uc.threads = true
  /-- The share groups are in canonical form. -/
  groups : tblWf {} s.yrd.groups = true

/-- Doorbells act on the queue: it is OPEN, its slot exists in the build, and the block is in service (R116, R398, R537). -/
abbrev State.queueOpen (s : State) (q : BitVec 14) : Prop :=
  s.fwc.state ≠ .outOfService ∧ (s.queue q).state = .open_ ∧ q.toNat < s.build.queueSlots

/-- The port serves a host write at once: it is open, and no write waits for the scheduler core ahead of it (R30, R31, R488). -/
abbrev State.takesWrite (s : State) : Prop := s.hostOpen = true ∧ s.fwc.mbxWait.any (fun x => isWrite x.1) = false

/-- The port serves a host read at once: it is open, and no read waits for the scheduler core ahead of it (R30, R31, R488). -/
abbrev State.takesRead (s : State) : Prop := s.hostOpen = true ∧ s.fwc.mbxWait.any (fun x => !isWrite x.1) = false

/-- The state in which a served access with an ID has its effect: the block is out of IDLE, and the ID is the one to echo (R26,
R517). -/
def State.takenAs (s : State) (id : BitVec 16) : State := { s.leaveIdle with fe := { s.fe with hostId := id } }

/-- The same for a command that stands for an access with ID 0. -/
def State.taken (s : State) : State := s.takenAs 0

/-- Source `n` is eligible for host vector `v`, its enable settled (R498, R504): routed to it, enabled, pending, not in
service. -/
abbrev State.eligibleFor (s : State) (v : BitVec 3) (n : Nat) : Prop :=
  n < 0x3FF ∧ (tget {} s.irq.routes n).host.getLsbD v.toNat = true ∧ s.irq.enable.getLsbD n = true ∧
  s.irq.pending.getLsbD n = true ∧ s.irq.inService.getLsbD n = false

/-- Source `n` is eligible for firmware processor `p` (R498, R501). -/
abbrev State.eligibleForProc (s : State) (p n : Nat) : Prop :=
  n < 0x3FF ∧ (tget {} s.irq.routes n).names p = true ∧ (s.proc p).enable.getLsbD n = true ∧
  s.irq.pending.getLsbD n = true ∧ s.irq.inService.getLsbD n = false

/-- The lowest number with a property. -/
def lowest (P : Nat → Prop) (n : Nat) : Prop := P n ∧ ∀ m, m < n → ¬P m

/-- The interrupt messages and the poll may run: no reset, in RUN or IDLE (R502, R533). -/
abbrev State.sendsMessages (s : State) : Prop :=
  s.fwc.feBusy = false ∧ s.fwc.wholeBusy = none ∧ s.pins.fRst = false ∧ s.pins.aoRst = false ∧
  (s.pwr.state = .run ∨ s.pwr.state = .idle)

/-! ## Mailbox requests -/

/-- A write of `v` to MBX_GO of `page` starts the request `code` that the page holds (R482, R483): the port serves accesses, the
scheduler core runs, the page is not BUSY, `v` is the request's SEQ and not that of the last request, and every reserved bit
is zero. -/
abbrev State.startsRequest (s : State) (page : BitVec 8) (v : W64) (code : Nat) : Prop :=
  s.takesWrite ∧ (s.proc procSched).state = .running ∧ s.fwc.feBusy = false ∧ (s.mbx page).state ≠ .busy ∧
  (s.mbx page).awaiting = false ∧ ((s.mbx page).state = .idle ∨ v.extractLsb' 0 32 ≠ (s.mbx page).seq) ∧
  v.extractLsb' 0 32 = (s.mbx page).req.extractLsb' 32 32 ∧ bits (s.mbx page).req 7 0 = code ∧ requestForm (s.mbx page).req = true

/-- The state once that write has its response and the request has started: the page is BUSY with SEQ `v`, and trace point 0x0002
is passed (R482, R489). -/
def State.started (s : State) (page : BitVec 8) (v : W64) : State :=
  let q : W32 := v.extractLsb' 0 32
  State.updMbx (State.trace (State.updMbx (s.taken.respond .okay 0) page (fun m => { m with state := .busy, seq := q }))
    0 procSched 0x0002 [page.toNat, bits (s.mbx page).req 7 0, q.toNat, 0]) page (fun m => { m with awaiting := false })

/-- The request `code` of a page waits for its image, which has been read as `image`, or could not be (R482, R484): `v` is its
SEQ, the scheduler core serves the mailbox, and the block is in RUN. -/
abbrev State.imageRead (s : State) (page : BitVec 8) (v : W64) (code : Nat) (image : Option (List Byte)) : Prop :=
  (s.mbx page).awaiting = true ∧ bits (s.mbx page).req 7 0 = code ∧ v.extractLsb' 0 32 = (s.mbx page).seq ∧
  requestForm (s.mbx page).req = true ∧ s.servesMbx = true ∧ s.inRun = true ∧ s.fwc.imageRead (some page) = some image

/-- Word `k` of the request that a page holds. -/
def State.param (s : State) (page : BitVec 8) (k : Nat) : W64 := reqWord (s.mbx page).req k

/-- The requests that name no image, with their codes (R484). -/
def plainRequests (page : BitVec 8) (v : W64) : List (Nat × Instr) :=
  [(0x01, .hello page v), (0x03, .shareCfg page v), (0x04, .sgCfg page v), (0x05, .partAssign page v), (0x06, .partRegulate page v),
   (0x07, .progQuery page v), (0x09, .ledgerRestore page v), (0x0A, .ledgerFlush page v), (0x0B, .wallclock page v),
   (0x0C, .dumpArea page v), (0x0D, .powerPolicy page v)]

/-! ## Test access -/

/-- The TAP stands where a scan begins, and TRST_N is not asserted (R68). -/
abbrev Pins.readyToScan (p : Pins) : Prop := p.trst = false ∧ (p.tap = .testLogicReset ∨ p.tap = .runTestIdle)

/-- The TAP after a scan of `ir`: its data register of `n` bits holds `dr`, and `out` came out on TDO (R68, R69). -/
def Pins.scanned (p : Pins) (ir : BitVec 8) (dr : W64) (n : Nat) (out : List Bool) : Pins :=
  { p with tap := .runTestIdle, ir, irShift := ir, dr, drLen := n, tdo := out }

/-- The low `n` bits of a value, the first one first. -/
def lowBits (v n : Nat) : List Bool := (List.range n).map (fun i => v.testBit i)

/-! ## Microwords -/

/-- The microword of thread `t` runs now: the front end runs, the thread is the one chosen, it has executed fewer than 4,096
microwords, and its word has zeros where its form requires them (R194, R197, R208). -/
abbrev State.runsWord (s : State) (t : BitVec 4) : Prop :=
  s.feRuns = true ∧ s.chosen = some t.toNat ∧ (s.thread t).count < 4096 ∧ uFormOk (s.microword t) = true

/-- The thread once a microword with result `v` for TD has run: one word more counted, the micro-PC at the next word, and TD
written where it is one of T1 to T23 (R198). -/
def Thread.wrote (x : Thread) (td : Nat) (v : W64) : Thread :=
  { x with count := x.count + 1, upc := x.upc + 1, regs := if 0 < td ∧ td < 24 then x.regs.setIfInBounds td v else x.regs }

/-! ## Entries that their executor takes -/

/-- Entry `e` is `x`, READY, unreported, and the front end runs, so that its executor takes it now (R221). -/
abbrev State.issues (s : State) (e : Nat) (x : Entry) : Prop :=
  s.entry e = some x ∧ x.state = .ready ∧ x.report = none ∧ s.feRuns = true

end Sys2Proof.Machine
end

