-- ==== Sys2Proof/Certificates/Slice0/Obligations.lean ====
section
/-! DEFINITION. The statements about the block, one definition each; OBLIGATIONS.json gives each its rule of the spec. -/

open Sys2Proof Sys2Proof.Machine

/-- A step takes the command at the front of the queue of waiting commands, and its outcome is that command's on the state with the rest of the queue. -/
def Obligations.StepRunsTheFrontCommand : Prop :=
  ∀ (c : Instr) (s : State), Sys2Proof.Machine.step { s with pending := c :: s.pending } = Sys2Proof.Machine.exec c s

/-- On an empty queue a step is one fclk cycle (the model's choice, notes/assumptions/5): FE_CYCLES counts once in RUN and IDLE with FRST_N and AORST_N released, and apart from the instant that the conditions of IDLE are measured from nothing else changes; in every other state the step changes nothing. -/
def Obligations.EmptyQueueCountsOneCycle : Prop :=
  ∀ s : State, s.pending = [] →
    ∃ t, Sys2Proof.Machine.step s = .next t ∧
      t = { s with fe := { s.fe with cycles := t.fe.cycles }, pwr := { s.pwr with quietFc := t.pwr.quietFc } } ∧
      (((s.pwr.state = .run ∨ s.pwr.state = .idle) ∧ s.pins.fRst = false ∧ s.pins.aoRst = false → t.fe.cycles = s.fe.cycles + 1) ∧
       (¬((s.pwr.state = .run ∨ s.pwr.state = .idle) ∧ s.pins.fRst = false ∧ s.pins.aoRst = false) → t = s))

/-- State.reset stands for the block after its start (R565): every context record and queue slot is FREE, every Blaze is unconfigured at value zero, every engine link is in reset, FWC_STATUS.STATE is IDLE, no source is pending or enabled, and no command waits. It meets the invariant State.Inv: a legal build, no trace of interrupt source 0x3FF, and the record tables and the Deck's bytes in canonical form. -/
def Obligations.ResetMeetsTheInvariant : Prop :=
  State.reset.Inv ∧ State.reset.pending = [] ∧ State.reset.fwc.state = .idle ∧ State.reset.pwr.state = .run ∧
  (∀ k, (State.reset.ctx k).state = .free) ∧ (∀ q, (State.reset.queue q).state = .free) ∧
  (∀ n, (State.reset.blaze n).configured = false ∧ (State.reset.blaze n).value = 0) ∧ (∀ c, (State.reset.cluster c).rstN = false) ∧
  State.reset.irq.pending = 0 ∧ State.reset.irq.enable = 0 ∧ State.reset.lnd.entries = [] ∧ State.reset.mp.txns = []

/-- Whatever command is at the front of the queue, and on an empty queue: a step from a state that meets State.Inv, if it answers a next state, answers one that meets State.Inv. Source 0x3FF never becomes pending, enabled or in service, the build parameters stay legal, and the tables and the Deck's bytes stay in canonical form. -/
def Obligations.EveryStepKeepsTheInvariant : Prop :=
  ∀ s t : State, s.Inv → Sys2Proof.Machine.step s = .next t → t.Inv

/-- Every command answers a next state, in every state of the block, except: TEST_MODE_CHANGE to another level while some reset input is released (R71), and CLOCK_CHANGE of a present clock input that R73 and R563 do not allow; those two stop with the fault stateUndefined, and no command is refused. -/
def Obligations.OnlyTestModeAndClocksStop : Prop :=
  ∀ (c : Instr) (s : State),
    (∃ t, Sys2Proof.Machine.exec c s = .next t) ∨
    (Sys2Proof.Machine.exec c s = .fault .stateUndefined ∧
      ((∃ level, c = .testModeChange level ∧ level ≠ s.pins.testMode ∧ ¬(s.pins.aoRst = true ∧ s.allButAo = true)) ∨
       (∃ dom ev, c = .clockChange dom ev ∧ s.build.hasDomain dom = true ∧ s.clockAllowed dom ev = false)))

/-- An inline doorbell at an OPEN queue, the port serving accesses (rules R140, R141, R152, R153, outside the completion-entry periods for the duplicate): behind the next serial, or with the serial of the full cell, the packet is counted in FE_DUP_CNT; else with the cell full it is counted in INL_REFUSED; ahead it enters the empty cell (and the instant that the timer of R159 counts from is noted where that arms it); next, with the admission checks' state, a thread and the bounds allowing it, it is sent on. Nothing else of the block changes but the response OKAY and the return from IDLE. -/
def Obligations.InlineDoorbellGoesOnStaysOrIsRefused : Prop :=
  ∀ (s : State) (q : BitVec 14) (u : W512),
    let ser : W32 := u.extractLsb' 32 32
    let d := sdiff32 ser (s.nextSerial q)
    let dup := d < 0 ∨ (∃ c, (s.queue q).cell = some c ∧ c.extractLsb' 32 32 = ser)
    let after (f : Queue → Queue) : Host.Outcome State Fault Refusal := .next ((s.taken.updQueue q f).respond .okay 0)
    s.Inv → s.takesWrite → s.queueOpen q →
      ((dup → s.cplDue q = false →
          Sys2Proof.Machine.exec (.inlineDoorbell q u) s = after (fun x => { x with dupCnt := x.dupCnt + 1 })) ∧
       (¬dup → (s.queue q).cell ≠ none →
          Sys2Proof.Machine.exec (.inlineDoorbell q u) s = after (fun x => { x with inlRefused := x.inlRefused + 1 })) ∧
       ((s.queue q).cell = none → 0 < d →
          ∃ fc, Sys2Proof.Machine.exec (.inlineDoorbell q u) s = after (fun x => { x with cell := some u, timerFc := fc }) ∧
            (s.tmoArmed q = true → fc = (s.queue q).timerFc)) ∧
       ((s.queue q).cell = none → d = 0 → s.check1 q (unitPkt u) = true → s.threadFree q = true →
          s.cplMayGo q = true → s.admits = true → s.uc.loaded = true → (s.queue q).fstate ≠ .blocked →
          Sys2Proof.Machine.exec (.inlineDoorbell q u) s = after (fun x => { x with inl := x.inl ++ [u] })))

/-- A write-pointer doorbell at an OPEN queue that has a ring (R139, R148; the overrun apart): DB_SEEN is set and a PARKED queue becomes WOKEN; an older value is counted in STALE_WP, a repeat changes nothing more, and a value that passes no unread unit becomes WP. Nothing else of the block changes but the response OKAY and the return from IDLE. -/
def Obligations.WritePointerDoorbellAdvancesTheRing : Prop :=
  ∀ (s : State) (q : BitVec 14) (wp : W32),
    let x := s.queue q
    let d := sdiff32 wp x.wp
    let rung : Queue := { x with dbSeen := true, fstate := if x.fstate = .parked then .woken else x.fstate }
    s.Inv → s.takesWrite → s.queueOpen q → x.ringLog2 ≠ 0 → (d ≤ 0 ∨ (wp - x.rp).toNat ≤ 2 ^ x.ringLog2.toNat) →
      ∃ t, Sys2Proof.Machine.exec (.writePointerDoorbell q wp) s = .next t ∧
        t = (({ s.taken with queues := t.queues } : State)).respond .okay 0 ∧
        (∀ p, p ≠ q → t.queue p = s.queue p) ∧
        t.queue q = if d < 0 then { rung with staleWp := x.staleWp + 1 } else if d = 0 then rung else { rung with wp }

/-- A completion read-pointer doorbell at an OPEN queue (R161): a value that makes CPL_WP − CPL_RP neither negative nor greater than 2^CPL_LOG2 becomes CPL_RP and nothing else of the queues changes; any other value changes no queue and is recorded in the error log as event CPL_RP_BAD with the context, the queue and the value. -/
def Obligations.CompletionDoorbellMovesCplRp : Prop :=
  ∀ (s : State) (q : BitVec 14) (rp : W32),
    let d := sdiff32 (s.queue q).cplWp rp
    s.takesWrite → s.queueOpen q →
      ((0 ≤ d ∧ d ≤ 2 ^ (s.queue q).cplLog2.toNat →
          Sys2Proof.Machine.exec (.completionReadPointerDoorbell q rp) s =
            .next ((s.taken.updQueue q (fun x => { x with cplRp := rp })).respond .okay 0)) ∧
       (¬(0 ≤ d ∧ d ≤ 2 ^ (s.queue q).cplLog2.toNat) →
          Sys2Proof.Machine.exec (.completionReadPointerDoorbell q rp) s =
            .next ((s.taken.logHw 0x0004 0x00 (some (s.queue q).ctx) (some q) rp.toNat).respond .okay 0)))

/-- In FREE, DRAINING and FAILED, and at a slot the build does not have, an inline, write-pointer or completion read-pointer doorbell receives OKAY and has no effect except an entry in the error log: event DOORBELL_IGNORED with the queue and the window offset of the doorbell (R116, R398, R546). -/
def Obligations.DoorbellAtAnotherQueueIsOnlyRecorded : Prop :=
  ∀ (s : State) (q : BitVec 14), s.takesWrite → s.fwc.state ≠ .outOfService →
    ¬((s.queue q).state = .open_ ∧ q.toNat < s.build.queueSlots) →
      let after (off : Nat) : Host.Outcome State Fault Refusal :=
        .next ((s.taken.logHw 0x0003 0x00 none (some q) (0x4000000 + 0x1000 * q.toNat + off)).respond .okay 0)
      (∀ u, Sys2Proof.Machine.exec (.inlineDoorbell q u) s = after 0) ∧
      (∀ wp, Sys2Proof.Machine.exec (.writePointerDoorbell q wp) s = after 0x40) ∧
      (∀ rp, Sys2Proof.Machine.exec (.completionReadPointerDoorbell q rp) s = after 0x80)

/-- In SLEEP (and from step 6 of an entry to SLEEP on) an accepted host access joins the held accesses, behind those already held, and is a wake event unless the exit already runs; it has no other effect until the block is back in RUN (R33, R516). While the port serves accesses none is held. -/
def Obligations.AccessInSleepIsHeldAndWakes : Prop :=
  ∀ (s : State) (a : HostAccess),
    (s.hostHolds = true →
      ∃ t, Sys2Proof.Machine.exec (.sleepHostAccess a) s = .next t ∧ t.pwr.held = s.pwr.held ++ [a] ∧
        (s.pwr.phase ≠ .exiting → t.pwr.wake = true) ∧
        t = { s with pwr := { s.pwr with held := t.pwr.held, wake := t.pwr.wake, wakeLate := t.pwr.wakeLate } }) ∧
    (s.hostHolds = false → Sys2Proof.Machine.exec (.sleepHostAccess a) s = .next s)

/-- A host write of BLZ_VALUE, the port serving it at once, the block in service and no other update of the Blaze in the same cycle (R224, R227, R229): to a Blaze that is not configured it is counted in BLZ_DROP_CNT.UNCONF; to one in ERROR in BLZ_DROP_CNT.ERROR; a value equal to the Blaze's has no effect; one that it has passed is counted in BLZ_STALE_CNT; any other becomes the value, makes the mirror due, and meets the waits it reaches. The write receives OKAY and nothing else changes. -/
def Obligations.HostSignalSetsTheBlaze : Prop :=
  ∀ (s : State) (n : BitVec 16) (v : W64),
    let b := s.blaze n
    let r := s.taken
    let becomes (value : W64) (drop stale : W32) (last : BitVec 16) : Prop :=
      ∃ t : State, Sys2Proof.Machine.exec (.hostSignal n v) s = .next (t.respond .okay 0) ∧
        t = { r with lnd := { s.lnd with
          blazes := t.lnd.blazes, entries := t.lnd.entries
          dropError := s.lnd.dropError + drop, staleCount := s.lnd.staleCount + stale, staleLast := last } } ∧
        t.blaze n = { b with value, mirrorDue := b.mirrorDue || (b.mirrorEn && decide (value ≠ b.value)), cycle := (t.blaze n).cycle } ∧
        (∀ m, m ≠ n → t.blaze m = s.blaze m) ∧
        t.lnd.entries = if value = b.value then s.lnd.entries else ((s.updBlaze n (fun b => { b with value })).noteMet n).lnd.entries
    s.Inv → s.takesWrite → s.fwc.state ≠ .outOfService → n.toNat < s.build.blazes → (∀ y, b.cycle = some y → y.fc ≠ s.fc) →
      ((b.configured = false → Sys2Proof.Machine.exec (.hostSignal n v) s =
          .next (State.respond { r with lnd := { s.lnd with dropUnconf := s.lnd.dropUnconf + 1 } } .okay 0)) ∧
       (b.configured = true → b.error = true → becomes b.value 1 0 s.lnd.staleLast) ∧
       (b.configured = true → b.error = false → v = b.value → becomes b.value 0 0 s.lnd.staleLast) ∧
       (b.configured = true → b.error = false → v ≠ b.value → reached b.value v = true → becomes b.value 0 1 n) ∧
       (b.configured = true → b.error = false → reached b.value v = false → becomes v 0 0 s.lnd.staleLast))

/-- The port serving accesses (R439): a write of XLT_FLT_RING with an allowed LOG2, while HELD is 0 and no record write is outstanding, sets the slash ring and its WP and RP to 0, and any other write of it is ignored and recorded in the error log; a write of XLT_FLT_PTRS.RP that keeps WP − RP from 0 to 2^LOG2 becomes RP (and the oldest held record is posted, if that makes room), and any other is ignored and recorded in the error log. Each receives OKAY, and nothing else changes. -/
def Obligations.SlashRingRegistersTakeWritesInTheirRange : Prop :=
  ∀ (s : State) (v : W64), s.takesWrite →
    let r := s.taken
    let okay (t : State) : Host.Outcome State Fault Refusal := .next (t.respond .okay 0)
    let recorded := okay (r.logHw 0x0009 0x00 none none v.toNat)
    let rp : W32 := v.extractLsb' 32 32
    let size := bits v 4 0
    let free := (∀ x ∈ s.xlt.held, x.unposted = false) ∧ s.xlt.posting = none
    (free → (size = 0 ∨ (7 ≤ size ∧ size ≤ 16)) →
      Sys2Proof.Machine.exec (.xltFltRingWrite v) s = okay (State.postNext { r with xlt := { s.xlt with
        ringPfn := v.extractLsb' 24 40, ringLog2 := v.extractLsb' 0 5, wp := 0, rp := 0 } })) ∧
    (¬free → Sys2Proof.Machine.exec (.xltFltRingWrite v) s = recorded) ∧
    (¬(size = 0 ∨ (7 ≤ size ∧ size ≤ 16)) → Sys2Proof.Machine.exec (.xltFltRingWrite v) s = recorded) ∧
    ((s.xlt.wp - rp).toNat ≤ 2 ^ s.xlt.ringLog2.toNat →
      Sys2Proof.Machine.exec (.xltFltRpWrite v) s = okay (State.postNext { r with xlt := { s.xlt with rp } })) ∧
    (2 ^ s.xlt.ringLog2.toNat < (s.xlt.wp - rp).toNat → Sys2Proof.Machine.exec (.xltFltRpWrite v) s = recorded)

/-- The port serving accesses (R493): a write of FWC_LOG_RING sets the log ring with WP and RP 0, and a write of FWC_LOG_PTRS.RP becomes RP if WP − RP is then from 0 to 2^LOG2 and is else ignored. Each receives OKAY, and nothing else changes. -/
def Obligations.LogRingRegistersTakeWritesInTheirRange : Prop :=
  ∀ (s : State) (v : W64), s.takesWrite →
    let r := s.taken
    let okay (t : State) : Host.Outcome State Fault Refusal := .next (t.respond .okay 0)
    let rp : W32 := v.extractLsb' 32 32
    (Sys2Proof.Machine.exec (.fwcLogRingWrite v) s = okay { r with fwc := { s.fwc with
        logPfn := v.extractLsb' 24 40, logLog2 := v.extractLsb' 0 5, logWp := 0, logRp := 0 } }) ∧
    ((s.fwc.logWp - rp).toNat ≤ 2 ^ s.fwc.logSize →
      Sys2Proof.Machine.exec (.fwcLogRpWrite v) s = okay { r with fwc := { s.fwc with logRp := rp } }) ∧
    (2 ^ s.fwc.logSize < (s.fwc.logWp - rp).toNat → Sys2Proof.Machine.exec (.fwcLogRpWrite v) s = okay r)

/-- The port serving accesses (R347, R400): before READY a write of LND_PROG_BACKING sets the backing area and FREE_PAGES to PAGES, and from READY on it is ignored; a write of DCK_SWR_CFGr of a region neither BUSY nor ZEROING sets VALID and CONTEXT, and ZEROING if either changes, and nothing else. A region that is ZEROING becomes assigned with every byte of its 32 KiB zero; every other byte of the Deck and every other region is as before. -/
def Obligations.BackingAndRegionRegisters : Prop :=
  ∀ (s : State), s.Inv →
    (∀ v : W64, s.takesWrite → s.fwc.state ≠ .ready → s.fwc.state ≠ .outOfService →
      Sys2Proof.Machine.exec (.lndProgBackingWrite v) s = .next (State.respond { s.taken with lnd := { s.lnd with
        backPfn := v.extractLsb' 24 40, backPages := v.extractLsb' 0 24, freePages := v.extractLsb' 0 24 } } .okay 0)) ∧
    (∀ v : W64, s.takesWrite → s.fwc.state = .ready →
      Sys2Proof.Machine.exec (.lndProgBackingWrite v) s = .next (s.taken.respond .okay 0)) ∧
    (∀ (r : BitVec 6) (v : W64), s.takesWrite → r.toNat < s.build.swRegions → s.taken.regionBusy r.toNat = false →
      (tget {} s.dck.regions r.toNat).zeroing = false →
      let x := tget {} s.dck.regions r.toNat
      let y : SwRegion := { valid := bit v 63, ctx := v.extractLsb' 0 20, zeroing := decide (bit v 63 ≠ x.valid ∨ v.extractLsb' 0 20 ≠ x.ctx) }
      Sys2Proof.Machine.exec (.dckSwrCfgWrite r v) s =
        .next (State.respond { s.taken with dck := { s.dck with regions := tset {} s.dck.regions r.toNat y } } .okay 0)) ∧
    (∀ r : BitVec 6, (tget {} s.dck.regions r.toNat).zeroing = true →
      ∃ t, Sys2Proof.Machine.exec (.deckRegionZeroed r) s = .next t ∧
        (∀ a, memRead t.dck.mem a = if 32768 * r.toNat ≤ a ∧ a < 32768 * r.toNat + 32768 then 0 else memRead s.dck.mem a) ∧
        t = { s with dck := { s.dck with mem := t.dck.mem, lostRows := t.dck.lostRows, regions := tupd {} s.dck.regions r.toNat (fun x => { x with zeroing := false }) } })

/-- The port serving accesses (R471, R538, R536, R565): FWC_CTRL with START 1 in IDLE takes DRV_IF, starts the security core and moves STATE to VERIFYING, raising interrupt source START; in any other state it is ignored. FWC_RESET.WHOLE reads 1, clears the escalation history and requests a whole-block reset with cause DRIVER. FWC_RESET.FRONT_END reads 1 and requests a front-end reset in READY, and is ignored in any other state. Each receives OKAY and changes nothing else. -/
def Obligations.FirmwareStartAndResetRequests : Prop :=
  ∀ (s : State), s.takesWrite →
    let okay (t : State) : Host.Outcome State Fault Refusal := .next (t.respond .okay 0)
    (∀ v : W64, s.fwc.state = .idle → bit v 0 = true →
      Sys2Proof.Machine.exec (.start v) s = okay (State.raise
        { s.taken with fwc := { s.fwc with
            drvIf := v.extractLsb' 16 16, startBit := true, state := .verifying
            procs := tupd {} s.fwc.procs 0 (fun p => { p with state := .running }) } } 0x005)) ∧
    (∀ v : W64, s.fwc.state ≠ .idle → Sys2Proof.Machine.exec (.start v) s = okay s.taken) ∧
    Sys2Proof.Machine.exec .fwcResetWhole s =
      okay (State.ask { s.taken with fwc := { s.fwc with resetWhole := true, stamps := [], escTotal := 0 } } kindWhole 0x0A) ∧
    (s.fwc.state = .ready → Sys2Proof.Machine.exec .fwcResetFrontEnd s =
      okay (State.ask { s.taken with fwc := { s.fwc with resetFe := true } } kindFrontEnd 0x0A)) ∧
    (s.fwc.state ≠ .ready → Sys2Proof.Machine.exec .fwcResetFrontEnd s = okay s.taken)

/-- The port serving accesses (R28, R556): 8-byte writes of FE_FN_CFG, HAU_MP_CFG, DCK_SCRUB and FWC_TRACE_EN set exactly the fields of those registers that the host may write; an 8-byte write of an offset of the global window that names no register changes nothing and receives OKAY; and a write whose form R28 does not allow receives SLVERR and changes nothing. -/
def Obligations.RegisterWritesChangeOnlyTheirFields : Prop :=
  ∀ (s : State) (w : HostWrite), s.Inv → s.takesWrite →
    let v : W64 := w.data.extractLsb' 0 64
    let r := s.takenAs w.id
    let run := Sys2Proof.Machine.exec (.registerWrite w) s
    let okay (t : State) : Host.Outcome State Fault Refusal := .next (t.respond .okay 0)
    (writeForm w = false → run = .next (r.respond .slverr 0)) ∧
    (writeForm w = true → w.size = .b8 →
      (w.addr = 0x0F000 → run = okay { r with fe := { r.fe with fnEnable := bit v 0, chipNum := v.extractLsb' 16 16 } }) ∧
      (w.addr = 0x3F000 → run = okay { r with mp := { s.mp with retryLimit := v.extractLsb' 0 4, drainLog2 := v.extractLsb' 24 8 } }) ∧
      (w.addr = 0x40008 → run = okay { r with dck := { s.dck with failThresh := v.extractLsb' 0 8, passLog2 := v.extractLsb' 24 8 } }) ∧
      (w.addr = 0x90058 → run = okay { r with fwc := { s.fwc with trace := v.extractLsb' 0 8 } }) ∧
      (0xE0000 ≤ w.addr.toNat → w.addr.toNat < 0x100000 → run = okay r))

/-- A mailbox access of the page, the only access that waits, has waited 16,384 fc for the scheduler core: it receives SLVERR with its own ID, is no longer waiting, and has no other effect (R32). -/
def Obligations.MailboxAccessTimesOut : Prop :=
  ∀ (s : State) (page : BitVec 8) (a : HostAccess) (fc : Nat),
    s.fwc.mbxWait = [(a, fc)] → isMailbox a = true → accessPage a = page.toNat → fc + 16384 ≤ s.fc →
      Sys2Proof.Machine.exec (.mailboxAccessTimeout page) s =
        .next { s with
          fwc := { s.fwc with mbxWait := [] }
          fe := { s.fe with hostId := accessId a, resp := { resp := .slverr, data := 0, notBefore := s.fc, id := accessId a } } }

/-- A read of IRQ_CLAIMv, the port serving accesses and no enable changing (R498 to R500, R502): a vector that is SERVING gets 0x3FF and nothing changes; else the lowest-numbered eligible source is returned, its pending bit is cleared, it is in service, and the vector is SERVING and holds it; with none eligible the claim returns 0x3FF, a SENT vector becomes IDLE, and nothing else changes. No other bit, vector or part of the block changes. -/
def Obligations.HostClaimTakesTheLowestEligibleSource : Prop :=
  ∀ (s : State) (v : BitVec 3), s.Inv → s.takesRead →
    let returns (t : State) (n : Nat) : Host.Outcome State Fault Refusal := .next (t.respond .okay (BitVec.ofNat 512 n))
    let run := Sys2Proof.Machine.exec (.irqClaim v) s
    let r := s.taken
    ((s.vec v).state = .serving → run = returns r 0x3FF) ∧
    ((s.vec v).state ≠ .serving → s.irq.grace = [] →
      (∀ n, lowest (s.eligibleFor v) n →
        ∃ t, run = returns t n ∧
          (∀ m, t.irq.pending.getLsbD m = (s.irq.pending.getLsbD m && decide (m ≠ n))) ∧
          (∀ m, t.irq.inService.getLsbD m = (s.irq.inService.getLsbD m || decide (m = n))) ∧
          t = ({ r with irq := { s.irq with pending := t.irq.pending, inService := t.irq.inService } } : State).updVec v
            (fun x => { x with state := .serving, held := some (BitVec.ofNat 10 n) })) ∧
      ((∀ n, ¬s.eligibleFor v n) → (s.vec v).state = .sent → run = returns (r.updVec v (fun x => { x with state := .idle })) 0x3FF) ∧
      ((∀ n, ¬s.eligibleFor v n) → (s.vec v).state = .idle → run = returns r 0x3FF))

/-- A write of IRQ_COMPLETEv with the held source, and a firmware processor's completion of the source it holds (R500 to R502, R546): the source is in service no longer and the target holds none, a host vector becoming IDLE. A completion of a source that the target does not hold changes nothing but the error log, with event IRQ_COMPLETE_BAD and the source. A host write is noted for IRQ_SYNC in both cases. -/
def Obligations.CompletionEndsServiceOfTheHeldSource : Prop :=
  ∀ (s : State),
    (∀ (v : BitVec 3) (value : W64), s.takesWrite →
      let n : BitVec 10 := value.extractLsb' 0 10
      let okay (t : State) : Host.Outcome State Fault Refusal := .next (t.respond .okay 0)
      let r : State := { s.taken with irq := { s.irq with writeFc := some s.fc } }
      ((s.vec v).state = .serving ∧ (s.vec v).held = some n →
        Sys2Proof.Machine.exec (.irqComplete v value) s = okay (State.updVec
          { r with irq := { r.irq with inService := s.irq.inService &&& ~~~(BitVec.twoPow 1024 n.toNat) } } v
          (fun x => { x with state := .idle, held := none }))) ∧
      (¬((s.vec v).state = .serving ∧ (s.vec v).held = some n) →
        Sys2Proof.Machine.exec (.irqComplete v value) s = okay (r.logHw 0x000B 0x00 none none n.toNat))) ∧
    (∀ (p : BitVec 7) (n : BitVec 10), (s.proc p.toNat).state = .running →
      ((s.proc p.toNat).held = some n →
        Sys2Proof.Machine.exec (.firmwareComplete p n) s = .next (State.updProc
          { s with irq := { s.irq with inService := s.irq.inService &&& ~~~(BitVec.twoPow 1024 n.toNat) } } p.toNat
          (fun x => { x with held := none }))) ∧
      ((s.proc p.toNat).held ≠ some n →
        Sys2Proof.Machine.exec (.firmwareComplete p n) s = .next (s.logHw 0x000B 0x00 none none n.toNat)))

/-- The port serving accesses (R495, R496, R503, R508): after a write of IRQ_PENDINGk every bit of word k is the written bit, or 1 for a source that has an event in the same cycle, and every other pending bit is as before; after a write of IRQ_ENABLEk every bit of word k is the written bit and every other enable bit is as before; bit 0x3FF stays 0 in both. A pending write leaves the enables and an enable write the pending bits, both leave what is in service, and each receives OKAY. -/
def Obligations.PendingAndEnableWordsAreReplacedWhole : Prop :=
  ∀ (s : State) (k : BitVec 4) (value events : W64), s.Inv → s.takesWrite →
    let inWord (m : Nat) : Prop := m / 64 = k.toNat ∧ m ≠ 0x3FF
    let event (m : Nat) : Bool := events.getLsbD (m % 64) && raisable s.build.clusters m
    (∃ t, Sys2Proof.Machine.exec (.irqPendingWrite k value events) s = .next t ∧
      (∀ m, m < 1024 → t.irq.pending.getLsbD m = if inWord m then value.getLsbD (m % 64) || event m else s.irq.pending.getLsbD m) ∧
      t = State.respond { s.taken with irq := { s.irq with pending := t.irq.pending, writeFc := some s.fc }, pwr := t.pwr } .okay 0) ∧
    (∃ t, Sys2Proof.Machine.exec (.irqEnableWrite k value) s = .next t ∧
      (∀ m, m < 1024 → t.irq.enable.getLsbD m = if inWord m then value.getLsbD (m % 64) else s.irq.enable.getLsbD m) ∧
      t = State.respond { s.taken with irq := { s.irq with enable := t.irq.enable, writeFc := some s.fc, grace := t.irq.grace } } .okay 0)

/-- A read of IRQ_SYNC, the port serving accesses (R505, R509), returns zero with OKAY, no earlier than the cycle of the read and no earlier than 13 fc after the last write of the IRQ block took effect; nothing else changes. -/
def Obligations.SyncReadWaitsForTheIrqWrites : Prop :=
  ∀ (s : State), s.takesRead →
    ∃ t, Sys2Proof.Machine.exec .irqSync s = .next t ∧ t.fe.resp.resp = .okay ∧ t.fe.resp.data = 0 ∧ s.fc ≤ t.fe.resp.notBefore ∧
      (∀ f, s.irq.writeFc = some f → f + 13 ≤ t.fe.resp.notBefore) ∧
      t = { s.taken with fe := { s.taken.fe with resp := t.fe.resp } }

/-- Outside resets, in RUN or IDLE, no enable changing (R52, R54, R502): a vector that is IDLE with EN 1 and awaits no response issues one write of four bytes with the number of its lowest eligible source at its address on interface 0.0, is SENT and awaits the response; 65,536 fc after a failure the message goes out again with the same number. Nothing changes but the vector, the manager ports and what they draw on. -/
def Obligations.HostVectorsSendOneMessage : Prop :=
  ∀ (s : State) (v : BitVec 3), s.Inv → s.sendsMessages →
    let message (n : Nat) : Txn := { write := true, ifc := 0, epoch := s.mp.epoch, source := srcIrq, slot := 0, pa := 4 * (s.vec v).addr.toNat, len := 4, prot := 3, cache := 0, qos := 0xF, retries := 0, data := toBytes 4 n, purpose := .irqMessage v.toNat, fc := s.fc }
    let out (x : Vec) (n : Nat) : Vec := { x with msgOut := true, msgSource := BitVec.ofNat 10 n, msgFc := s.fc, failedFc := none }
    ((s.vec v).en = true → (s.vec v).state = .idle → (s.vec v).msgOut = false → s.irq.grace = [] → ∀ n, lowest (s.eligibleFor v) n →
      Sys2Proof.Machine.exec (.vectorMessage v) s = .next (State.issueTxn (s.updVec v (fun x => out { x with state := .sent } n)) (message n))) ∧
    (∀ f, (s.vec v).failedFc = some f → f + 65536 ≤ s.fc →
      Sys2Proof.Machine.exec (.irqMessageResend v) s =
        .next (State.issueTxn (s.updVec v (fun x => out x (s.vec v).msgSource.toNat)) (message (s.vec v).msgSource.toNat)))

/-- A claim by a running firmware processor that holds no source (R498 to R501): the lowest-numbered source routed to it, enabled by it, pending and not in service becomes in service and no longer pending, with the processor as its holder. No other bit or processor and no other part of the block changes; with none eligible nothing changes. -/
def Obligations.FirmwareClaimTakesTheLowestEligibleSource : Prop :=
  ∀ (s : State) (p : BitVec 7), s.Inv → (s.proc p.toNat).state = .running → (s.proc p.toNat).held = none →
    (∀ n, lowest (s.eligibleForProc p.toNat) n →
      ∃ t, Sys2Proof.Machine.exec (.firmwareClaim p) s = .next t ∧
        (∀ m, t.irq.pending.getLsbD m = (s.irq.pending.getLsbD m && decide (m ≠ n))) ∧
        (∀ m, t.irq.inService.getLsbD m = (s.irq.inService.getLsbD m || decide (m = n))) ∧
        t = ({ s with irq := { s.irq with pending := t.irq.pending, inService := t.irq.inService } } : State).updProc p.toNat
          (fun x => { x with held := some (BitVec.ofNat 10 n) })) ∧
    ((∀ n, ¬s.eligibleForProc p.toNat n) → Sys2Proof.Machine.exec (.firmwareClaim p) s = .next s)

/-- For each request that names no image, the port serving accesses and the scheduler core running (R482): a value equal to the page's SEQ while its state is BUSY or DONE has no effect; otherwise a BUSY page, or a value other than the request's SEQ, changes nothing but the error log, with event MBX_GO_IGNORED, the page and the value. The write receives OKAY in each case. -/
def Obligations.MailboxGoWritesThatStartNothing : Prop :=
  ∀ (s : State) (page : BitVec 8) (v : W64) (code : Nat) (c : Instr), (code, c) ∈ plainRequests page v → s.Inv → s.takesWrite →
    (s.proc procSched).state = .running → s.fwc.feBusy = false → bits (s.mbx page).req 7 0 = code →
      let q : W32 := v.extractLsb' 0 32
      let m := s.mbx page
      let r := s.taken.respond .okay 0
      (q = m.seq ∧ m.state ≠ .idle → Sys2Proof.Machine.exec c s = .next r) ∧
      (¬(q = m.seq ∧ m.state ≠ .idle) → (m.state = .busy ∨ q ≠ m.req.extractLsb' 32 32) →
        Sys2Proof.Machine.exec c s = .next (r.logHw 0x000A 0x00 none none (page.toNat + q.toNat * 2 ^ 32)))

/-- A write of MBX_GO that starts a request with a reserved CODE, or with a non-zero reserved bit (R483): the page becomes DONE with STATUS MALFORMED and a response of zero, and the request has no other effect. -/
def Obligations.ReservedRequestsAreMalformed : Prop :=
  ∀ (s : State) (page : BitVec 8) (v : W64), s.Inv → s.takesWrite → (s.proc procSched).state = .running → s.fwc.feBusy = false →
    (s.mbx page).state = .idle → (s.mbx page).awaiting = false → v.extractLsb' 0 32 = (s.mbx page).req.extractLsb' 32 32 →
    (requestAssigned (bits (s.mbx page).req 7 0) = false ∨ requestForm (s.mbx page).req = false) →
      Sys2Proof.Machine.exec (.mbxGoReservedCode page v) s = .next ((s.started page v).mbxDone page 0x04 0)

/-- The completion of a request (R481, R483): the page is DONE with the STATUS and response given, keeps its request and SEQ, every other page is as before, and with NOTIFY 1 interrupt source 0x100 + page becomes pending. -/
def Obligations.RequestCompletionIsVisibleToTheDriver : Prop :=
  ∀ (s : State) (page : BitVec 8) (status : BitVec 8) (resp : W512), s.Inv →
    let t := s.mbxDone page status resp
    t.mbx page = { s.mbx page with state := .done, status, resp } ∧ (∀ p, p ≠ page → t.mbx p = s.mbx p) ∧
    (bit (s.mbx page).req 8 = true → t.irq.pending.getLsbD (0x100 + page.toNat) = true) ∧ t.irq.enable = s.irq.enable

/-- A started request (R270, R271, R484, R485): HELLO completes OK with the firmware and interface versions; SHARE_CFG sets CAP_FC and QUANTUM_FC; SG_CFG sets a group's weight and partition unless the group would move while a context of it is ACTIVE, when it ends BUSY_REFUSED with no effect; PROG_QUERY answers zero for a program with no binding and else the binding with its state, status, reject code and record. Nothing else changes but the page and what its completion raises and traces. -/
def Obligations.HelloSharesAndProgramQueries : Prop :=
  ∀ (s : State) (page : BitVec 8) (v : W64), s.Inv →
    let r := s.started page v
    let w := s.param page 1
    let g := bits w 7 0
    let moves := (tget {} s.yrd.groups g).partition ≠ w.extractLsb' 8 3 ∧ ∃ x ∈ s.ctxs, x.2.state = .active ∧ x.2.shareGroup.toNat = g
    let k : BitVec 20 := w.extractLsb' 0 20
    let p : BitVec 16 := w.extractLsb' 32 16
    let b := tget 0 s.lnd.current (65536 * k.toNat + p.toNat)
    (s.startsRequest page v 0x01 → Sys2Proof.Machine.exec (.hello page v) s = .next (r.mbxDone page 0x00 (respWords
      [s.fwc.fwVersion, BitVec.ofNat 64 (s.fwc.ifMin.toNat + s.fwc.ifMax.toNat * 2 ^ 16 + s.fwc.drvIf.toNat * 2 ^ 32)]))) ∧
    (s.startsRequest page v 0x03 → Sys2Proof.Machine.exec (.shareCfg page v) s = .next (State.mbxDone { r with yrd := { s.yrd with
      capFc := BitVec.ofNat 32 (bits w 62 32), quantumFc := BitVec.ofNat 32 (bits w 31 0) } } page 0x00 0)) ∧
    (s.startsRequest page v 0x04 → ¬moves → Sys2Proof.Machine.exec (.sgCfg page v) s = .next (State.mbxDone { r with yrd := { s.yrd with
      groups := tupd {} s.yrd.groups g (fun x => { x with weight := w.extractLsb' 16 16, partition := w.extractLsb' 8 3 }) } } page 0x00 0)) ∧
    (s.startsRequest page v 0x04 → moves → Sys2Proof.Machine.exec (.sgCfg page v) s = .next (r.mbxDone page 0x02 0)) ∧
    (s.startsRequest page v 0x07 → b = 0 → Sys2Proof.Machine.exec (.progQuery page v) s = .next (r.mbxDone page 0x00 0)) ∧
    (∀ x, s.startsRequest page v 0x07 → b ≠ 0 → s.binding k p = some x →
      Sys2Proof.Machine.exec (.progQuery page v) s = .next (r.mbxDone page 0x00 (BitVec.setWidth 512 (BitVec.ofNat 64 (b.toNat +
        (match x.state with | .loading => 1 | .ready => 2 | .failed => 3) * 2 ^ 16 + x.status.toNat * 2 ^ 24 + x.code.toNat * 2 ^ 32 +
        x.record.toNat * 2 ^ 40)))))

/-- A started request (R274, R276, R485): PART_ASSIGN of an allowed set that no table names, in a build of 32 or 64 clusters: every named cluster of another partition that is in service keeps its partition and drains towards the new one, and the request waits for those; with none to move it completes OK and no cluster changes; a set that a table names is refused with BUSY_REFUSED and no effect, and a set with absent clusters with MALFORMED. PART_REGULATE whose sums of SHARE stay within 256 credits the buckets at the old setting, stores the new one and lets waiting bursts issue; another ends MALFORMED with no effect. -/
def Obligations.PartitionRequests : Prop :=
  ∀ (s : State) (page : BitVec 8) (v : W64), s.Inv →
    let r := s.started page v
    let w := s.param page 1
    let m := s.param page 2
    let p : BitVec 3 := w.extractLsb' 0 3
    let moving := (List.range s.build.clusters).filter (fun c => m.getLsbD c && decide ((s.cluster (BitVec.ofNat 6 c)).partition ≠ p))
    let sums := s.shareSum p false (bits w 39 32) ≤ 256 ∧ s.shareSum p true (bits w 31 24) ≤ 256
    (s.startsRequest page v 0x05 → s.assignBad w m = true → Sys2Proof.Machine.exec (.partAssign page v) s = .next (r.mbxDone page 0x04 0)) ∧
    (s.startsRequest page v 0x05 → s.build.clusters ≠ 16 → s.assignBad w m = false → moving = [] →
      Sys2Proof.Machine.exec (.partAssign page v) s = .next (r.mbxDone page 0x00 0)) ∧
    (s.startsRequest page v 0x05 → s.build.clusters ≠ 16 → s.assignBad w m = false → (∃ c ∈ moving, s.tableNames c = true) →
      Sys2Proof.Machine.exec (.partAssign page v) s = .next (r.mbxDone page 0x02 0)) ∧
    (s.startsRequest page v 0x05 → s.build.clusters ≠ 16 → s.assignBad w m = false → moving ≠ [] →
      (∀ c ∈ moving, s.tableNames c = false ∧ (s.cluster (BitVec.ofNat 6 c)).inService = true) →
      ∃ t, Sys2Proof.Machine.exec (.partAssign page v) s = .next t ∧
        (∀ c, t.cluster c = if c.toNat ∈ moving then { s.cluster c with moveTo := some p } else s.cluster c) ∧
        t = { r with clusters := t.clusters, yrd := { s.yrd with moves := s.yrd.moves ++ [(page, moving)] } }) ∧
    (s.startsRequest page v 0x06 → sums → Sys2Proof.Machine.exec (.partRegulate page v) s = .next (State.promoteAll (State.mbxDone
      (r.updPart p (fun x => { x with
        refillFc := s.fc
        rdBucket := refill x.rdBucket x.rdShare x.burst s.build.memPorts (s.fc - x.refillFc)
        wrBucket := refill x.wrBucket x.wrShare x.burst s.build.memPorts (s.fc - x.refillFc)
        rdShare := w.extractLsb' 32 8, wrShare := w.extractLsb' 24 8, burst := w.extractLsb' 16 8, borrow := bit w 8 })) page 0x00 0))) ∧
    (s.startsRequest page v 0x06 → ¬sums → Sys2Proof.Machine.exec (.partRegulate page v) s = .next (r.mbxDone page 0x04 0))

/-- A started request (R551, R519): LEDGER_RESTORE of a counter of the build not yet restored adds the value, saturating, marks the counter restored and answers 1, and of one already restored changes nothing; LEDGER_FLUSH copies every counter to its snapshot, POWERED with a value that has not fallen since (a free value, notes/assumptions/10), and answers FE_CYCLES; WALLCLOCK stores its value and FE_CYCLES; DUMP_AREA of at most 16,384 pages sets the dump area and is armed unless PAGES is 0; POWER_POLICY of legal fields with ENTER 0 sets the automatic policy, and with a state named also requests it, which begins its poll if none is in progress. Each completes OK but the last, which stays BUSY. -/
def Obligations.LedgerDumpAndPowerRequests : Prop :=
  ∀ (s : State) (page : BitVec 8) (v : W64), s.Inv →
    let r := s.started page v
    let w := s.param page 1
    let x := s.param page 2
    let i := bits w 6 0
    let policy : Pwr := { s.taken.pwr with auto := w.extractLsb' 4 2, sleepLog2 := w.extractLsb' 16 8, deepLog2 := w.extractLsb' 24 8 }
    let legal := bits w 5 4 ≠ 3 ∧ 20 ≤ bits w 23 16 ∧ bits w 23 16 ≤ bits w 31 24 ∧ bits w 31 24 ≤ 40
    (s.startsRequest page v 0x09 → s.ledgerIndex i = true → s.lgr.restored.getLsbD i = false →
      Sys2Proof.Machine.exec (.ledgerRestore page v) s = .next (State.mbxDone { r with lgr := { r.lgr with
        restored := s.lgr.restored ||| BitVec.twoPow 128 i
        counts := tupd 0 s.lgr.counts i (fun n => BitVec.ofNat 64 (min (n.toNat + x.toNat) (2 ^ 64 - 1))) } } page 0x00 1)) ∧
    (s.startsRequest page v 0x09 → s.ledgerIndex i = true → s.lgr.restored.getLsbD i = true →
      Sys2Proof.Machine.exec (.ledgerRestore page v) s = .next (r.mbxDone page 0x00 0)) ∧
    (s.startsRequest page v 0x0A → ∃ (p : W64) (n : Nat), (tget 0 s.lgr.counts 0).toNat ≤ p.toNat ∧
      Sys2Proof.Machine.exec (.ledgerFlush page v) s = .next (State.mbxDone { r with
        free := n
        lgr := { r.lgr with counts := tset 0 s.lgr.counts 0 p, snaps := tset 0 s.lgr.counts 0 p } } page 0x00 (s.fe.cycles.setWidth 512))) ∧
    (s.startsRequest page v 0x0B → Sys2Proof.Machine.exec (.wallclock page v) s =
      .next (State.mbxDone { r with lgr := { r.lgr with wallclock := w, wallclockFc := s.fe.cycles } } page 0x00 0)) ∧
    (s.startsRequest page v 0x0C → bits x 14 0 ≤ 16384 → Sys2Proof.Machine.exec (.dumpArea page v) s =
      .next (State.mbxDone { r with fwc := { r.fwc with dumpPfn := w.extractLsb' 12 40, dumpPages := x.extractLsb' 0 15, armed := decide (bits x 14 0 ≠ 0) } } page 0x00 0)) ∧
    (s.startsRequest page v 0x0D → legal → bits w 2 0 = 0 → Sys2Proof.Machine.exec (.powerPolicy page v) s =
      .next (State.mbxDone { r with pwr := policy } page 0x00 0)) ∧
    (∀ t, s.startsRequest page v 0x0D → legal → enterState (bits w 2 0) = some t → s.pwr.later = [] → s.mayPoll = true →
      Sys2Proof.Machine.exec (.powerPolicy page v) s = .next (State.trace { r with
        pwr := { policy with request := some (t, some page), phase := .polling, pollFc := s.fc } } 6 procPower 0x0009 [t.code, 0, 0]))

/-- RT_TABLE_LOAD and UCODE_PATCH (R211, R254, R255, R484): a write of MBX_GO that starts the request makes the page await its image, whose reads are issued with SOURCE FWLOAD. Once the image is read: a real-time table that passes the nine checks, with the SAVE_SPAN of its contexts known, is pending and its request stays BUSY; one that fails check n is refused with MALFORMED, the check noted, and the tables are as before; a failed read ends RT_TABLE_LOAD with FAULT_ACCESS. With no patch waiting or in progress, a UCODE_PATCH that cannot be read or fails its checks ends VERIFY_REJECT with no effect (a failed read: the model's choice, notes/assumptions/33), and one that passes is begun. A UCODE_PATCH before the control store is loaded ends BUSY_REFUSED. -/
def Obligations.ImageRequests : Prop :=
  ∀ (s : State) (page : BitVec 8) (v : W64), s.Inv →
    let r := s.started page v
    let waits := (r.updMbx page (fun m => { m with awaiting := true })).readImage page
    let w := s.updMbx page (fun m => { m with awaiting := false })
    let q (b : List Byte) := slice b 0 (bits (s.param page 2) 23 0)
    (s.startsRequest page v 0x02 → s.fwc.reads = [] → Sys2Proof.Machine.exec (.rtTableLoad page v .read) s = .next waits) ∧
    (s.startsRequest page v 0x08 → s.fwc.reads = [] → s.uc.loaded = true → 0 < bits (s.param page 2) 23 0 →
      Sys2Proof.Machine.exec (.ucodePatch page v .read) s = .next waits) ∧
    (s.startsRequest page v 0x08 → s.inRun = true → s.fwc.reads = [] → s.uc.loaded = false →
      Sys2Proof.Machine.exec (.ucodePatch page v .read) s = .next (r.mbxDone page 0x02 0)) ∧
    (∀ b, s.imageRead page v 0x02 (some b) → s.spanWanted page (some b) = none → s.tableRefused page b = none →
      Sys2Proof.Machine.exec (.rtTableLoad page v .check) s =
        .next (State.dropRead { w with yrd := { s.yrd with pendingTable := some (tableOf b, page) } } (some page))) ∧
    (∀ b n, s.imageRead page v 0x02 (some b) → s.spanWanted page (some b) = none → s.tableRefused page b = some n →
      Sys2Proof.Machine.exec (.rtTableLoad page v .check) s =
        .next (State.dropRead (State.mbxDone { w with yrd := { s.yrd with refuse := BitVec.ofNat 4 n } } page 0x04 0) (some page))) ∧
    (s.imageRead page v 0x02 none → Sys2Proof.Machine.exec (.rtTableLoad page v .check) s =
      .next ((w.mbxDone page 0x08 0).dropRead (some page))) ∧
    (s.imageRead page v 0x08 none → s.uc.loaded = true → Sys2Proof.Machine.exec (.ucodePatch page v .check) s =
      .next ((w.mbxDone page 0x09 0).dropRead (some page))) ∧
    (∀ b, s.imageRead page v 0x08 (some b) → s.uc.loaded = true → s.uc.patchWait = [] → s.uc.patchPage = none →
      s.patchOk (q b) = false → Sys2Proof.Machine.exec (.ucodePatch page v .check) s =
        .next ((w.mbxDone page 0x09 0).dropRead (some page))) ∧
    (∀ b, s.imageRead page v 0x08 (some b) → s.uc.loaded = true → s.uc.patchWait = [] → s.uc.patchPage = none →
      s.patchOk (q b) = true → Sys2Proof.Machine.exec (.ucodePatch page v .check) s =
        .next (State.dropRead (State.patchStep 3 (w.beginPatch page (q b))) (some page)))

/-- TABLE_ACTIVATION (R255), the scheduler core running, every context of the pending table resident or not ACTIVE, START_FC reached, and the active table, if it has entries, at a major-frame boundary: the pending table is the active one with the present FE_CYCLES as base, nothing is pending, the old table's windows that have not released their launch are gone with the launches they preloaded, those whose instant is past counting as MISSED, no cluster is held for the old table, and the request completes OK; contexts, queues and Landing stay. -/
def Obligations.TableBecomesActiveAtItsBase : Prop :=
  ∀ (s : State) (n : RtTable) (page : BitVec 8), s.Inv → s.yrd.pendingTable = some (n, page) → (s.proc procSched).state = .running →
    (∀ k ∈ s.tableContexts n, s.isResident k = true ∨ (s.ctx k).state ≠ .active) → n.startFc ≤ s.fc →
    (∀ o, s.yrd.table = some o → o.entries = [] ∨ (s.fc - s.yrd.base.toNat) % o.majorFc = 0) →
      let missed (w : Window) : Bool := decide (w.instant < s.fc) && !w.released && !w.ended && !w.counted
      ∃ t : State, Sys2Proof.Machine.exec .tableActivation s = .next t ∧
        t.yrd.table = some n ∧ t.yrd.pendingTable = none ∧ t.yrd.base = s.fe.cycles ∧
        t.yrd.missed = s.yrd.missed + BitVec.ofNat 32 (s.yrd.windows.filter missed).length ∧
        t.yrd.windows = (s.yrd.windows.filter (fun w => w.released)).map (fun w => { w with old := true }) ∧
        (∀ c : BitVec 6, t.cluster c = { s.cluster c with
          hold := none
          shadow := if ∃ w ∈ s.yrd.windows, w.released = false ∧ BitVec.ofNat 6 w.cluster = c ∧ (s.cluster c).shadowIs w.launch = true then none
                    else (s.cluster c).shadow }) ∧
        (t.mbx page).state = .done ∧ (t.mbx page).status = 0x00 ∧ t.ctxs = s.ctxs ∧ t.queues = s.queues ∧ t.lnd = s.lnd

/-- MAJOR_FRAME (R264): with a table active and its present major frame over, BASE advances by MAJOR_FC, and nothing else changes but the trace. ACCOUNTING_TICK (R267), 65,536 fc after the last: each group's TIME grows by the time that the running launches of its contexts, not stopped by a switch, have run since they were last charged, and nothing but the groups, the clusters' charge marks and the tick's instant changes. -/
def Obligations.MajorFramesAndAccounting : Prop :=
  ∀ (s : State),
    (∀ o, s.yrd.table = some o → 0 < o.majorFc → s.yrd.base.toNat + o.majorFc ≤ s.fc →
      let b := s.yrd.base + BitVec.ofNat 64 o.majorFc
      Sys2Proof.Machine.exec .majorFrame s = .next (State.trace { s with yrd := { s.yrd with base := b } } 2 procSched 0x0004
        [o.id.toNat, o.entries.length, bits b 31 0, bits b 63 32])) ∧
    (s.Inv → s.yrd.accountFc + 65536 ≤ s.fc →
      let run (g : Nat) (c : BitVec 6) : Nat := match (s.cluster c).active with
        | some l => if l.startFc ≠ none ∧ l.halted = false ∧ (s.ctx l.ctx).shareGroup.toNat = g then s.fc - l.chargedFc else 0
        | none => 0
      ∃ t, Sys2Proof.Machine.exec .accountingTick s = .next t ∧ t.yrd.accountFc = s.fc ∧
        (∀ g : BitVec 8, (tget {} t.yrd.groups g.toNat).time =
          (tget {} s.yrd.groups g.toNat).time + BitVec.ofNat 64 ((s.allClusters.map (run g.toNat)).sum)) ∧
        t = { s with clusters := t.clusters, yrd := { s.yrd with groups := t.yrd.groups, accountFc := t.yrd.accountFc } })

/-- PARTITION_JOIN (R274), the scheduler core running: a cluster that is DRAINING and holds no launch is in its new partition and drains no longer, and CRZ_GEN has advanced by one; a cluster that is not moving, or still holds a launch, stays. REGULATOR_BUCKET_REFILL (R276) in a build of 32 or 64 clusters: each direction's bucket of the partition gains SHARE × MEM_PORTS × 2 bytes for each fc since the last refill, up to BURST × 16 KiB, and the waiting bursts that may then issue do, in order. -/
def Obligations.DrainedClustersJoinAndBucketsRefill : Prop :=
  ∀ (s : State), s.Inv →
    (∀ (c : BitVec 6) (p : BitVec 3), (s.cluster c).moveTo = some p → (s.cluster c).empty = true → (s.proc procSched).state = .running →
      (s.cluster c).deque = [] →
      ∃ t, Sys2Proof.Machine.exec (.partitionJoin c) s = .next t ∧ t.cluster c = { s.cluster c with partition := p, moveTo := none } ∧
        (∀ d, d ≠ c → t.cluster d = s.cluster d) ∧ t.crzGen = s.crzGen + 1) ∧
    (∀ c : BitVec 6, ((s.cluster c).moveTo = none ∨ (s.cluster c).empty = false) → Sys2Proof.Machine.exec (.partitionJoin c) s = .next s) ∧
    (∀ p : BitVec 3, s.build.clusters ≠ 16 →
      let gain (bucket : Int) (share burst : BitVec 8) : Int :=
        min (bucket + ((share.toNat * s.build.memPorts * 2 * (s.fc - (s.part p).refillFc) : Nat) : Int)) ((burst.toNat * 16384 : Nat) : Int)
      Sys2Proof.Machine.exec (.regulatorBucketRefill p) s = .next (State.promoteAll (s.updPart p (fun x => { x with
        refillFc := s.fc, rdBucket := gain x.rdBucket x.rdShare x.burst, wrBucket := gain x.wrBucket x.wrShare x.burst }))))

/-- FETCH_TURN while admission is open (R35, R135, R148 to R150): of the queues that can be served and are not BLOCKED, none of a better class (KERNEL, then RT, then the others) is passed over; the queue chosen, with unread units and none held, has one ring read issued for its first unread units, as many as lie within the 4 KiB page and the ring; with nothing unread DB_SEEN is cleared and, WP read again with still nothing unread, the queue is PARKED. Nothing changes but that queue, the round-robin mark and the manager ports. -/
def Obligations.FetchTurnServesOneQueue : Prop :=
  ∀ (s : State) (q : BitVec 14), s.Inv → s.admits = true → s.fetchChoice = some q →
    let x := s.queue q
    let y : Queue := if x.fstate = .fetching then x else { x with fstate := .fetching, block := .none_, turn := 0, parking := false }
    let served (f : Queue → Queue) : State :=
      ({ s with fe := { s.fe with rrQueue := if x.rank = 2 then q.toNat else s.fe.rrQueue } } : State).updQueue q (fun _ => f y)
    let u := (x.rp.toNat + s.threadUnits q) % 2 ^ x.ringLog2.toNat
    let n := min (s.unread q) (min (64 - u % 64) (2 ^ x.ringLog2.toNat - u))
    (s.fetchable q = true ∧ ∀ p, p.toNat ∈ s.queues.map (·.1) → s.fetchable p = true → (s.queue p).fstate ≠ .blocked → x.fstate ≠ .blocked →
      x.rank ≤ (s.queue p).rank) ∧
    (x.units = [] → x.reading = false → y.parking = false → 0 < s.unread q → s.queues.countP (fun p => p.2.reading) < 128 →
      Sys2Proof.Machine.exec .fetchTurn s = .next (State.mpRead (served (fun x => { x with reading := true })) none srcRing
        (4096 * x.ringPfn.toNat + 64 * u) (64 * n) 3 (arCache x.ringAttr) 8 (.ringRead q n))) ∧
    (x.units = [] → x.reading = false → y.parking = false → s.unread q = 0 →
      Sys2Proof.Machine.exec .fetchTurn s = .next (served (fun x => { x with dbSeen := false, parking := true }))) ∧
    (x.units = [] → y.parking = true → s.unread q = 0 →
      Sys2Proof.Machine.exec .fetchTurn s = .next (served (fun x => { x with fstate := .parked, parking := false }))) ∧
    (x.units = [] → y.parking = true → 0 < s.unread q →
      Sys2Proof.Machine.exec .fetchTurn s = .next (served (fun x => { x with parking := false })))

/-- THREAD_DISPATCH while admission is open and microcode loaded, with a thread free, fewer than four of the queue's packets held and check 1 passed (R150, R152 to R154, R193, R195): an inline packet sent on goes first; else the inline cell's packet once its serial is next; else, with neither, the ring packet whose units are read and whose serial is next, after which the queue's turn counts. A thread that was free, where the header checks pass, holds the packet with its queue, start registers, operation image and the START of its dispatch entry as micro-PC; no other thread changes. Where the packet's dispatch entry is uncorrectable, nothing is handed over and a front-end reset is forced (R208). -/
def Obligations.PacketIsHandedToAFreeThread : Prop :=
  ∀ (s : State) (q : BitVec 14), s.Inv → s.admits = true → s.uc.loaded = true → (s.queue q).state = .open_ →
    s.uc.threads.countP (fun p => p.2.busy) < 16 → (s.queueThreads q).length < 4 →
      let x := s.queue q
      let run := Sys2Proof.Machine.exec (.threadDispatch ⟨q, false⟩) s
      Sys2Proof.Machine.exec (.threadDispatch ⟨q, true⟩) s = .next s.ucUncorr ∧
      (∀ u rest, x.inl = u :: rest → s.check1 q (unitPkt u) = true →
        run = .next ((s.updQueue q (fun x => { x with inl := rest })).handOver q (unitPkt u) 0)) ∧
      (∀ u, x.inl = [] → x.cell = some u → u.extractLsb' 32 32 = s.nextSerial q → s.cplMayGo q = true → x.fstate ≠ .blocked →
        s.check1 q (unitPkt u) = true → run = .next ((s.updQueue q (fun x => { x with cell := none })).handOver q (unitPkt u) 0)) ∧
      (∀ u rest, x.inl = [] → x.cell = none → x.units = u :: rest → headUnits x.units ≤ x.units.length → x.fstate = .fetching →
        u.extractLsb' 32 32 = s.nextSerial q → s.cplMayGo q = true → s.check1 q (unitsPkt (x.units.take (headUnits x.units))) = true →
        run = .next ((s.updQueue q (fun x => { x with
          units := x.units.drop (headUnits x.units), turn := if x.turn = 15 then 0 else x.turn + 1
          fstate := if x.turn = 15 then .woken else .fetching })).handOver q (unitsPkt (x.units.take (headUnits x.units))) (headUnits x.units))) ∧
      (∀ (p : Packet) (n : Nat), (∃ k : BitVec 4, (s.thread k).busy = false) → s.headerCheck p (n = 0) x.kernel = none →
        let e := tget 0 s.uc.dispatch (pktOpcode p).toNat
        ∃ k : BitVec 4, (s.thread k).busy = false ∧ (s.handOver q p n).thread k = s.newThread q p n ∧
          (s.newThread q p n).busy = true ∧ (s.newThread q p n).queue = q ∧ (s.newThread q p n).pkt = p ∧ (s.newThread q p n).ringUnits = n ∧
          (s.newThread q p n).regs = s.startRegs q p ∧ (s.newThread q p n).img = headerImage p ∧
          (s.newThread q p n).upc = e.extractLsb' 0 14 ∧ (∀ j, j ≠ k → (s.handOver q p n).thread j = s.thread j) ∧
          s.handOver q p n = { s with uc := { s.uc with threads := (s.handOver q p n).uc.threads, seq := s.uc.seq + 1 } })

/-- An armed timer that has run 2^TMO_LOG2 fc (TMO_LOG2 below 20 acting as 20 and above 40 as 40), outside a front-end reset and in service (R159, R573): with Landing entries the queue joins those waiting for a wait-graph probe; without, while it is BLOCKED or its cell holds the next serial, the timer restarts and nothing else happens; otherwise the firing is a packetless rejection with MALFORMED, which tears a user queue's context down and moves a kernel queue to FAILED. -/
def Obligations.QueueTimerFiresByWhatTheQueueWaitsFor : Prop :=
  ∀ (s : State) (q : BitVec 14), s.Inv → s.tmoArmed q = true → (s.queue q).fired = false → s.fwc.feBusy = false → s.fwc.state ≠ .outOfService →
    (s.queue q).timerFc + 2 ^ (max 20 (min 40 (s.queue q).tmoLog2.toNat)) ≤ s.fc →
      let x := s.queue q
      let run := Sys2Proof.Machine.exec (.queueTimerFire q) s
      let waits := x.fstate = .blocked ∨ ∃ u, x.cell = some u ∧ u.extractLsb' 32 32 = s.nextSerial q
      (s.queueEntries q ≠ [] → ∃ t, run = .next t ∧ t.queue q = { x with fired := true } ∧ t.lnd.fired = s.lnd.fired ++ [q] ∧
        (∀ p, p ≠ q → t.queue p = s.queue p) ∧ t = { s with queues := t.queues, lnd := { s.lnd with fired := t.lnd.fired } }) ∧
      (s.queueEntries q = [] → waits → run = .next (s.updQueue q (fun x => { x with timerFc := s.fc }))) ∧
      (s.queueEntries q = [] → ¬waits → x.ctx ≠ kernelCtx → s.cplDue q = false → run = .next (s.teardown x.ctx 0x04)) ∧
      (s.queueEntries q = [] → ¬waits → x.ctx = kernelCtx → x.cplLog2 = 0 → run = .next (s.failQueueAt q))

/-- R198. A routine starts with T1 to T23 zero and T24 to T31 holding the context, the queue slot, SERIAL, the PRIV, ORDER and CLASS bits, LEN, the QUOTA after its default, and zeros, which is what a packet handed to a thread gets. T0 reads as zero. A MOVI microword, which writes its 24-bit operand to TD, changes TD only where TD is one of T1 to T23; T0 and T24 to T31 keep what they hold. -/
def Obligations.MicroRegistersAreAsTheRuleSays : Prop :=
  ∀ (s : State), s.Inv →
    (∀ (q : BitVec 14) (p : Packet),
      let r := s.startRegs q p
      let x := s.queue q
      (∀ i, i < 24 → r.toList[i]? = some 0) ∧
      r.toList[24]? = some (x.ctx.setWidth 64) ∧ r.toList[25]? = some (q.setWidth 64) ∧ r.toList[26]? = some ((pktSerial p).setWidth 64) ∧
      r.toList[27]? = some (BitVec.ofNat 64 (b2n x.kernel + 2 * b2n x.retire + 4 * x.cls.toNat)) ∧
      r.toList[28]? = some (BitVec.ofNat 64 (pktLen p)) ∧
      r.toList[29]? = some (BitVec.ofNat 64 (if (s.ctx x.ctx).quota = 0 then 16384 else min (s.ctx x.ctx).quota.toNat s.build.landingEntries)) ∧
      r.toList[30]? = some 0 ∧ r.toList[31]? = some 0 ∧
      (∀ (n : Nat) (t : BitVec 4), (s.thread t).busy = false → ((s.handOver q p n).thread t).busy = true →
        ((s.handOver q p n).thread t).regs = r)) ∧
    (∀ t, s.uReg t 0 = 0) ∧
    (∀ t : BitVec 4, s.runsWord t → uOp (s.microword t) = 0x0B →
      ∃ u, Sys2Proof.Machine.exec (.uopMovi t) s = .next u ∧
        (∀ i, i < 32 → u.uReg t i = if i = uTd (s.microword t) ∧ 0 < i ∧ i < 24 then BitVec.ofNat 64 (bits (s.microword t) 23 0) else s.uReg t i))

/-- UOP_NOP, ADD, SUB, AND, OR, XOR, SHL, SHR, ADDI, ANDI, SHLI and MOVI (R194, R197, R198, R200), the thread's word running: TD takes the result modulo 2^64 (shift counts are the operand's low six bits), the micro-PC moves to the next word, one more word is counted, and nothing outside the thread changes. The command of another thread than the one chosen, or of another UOP than the word's, changes nothing. -/
def Obligations.ArithmeticMicrowords : Prop :=
  ∀ (s : State) (t : BitVec 4), s.Inv →
    let w := s.microword t
    let a := s.uReg t (uTa w)
    let b := s.uReg t (uTb w)
    let i := BitVec.ofNat 64 (bits w 23 0)
    let words : List (Nat × Instr × W64) :=
      [(0x01, .uopAdd t, a + b), (0x02, .uopSub t, a - b), (0x03, .uopAnd t, a &&& b), (0x04, .uopOr t, a ||| b), (0x05, .uopXor t, a ^^^ b),
       (0x06, .uopShl t, a <<< (b.toNat % 64)), (0x07, .uopShr t, a >>> (b.toNat % 64)), (0x08, .uopAddi t, a + i), (0x09, .uopAndi t, a &&& i),
       (0x0A, .uopShli t, a <<< (i.toNat % 64)), (0x0B, .uopMovi t, i)]
    (s.runsWord t → uOp w = 0 → Sys2Proof.Machine.exec (.uopNop t) s = .next (s.updThread t (fun x => { x with count := x.count + 1, upc := x.upc + 1 }))) ∧
    (∀ p ∈ words, (s.runsWord t → uOp w = p.1 → Sys2Proof.Machine.exec p.2.1 s = .next (s.updThread t (fun x => x.wrote (uTd w) p.2.2))) ∧
      (s.chosen ≠ some t.toNat ∨ uOp w ≠ p.1 → Sys2Proof.Machine.exec p.2.1 s = .next s))

/-- R199, at the two microwords that hold a COND: UOP_BR sets the micro-PC to TARGET when its condition holds for TA and to the next word when not; UOP_REJIF rejects the packet with status ARG8 when its condition holds and else moves on; with an unassigned COND both are control-store faults (R208). One more word is counted in every case. -/
def Obligations.ConditionsOfBranchAndReject : Prop :=
  ∀ (s : State) (t : BitVec 4), s.Inv → s.runsWord t →
    let w := s.microword t
    let v := s.uReg t (uTa w)
    let c := s.updThread t (fun x => { x with count := x.count + 1 })
    let on := s.updThread t (fun x => { x with count := x.count + 1, upc := x.upc + 1 })
    let conds : List (Nat × Prop) := [(0, True), (1, v = 0), (2, v ≠ 0), (3, v.toInt < 0), (4, 0 ≤ v.toInt)]
    (uOp w = 0x18 →
      (∀ p ∈ conds, bits w 23 20 = p.1 →
        (p.2 → Sys2Proof.Machine.exec (.uopBr t) s = .next (s.updThread t (fun x => { x with count := x.count + 1, upc := w.extractLsb' 0 14 }))) ∧
        (¬p.2 → Sys2Proof.Machine.exec (.uopBr t) s = .next on)) ∧
      (4 < bits w 23 20 → Sys2Proof.Machine.exec (.uopBr t) s = .next (c.ucFault t))) ∧
    (uOp w = 0x32 →
      (∀ p ∈ conds, bits w 3 0 = p.1 →
        (p.2 → Sys2Proof.Machine.exec (.uopRejif t) s = .next (c.reject t (w.extractLsb' 16 8))) ∧
        (¬p.2 → Sys2Proof.Machine.exec (.uopRejif t) s = .next on)) ∧
      (4 < bits w 3 0 → Sys2Proof.Machine.exec (.uopRejif t) s = .next (c.ucFault t)))

/-- UOP_FLD, STE, DRD, OBJ and BLZ with the thread's word running (R200 to R202, R206, R168). FLD: TD takes the packet's bits POS + WM1 to POS, and a field past bit 2,047 is a control-store fault. STE: TA goes into the image word ARG8[2:0]. DRD of region 1 to 5: the thread waits as DECK_WAIT with the record's word for TD; another region is a control-store fault. OBJ: the handle resolves, or does not, at once and the thread waits for the Deck; with no cached entry it waits as XLT_MISS with the table read issued. BLZ: the thread waits for the Deck, the packet to be rejected if the Blaze does not exist (MALFORMED) or does not allow the context (PRIVILEGE). -/
def Obligations.FieldImageAndDeckMicrowords : Prop :=
  ∀ (s : State) (t : BitVec 4), s.Inv → s.runsWord t →
    let w := s.microword t
    let th := s.thread t
    let v := s.uReg t (uTa w)
    let c := (s.queue th.queue).ctx
    let counted := s.updThread t (fun x => { x with count := x.count + 1 })
    let on := s.updThread t (fun x => { x with count := x.count + 1, upc := x.upc + 1 })
    (uOp w = 0x10 → bits w 28 18 + bits w 17 12 ≤ 2047 →
      Sys2Proof.Machine.exec (.uopFld t) s = .next (s.updThread t (fun x => x.wrote (uTd w)
        (BitVec.ofNat 64 (pf th.pkt (bits w 28 18 + bits w 17 12) (bits w 28 18)))))) ∧
    (uOp w = 0x10 → 2047 < bits w 28 18 + bits w 17 12 → Sys2Proof.Machine.exec (.uopFld t) s = .next (counted.ucFault t)) ∧
    (uOp w = 0x28 → Sys2Proof.Machine.exec (.uopSte t) s = .next (s.updThread t (fun x =>
        { x with count := x.count + 1, upc := x.upc + 1, img := imgSet x.img (uArg8 w % 8) v }))) ∧
    (uOp w = 0x20 → 1 ≤ uArg8 w → uArg8 w ≤ 5 →
      ∃ u, Sys2Proof.Machine.exec (.uopDrd t) s = .next u ∧ (u.thread t).trap = some .deckWait ∧ (u.thread t).upc = th.upc + 1 ∧
        (u.thread t).drd = some (uTd w, s.drdWord t (uArg8 w) v (uArg16 w)) ∧ (u.thread t).regs = th.regs ∧
        u.uc.trapDeck = s.uc.trapDeck + 1 ∧ (∀ k, k ≠ t → u.thread k = s.thread k) ∧ u = { s with uc := u.uc, free := s.free + 1 }) ∧
    (uOp w = 0x20 → uArg8 w = 0 ∨ 5 < uArg8 w → Sys2Proof.Machine.exec (.uopDrd t) s = .next (counted.ucFault t)) ∧
    (uOp w = 0x21 → ∀ o, s.resolve c (v.extractLsb' 0 32) = some o →
      Sys2Proof.Machine.exec (.uopObj t) s = .next ((on.objPut t c (v.extractLsb' 0 32) (uArg8 w % 8) (uTd w) o).park t .deckWait)) ∧
    (uOp w = 0x21 → s.resolve c (v.extractLsb' 0 32) = none →
      Sys2Proof.Machine.exec (.uopObj t) s = .next
        (((on.updThread t (fun x => { x with miss := some (v.extractLsb' 0 32, uArg8 w % 8, uTd w) })).park t .xltMiss).objectRead t c (v.extractLsb' 0 32))) ∧
    (uOp w = 0x22 →
      let n : BitVec 16 := v.extractLsb' 0 16
      Sys2Proof.Machine.exec (.uopBlz t) s = .next ((s.updThread t (fun x => { x with
        count := x.count + 1, upc := x.upc + 1
        reject := if s.build.blazes ≤ n.toNat then some 0x04 else if s.blazeAdmits n c then none else some 0x03 })).park t .deckWait))

/-- UOP_ADMIT and UOP_REJ with the thread's word running (R200, R202 to R205). ADMIT, one more word counted: unfinished header reads trap it as HEADER, another's commit lock as LOCK, an earlier packet of the queue held by a thread as ORDER; a queue no longer OPEN or a context no longer ACTIVE is a discard; a record read and changed since is a restart; then a header Blaze failure, a stale handle, an entry count above the quota on a USER queue, a claim of a claimed graph and a kind that ADMIT may not name each reject the packet; a bound of R156 that would break is an abandon; otherwise the packet commits, which consumes its serial, moves RP past its units and frees the thread. REJ waits in the same way for the header reads and its turn, and else rejects with the header's failure or its own status. -/
def Obligations.AdmitAndRejectTestInOrder : Prop :=
  ∀ (s : State) (t : BitVec 4), s.Inv → s.runsWord t →
    let w := s.microword t
    let c := s.updThread t (fun x => { x with count := x.count + 1 })
    let th := c.thread t
    let x := c.queue th.queue
    let kind := uArg16 w % 256
    let n := uArg8 w % 4 + 1
    let acts := uArg8 w / 16
    let ta := s.uReg t (uTa w)
    let run := Sys2Proof.Machine.exec (.uopAdmit t) s
    let locked := c.uc.lockHolder.isSome = true ∧ c.uc.lockHolder ≠ some t.toNat
    let turn := th.headerDone = true ∧ ¬locked ∧ c.earlierHeld t = false ∧ c.check1 th.queue th.pkt = true ∧ c.conflict t = false
    let claim := acts / 2 % 2 = 1 ∧ (c.graph x.ctx (ta.extractLsb' 0 12)).claimed = true
    let many := x.kernel = false ∧ c.quotaOf x.ctx < n
    let clean := turn ∧ th.headerFail = none ∧ th.stale = false ∧ ¬many ∧ ¬claim ∧ admitKind kind x.kernel = true
    (uOp w = 0x30 →
      (th.headerDone = false → run = .next (c.park t .header)) ∧
      (th.headerDone = true → locked → run = .next (c.park t .lock)) ∧
      (th.headerDone = true → ¬locked → c.earlierHeld t = true → run = .next (c.park t .order)) ∧
      (th.headerDone = true → ¬locked → c.earlierHeld t = false → c.check1 th.queue th.pkt = false → run = .next (c.discard t)) ∧
      (th.headerDone = true → ¬locked → c.earlierHeld t = false → c.check1 th.queue th.pkt = true → c.conflict t = true → run = .next (c.restart t)) ∧
      (turn → ∀ st, th.headerFail = some st → run = .next (c.rejectNow t st)) ∧
      (turn → th.headerFail = none → th.stale = true → run = .next (c.rejectNow t 0x0A)) ∧
      (turn → th.headerFail = none → th.stale = false → many → run = .next (c.rejectNow t 0x0D)) ∧
      (turn → th.headerFail = none → th.stale = false → ¬many → (claim ∨ admitKind kind x.kernel = false) → run = .next (c.rejectNow t 0x04)) ∧
      (clean → ∀ why, c.bound th.queue n (th.objects.map (·.handle)) = some why → run = .next (c.abandon t why n (th.objects.map (·.handle)))) ∧
      (clean → c.bound th.queue n (th.objects.map (·.handle)) = none → run = .next (c.commit t kind n acts ta) ∧
        ((c.commit t kind n acts ta).queue th.queue).expSerial = x.expSerial + 1 ∧
        ((c.commit t kind n acts ta).queue th.queue).rp = x.rp + BitVec.ofNat 32 th.ringUnits ∧
        (c.commit t kind n acts ta).thread t = {})) ∧
    (uOp w = 0x31 →
      let rej := Sys2Proof.Machine.exec (.uopRej t) s
      (th.early = false → th.headerDone = false → rej = .next (c.park t .header)) ∧
      (th.headerDone = true → c.earlierHeld t = true → rej = .next (c.park t .order)) ∧
      (th.headerDone = true → c.earlierHeld t = false → c.check1 th.queue th.pkt = false → rej = .next (c.discard t)) ∧
      (th.headerDone = true → c.earlierHeld t = false → c.check1 th.queue th.pkt = true →
        th.early = false → rej = .next (c.rejectNow t (th.headerFail.getD (w.extractLsb' 16 8)))))

/-- DECK_WAIT, XLT_MISS, ORDER, HEADER and LOCK (R206) of a thread whose packet is not being rejected: the trap clears and nothing else of the state changes, but that DECK_WAIT puts the Deck's word into TD and HEADER notes what the Blaze reads found. XLT_MISS while the table entry is missing, ORDER while an earlier packet is held and LOCK while another thread holds the lock change nothing. RUNAWAY (R208): the chosen thread with 4,096 words executed or an unassigned UOP has a control-store fault, and a microword of it with an uncorrectable error sets CS_UNCORR, raises UCODE and asks for a front-end reset with that cause. MICROCODE_DEFINED_OPCODE (R171): a packet of opcode 0x80 or above that has run no word starts at START with fresh registers. -/
def Obligations.TrapsResumeTheirThread : Prop :=
  ∀ (s : State) (t : BitVec 4), s.Inv →
    let th := s.thread t
    let free := s.uc.lockHolder = none ∨ s.uc.lockHolder = some t.toNat
    (th.reject = none →
      (th.trap = some .deckWait → Sys2Proof.Machine.exec (.deckWait t) s = .next (s.updThread t (fun x => { x with
        trap := none, drd := none
        regs := match th.drd with | some (r, v) => if 0 < r ∧ r < 24 then x.regs.setIfInBounds r v else x.regs | none => x.regs }))) ∧
      (th.trap = some .xltMiss → th.miss = none → Sys2Proof.Machine.exec (.xltMiss t) s = .next (s.updThread t (fun x => { x with trap := none }))) ∧
      (th.trap = some .order → s.earlierHeld t = false → Sys2Proof.Machine.exec (.order t) s = .next (s.updThread t (fun x => { x with trap := none }))) ∧
      (th.trap = some .header → Sys2Proof.Machine.exec (.header t) s = .next (s.updThread t (fun x => { x with
        trap := none, headerDone := true, headerFail := s.headerBlazeFail t })))) ∧
    (∀ st, th.reject = some st → th.trap = some .deckWait → th.drd = none →
      Sys2Proof.Machine.exec (.deckWait t) s = .next ((s.updThread t (fun x => { x with trap := none, drd := none })).reject t st)) ∧
    (th.trap = some .lock → free → Sys2Proof.Machine.exec (.lock t) s = .next (s.updThread t (fun x => { x with trap := none }))) ∧
    (th.trap = some .xltMiss → th.miss ≠ none → Sys2Proof.Machine.exec (.xltMiss t) s = .next s) ∧
    (th.trap = some .order → s.earlierHeld t = true → Sys2Proof.Machine.exec (.order t) s = .next s) ∧
    (th.trap = some .lock → ¬free → Sys2Proof.Machine.exec (.lock t) s = .next s) ∧
    (s.feRuns = true → s.chosen = some t.toNat → 4096 ≤ th.count ∨ uAssigned (uOp (s.microword t)) = false →
      Sys2Proof.Machine.exec (.runaway t false) s = .next (s.ucFault t)) ∧
    (s.feRuns = true → s.chosen = some t.toNat → s.uc.csUncorr = false → s.fwc.state ≠ .outOfService → (∀ a ∈ s.fwc.asked, a.1 ≠ kindFrontEnd) →
      ∃ u, Sys2Proof.Machine.exec (.runaway t true) s = .next u ∧ u.irq.pending.getLsbD 0x00D = true ∧
        u = { s with
          uc := { s.uc with csUncorr := true }, fwc := { s.fwc with asked := s.fwc.asked ++ [(kindFrontEnd, 0x04)] }
          irq := { s.irq with pending := u.irq.pending }, pwr := u.pwr, fe := { s.fe with flagsFc := u.fe.flagsFc, flagsSet := u.fe.flagsSet } }) ∧
    (th.busy = true → th.trap = none → th.reject = none → 0x80 ≤ (pktOpcode th.pkt).toNat → th.count = 0 →
      Sys2Proof.Machine.exec (.microcodeDefinedOpcode t) s = .next (s.updThread t (fun x => { x with
        upc := x.startPc, regs := s.startRegs x.queue x.pkt, img := headerImage x.pkt })))

/-- The routine step of NOP, LAUNCH, HAUL, SIGNAL, WAIT, PROGRAM_LOAD, the graph loads and commands, CONTEXT_CREATE, DESTROY and KILL, QUEUE_BIND and UNBIND, TLB_INVALIDATE, FAULT_RESUME, BLAZE_CONFIG and the three SELF_TESTs (R154, R168 to R191, R202, R203), with a packet of that opcode at START: it reads its PROGRAM or GRAPH record from the Deck first; a condition that names no object rejects it with MALFORMED; a handle without a cached entry makes the thread wait for it; a range past an object rejects with MALFORMED; a parameter Blaze is read, and one that does not exist or admits the context not is noted as a rejection with MALFORMED or PRIVILEGE; else the operation image is the header's with the opcode's payload, and ADMIT goes on with the opcode's kind, entry count and actions: where it has nothing to wait for and no condition fails, the packet commits, its serial is consumed, RP moves past its units and the thread is free. -/
def Obligations.RoutinesCheckAndAdmitTheirPacket : Prop :=
  ∀ (s : State) (t : BitVec 4), s.Inv →
    let pkt := (s.thread t).pkt
    let c := (s.queue (s.thread t).queue).ctx
    let target := pf pkt 321 320
    let rows : List (Nat × Instr × Routine × Prop) :=
      [(0x00, .nop (.routine t), nopRoutine, True), (0x01, .launch (.routine t), s.launchRoutine t, True), (0x02, .haul (.routine t), s.haulRoutine t, True),
       (0x03, .signal (.routine t), signalRoutine pkt, True), (0x04, .wait (.routine t), waitRoutine pkt, True),
       (0x05, .programLoad (.routine t), loadRoutine pkt (programNote c (pkt.extractLsb' 320 16)) kProgramLoad 16 4194304 16 1 false, True),
       (0x06, .graphLoad (.routine t), loadRoutine pkt (graphNote c pkt) kGraphLoad 64 1048576 64 2 (s.graphClaimed t), True),
       (0x07, .graphLaunch (.routine t), s.graphLaunchRoutine t, True),
       (0x08, .graphPatch (.routine t), loadRoutine pkt (graphNote c pkt) kGraphPatch 64 1048576 64 0 (!s.graphOpen t), True),
       (0x09, .graphRelease (.routine t), graphReleaseRoutine c pkt, True),
       (0x20, .contextCreate (.routine t), s.ctxRoutine t 0x20, True), (0x21, .contextDestroy (.routine t), s.ctxRoutine t 0x21, True),
       (0x22, .queueBind (.routine t), s.bindRoutine t, True), (0x23, .queueUnbind (.routine t), s.unbindRoutine t, True),
       (0x25, .tlbInvalidate (.routine t), s.invalRoutine t, True), (0x26, .faultResume (.routine t), s.resumeRoutine t, True),
       (0x27, .contextKill (.routine t), s.killRoutine t, True), (0x28, .blazeConfig (.routine t), s.configRoutine t, True),
       (0x29, .selfTestCluster (.routine t), s.testRoutine t, target = 0 ∨ target = 3), (0x29, .selfTestFrontEnd (.routine t), s.testRoutine t, target = 1),
       (0x29, .selfTestDeck (.routine t), s.testRoutine t, target = 2)]
    ∀ p ∈ rows, s.atRoutine t p.1 = true → p.2.2.2 →
      let y := p.2.2.1
      let run := Sys2Proof.Machine.exec p.2.1 s
      let r := s.resolveAll c t y.handles 0
      let u := r.1
      let past := y.range (y.handles.map (u.threadObj t))
      let records := y.notes.drop ((s.thread t).readsOf (fun g => g = 2 || g = 3))
      let blazes := y.blazes.drop ((u.thread t).readsOf (fun g => g = 6))
      let a := u.updThread t (fun x => { x with img := headerImage x.pkt ||| y.payload (u.refOf t) })
      let q := (a.thread t).queue
      (∀ k l, records = k :: l → ∃ v, run = .next v ∧ v = s.readRecord t k.1 k.2 ∧ (v.thread t).trap = some .deckWait) ∧
      (records = [] → y.bad = true → run = .next (s.reject t 0x04)) ∧
      (records = [] → y.bad = false → r.2 = true → run = .next u) ∧
      (records = [] → y.bad = false → r.2 = false → past = true → run = .next (u.reject t 0x04)) ∧
      (records = [] → y.bad = false → r.2 = false → past = false → ∀ n l, blazes = n :: l →
        run = .next ((u.updThread t (fun x => { x with reject := u.paramBlazes (u.queue (u.thread t).queue).ctx [n] })).readRecord t 6 n.toNat)) ∧
      (records = [] → y.bad = false → r.2 = false → past = false → blazes = [] → run = .next (a.admitPacket t y.kind y.n y.acts y.ta)) ∧
      (records = [] → y.bad = false → r.2 = false → past = false → blazes = [] → a.admitTrap t = none → a.check1 q (a.thread t).pkt = true →
        a.conflict t = false → a.admitFails t y.kind y.n y.acts y.ta = none → a.bound q y.n ((a.thread t).objects.map (·.handle)) = none →
        ∃ v, run = .next v ∧ v = a.commit t y.kind y.n y.acts y.ta ∧ (v.queue q).expSerial = (a.queue q).expSerial + 1 ∧
          (v.queue q).rp = (a.queue q).rp + BitVec.ofNat 32 (a.thread t).ringUnits ∧ v.thread t = {})

/-- ENTRY_READY (R220, R285), no reservation window open: the entry is READY at the present fc, no other entry changes, and a launch's operand copy is asked for. RETIREMENT (R222, R228, R235): an entry with its executor's report retires with that status, and is gone (a GRAPH_LAUNCH in its node phase and a CHAINED entry behind its first launch apart); a waiting entry of a torn-down context retires with the context's status and, with none of that, one with a failed wait with the Blaze's. REJECTION_PASSAGE (R236): the oldest rejection of an OPEN queue passes once its turn has come and waits before. MIRROR_WRITE (R232): with a change not written, made in an earlier cycle, and no mirror write outstanding, the value goes to MIRROR_PA as a MIRROR write. -/
def Obligations.LandingEntriesBecomeReadyAndRetire : Prop :=
  ∀ (s : State), s.Inv →
    (∀ e x, s.entry e = some x → s.inRun = true →
      (s.isReady e x = true → s.yrd.windows = [] →
        ∃ t, Sys2Proof.Machine.exec (.entryReady e) s = .next t ∧ t.entry e = some { x with state := .ready, readyAt := s.fc } ∧
          (∀ d, d ≠ e → t.entry d = s.entry d) ∧ t = { s with lnd := { s.lnd with entries := t.lnd.entries }, hau := t.hau } ∧
          (x.actKind ≠ kLaunch → t.hau = s.hau)) ∧
      (∀ st prop, x.report = some (st, prop) → x.kind ≠ kWaitExt → (x.kind = kGraphLaunch → x.phase ≠ 1) → x.chainOf = none →
        ∃ t, Sys2Proof.Machine.exec (.retirement e) s = .next t ∧ t = s.retire e x st x.ctx prop ∧ t.entry e = none) ∧
      (x.report = none → x.kind ≠ kWaitExt → x.chainOf = none → x.state ≠ .issued → x.torn = true → (s.ctx x.ctx).state ≠ .active →
        ∃ t, Sys2Proof.Machine.exec (.retirement e) s = .next t ∧ t = s.retire e x (s.ctx x.ctx).teardown x.ctx true ∧ t.entry e = none) ∧
      (∀ n, x.report = none → x.kind ≠ kWaitExt → x.chainOf = none → x.parent = none → x.state = .pending → x.torn = false → s.failedWait e x = some n →
        ∃ t, Sys2Proof.Machine.exec (.retirement e) s = .next t ∧ t = s.retire e x (s.blaze n).errStatus (s.blaze n).errContext true ∧
          t.entry e = none)) ∧
    (∀ q r rest, (s.queue q).rejections = r :: rest → s.inRun = true →
      (s.rejectionTurn q r = true → (s.queue q).state = .open_ →
        ∃ t, Sys2Proof.Machine.exec (.rejectionPassage q) s = .next t ∧ (t.queue q).rejections = rest ∧ (t.queue q).state = .open_ ∧
          t = (s.updQueue q (fun x => { x with rejections := rest })).passRejection q r) ∧
      (s.rejectionTurn q r = false → Sys2Proof.Machine.exec (.rejectionPassage q) s = .next s)) ∧
    (∀ n : BitVec 16, s.feRuns = true → (s.blaze n).mirrorEn = true → (s.blaze n).error = false → (s.blaze n).mirrorDue = true →
      (s.blaze n).mirrorOut = false → (∀ y, (s.blaze n).cycle = some y → y.fc ≠ s.fc) → s.configsAt n 1 = [] →
      ∃ t, Sys2Proof.Machine.exec (.mirrorWrite n) s = .next t ∧
        t.blaze n = { s.blaze n with mirrorDue := false, mirrorOut := true } ∧ (∀ m, m ≠ n → t.blaze m = s.blaze m) ∧
        (∃ w ∈ t.mp.txns ++ t.mp.waiting, w.purpose = .mirror n ∧ w.write = true ∧ w.source = srcMirror) ∧
        t = (s.updBlaze n (fun b => { b with mirrorDue := false, mirrorOut := true })).ringWrite none srcMirror (s.blaze n).mirrorPa.toNat
          (toBytes 8 (s.blaze n).value.toNat) (.mirror n))

/-- The execution of NOP, SIGNAL, WAIT, CONTEXT_CREATE, CONTEXT_DESTROY, CONTEXT_KILL, QUEUE_BIND, QUEUE_UNBIND and FAULT_RESUME with entry e READY (R108, R115, R116, R170, R180, R181, R185 to R189, R221). The entry is ISSUED at the present fc and its report is the status. SIGNAL sets its Blazes first. CONTEXT_CREATE ends BUSY_REFUSED on a context that is not FREE and MALFORMED when the group's partition differs, and else the context is ACTIVE with the packet's fields; CONTEXT_DESTROY of the kernel context is MALFORMED, of a FREE one OK, and else tears the context down, marks its queues for release and evicts it; CONTEXT_KILL of a context that is not ACTIVE does nothing; QUEUE_BIND ends BUSY_REFUSED on a queue that is not FREE and MALFORMED for a context that is not ACTIVE, and else the queue is OPEN with the packet's fields; QUEUE_UNBIND of a FREE queue ends OK, of an OPEN one makes it DRAINING. -/
def Obligations.CommandsThatTheLandingExecutes : Prop :=
  ∀ (s : State) (e : Nat) (x : Entry), s.Inv → s.issues e x →
    let i := s.issue e
    let p := x.pkt
    let k : BitVec 20 := p.extractLsb' 320 20
    let q : BitVec 14 := p.extractLsb' 320 14
    let b : BitVec 20 := p.extractLsb' 336 20
    let run (c : OpStep → Instr) := Sys2Proof.Machine.exec (c (.execute e)) s
    let ends (r : State) (st : BitVec 8) : Host.Outcome State Fault Refusal := .next (r.report e st false)
    (∀ st, (i.report e st false).entry e = some { x with state := .issued, startFc := s.fe.cycles, report := some (st, false) }) ∧
    (x.actKind = kNop → run .nop = ends i 0x00) ∧
    (x.actKind = kWait → run .wait = ends i 0x00) ∧
    (x.actKind = kSignal → run .signal = ends (i.each x.signals (fun r g => r.blazeUpdate g.1 ⟨2, 0, .set g.2⟩)) 0x00) ∧
    (x.actKind = 0x26 → run .faultResume = ends (i.faultResume p) 0x00) ∧
    (x.actKind = 0x20 →
      ((s.ctx k).state ≠ .free → run .contextCreate = ends i 0x02) ∧
      ((s.ctx k).state = .free → (tget {} s.yrd.groups (pf p 351 344)).partition ≠ p.extractLsb' 340 3 → run .contextCreate = ends i 0x04) ∧
      ((s.ctx k).state = .free → (tget {} s.yrd.groups (pf p 351 344)).partition = p.extractLsb' 340 3 →
        ∃ t, run .contextCreate = .next t ∧ t = { i.report e 0x00 false with ctxs := t.ctxs } ∧ (∀ j, j ≠ k → t.ctx j = s.ctx j) ∧
          t.ctx k = { state := .active, partition := p.extractLsb' 340 3, shareGroup := p.extractLsb' 344 8, jobTag := p.extractLsb' 384 32
                      descPfn := p.extractLsb' 416 40, quota := p.extractLsb' 352 18 })) ∧
    (x.actKind = 0x21 →
      (k = kernelCtx → run .contextDestroy = ends i 0x04) ∧
      (k ≠ kernelCtx → (s.ctx k).state = .free → run .contextDestroy = ends i 0x00) ∧
      (k ≠ kernelCtx → (s.ctx k).state ≠ .free →
        let d := (i.teardown k 0x10).inertEntries k
        let m := (d.each (d.ctxQueues k) (fun r q => r.updQueue q (fun y => { y with release := true }))).updCtx k (fun y => { y with destroys := y.destroys ++ [e] })
        run .contextDestroy = .next (((State.releaseGraphs { m with res := { m.res with waiting := m.res.waiting.filter (· ≠ k) } } k).beginEvict k).settle k))) ∧
    (x.actKind = 0x27 →
      ((s.ctx k).state ≠ .active → run .contextKill = ends i 0x00) ∧
      ((s.ctx k).state = .active → run .contextKill = ends (i.teardownWith k (p.extractLsb' 344 8) true (pf p 351 344 ≠ 0x10)) 0x00)) ∧
    (x.actKind = 0x22 →
      ((s.queue q).state ≠ .free → run .queueBind = ends i 0x02) ∧
      ((s.queue q).state = .free → (s.ctx b).state ≠ .active → run .queueBind = ends i 0x04) ∧
      ((s.queue q).state = .free → (s.ctx b).state = .active →
        ∃ t, run .queueBind = .next t ∧ t = { i.report e 0x00 false with queues := t.queues } ∧ (∀ j, j ≠ q → t.queue j = s.queue j) ∧
          t.queue q = { state := .open_, ctx := b, kernel := bit p 356, retire := bit p 357, cls := p.extractLsb' 358 2, diag := bit p 360
                        ringLog2 := p.extractLsb' 361 5, cplLog2 := p.extractLsb' 366 5, tmoLog2 := p.extractLsb' 371 6
                        ringPfn := p.extractLsb' 384 40, ringAttr := p.extractLsb' 424 8, cplPfn := p.extractLsb' 432 40
                        expSerial := p.extractLsb' 480 32, timerFc := s.fc })) ∧
    (x.actKind = 0x23 →
      ((s.queue q).state = .free → run .queueUnbind = ends i 0x00) ∧
      ((s.queue q).state = .open_ →
        let d := i.updQueue q (fun y => { y with unbinds := y.unbinds ++ [e], state := .draining, cell := none, inl := [], fstate := .stopped
                                                 block := .none_, units := [], turn := 0 })
        run .queueUnbind = .next ((d.drainQueue q).settle (s.queue q).ctx)))

/-- Execution of TLB_INVALIDATE (R188, R430, R431: it stays READY while the epoch that would become current still drains), OBJECT_FREE (R122: the reclaim of the object it retired, or OK with none), BLAZE_CONFIG (R190, R232: BUSY_REFUSED while another entry names the Blaze, else the record is written, OK at once without MIRROR_EN and with it once the mirror write is answered) and SELF_TEST (R191, R548, R549): a cluster that failed at the start refuses it with BUSY_REFUSED, else it leaves service for the test, at once where it is out of service already; the front-end and Deck tests are refused while user work is admitted or another test runs. Their ends: a cluster whose LINK_CLEAR has passed goes on to loopback, and its failure ends ENGINE_HANG with the cluster out of service; the front end's pass and the Deck's give OK, the Deck's failure DECK_DATA_LOSS, and the front end's failure START_REFUSED, with STATE REFUSED and REASON 0x0C. While a Deck test runs it reads row by row as the scrubber does, a row that cannot be read makes it fail, and wrong parity of a stripe without another fault is rewritten and counts one rebuild (R549). Only a test that has an end does anything at its LEAVE step. OBJECT_FREE's own routine admits it without a reference. -/
def Obligations.InvalidationsBlazeWritesAndSelfTests : Prop :=
  ∀ (s : State) (e : Nat) (x : Entry), s.Inv →
    let i := s.issue e
    let p := x.pkt
    let k : BitVec 20 := p.extractLsb' 320 20
    let n : BitVec 16 := p.extractLsb' 320 16
    let target := pf p 321 320
    let c := x.testCluster
    (s.issues e x → x.kind = 0x25 →
      (s.epochCount k (s.epoch k + 1) ≠ 0 → Sys2Proof.Machine.exec (.tlbInvalidate (.execute e)) s = .next s) ∧
      (s.epochCount k (s.epoch k + 1) = 0 → Sys2Proof.Machine.exec (.tlbInvalidate (.execute e)) s = .next (i.invalidate e p))) ∧
    (s.issues e x → x.kind = 0x24 →
      (∀ r, s.xlt.retiring.find? (fun r => r.entry = some e) = some r →
        Sys2Proof.Machine.exec (.objectFree (.execute e)) s = .next ((i.updEntry e (fun y => { y with phase := 1 })).startReclaim r.ctx r.handle)) ∧
      (s.xlt.retiring.find? (fun r => r.entry = some e) = none → Sys2Proof.Machine.exec (.objectFree (.execute e)) s = .next (i.report e 0x00 false))) ∧
    (∀ t, s.atRoutine t 0x24 = true →
      let pk := (s.thread t).pkt
      (s.ctxOut (pf pk 339 320) = true → Sys2Proof.Machine.exec (.objectFree (.routine t)) s = .next (s.reject t 0x04)) ∧
      (s.ctxOut (pf pk 339 320) = false → (s.ctx (pk.extractLsb' 320 20)).state = .free →
        s.admitTrap t = none → s.threadObj t (pk.extractLsb' 352 32) = none →
        Sys2Proof.Machine.exec (.objectFree (.routine t)) s = .next ((s.updThread t (fun y => { y with
          img := headerImage y.pkt, stale := false, unresolved := [], handles := List.replicate 8 none })).admitPacket t 0x24 1 0
          (BitVec.ofNat 64 (pf pk 339 320 * 2 ^ 32 + pf pk 383 352))))) ∧
    (s.issues e x → x.kind = 0x28 →
      let w := i.updBlaze n (cfgRecord p (i.blazeCycle n))
      (i.blazeNamed n e = true → Sys2Proof.Machine.exec (.blazeConfig (.execute e)) s = .next (i.report e 0x02 false)) ∧
      (i.blazeNamed n e = false → bit p 357 = false → Sys2Proof.Machine.exec (.blazeConfig (.execute e)) s = .next (w.report e 0x00 false)) ∧
      (i.blazeNamed n e = false → bit p 357 = true → (s.blaze n).mirrorOut = false → Sys2Proof.Machine.exec (.blazeConfig (.execute e)) s =
        .next ((w.updEntry e (fun y => { y with phase := 1 })).mirrorIssue n))) ∧
    (s.issues e x → x.kind = 0x29 →
      (target = 0 → (s.cluster c).startFail = true → Sys2Proof.Machine.exec (.selfTestCluster (.execute e)) s = .next (i.report e 0x02 false)) ∧
      (target = 0 → (s.cluster c).startFail = false → Sys2Proof.Machine.exec (.selfTestCluster (.execute e)) s =
        .next (i.testLeave e c)) ∧
      (target = 0 → (s.cluster c).startFail = false → (s.cluster c).link = .out → (s.cluster c).testing = none → (s.cluster c).inTest = false →
        (s.cluster c).recovery = none → (s.cluster c).hangWait = none → ∃ t, Sys2Proof.Machine.exec (.selfTestCluster (.execute e)) s = .next t ∧
        t.cluster c = { (s.cluster c).linkReset with testing := some e, inTest := true } ∧ (∀ d, d ≠ c → t.cluster d = s.cluster d) ∧
        t.entry e = some { x with state := .issued, startFc := s.fe.cycles }) ∧
      (target = 1 → i.userHeld ≠ 0 ∨ s.fwc.selfTest ≠ none → Sys2Proof.Machine.exec (.selfTestFrontEnd (.execute e)) s = .next (i.report e 0x02 false)) ∧
      (target = 1 → i.userHeld = 0 → s.fwc.selfTest = none → Sys2Proof.Machine.exec (.selfTestFrontEnd (.execute e)) s =
        .next (State.emptyCaches { i with fwc := { s.fwc with selfTest := some e } })) ∧
      (target = 2 → i.userHeld ≠ 0 ∨ s.fwc.selfTest ≠ none → Sys2Proof.Machine.exec (.selfTestDeck (.execute e)) s = .next (i.report e 0x02 false)) ∧
      (target = 2 → i.userHeld = 0 → s.fwc.selfTest = none → Sys2Proof.Machine.exec (.selfTestDeck (.execute e)) s =
        .next { i with fwc := { s.fwc with selfTest := some e }, dck := { s.dck with testLost := false } })) ∧
    (s.entry e = some x →
      (x.kind = 0x29 → x.state = .issued → x.report = none → Sys2Proof.Machine.exec (.selfTestCluster (.leave e)) s = .next (s.testLeave e c)) ∧
      (x.kind = 0x29 → (s.cluster c).testing = some e → (s.cluster c).inTest = true → (s.cluster c).link = .held → (s.cluster c).ctrl = none →
        Sys2Proof.Machine.exec (.selfTestCluster (.finish e true)) s = .next (s.updCluster c (Cluster.sendCtrl ctLoopOn 0)) ∧
        Sys2Proof.Machine.exec (.selfTestCluster (.finish e false)) s = .next (State.report (s.updCluster c (fun y =>
          { y.linkDown with link := .out, testing := none, inTest := false })) e 0x0C false)) ∧
      (s.fwc.selfTest = some e → s.feRuns = true →
        let d : State := { s with fwc := { s.fwc with selfTest := none } }
        (target = 1 → Sys2Proof.Machine.exec (.selfTestFrontEnd (.finish e true)) s = .next (d.report e 0x00 false) ∧
          Sys2Proof.Machine.exec (.selfTestFrontEnd (.finish e false)) s =
            .next ((d.report e 0x11 false).refuseStart 0x0C)) ∧
        (target = 2 → ∀ pass, Sys2Proof.Machine.exec (.selfTestDeck (.finish e pass)) s = .next (d.report e (if pass && !s.dck.testLost then 0x00 else 0x0E) false)) ∧
        (target = 2 → ∀ (bank : BitVec 7) (row : BitVec 10), bank.toNat / 8 < s.build.deckGroups →
          Sys2Proof.Machine.exec (.selfTestDeck (.parity e bank row)) s = .next (s.mendParity bank.toNat row.toNat) ∧
          (∀ ecc, (s.scrubRow bank.toNat row.toNat ecc).2 = false →
            Sys2Proof.Machine.exec (.selfTestDeck (.row e bank row ecc)) s = .next (s.scrubRow bank.toNat row.toNat ecc).1) ∧
          (∀ ecc, (s.scrubRow bank.toNat row.toNat ecc).2 = true → ∃ t, Sys2Proof.Machine.exec (.selfTestDeck (.row e bank row ecc)) s = .next t ∧
            t.dck = { (s.scrubRow bank.toNat row.toNat ecc).1.dck with testLost := true }))))

/-- Execution of HAUL, PROGRAM_LOAD, GRAPH_LOAD, GRAPH_PATCH (their issue is the haul engines' take when they are the next, R359: the entry is ISSUED and a free stream slot holds its stream), of GRAPH_LOAD and GRAPH_PATCH once their image is read (R281, R291), of GRAPH_LAUNCH (R184, R284, R292, R293: the load's failure ends it, a graph held pins its current version, a load not retired is waited for), GRAPH_NODE_ADMISSION (R284: the next node takes the lowest free entry with its Blaze and handle checks), GRAPH_RELEASE (R294) and of LAUNCH (R174, R221: what the Yarder's dispatch or a share placement does when it places this launch). -/
def Obligations.LoadsGraphsHaulsAndLaunchesExecute : Prop :=
  ∀ (s : State) (e : Nat) (x : Entry), s.Inv → s.entry e = some x → s.feRuns = true →
    let run (c : OpStep → Instr) := Sys2Proof.Machine.exec (c (.execute e)) s
    let y := s.graph x.ctx x.graphNo
    let taken (k : StreamKind) (c : OpStep → Instr) : Prop := ∃ (t : State) (key : Nat) (z : Stream), run c = .next t ∧
      t.entry e = some { x with state := .issued, startFc := s.fe.cycles } ∧ s.stream key = none ∧ t.stream key = some z ∧
      z.kind = k ∧ z.entry = e ∧ z.ctx = x.ctx ∧ t = { s with lnd := { s.lnd with entries := t.lnd.entries }, hau := t.hau }
    (x.state = .ready → s.nextTake = some (.entry e x) → s.bindingWraps x = false →
      (x.actKind = kHaul → taken .haul .haul) ∧ (x.kind = kProgramLoad → taken .load .programLoad) ∧
      (x.kind = kGraphLoad → taken .load .graphLoad) ∧ (x.kind = kGraphPatch → taken .load .graphPatch)) ∧
    (x.state = .issued → x.phase = 1 → x.report = none →
      let nodes := (List.range (imageNodes x.staged)).map (nodeAt x.staged)
      let units := footprintOf (imageNodes x.staged) (imagePatch x.staged) (imageEdges x.staged)
      (x.kind = kGraphLoad → s.imageForm x.ctx x.staged (bits x.img 471 448) = false → run .graphLoad = .next (s.report e 0x04 false)) ∧
      (x.kind = kGraphLoad → s.imageForm x.ctx x.staged (bits x.img 471 448) = true → nodesHandles nodes = [] →
        nodes.all (fun r => nodeObjects r x.graphObj) = true → units ≤ s.freeUnits → s.refsFit x.ctx x.kernelQ [] = true →
        ∃ t, run .graphLoad = .next t ∧ t.entry e = some { x with report := some (0x00, false) } ∧
          (t.graph x.ctx x.graphNo).holds = true ∧ (t.graph x.ctx x.graphNo).versions = [{ number := 0, nodes }] ∧
          (t.graph x.ctx x.graphNo).footprint = units) ∧
      (x.kind = kGraphPatch → (y.claimed = true → y.loaded = true) → s.patchBefore e x = false →
        (y.holds = false ∨ s.patchForm x.ctx y y.current x.staged (bits x.img 471 448) = false) →
        run .graphPatch = .next (s.report e 0x04 false)) ∧
      (x.kind = kGraphPatch → run .graphPatch = .next (s.applyPatch e x))) ∧
    (x.state = .ready → x.kind = kGraphLaunch →
      let i := (s.issue e).updEntry e (fun z => { z with charged := false })
      (y.claimed = true → y.loaded = false → run .graphLaunch = .next i) ∧
      (y.claimed = true → y.loaded = true → y.holds = false → run .graphLaunch = .next (i.report e y.failStatus false)) ∧
      (y.claimed = true → y.loaded = true → y.holds = true →
        run .graphLaunch = .next (i.updEntry e (fun z => { z with phase := 1, version := y.shown }))) ∧
      (y.claimed = false → run .graphLaunch = .next (i.freshWord.2.report e (i.freshWord.1.extractLsb' 0 8) false))) ∧
    (x.state = .ready → x.report = none → x.kind = kGraphRelease →
      (y.releases = [e] → y.releasing = true → y.loaded = true → y.patches = [] → (∀ v ∈ y.versions, s.pinned x.ctx x.graphNo v.number = false) →
        ∃ t, run .graphRelease = .next t ∧ t.graph x.ctx x.graphNo = {} ∧
          t.entry e = some { x with state := .issued, startFc := s.fe.cycles, report := some (0x00, false) }) ∧
      (y.releases.contains e = false → run .graphRelease = .next ((s.issue e).report e 0x00 false))) ∧
    (∀ (v : GVersion) (r : BitVec 1024), x.kind = kGraphLaunch → x.state = .issued → x.phase = 1 → x.torn = false → s.admits = true →
      y.versions.find? (fun v => v.number = x.version) = some v → v.nodes[x.nextNode]? = some r → s.bound x.queue 1 [] = none →
      let n := s.freeEntryNo
      let p := (s.putEntry (s.nodeEntry e x x.nextNode r)).updEntry e (fun z => { z with nextNode := z.nextNode + 1 })
      let a := (State.meetAtCommit { p with lnd := { p.lnd with ord := s.lnd.ord + 1, nodesAdmitted := s.lnd.nodesAdmitted + 1 } } n).restartTimer x.queue
      let admission := Sys2Proof.Machine.exec (.graphNodeAdmission e) s
      ((∃ b ∈ nodeBlazes r, a.blazeAdmits b x.ctx = false) → admission = .next ((a.report n 0x03 false).teardown x.ctx 0x03)) ∧
      ((∀ b ∈ nodeBlazes r, a.blazeAdmits b x.ctx = true) → (∃ h ∈ nodeHandles r, a.isRetiring x.ctx h = true) →
        admission = .next ((a.report n 0x0A false).teardown x.ctx 0x0A)) ∧
      ((∀ b ∈ nodeBlazes r, a.blazeAdmits b x.ctx = true) → (∀ h ∈ nodeHandles r, a.isRetiring x.ctx h = false) →
        ∃ (t : State) (z : Entry), admission = .next t ∧ t = a ∧ s.entry n = none ∧ t.entry n = some z ∧ z.parent = some e ∧ z.node = x.nextNode ∧
          z.ctx = x.ctx ∧ z.queue = x.queue ∧ z.kind = kGraphNode ∧ t.entry e = some { x with nextNode := x.nextNode + 1 } ∧
          t.lnd.nodesAdmitted = s.lnd.nodesAdmitted + 1)) ∧
    (x.state = .ready → x.actKind = kLaunch → (∃ u ∈ s.placements, ∃ z, u.entry e = some z ∧ z.state = .issued) →
      ∃ (t : State) (z : Entry), run .launch = .next t ∧ t ∈ s.placements ∧ t.entry e = some z ∧ z.state = .issued)

/-- MANAGER_READ_RESPONSE and MANAGER_WRITE_RESPONSE, no reset input asserted (R38, R42, R47): the response of an outstanding transaction of the current epoch ends it and, the block's units not stopped, OKAY without poison acts on its source; SLVERR or EXOKAY issues the burst again while fewer than RETRY_LIMIT times (an interrupt message never); DECERR, poison and a response past the limit record a block-owned failure and fail the source; whatever waited for its SLOT is then issued. A response of no transaction in the current epoch is stray (source 0x001 raised), in the other epoch late. PORT_TIMEOUT (R523): a transaction outstanding for 2^DRAIN_LOG2 fc asks for a front-end reset with PORT_TIMEOUT. DRAIN_TIMEOUT (R48): abandoned transactions left at the limit mark their ports HUNG and take the block out of service. -/
def Obligations.ManagerResponsesAndTimeouts : Prop :=
  ∀ (s : State), s.Inv →
    (∀ (ifc : BitVec 6) (id : BitVec 12) (resp : Resp) (poison : Bool) (data : List Byte), s.pins.fRst = false → s.pins.aoRst = false →
      let found (w : Bool) := s.mp.find w ifc.toNat (bit id 11) (id.extractLsb' 5 6) (bits id 4 0)
      let rd := Sys2Proof.Machine.exec (.managerReadResponse ifc id resp poison data) s
      let wr := Sys2Proof.Machine.exec (.managerWriteResponse ifc id resp) s
      let rest (t : Txn) : State := { s with mp := { s.mp with txns := s.mp.txns.erase t } }
      let serves (t : Txn) : Prop := s.fwc.wholeBusy = none ∧ s.unitActs t.purpose = true
      let again (t : Txn) := (resp = .slverr ∨ resp = .exokay) ∧ t.source ≠ srcIrq ∧ t.retries < s.mp.retryLimit.toNat
      let reissued (t : Txn) (o : Host.Outcome State Fault Refusal) : Prop := ∃ u, o = .next u ∧
        u = State.promoteAll ((rest t).issueTxn { t with retries := t.retries + 1 }) ∧
        (∃ w ∈ u.mp.txns ++ u.mp.waiting, w = { t with retries := t.retries + 1, slot := w.slot, epoch := w.epoch, fc := w.fc }) ∧
        u = { s with mp := u.mp, yrd := u.yrd }
      (∀ t, found false = some t → serves t →
        (resp = .okay → poison = false → ∃ u, rd = .next u ∧ u = State.promoteAll ((rest t).readOkay t (slice data (t.pa % 64) t.len)) ∧
          (∀ k r, t.purpose = .maskRead k → s.residentSlot k = some r → (u.resSlot r).masksRead = true)) ∧
        (again t → poison = false → reissued t rd) ∧
        (poison = true ∨ (resp ≠ .okay ∧ ¬again t) → ∃ u, rd = .next u ∧ u = State.promoteAll (((rest t).portFail t).readFailed t poison) ∧
          (∀ p k, t.blockOwned = true → t.purpose = .spanRead p k → u.irq.pending.getLsbD 1 = true))) ∧
      (∀ t, found true = some t → serves t →
        (resp = .okay → ∃ u, wr = .next u ∧ u = State.promoteAll ((rest t).writeAnswered t true) ∧
          (∀ v, t.purpose = .irqMessage v → (u.vec (BitVec.ofNat 3 v)).msgOut = false ∧ (u.vec (BitVec.ofNat 3 v)).failedFc = none)) ∧
        (again t → reissued t wr) ∧
        (resp ≠ .okay ∧ ¬again t → ∃ u, wr = .next u ∧ u = State.promoteAll (((rest t).portFail t).writeAnswered t false) ∧
          (∀ v, t.purpose = .irqMessage v → (u.vec (BitVec.ofNat 3 v)).failedFc = some s.fc))) ∧
      (∀ w r, (w = false ∧ r = rd) ∨ (w = true ∧ r = wr) → found w = none →
        (bit id 11 = s.mp.epoch → s.mp.abandoned = [] → ∃ u, r = .next u ∧ u.mp.stray = s.mp.stray + 1 ∧ u.irq.pending.getLsbD 1 = true ∧
          u = { s with mp := { s.mp with stray := s.mp.stray + 1 }, irq := u.irq, pwr := u.pwr }) ∧
        (bit id 11 ≠ s.mp.epoch → ∃ u, r = .next u ∧ u.mp.late = s.mp.late + 1 ∧ u.mp.stray = s.mp.stray ∧ u = { s with mp := u.mp, yrd := u.yrd }))) ∧
    (s.feRuns = true → s.fwc.asked = [] → (∃ t ∈ s.mp.txns, t.fc + s.mp.drainLimit ≤ s.fc) →
      Sys2Proof.Machine.exec .portTimeout s = .next { s with fwc := { s.fwc with asked := [(kindFrontEnd, 0x06)] } }) ∧
    ((∀ t ∈ s.mp.txns, s.fc < t.fc + s.mp.drainLimit) → Sys2Proof.Machine.exec .portTimeout s = .next s) ∧
    (∀ f, s.mp.drainFc = some f → f + s.mp.drainLimit ≤ s.fc → s.mp.previous ≠ [] → (∀ t ∈ s.mp.previous, t.ifc < 64) →
      ∃ u, Sys2Proof.Machine.exec .drainTimeout s = .next u ∧ (∀ t ∈ s.mp.previous, u.mp.hung.getLsbD (t.ifc / 8) = true) ∧
        (∀ j, s.mp.hung.getLsbD j = true → u.mp.hung.getLsbD j = true) ∧ u.mp.drainFc = none ∧ u.fwc.state = .outOfService ∧
        u.irq.pending.getLsbD 1 = true)

/-- HAUL_TAKE (R359): the first operation of the order goes into the lowest free slot of the engine with most room. CHUNK_START (R360 to R362): a chunk that was already written is passed over; else the next chunk is open, a virtual one with the context's epoch and with its pages to translate, a physical one with its read or write issued. LINE_LOCK_ACQUIRE (R355): the first waiting chunk locks its lines when none is held and begins its reads, and waits otherwise. SLASH_RING_RETRY (R438): a record whose write failed is written again after 65,536 fc. LOADER_RUN (R340, R341): with a scheduler core of the partition running, an image that fails its checks is rejected with the code and the record, one that finds too few backing pages with 0x12, and a good one takes its pages, is written out and waits. -/
def Obligations.HaulEnginesTakeAndStartChunks : Prop :=
  ∀ (s : State), s.Inv → s.feRuns = true →
    (∀ e x, s.nextTake = some (.entry e x) → s.entry e = some x →
      (s.bindingWraps x = false → ∃ u key z, Sys2Proof.Machine.exec .haulTake s = .next u ∧ u.entry e = some { x with state := .issued, startFc := s.fe.cycles } ∧
        s.stream key = none ∧ u.stream key = some z ∧ z.entry = e ∧ z.ctx = x.ctx ∧ z.chunks = [] ∧
        u = { s with lnd := { s.lnd with entries := u.lnd.entries }, hau := u.hau }) ∧
      (s.bindingWraps x = true → ∃ u, Sys2Proof.Machine.exec .haulTake s = .next u ∧ u.hau = s.hau ∧ u.lnd.rejects = s.lnd.rejects + 1 ∧
        (x.report = none → (u.entry e).map (·.report) = some (some (0x09, false))))) ∧
    (∀ i x, s.nextTake = some (.internal i x) → ∃ u key z, Sys2Proof.Machine.exec .haulTake s = .next u ∧ s.stream key = none ∧ u.stream key = some z ∧
      z.kind = x.kind ∧ z.ctx = x.ctx ∧ z.srcVa = x.srcVa ∧ u = { s with hau := u.hau } ∧ u.hau.internal = s.hau.internal.eraseIdx i) ∧
    (s.nextTake = none → Sys2Proof.Machine.exec .haulTake s = .next s) ∧
    (∀ (engine : BitVec 4) (slot : BitVec 6),
      let key := 64 * engine.toNat + slot.toNat
      (∀ x, s.stream key = some x → s.chunkMayStart key x = true →
        let chunk : Chunk := { n := x.next, phase := if x.kind.virtual then .translating else .reading, epoch := s.epoch x.ctx
                               need := if x.kind.virtual then s.chunkNeed x x.next else [] }
        let o := s.updStream key (fun y => { y with next := x.next + 1, chunks := y.chunks ++ [chunk] })
        let run := Sys2Proof.Machine.exec (.chunkStart engine slot) s
        (x.next ∈ x.skip → x.chunks ≠ [] → ∃ u, run = .next u ∧ u.stream key = some { x with next := x.next + 1 } ∧ u = { s with hau := u.hau }) ∧
        (x.next ∈ x.skip → run = .next ((s.updStream key (fun y => { y with next := y.next + 1 })).settleStream key)) ∧
        (x.next ∉ x.skip → x.kind.virtual = true → run = .next ((o.epochTake x.ctx (s.epoch x.ctx)).translateOn key)) ∧
        (x.next ∉ x.skip → x.kind.virtual = false → ∃ u, run = .next u ∧ u = o.physicalChunk key x ∧
          u.stream key = some { x with next := x.next + 1, chunks := x.chunks ++ [chunk] } ∧
          ∃ w ∈ u.mp.txns ++ u.mp.waiting, w.source = engine.setWidth 6 ∧ w.pa = x.srcVa)) ∧
      (∀ n rest x k, s.hau.lockQueue = (key, n) :: rest → s.stream key = some x → x.chunk n = some k →
        let lines := s.chunkLines x k
        ((∀ a ∈ lines, ∀ b ∈ s.hau.locks, b.1 ≠ a) → ∃ u r, Sys2Proof.Machine.exec (.lineLockAcquire engine slot) s = .next u ∧
          u = State.beginReads r key n ∧ r = { s with hau := { s.hau with
            locks := s.hau.locks ++ lines.map (fun a => (a, key, n)), lockQueue := r.hau.lockQueue } } ∧ (key, n) ∉ u.hau.lockQueue) ∧
        ((∃ a ∈ lines, ∃ b ∈ s.hau.locks, b.1 = a) → Sys2Proof.Machine.exec (.lineLockAcquire engine slot) s = .next s))) ∧
    (∀ f r, s.xlt.failedFc = some f → s.xlt.posting = some r → f + 65536 ≤ s.fc → (∀ t ∈ s.mp.txns ++ s.mp.waiting, t.purpose ≠ .faultRecord) →
      ∃ u, Sys2Proof.Machine.exec .slashRingRetry s = .next u ∧ u.xlt.failedFc = some s.fc ∧ u.xlt.posting = some r ∧ u.xlt.wp = s.xlt.wp ∧
        ∃ w ∈ u.mp.txns ++ u.mp.waiting, w.purpose = .faultRecord ∧ w.write = true ∧ w.source = srcRing) ∧
    (∀ e x c, s.entry e = some x → x.kind = kProgramLoad → x.state = .issued → x.phase = 1 → x.report = none → x.torn = false →
      s.loaderCore e x = some c →
        let run := Sys2Proof.Machine.exec (.loaderRun e) s
        (∀ code n, verifyImage x.staged s.fwc.caps = .error (code, n) →
          ∃ u, run = .next u ∧ u = (s.traceLoad c x (rejectStep code) 0x09).rejectLoad e x (BitVec.ofNat 8 code) (rejectRecord code n) ∧
            u.entry e = some { x with report := some (0x09, false) } ∧ u.lnd.rejects = s.lnd.rejects + 1 ∧ u.lnd.freePages = s.lnd.freePages) ∧
        (∀ m, verifyImage x.staged s.fwc.caps = .ok m →
          let n := (m.size + 4095) / 4096
          (s.lnd.freePages.toNat < n → ∃ u, run = .next u ∧ u = (s.traceLoad c x 10 0x09).rejectLoad e x 0x12 0 ∧
            u.entry e = some { x with report := some (0x09, false) } ∧ u.lnd.rejects = s.lnd.rejects + 1 ∧ u.lnd.freePages = s.lnd.freePages) ∧
          (n ≤ s.lnd.freePages.toNat → n ≤ (s.backingPages n).length → n < 2 ^ 24 →
            ∃ u, run = .next u ∧ u.entry e = some { x with phase := 2, loader := some c } ∧ (∀ d, d ≠ e → u.entry d = s.entry d) ∧
              u.lnd.freePages.toNat + n = s.lnd.freePages.toNat ∧
              u.lnd.bindings = s.lnd.bindings.map (fun (y : Binding) => if x.ownBinding y then { y with image := m, pages := s.backingPages n } else y))))

/-- SHARE_PLACEMENT of a cluster (R268, R269): the group next in order with credit takes its oldest waiting launch, a new round is started when none has credit, and unweighted work goes by age. BEST_EFFORT_DISPATCH (R272): nothing while share work is due; else the oldest best-effort launch goes to the tail of its deque, ISSUED. DEQUE_TAKE and STEAL (R272, R273): a cluster takes the head of its deque, an idle one the tail of the first deque in its probe order whose launch it may take, counted. RESIDENCY_LOAD (R111, R112): a context that needs it waits in order, takes a free slot, or has the victim evicted. WAIT_GRAPH_PROBE (R237 to R241): the first fired queue's walk ends discarded, in a cycle that is broken with DEADLOCK, or without one in a TIMEOUT. -/
def Obligations.YarderPlacesDispatchesAndProbes : Prop :=
  ∀ (s : State) (c : BitVec 6), s.Inv → s.feRuns = true →
    let placed (t : State) (e : Nat) : Prop := (t.cluster c).shadow.map (fun l => l.entry) = some e ∧
      (t.entry e).map (fun y => (y.state, y.place)) = some (.issued, .shadow c)
    (s.releaseDue = false →
     let f := s.failLoaded s.shareWork
     let l := f.shareFor c
     let p := (f.cluster c).partition
     let run := Sys2Proof.Machine.exec (.sharePlacement c) s
     let take (r : State) (g e : Nat) (x : Entry) : State := (r.updPart p (fun y => { y with rr := BitVec.ofNat 8 (g + 1) })).placeShare c e x
     let weighted := ∃ q ∈ l, (tget {} f.yrd.groups (f.ctx q.2.ctx).shareGroup.toNat).weight ≠ 0
     (∀ g e x, f.roundPick p l = some (g, e, x) → ∃ t, run = .next t ∧ t = take f g e x ∧ placed t e ∧ (t.part p).rr = BitVec.ofNat 8 (g + 1)) ∧
     (f.roundPick p l = none → weighted → ∀ g e x, (f.newRound p l).roundPick p l = some (g, e, x) →
       ∃ t, run = .next t ∧ t = take (f.newRound p l) g e x ∧ placed t e ∧ (t.part p).rr = BitVec.ofNat 8 (g + 1)) ∧
     (f.roundPick p l = none → ¬weighted → ∀ e x, leastBy ageKey l = some (e, x) → ∃ t, run = .next t ∧ t = f.placeShare c e x ∧ placed t e) ∧
     (l = [] → run = .next f)) ∧
    (s.releaseDue = false →
     let f := s.failLoaded (fun x => x.cls = 2)
     let run := Sys2Proof.Machine.exec .bestEffortDispatch s
     let pick := leastBy ageKey (f.lnd.entries.filter (fun p => p.2.cls = 2 && f.placeable p.2 && (f.dequeFor p.2).isSome))
     (s.shareDue s.allClusters = true → run = .next s) ∧
     (s.shareDue s.allClusters = false → ∀ e x d, pick = some (e, x) → x.place ≠ .returned → f.dequeFor x = some d → f.coreRuns d = true →
       ∃ t, run = .next t ∧ (t.cluster d).deque = (f.cluster d).deque ++ [e] ∧ (∀ v, v ≠ d → t.cluster v = f.cluster v) ∧
         (t.entry e).map (fun y => (y.state, y.place)) = some (.issued, .deque d) ∧
         t = { f with lnd := { f.lnd with entries := t.lnd.entries }, clusters := t.clusters }) ∧
     (s.shareDue s.allClusters = false → ∀ e x, pick = some (e, x) → x.place = .returned → run = .next (f.returnLaunch e))) ∧
    (s.shareDue [c] = false →
      ((s.cluster c).deque = [] → Sys2Proof.Machine.exec (.dequeTake c) s = .next s) ∧
      (∀ e rest, (s.cluster c).deque = e :: rest → s.mayTake c e = true → ∃ t, Sys2Proof.Machine.exec (.dequeTake c) s = .next t ∧ t = s.takeFrom c c e ∧
        placed t e ∧ (t.cluster c).deque = rest.filter (fun k => k ≠ e)) ∧
      (∀ v e x, s.schedState c = .idle → (s.cluster c).empty = true → (s.cluster c).deque = [] → s.entry e = some x →
        (s.probeOrder c).findSome? (fun v => (s.cluster v).deque.getLast?.bind (fun e => if s.mayTake c e then some (v, e) else none)) = some (v, e) →
        ∃ t, Sys2Proof.Machine.exec (.steal c) s = .next t ∧
          t = ((s.trace 4 (3 + c.toNat) 0x0006 [c.toNat, v.toNat, x.ctx.toNat]).takeFrom v c e).updCluster c (fun y => { y with steals := y.steals + 1 }) ∧
          placed t e ∧ (t.cluster c).steals = (s.cluster c).steals + 1 ∧ e ∉ (t.cluster v).deque)) ∧
    (∀ k : BitVec 20, (∀ p ∈ s.res.slots, p.2.state ≠ .evicting) → (s.ctx k).state = .active → (s.ctx k).resident = false →
      s.needsResidency k = true → (s.proc procSched).state = .running → k ∉ s.res.waiting →
        let w : State := { s with res := { s.res with waiting := s.res.waiting ++ [k] } }
        let run := Sys2Proof.Machine.exec (.residencyLoad k) s
        (∀ r, s.freeRes = some r → s.res.waiting = [] → ∃ t, run = .next t ∧ (t.resSlot r).state = .loading ∧ (t.resSlot r).ctx = k ∧ t.res.waiting = [] ∧
          (∀ j, j ≠ r → t.resSlot j = s.resSlot j)) ∧
        (s.freeRes ≠ none → run = .next w.startWaiting) ∧
        (s.freeRes = none → ∀ r, w.victim = some r → run = .next
          (((w.trace 1 procSched 0x0003 [(w.resSlot r).ctx.toNat, r, 1, w.victimClass (w.resSlot r).ctx]).updRes r (fun x => { x with state := .evicting })).evictStep r)) ∧
        (s.freeRes = none → w.victim = none → run = .next w)) ∧
    (∀ q rest, s.lnd.fired = q :: rest → (s.proc procSched).state = .running → s.fwc.state ≠ .outOfService →
      let run := Sys2Proof.Machine.exec .waitGraphProbe s
      let probed (t : State) (outcome hops len : Nat) : Prop := bits t.lnd.probeLog 63 50 = q.toNat ∧ bits t.lnd.probeLog 49 48 = outcome ∧
        bits t.lnd.probeLog 47 41 = hops % 128 ∧ bits t.lnd.probeLog 40 34 = len % 128 ∧ (t.queue q).timerFc = s.fc
      (∀ h, s.walk 64 q [] = .discarded h → h ≤ 64 → ∃ t, run = .next t ∧ t = s.probeDone q 3 h 0 ∧ probed t 3 h 0) ∧
      (∀ l h, s.walk 64 q [] = .cycle l h → h ≤ 64 → l.length ≤ 64 → (∀ m ∈ l, (s.blaze m.2.2).error = false) →
        ∃ t, run = .next t ∧ t = (s.deadlock l).probeDone q 2 h l.length ∧ probed t 2 h l.length) ∧
      (∀ h, s.walk 64 q [] = .noCycle h → h ≤ 64 → (s.queue q).ctx ≠ kernelCtx →
        ∃ t, run = .next t ∧ t = (s.teardown (s.queue q).ctx 0x05).probeDone q 1 h 0 ∧ probed t 1 h 0))

/-- RESERVATION_WINDOW_OPEN (R253, R255, R258, R261): an entry of the active table that fires in the minor frame, not more than its lead before its next instant and with no window of it open yet, opens a window for that instant; a queue not OPEN, a context not ACTIVE or a front-end reset makes it inert and a missed release. RT_RELEASE (R258, R260): at its instant, with the cluster in service and its launch in the shadow bank and none active, the launch issues and the release is counted. WINDOW_CLOSE (R253, R258, R260, R262): past instant and length, a released window that has not ended is an overrun, counted once; else a release that never came is missed, its preloaded launch is withdrawn, and the window is gone, with the cluster held for the entry's context when the next window is the same. -/
def Obligations.ReservationWindowsOpenReleaseAndClose : Prop :=
  ∀ (s : State) (i : BitVec 12), s.Inv →
    (∀ (m : BitVec 8) (t : RtTable), s.yrd.table = some t → i.toNat < t.entries.length → s.inRun = true →
      let e := t.entries.getD i.toNat 0
      let q := s.queue (rtQueue e)
      let first := s.yrd.base.toNat + m.toNat * (t.majorFc / t.minors) + rtOffset e
      let at_ := if s.fc < first + rtLength e then first else first + t.majorFc
      let live := q.state = .open_ ∧ (s.ctx q.ctx).state = .active ∧ s.fwc.feBusy = false
      let w (inert : Bool) : Window := { entry := i.toNat, row := e, instant := at_, cluster := rtCluster e, length := rtLength e, launch := none
                                         released := false, ended := false, switched := false, loaded := false, counted := false, inert }
      let opened (inert : Bool) : State := { s with yrd := { s.yrd with windows := s.yrd.windows ++ [w inert] } }
      let run := Sys2Proof.Machine.exec (.reservationWindowOpen i m) s
      (rtFires e t.minors m.toNat = false → run = .next s) ∧
      (rtFires e t.minors m.toNat = true → s.fc + rtLead e < at_ → run = .next s) ∧
      (rtFires e t.minors m.toNat = true → at_ ≤ s.fc + rtLead e → (∀ v ∈ s.yrd.windows, ¬(v.entry = i.toNat ∧ v.instant = at_)) →
        (live → ∃ r, run = .next r ∧ r = State.windowsGo ((opened false).updCluster (BitVec.ofNat 6 (rtCluster e)) (fun x => { x with hold := none })) ∧
          r.yrd.windows.map (fun v => (v.entry, v.instant, v.released, v.inert)) =
            s.yrd.windows.map (fun v => (v.entry, v.instant, v.released, v.inert)) ++ [(i.toNat, at_, false, false)]) ∧
        (¬live → ∃ r, run = .next r ∧ r.yrd.windows = s.yrd.windows ++ [{ w true with counted := true }] ∧ r.yrd.missed = s.yrd.missed + 1 ∧
          r.irq.pending.getLsbD 0x00C = true ∧ r = { s with yrd := r.yrd, irq := r.irq, pwr := r.pwr }))) ∧
    (let mine (w : Window) : Bool := w.entry = i.toNat && !w.inert && !w.released && !w.ended
     let run := Sys2Proof.Machine.exec (.rtRelease i) s
     ((∀ w ∈ s.yrd.windows, mine w = false) → run = .next s.windowsGo) ∧
     (∀ w0, s.yrd.windows.find? mine = some w0 →
       let r := (s.failLoaded (fun x => x.queue = rtQueue w0.row && s.tabledLaunch x)).windowsGo
       ∀ n w, r.yrd.windows.findIdx? mine = some n → r.yrd.windows[n]? = some w →
         (r.fc < w.instant → run = .next r) ∧
         (w.instant ≤ r.fc → (r.cluster (BitVec.ofNat 6 w.cluster)).inService = false → w.counted = false →
           ∃ t, run = .next t ∧ t = r.rtFault n false ∧ t.yrd.missed = r.yrd.missed + 1 ∧ t.irq.pending.getLsbD 0x00C = true) ∧
         (∀ l y, w.launch = some l → r.entry l = some y → r.releasable w = true → r.fwc.feBusy = false → r.yrd.releaseFc ≠ some r.fc →
           (∀ v ∈ r.yrd.windows, v.entry < w.entry → r.releasable v = false) →
           ∃ t, run = .next t ∧ t.entry l = some { y with state := .issued, startFc := r.fe.cycles, place := .shadow (BitVec.ofNat 6 w.cluster) } ∧
             t.yrd = { r.yrd with released := r.yrd.released + 1, releaseFc := some r.fc, windows := r.yrd.windows.modify n (fun w => { w with released := true }) } ∧
             t = { r with lnd := { r.lnd with entries := t.lnd.entries }, yrd := t.yrd }))) ∧
    (∀ n w, s.yrd.windows.findIdx? (fun w => w.entry = i.toNat && decide (w.instant + w.length ≤ s.fc)) = some n → s.yrd.windows[n]? = some w →
      let run := Sys2Proof.Machine.exec (.windowClose i) s
      (w.released = true → w.ended = false → w.counted = true → run = .next s) ∧
      (w.released = true → w.ended = false → w.counted = false → ∃ t, run = .next t ∧ t.yrd.overrun = s.yrd.overrun + 1 ∧ t.irq.pending.getLsbD 0x00C = true ∧
        t.yrd.windows = s.yrd.windows.modify n (fun v => { v with counted := true }) ∧ t = { s with yrd := t.yrd, irq := t.irq, pwr := t.pwr }) ∧
      (w.ended = true → bit w.row 1 = false → run = .next { s with yrd := { s.yrd with windows := s.yrd.windows.eraseIdx n } }) ∧
      (w.released = false → w.ended = false → w.counted = false → w.launch = none → bit w.row 1 = false →
        ∃ t, run = .next t ∧ t.yrd.missed = s.yrd.missed + 1 ∧ t.irq.pending.getLsbD 0x00C = true ∧ t.yrd.windows = s.yrd.windows.eraseIdx n ∧
          t = { s with yrd := t.yrd, irq := t.irq, pwr := t.pwr }))

/-- LAUNCH_START (R327): the loaded launch of the shadow bank becomes the active one of an ACTIVE cluster with none. BUNDLE_ISSUE (R299): in a fresh cclk the stream that the issue order chooses issues its bundle; with none chosen the STALL cause of a waiting stream is noted. LAUNCH_COMPLETE (R329): with every stream done and no operation left the final FLUSH is sent, once; answered and all signals passed, the launch completes. CHAINED_LAUNCH_START (R330, R177, R338): a chained launch already ended is dropped, one bound to a failed load ends with its status without running, one whose load is not ready waits. PREEMPT_STOP (R447, R322): a stopping switch sets the launch's stop target, and once it is reached with nothing outstanding sends YIELD. In each the rest of the state is as before. -/
def Obligations.LaunchesRunOnTheirCluster : Prop :=
  ∀ (s : State) (c : BitVec 6), s.Inv →
    let x := s.cluster c
    let quiet : Prop := s.yrd.windows = [] ∧ ∀ p ∈ s.res.slots, p.2.state ≠ .evicting
    (∀ l e, x.shadow = some l → s.entry l.entry = some e → x.canStart = true → x.chainNext = none → e.state = .issued → l.loaded = true → s.fwc.dumping = none →
      ∃ t, Sys2Proof.Machine.exec (.launchStart c) s = .next t ∧ t = s.swapIn c { l with suppress := if l.resumed then l.suppress else e.passed } ∧
        (t.cluster c).shadow = none ∧ (t.cluster c).active.map (fun m => m.entry) = some l.entry ∧ (t.cluster c).bank = !x.bank ∧
        (t.entry l.entry).map (fun y => y.place) = some (.active c) ∧ (∀ d, d ≠ c → t.cluster d = s.cluster d)) ∧
    (∀ (stream : BitVec 2) (cclk : Nat) (l : Launch), x.active = some l → x.link = .active → x.tokenFail = false → x.hangWait = none → s.fwc.dumping = none →
      x.descQ = [] → (∀ t ∈ l.streams, ∀ k, t.last = some k → k < cclk) →
      let half := capDescSlots s.fwc.caps / 2
      (∀ b, x.chosenStream l half cclk = some stream.toNat → l.next stream.toNat = some b →
        ∃ t, Sys2Proof.Machine.exec (.bundleIssue c stream cclk) s = .next t ∧ t = s.issueBundle c l stream.toNat cclk b ∧
          (t.cluster c).bundles = x.bundles + 1 ∧ (t.cluster c).lastStream = stream.toNat) ∧
      (x.chosenStream l half cclk = none → stream.toNat ∈ l.used.filter (fun (i : Nat) => (l.next i).isSome) →
        ∃ t, Sys2Proof.Machine.exec (.bundleIssue c stream cclk) s = .next t ∧
          t.cluster c = { x with stall := BitVec.ofNat 4 (x.stallOf l half stream.toNat cclk) } ∧ t = { s with clusters := t.clusters })) ∧
    (∀ l, x.active = some l → x.link = .active → l.allDone = true → x.ops = [] → x.tokenFail = false → x.hangWait = none → x.switch = none →
      let run := Sys2Proof.Machine.exec (.launchComplete c) s
      (l.flushSent = false → x.sync.length < 4 → ∃ t, run = .next t ∧
        t = State.windowsGo (State.evictions (s.updCluster c (fun y => Cluster.sendSync false 15 true
          { y with active := y.active.map (fun l => { l with flushSent := true }) }))) ∧
        (quiet → t.cluster c = { x with sync := x.sync ++ [{ yield := false, classes := 15, tag := x.tag, taken := false, final := true }], tag := x.tag + 1
                                        active := some { l with flushSent := true } })) ∧
      (l.flushSent = true → l.flushDone = true → x.sigs = [] → s.fwc.feBusy = false → ∃ t, run = .next t ∧
        t = State.windowsGo (State.evictions (s.completeLaunch c l)) ∧
        (∀ y, quiet → x.recovery = none → (s.proc (3 + c.toNat)).state = .running → s.entry l.entry = some y → y.report = none →
          (t.cluster c).active = none ∧ (t.cluster c).chainNext = l.chain ∧ (t.entry l.entry).map (fun z => z.report) = some (some (0x00, false))))) ∧
    (∀ e y, x.chainNext = some e → s.entry e = some y →
      let run := Sys2Proof.Machine.exec (.chainedLaunchStart c) s
      let cleared := s.updCluster c (fun z => { z with chainNext := none })
      (y.report ≠ none → run = .next cleared.windowsGo) ∧
      (y.report = none → ∀ st, s.bindingFailed y = some st → ∃ t, run = .next t ∧ t = ((cleared.issue e).report e st false).windowsGo ∧
        (s.yrd.windows = [] → t.entry e = some { y with state := .issued, startFc := s.fe.cycles, report := some (st, false) } ∧
          (t.cluster c).chainNext = none)) ∧
      (y.report = none → s.bindingFailed y = none → s.bindingReady y = false → run = .next s.windowsGo) ∧
      (y.report = none → s.bindingFailed y = none → s.bindingReady y = true → x.switch = none → x.canStart = true → s.operandsHeld y = true → s.fwc.dumping = none →
        let l := s.buildLaunch e y (s.chainTabled x) (!s.chainTabled x && decide (y.cls ≠ 2))
        (l.loaded = false → run = .next (s.fetchPages l).windowsGo) ∧
        (l.loaded = true → ∃ t, run = .next t ∧
          t = State.windowsGo (((s.updEntry e (fun z => { z with state := .issued, phase := 1, startFc := s.fe.cycles })).swapIn c l).updCluster c
            (fun z => { z with shadow := x.shadow })) ∧
          (s.yrd.windows = [] → (t.cluster c).active.map (fun m => m.entry) = some e ∧ (t.cluster c).chainNext = none ∧ (t.cluster c).shadow = x.shadow ∧
            (t.cluster c).bank = (!x.bank) ∧ (t.entry e).map (fun z => (z.state, z.place)) = some (.issued, .active c)))) ∧
      (y.report = none → s.bindingFailed y = none → s.bindingReady y = true → s.operandsHeld y = false → run = .next s.windowsGo)) ∧
    (∀ w, x.switch = some w → w.phase = .stopping → x.link = .active →
      let run := Sys2Proof.Machine.exec (.preemptStop c) s
      let yields (t : State) : Prop := (t.cluster c).switch = some { w with phase := .yielding } ∧
        (t.cluster c).sync = x.sync ++ [{ yield := true, classes := 15, tag := x.tag, taken := false, final := false }] ∧
        (t.cluster c).active.map (fun m => (m.entry, m.halted)) = x.active.map (fun m => (m.entry, true)) ∧ (∀ d, d ≠ c → t.cluster d = s.cluster d)
      (∀ l, x.active = some l → w.suppressed = false → x.preempt = false → ∃ t, run = .next t ∧
        t.cluster c = { x with preempt := true, target := l.stopTarget, active := some (l.stopAt l.stopTarget) } ∧ t = { s with clusters := t.clusters }) ∧
      (∀ l, x.active = some l → x.preempt = true ∨ w.suppressed = true → w.suppressed = true ∨ l.stopReached = true → x.ops = [] → x.sigs = [] → x.sync.length < 4 →
        ∃ t, run = .next t ∧ yields t ∧ t = { s with clusters := t.clusters, yrd := t.yrd }) ∧
      (x.active = none → x.chainNext = none → x.ops = [] → x.sync.length < 4 → ∃ t, run = .next t ∧ yields t ∧ t = { s with clusters := t.clusters }))

/-- SWITCH_OUT (R454, R462): a yielded cluster whose context was torn down sends CLEAR; with a context and a slice it writes the slice's record and sends SAVE; with none it is saved at once. SWITCH_IN (R452, R453, R455, R456): with no incoming context the switch ends; a context whose masks are unread has them read; one with an IMAGE slice has its header read; one with only EMPTY slices takes one and sends CLEAR; a header that does not pass tears the context down. SYNC_REQUEST_TAKEN (R88, R89): the oldest untaken request is taken. FLUSHED and YIELDED (R89): of another epoch they are dropped and counted; with no matching taken request, or another TAG, SYNC_ORDER; else they answer the oldest request. SYNC_ERROR (R88): an ERROR message of the current epoch is the protocol error ENGINE_FATAL. SAVE_BEAT and RESTORE_BEAT (R95, R368): a LAST on the wrong beat, or missing, is SAVE_COUNT; beats count, and every 32 saved beats, or the last, go out as one write. -/
def Obligations.SwitchesSaveClearAndRestore : Prop :=
  ∀ (s : State) (c : BitVec 6), s.Inv →
    let x := s.cluster c
    let upd (f : Cluster → Cluster) : State := s.updCluster c f
    let becomes (o : Host.Outcome State Fault Refusal) (y : Cluster) : Prop := ∃ t, o = .next t ∧ t.cluster c = y ∧ (∀ d, d ≠ c → t.cluster d = s.cluster d) ∧
      t = { s with clusters := t.clusters }
    let fails (o : Host.Outcome State Fault Refusal) (code : BitVec 8) : Prop := ∃ t, o = .next t ∧ t = s.protocolError c code false ∧
      (x.inTest = false → (t.cluster c).err = some (x.err.getD code) ∧ t.irq.pending.getLsbD (0x200 + c.toNat) = true)
    let quiet : Prop := s.yrd.windows = [] ∧ ∀ p ∈ s.res.slots, p.2.state ≠ .evicting
    (∀ w, x.switch = some w → w.phase = .yielded → x.link = .held → x.ctrl = none →
      let run := Sys2Proof.Machine.exec (.switchOut c) s
      (w.suppressed = true → becomes run (Cluster.sendCtrl ctClear 0 { x with clears := x.clears + 1, swCause := .teardown, switch := some { w with phase := .clearing } })) ∧
      (w.suppressed = false → x.ctx = none → becomes run { x with ctx := none, switch := some { w with phase := .saved } }) ∧
      (∀ k i, w.suppressed = false → x.ctx = some k → x.slice = some i → x.active = none → ∃ t, run = .next t ∧
        t = (s.writeRecord c k i none).updCluster c (fun y => Cluster.sendCtrl ctSave 0 { y with
          swCause := if w.cause = .quiet then y.swCause else w.cause, switch := some { w with phase := .saving, outSlice := some i } }) ∧
        (t.cluster c).link = .saving ∧ (t.cluster c).beats = 0 ∧ (t.cluster c).switch = some { w with phase := .saving, outSlice := some i } ∧
        ∃ v ∈ t.mp.txns ++ t.mp.waiting, v.purpose = .saveWrite c k i ∧ v.write = true ∧ v.pa = s.slicePa k i 0)) ∧
    (∀ w, x.switch = some w → x.link = .held → x.ctrl = none →
      let run := Sys2Proof.Machine.exec (.switchIn c) s
      let on (r : State) : State := State.windowsGo r.evictions
      (w.phase = .saved → w.into = none → ∃ t, run = .next t ∧ t = on (s.endSwitch c) ∧ (quiet → (t.cluster c).switch = none)) ∧
      (∀ k r, w.phase = .saved → w.into = some k → s.residentSlot k = some r → (s.resSlot r).masksRead = false →
        (∀ t ∈ s.mp.txns ++ s.mp.waiting, t.purpose ≠ .maskRead k) → ∃ t, run = .next t ∧
        t = on (s.mpRead (some (s.ctx k).partition) (s.saveSource c) (s.slicePa k 0 0x200) 16 2 (arCache (s.saveAttr k)) 8 (.maskRead k)) ∧
        (quiet → ∃ v ∈ t.mp.txns ++ t.mp.waiting, v.purpose = .maskRead k ∧ v.write = false ∧ v.len = 16)) ∧
      (∀ k r i, w.phase = .saved → w.into = some k → s.residentSlot k = some r → (s.resSlot r).masksRead = true → s.resuming w = none →
        s.sliceIn k .image = some i → ∃ t, run = .next t ∧ t = on (s.readHeader c k i w) ∧
        (quiet → (t.cluster c).switch = some { w with phase := .header, inSlice := some i } ∧ (t.cluster c).ctx = some k ∧ (t.cluster c).slice = some i)) ∧
      (∀ k r i, w.phase = .saved → w.into = some k → s.residentSlot k = some r → (s.resSlot r).masksRead = true → s.resuming w = none →
        s.sliceIn k .image = none → s.sliceIn k .empty = some i → ∃ t, run = .next t ∧
        t = on ((s.takeSlice c k i).updCluster c (fun y => Cluster.sendCtrl ctClear 0 { y with
          clears := y.clears + 1, switch := some { w with phase := .clearing, inSlice := some i } })) ∧
        (quiet → (t.cluster c).link = .clearing ∧ (t.cluster c).ctx = some k ∧ (t.cluster c).slice = some i)) ∧
      (w.phase = .header → w.suppressed = true ∨ w.fail ≠ none → ∃ t, run = .next t ∧ t = on (s.clearFor c) ∧ (quiet → (t.cluster c).link = .clearing)) ∧
      (∀ k i, w.phase = .header → w.suppressed = false → w.fail = none → x.header ≠ [] → x.ctx = some k → w.inSlice = some i → s.resuming w = none →
        (s.headerPasses k i none x.header = false → run = .next (on (((s.setSlice k i .empty).teardown k 0x04).clearFor c))) ∧
        (s.headerPasses k i none x.header = true → ∃ t, run = .next t ∧ t = on ((upd (fun y => Cluster.sendCtrl ctRestore 0 { y with
          down := [], switch := some { w with phase := .restoring } })).restoreMore c) ∧
          (quiet → (t.cluster c).link = .restoring ∧ (t.cluster c).beats = 0 ∧ (t.cluster c).switch = some { w with phase := .restoring })))) ∧
    (∀ i, x.sync.findIdx? (fun r => !r.taken) = some i →
      becomes (Sys2Proof.Machine.exec (.syncRequestTaken c) s) { x with sync := listUpd x.sync i (fun r => { r with taken := true }) }) ∧
    (∀ msg : W32, x.rstN = true →
      let late := { x with dropLate := x.dropLate + 1 }
      (bits msg 31 28 ≠ 2 → bits msg 31 28 ≠ 15 → msg.extractLsb' 16 8 ≠ x.epoch → becomes (Sys2Proof.Machine.exec (.flushed c msg) s) late) ∧
      (bits msg 31 28 = 2 → msg.extractLsb' 16 8 ≠ x.epoch → becomes (Sys2Proof.Machine.exec (.yielded c msg) s) late) ∧
      (bits msg 31 28 = 15 → msg.extractLsb' 16 8 ≠ x.epoch → becomes (Sys2Proof.Machine.exec (.syncError c msg) s) late) ∧
      (bits msg 31 28 = 15 → msg.extractLsb' 16 8 = x.epoch → fails (Sys2Proof.Machine.exec (.syncError c msg) s) 0x0A) ∧
      (bits msg 31 28 ≠ 1 → bits msg 31 28 ≠ 2 → bits msg 31 28 ≠ 15 → msg.extractLsb' 16 8 = x.epoch → x.link ≠ .loopback →
        fails (Sys2Proof.Machine.exec (.flushed c msg) s) 0x0D) ∧
      (bits msg 31 28 = 1 → msg.extractLsb' 16 8 = x.epoch → x.link ≠ .loopback → x.sync = [] → fails (Sys2Proof.Machine.exec (.flushed c msg) s) 0x0D) ∧
      (bits msg 31 28 = 2 → msg.extractLsb' 16 8 = x.epoch → x.link ≠ .loopback → x.sync = [] → fails (Sys2Proof.Machine.exec (.yielded c msg) s) 0x0D) ∧
      (∀ r rest, x.sync = r :: rest → msg.extractLsb' 16 8 = x.epoch → x.link ≠ .loopback → r.taken = true → msg.extractLsb' 0 16 = r.tag →
        (bits msg 31 28 = 1 → r.yield = false → r.final = true → ∃ t, Sys2Proof.Machine.exec (.flushed c msg) s = .next t ∧
          t = (upd (fun y => { y with sync := rest, active := y.active.map (fun l => { l with flushDone := true }) })).passSignals c ∧
          (x.sigs = [] → t.cluster c = { x with sync := rest, active := x.active.map (fun l => { l with flushDone := true }) })) ∧
        (bits msg 31 28 = 1 → r.yield = false → r.final = false → ∃ t, Sys2Proof.Machine.exec (.flushed c msg) s = .next t ∧
          t = (upd (fun y => { y with sync := rest, sigs := y.sigs.map (fun g => if g.tag = some r.tag then { g with tag := none } else g) })).passSignals c ∧
          (s.fwc.feBusy = true → t.cluster c =
            { x with sync := rest, sigs := x.sigs.map (fun g => if g.tag = some r.tag then { g with tag := none } else g) })) ∧
        (bits msg 31 28 = 2 → r.yield = true → x.recovery = none → becomes (Sys2Proof.Machine.exec (.yielded c msg) s)
          { x with sync := rest, link := .held, switch := x.switch.map (fun w => if w.phase = .yielding then { w with phase := .yielded } else w) }))) ∧
    (∀ (data : BitVec 1024) (last : Bool), x.link = .saving → s.channelHeld c + 128 * (x.up.length + 1) ≤ s.build.channelShare →
      let run := Sys2Proof.Machine.exec (.saveBeat c data last) s
      let fits := last = decide (x.beats + 1 = capBeats s.fwc.caps)
      (¬fits → fails run 0x06) ∧
      (fits → last = false → (x.up ++ [data]).length ≠ 32 → becomes run { x with beats := x.beats + 1, up := x.up ++ [data] }) ∧
      (∀ w k, fits → last = true ∨ (x.up ++ [data]).length = 32 → x.switch = some w → x.ctx = some k → w.suppressed = false → ∃ t, run = .next t ∧
        t = (upd (fun y => { y with beats := x.beats + 1, up := [] })).saveOut c k (w.outSlice.getD 0)
          (0x30000 + 128 * (x.beats + 1 - (x.up ++ [data]).length)) ((x.up ++ [data]).map (fun d => toBytes 128 d.toNat)).flatten ∧
        (t.cluster c).beats = x.beats + 1 ∧ (t.cluster c).up = [] ∧
        ∃ v ∈ t.mp.txns ++ t.mp.waiting, v.purpose = .saveWrite c k (w.outSlice.getD 0) ∧ v.data.take 128 = toBytes 128 ((x.up ++ [data]).headD 0).toNat)) ∧
    (x.link = .restoring → x.beats < capBeats s.fwc.caps → x.down ≠ [] → ∃ t, Sys2Proof.Machine.exec (.restoreBeat c) s = .next t ∧
      t = (upd (fun y => { y with beats := y.beats + 1, down := y.down.drop 1 })).restoreMore c ∧
      t.cluster c = { x with beats := x.beats + 1, down := x.down.drop 1 })

/-- DONE_TOKEN (R87): of another epoch it is dropped and counted; else each valid lane ends its operations, and a failed one fails the launch. CREDIT_RETURN (R84): one credit more for each pool named, descriptors waiting for them sent; above the capability's count CREDIT_OVER. CTRL_RESPONSE (R91, R92, R95, R101): with no command outstanding it is dropped and counted; an error is CTRL_REFUSED; else the answer does what its command asked: a CAP_READ word is kept and the next asked for, ENABLE makes the link ACTIVE, SAVE, RESTORE and CLEAR end their phase, LOOPBACK_ON begins the loopback, LOOPBACK_OFF sends CLEAR. ENGINE_READY (R93) starts the capability read; its fall on an answering cluster and READY_TIMEOUT (R93) are the protocol error READY_TIMEOUT, and CTRL_TIMEOUT (R92) is CTRL_TIMEOUT. -/
def Obligations.TheEngineLinkTakesAnswersAndErrors : Prop :=
  ∀ (s : State) (c : BitVec 6), s.Inv →
    let x := s.cluster c
    let upd (f : Cluster → Cluster) : State := s.updCluster c f
    let becomes (o : Host.Outcome State Fault Refusal) (y : Cluster) : Prop := ∃ t, o = .next t ∧ t.cluster c = y ∧ (∀ d, d ≠ c → t.cluster d = s.cluster d) ∧
      t = { s with clusters := t.clusters }
    let fails (o : Host.Outcome State Fault Refusal) (code : BitVec 8) (u : State) : Prop := ∃ t, o = .next t ∧ t = u ∧
      (x.inTest = false → (t.cluster c).err = some (x.err.getD code) ∧ t.irq.pending.getLsbD (0x200 + c.toNat) = true)
    let quiet : Prop := s.yrd.windows = [] ∧ ∀ p ∈ s.res.slots, p.2.state ≠ .evicting
    (∀ (valid : BitVec 4) (data : W64) (epoch : BitVec 8), x.rstN = true →
      let run := Sys2Proof.Machine.exec (.doneToken c valid data epoch) s
      (epoch ≠ x.epoch → becomes run { x with dropLate := x.dropLate + 1 }) ∧
      (epoch = x.epoch → run = .next ((((s.each ((List.range 4).filter (fun k => valid.getLsbD k)) (fun r k =>
        r.doneLane c epoch k (bits data (16 * k + 15) (16 * k)))).updCluster c Cluster.settle).failLaunch c))) ∧
      (∀ k i o, epoch = x.epoch → x.link ≠ .loopback → x.tokenFail = false → k < 4 → valid = BitVec.ofNat 4 (2 ^ k) →
        x.ops.findIdx? (fun o => o.cls = k) = some i → x.ops[i]? = some o → o.seq.toNat = bits data (16 * k + 11) (16 * k) → bits data (16 * k + 15) (16 * k + 13) = 0 →
        ∃ t, run = .next t ∧ (t.cluster c).ops = x.ops.eraseIdx i ∧ (t.cluster c).sigs = x.sigs ∧ (t.cluster c).tokenFail = false ∧
          (∀ d, d ≠ c → t.cluster d = s.cluster d) ∧ t = { s with clusters := t.clusters })) ∧
    (∀ pools : BitVec 5, x.answers = true →
      let run := Sys2Proof.Machine.exec (.creditReturn c pools) s
      ((∃ k, k < 5 ∧ pools.getLsbD k = true ∧ capCredit s.fwc.caps k ≤ nth x.credits k) → fails run 0x01 (s.protocolError c 0x01 false)) ∧
      ((∀ k, k < 5 → pools.getLsbD k = true → nth x.credits k < capCredit s.fwc.caps k) →
        let given := (List.range 5).map (fun k => nth x.credits k + b2n (pools.getLsbD k))
        run = .next (upd (fun y => Cluster.loopSend (Cluster.sendDescs { y with credits := given }))) ∧
        (x.descQ = [] → x.loop = none → becomes run { x with credits := given }))) ∧
    (∀ data : W32,
      let on (r : State) : State := State.windowsGo r.evictions
      let run := Sys2Proof.Machine.exec (.ctrlResponse c data false) s
      let heard := upd (fun y => { y with ctrl := none })
      let does (u : State) (P : Cluster → Prop) : Prop := ∃ t, run = .next t ∧ t = on u ∧ (quiet → P (t.cluster c))
      (x.ctrl = none → x.rstN = true → does (upd (fun y => { y with dropLate := y.dropLate + 1 })) (fun y => y = { x with dropLate := x.dropLate + 1 })) ∧
      (∀ cmd, x.ctrl = some cmd →
        Sys2Proof.Machine.exec (.ctrlResponse c data true) s = .next (on (s.protocolError c 0x0C false).settleStart) ∧
        (bits cmd 31 24 = ctCapRead → x.caps.length + 1 < 64 → does (upd (fun y => Cluster.sendCtrl ctCapRead (x.caps.length + 1) { y with ctrl := none, caps := y.caps ++ [data] }))
          (fun y => y.caps = x.caps ++ [data] ∧ y.ctrl = some (BitVec.ofNat 32 (ctCapRead * 2 ^ 24 + (x.caps.length + 1))))) ∧
        (bits cmd 31 24 = ctCapRead → 64 ≤ x.caps.length + 1 → run = .next (on ((upd (fun y => { y with ctrl := none, caps := y.caps ++ [data] })).capsRead c))) ∧
        (bits cmd 31 24 = ctEnable → does (heard.enableDone c) (fun y => x.switch = none →
          y = { x with ctrl := none, link := .active, credits := (List.range 5).map (capCredit s.fwc.caps) })) ∧
        (bits cmd 31 24 = ctSave → does (heard.saveDone c) (fun y => x.switch = none → x.beats = capBeats s.fwc.caps → y = { x with ctrl := none, link := .held })) ∧
        (bits cmd 31 24 = ctRestore → does ((upd (fun y => { y with ctrl := none, down := [] })).restoreDone c) (fun y => x.switch = none →
          y = { x with ctrl := none, down := [], link := .held, restores := x.restores + 1 })) ∧
        (bits cmd 31 24 = ctClear → does (heard.clearDone c) (fun y => x.switch = none → x.recovery = none → x.inTest = false → y = { x with ctrl := none, link := .held })) ∧
        (bits cmd 31 24 = ctLoopOn → does (upd (fun y => Cluster.loopBegin s.fwc.caps { y with ctrl := none })) (fun y => y.link = .loopback ∧ y.loop ≠ none)) ∧
        (bits cmd 31 24 = ctLoopOff → does (upd (fun y => Cluster.sendCtrl ctClear 0 { y with ctrl := none, link := .held }))
          (fun y => y.link = .clearing ∧ y.ctrl = some (BitVec.ofNat 32 (ctClear * 2 ^ 24)))))) ∧
    (x.link = .waitReady → becomes (Sys2Proof.Machine.exec (.engineReady c) s) (Cluster.sendCtrl ctCapRead 0 { x with link := .caps })) ∧
    (x.link ≠ .waitReady → Sys2Proof.Machine.exec (.engineReady c) s = .next s) ∧
    (x.answers = true → fails (Sys2Proof.Machine.exec (.engineReadyFall c) s) 0x05 (s.protocolError c 0x05 false).settleStart) ∧
    (∀ elapsed, x.link = .waitReady →
      (16384 < elapsed → fails (Sys2Proof.Machine.exec (.readyTimeout c elapsed) s) 0x05 (s.protocolError c 0x05 true).settleStart) ∧
      (elapsed ≤ 16384 → Sys2Proof.Machine.exec (.readyTimeout c elapsed) s = .next s)) ∧
    (∀ elapsed cmd, x.ctrl = some cmd →
      let caps := if s.fwc.caps.isEmpty then x.caps else s.fwc.caps
      (ctrlBound caps cmd < elapsed → x.boundRuns caps cmd = true → fails (Sys2Proof.Machine.exec (.ctrlTimeout c elapsed) s) 0x04 (s.protocolError c 0x04 false).settleStart) ∧
      (elapsed ≤ ctrlBound caps cmd → Sys2Proof.Machine.exec (.ctrlTimeout c elapsed) s = .next s))

/-- DECK_ROW_ACCESS (R394, R395, R401 to R404): in an open bank of a ready Deck the request that the grant rule picks has its access, at its cost. A write of seven rows makes them whole; a write of some rows, and a read that is rebuilt, hold their stripe for the accesses that follow, which a begun access counts down until the rows written are whole. A clean read of a whole row of a sound bank changes nothing more, a corrected one counts its words, one of two failing rows loses both, and a read of a row already lost is logged where it is a scrub. A bank that is not open grants nothing. SCRUB_READ (R405): with a pass length set and its interval over, the next row is read, the scrub position moves on cyclically and the instant is noted. LATE_WRITE (R407): a write whose generation is the group's is not late; a late one is counted and logged with its context, and fails the stream with FAULT_ACCESS, or the save or the restore that it served. -/
def Obligations.DeckBanksAndScrubbing : Prop :=
  ∀ (s : State), s.Inv →
    (∀ (bank : BitVec 7) (reqs : List DeckReq) (ecc : RowEcc) (r : DeckReq), s.dck.grant bank.toNat reqs = some r →
      let k := bank.toNat
      let row := r.row.toNat
      let isOpen := k / 8 < s.build.deckGroups ∧ s.dck.ready = true ∧ s.dck.open_.getLsbD (k / 8) = true
      let sound := s.dck.lostRows.contains (k, row) = false ∧ s.dck.failed.getLsbD k = false
      let run := Sys2Proof.Machine.exec (.deckRowAccess bank reqs ecc) s
      let n := s.dck.cost k r ecc
      let got : State := { s with dck := { s.dck with lastGrant := (k, row, n) } }
      let held (mends : List (Nat × Nat)) : DeckHold := ⟨k / 8, row, n - 1, mends⟩
      (¬isOpen → run = .next s) ∧
      (isOpen → r.kind ≠ .begun → ∀ rows whole, r.op = .write rows whole →
        let l := (writtenBanks k row rows).map (fun j => (j, row))
        (l.length = 7 → whole = true → ∃ t, run = .next t ∧ (∀ x, x ∈ t.dck.lostRows ↔ x ∈ s.dck.lostRows ∧ x ∉ l) ∧
          t = { got with dck := { got.dck with lostRows := t.dck.lostRows } }) ∧
        (¬(l.length = 7 ∧ whole = true) → ecc = .clean → ∃ t, run = .next t ∧ t.dck.holds = s.dck.holds ++ [held (if whole then l else [])] ∧
          t = { got with dck := { got.dck with holds := t.dck.holds } })) ∧
      (isOpen → r.kind = .begun → ∀ h, s.dck.holds.find? (fun h => h.group = k / 8 && h.stripe = row) = some h → ∃ t, run = .next t ∧
        (2 ≤ h.left → t = { s with dck := { s.dck with holds := { h with left := h.left - 1 } :: s.dck.holds.erase h } }) ∧
        (h.left ≤ 1 → t.dck.holds = s.dck.holds.erase h ∧ (∀ x, x ∈ t.dck.lostRows ↔ x ∈ s.dck.lostRows ∧ x ∉ h.mends) ∧
          t = { s with dck := { s.dck with holds := t.dck.holds, lostRows := t.dck.lostRows } })) ∧
      (isOpen → r.kind ≠ .begun → r.op = .read →
        (sound → ecc = .clean → run = .next got) ∧
        (∀ m, sound → ecc = .corrected m → run = .next (got.each (List.range m) (fun r _ => r.count (16 + k / 8)))) ∧
        (∀ first m second, sound → ecc = .uncorrectable first m second → (∀ j, j / 8 = k / 8 → j ≠ k → second.map (·.toNat) ≠ some (j % 8) ∧
            s.dck.failed.getLsbD j = false ∧ s.dck.lostRows.contains (j, row) = false) →
          ∃ t, run = .next t ∧ t.dck.lostRows = s.dck.lostRows ∧ t.dck.holds = s.dck.holds ++ [held []] ∧ n = 8) ∧
        (∀ first m j, sound → ecc = .uncorrectable first m (some j) → 8 * (k / 8) + j.toNat ≠ k → ∃ t, run = .next t ∧ (k, row) ∈ t.dck.lostRows ∧
          t.dck.holds = s.dck.holds ++ [held []]) ∧
        (s.dck.lostRows.contains (k, row) = true → s.dck.failed.getLsbD k = false → ecc = .clean →
          run = .next (if r.kind = .scrub then got.logLost k row (s.build.rowRegion k row).1 none else got.readLost k row)))) ∧
    (∀ (bank : BitVec 7) (reqs : List DeckReq) ecc, s.dck.grant bank.toNat reqs = none → Sys2Proof.Machine.exec (.deckRowAccess bank reqs ecc) s = .next s) ∧
    (∀ ecc : RowEcc,
      let d := s.dck
      let n := s.build.deckRows
      let due := d.passLog2 ≠ 0 ∧ d.ready = true ∧ d.scrubFc + 2 ^ passLog d.passLog2.toNat / n ≤ s.fc
      let bank := d.scrubNext / 1024
      let next := (d.scrubNext + 1) % n
      (¬due → Sys2Proof.Machine.exec (.scrubRead ecc) s = .next s) ∧
      (due → d.failed.getLsbD bank = true ∨ d.open_.getLsbD (bank / 8) = false ∨ d.lostRows.contains (bank, d.scrubNext % 1024) = true ∨ ecc = .clean →
        Sys2Proof.Machine.exec (.scrubRead ecc) s = .next { s with dck := { d with
          scrubNext := next, scrubFc := s.fc, scrubbing := true, rebuilds := if next = 0 then [] else d.rebuilds } })) ∧
    (∀ (group : BitVec 4) (gen : BitVec 8) (k : BitVec 20), group.toNat < s.build.deckGroups →
      let logged (t : State) : Prop := bits t.dck.lateLog 19 0 = (s.dck.lateLog.toNat + 1) % 2 ^ 20 ∧ bits t.dck.lateLog 63 44 = k.toNat ∧
        bits t.dck.lateLog 43 40 = group.toNat ∧ bits t.dck.lateLog 39 32 = gen.toNat
      (tget 0 s.dck.gens group.toNat = gen → ∀ src, Sys2Proof.Machine.exec (.lateWrite group gen ⟨src, k⟩) s = .next s) ∧
      (∀ (engine : BitVec 4) (slot : BitVec 6), tget 0 s.dck.gens group.toNat ≠ gen →
        let key := 64 * engine.toNat + slot.toNat
        let run := Sys2Proof.Machine.exec (.lateWrite group gen ⟨.stream engine slot, k⟩) s
        (s.stream key = none → ∃ t, run = .next t ∧ logged t ∧ t = { s with dck := { s.dck with lateLog := t.dck.lateLog } }) ∧
        (∀ x, s.stream key = some x → x.ctx = k → x.chunks ≠ [] → ∃ t, run = .next t ∧ logged t ∧ t.stream key = some { x with fail := some (x.fail.getD 0x08) } ∧
          t = { s with dck := { s.dck with lateLog := t.dck.lateLog }, hau := t.hau }) ∧
        (∀ x, s.stream key = some x → x.ctx = k → run =
          .next (((s.lateLog k group gen engine.toNat).updStream key (fun y => { y with fail := some (y.fail.getD 0x08) })).settleStream key))) ∧
      (∀ (c : BitVec 6), tget 0 s.dck.gens group.toNat ≠ gen →
        let run := Sys2Proof.Machine.exec (.lateWrite group gen ⟨.save c, k⟩) s
        (∀ i, s.savedSlice c k = some i → run = .next ((s.lateLog k group gen (c.toNat % s.build.haulEngines)).saveFailed k i 0x08)) ∧
        (s.savedSlice c k = none → (s.cluster c).restores_ k = false →
          ∃ t, run = .next t ∧ logged t ∧ t = { s with dck := { s.dck with lateLog := t.dck.lateLog } })))

/-- BUNDLE_CHECK (R472, R473) in VERIFYING: the boot ROM, reading nothing yet, asks for the bundle, from the first page of its area; once it is read, KEY_PROVISIONED says whether a key hash is fused; the first check that fails refuses the start with its reason (no key hash: 0x01), and a bundle that passes is accepted. PROCESSOR_FAILURE (R475): a fatal exception, a memory error, or a protection fault under PROTECT fails a processor that is not off; FW_WATCHDOG_EXPIRY (R474) with the watchdog's period run out fails it with cause 1. PROCESSOR_RESTART (R476, R477): the first failed processor, the security core running, runs again, is traced, and what waited for it goes on; one whose image is lost asks for a whole-block reset. RESTART_TIMEOUT (R478): one not restarted 2^21 fc after its failure escalates. -/
def Obligations.FirmwareStartsFailsAndRestarts : Prop :=
  ∀ (s : State), s.Inv →
    (s.fwc.state = .verifying → s.inRun = true → s.fwc.readOf none = none → ∃ t, Sys2Proof.Machine.exec (.bundleCheck .read) s = .next t ∧
      t = s.readBundle ∧ (s.pins.keyHash ≠ 0 → s.pins.keyHash ≠ BitVec.allOnes 384 → s.fwc.bundlePages ≠ 0 → s.fwc.reads = [] →
        ∃ r, t.fwc.reads = [r] ∧ r.page = none ∧ r.pa = 4096 * s.fwc.bundlePfn.toNat)) ∧
    (s.fwc.state = .verifying → s.inRun = true →
      let none_ := s.pins.keyHash = 0 ∨ s.pins.keyHash = BitVec.allOnes 384
      let c : State := State.dropRead { s with fwc := { s.fwc with keyProvisioned := !decide none_ } } none
      let run := Sys2Proof.Machine.exec (.bundleCheck .check) s
      let refused (reason : BitVec 8) : Prop := ∃ t, run = .next t ∧ t = c.refuseStart reason ∧ t.fwc.state = .refused ∧ t.fwc.reason = reason ∧
        t.fwc.keyProvisioned = !decide none_
      (none_ → refused 0x01) ∧
      (¬none_ → s.fwc.bundlePages = 0 → refused 0x02) ∧
      (¬none_ → s.fwc.bundlePages ≠ 0 →
        (s.fwc.imageRead none = none → run = .next s) ∧
        (s.fwc.imageRead none = some none → refused 0x02) ∧
        (∀ b, s.fwc.imageRead none = some (some b) →
          (bundleForm b (4096 * s.fwc.bundlePages.toNat) = false → refused 0x03) ∧
          (∀ r, c.bundleFault (some b) = some r → refused r) ∧
          (c.bundleFault (some b) = none → ∃ t, run = .next t ∧ t = (c.acceptBundle b).mbxServe ∧
            (s.fwc.mbxWait = [] → t.fwc.state = .starting ∧ t.fwc.keyProvisioned = true))))) ∧
    (∀ (p : BitVec 7) (cause : BitVec 4),
      let contain := if p.toNat = procSec then 3 else (s.proc p.toNat).contain
      let fails := s.procLives p.toNat = true ∧ ((cause = 2 ∧ bit contain 1 = true) ∨ cause = 3 ∨ cause = 4)
      (fails → ∃ t, Sys2Proof.Machine.exec (.processorFailure p cause) s = .next t ∧ t = s.failProc p.toNat cause ∧ t.irq.pending.getLsbD 0x003 = true) ∧
      (¬fails → Sys2Proof.Machine.exec (.processorFailure p cause) s = .next s) ∧
      (∀ elapsed, p.toNat < s.build.clusters + 3 → (s.proc p.toNat).state ≠ .off → bit contain 0 = true →
        (2 ^ (s.proc p.toNat).wdogLog2.toNat ≤ elapsed → ∃ t, Sys2Proof.Machine.exec (.fwWatchdogExpiry p elapsed) s = .next t ∧ t = s.failProc p.toNat 1 ∧
          t.irq.pending.getLsbD 0x003 = true) ∧
        (elapsed < 2 ^ (s.proc p.toNat).wdogLog2.toNat → Sys2Proof.Machine.exec (.fwWatchdogExpiry p elapsed) s = .next s)) ∧
      (p.toNat ≠ procSec → p.toNat ≠ procSched → (s.proc p.toNat).state = .restarting →
        ((s.proc p.toNat).failFc + 2 ^ 21 ≤ s.fc → Sys2Proof.Machine.exec (.restartTimeout p) s = .next (s.notRestarted p.toNat)) ∧
        (s.fc < (s.proc p.toNat).failFc + 2 ^ 21 → Sys2Proof.Machine.exec (.restartTimeout p) s = .next s)) ∧
      (∀ rest, s.fwc.failedOrder = p.toNat :: rest → (s.proc p.toNat).state = .restarting → (s.proc procSec).state = .running → s.inRun = true → s.fwc.feBusy = false →
        ((s.proc p.toNat).imageLost = true → Sys2Proof.Machine.exec (.processorRestart p) s = .next (s.ask kindWhole 0x09)) ∧
        ((s.proc p.toNat).imageLost = false → p.toNat < 3 → (s.proc p.toNat).cause ≠ 0 → (s.proc p.toNat).restartFc = BitVec.ofNat 32 (s.proc p.toNat).failFc →
          let r := State.updProc { s with fwc := { s.fwc with failedOrder := rest } } p.toNat (fun y => { y with state := .running })
          ∃ t, Sys2Proof.Machine.exec (.processorRestart p) s = .next t ∧
            (s.yrd.windows = [] → (∀ x ∈ s.res.slots, x.2.state ≠ .evicting) → s.fwc.mbxWait = [] → s.pwr.later = [] → (t.proc p.toNat).state = .running) ∧
            t = (r.fwAlert p.toNat 0x0001 [p.toNat, (s.proc p.toNat).cause.toNat, s.fc - (s.proc p.toNat).failFc]).evictions.windowsGo.mbxServe.nextPoll)))

/-- IDLE_ENTRY and IDLE_EXIT (R513); AUTO_POWER_ENTRY (R519) begins the poll for DEEP or SLEEP after 2^DEEP_LOG2 or 2^SLEEP_LOG2 quiet fc as PWR_AUTO has it. POWER_POLL (R514): the first refusal that applies abandons the entry with its code, a delay leaves the poll going, else admission closes and the entry is carried; POLL_TIMEOUT after 2^20 fc and MESSAGE_AWAIT_TIMEOUT after 65,536 fc abandon it with 8 and 5. POWER_ENTRY (R515): clusters are lowered first; with nothing left, no transaction outstanding, the Deck's groups close, and a latched wake gives up with 7; else the host port is held, or for DEEP and OFF closed until what it had accepted is served, and then the request for the target state goes out. PWR_ACK (R63): the acknowledge withdraws the request and notes a denial; its fall gives up with 9 after a denial and else powers down, or lets the exit's domains power up. Once the controller has agreed, the domains are isolated, then kept, then let go, in that order, and the target is reached when their acknowledges have fallen. PD_PWR_ACK (R65, R517), WAKE_N (R66) and WAKE_CONSUME (R516) note their signal; a falling WAKE_N latches a wake. POWER_EXIT (R518): a wake in a low state begins the exit, and with every domain up again it ends retention, then isolation, and finishes. Every other field of the state is as before. -/
def Obligations.PowerStatesAreEnteredAndLeft : Prop :=
  ∀ (s : State), s.Inv →
    let p := s.pwr
    let run (c : Instr) := Sys2Proof.Machine.exec c s
    let withP (q : Pwr) : State := { s with pwr := q }
    let up := s.pins.aoRst = false
    (s.inRun = true → p.state = .run → p.phase = .none_ → s.quiet = true → p.quietFc + 256 ≤ s.fc → run .idleEntry = .next (withP { p with state := .idle, quietFc := s.fc })) ∧
    (s.quiet = false → run .idleEntry = .next s) ∧
    (p.state = .idle → run .idleExit = .next (withP { p with state := .run, quietFc := s.fc })) ∧ (p.state ≠ .idle → run .idleExit = .next s) ∧
    (p.state = .idle → s.mayPoll = true →
      (p.auto = 2 → p.quietFc + 2 ^ p.deepLog2.toNat ≤ s.fc → run .autoPowerEntry = .next (s.beginPoll .deep none)) ∧
      (p.auto ≠ 0 → (p.auto = 2 → s.fc < p.quietFc + 2 ^ p.deepLog2.toNat) → p.quietFc + 2 ^ p.sleepLog2.toNat ≤ s.fc → run .autoPowerEntry = .next (s.beginPoll .sleep none))) ∧
    (∀ t page, p.request = some (t, page) → p.phase = .polling → (s.proc procPower).state = .running →
      (∀ r, s.refusal t = some r → run .powerPoll = .next (s.abandonEntry r).nextPoll) ∧
      (s.refusal t = none → s.delays = true → run .powerPoll = .next s) ∧
      (s.refusal t = none → s.delays = false →
        run .powerPoll = .next (State.trace (withP { p with phase := .carrying, admitClosed := true }) 6 procPower 0x0009 [t.code, 0, 0]))) ∧
    (p.phase = .polling →
      (p.pollFc + 2 ^ 20 ≤ s.fc → run .pollTimeout = .next (s.abandonEntry 8).nextPoll) ∧ (s.fc < p.pollFc + 2 ^ 20 → run .pollTimeout = .next s) ∧
      (∀ v, (s.vec v).msgOut = true → (s.vec v).msgFc + 65536 ≤ s.fc → run (.messageAwaitTimeout v) = .next (s.abandonEntry 5).nextPoll) ∧
      (∀ v, (s.vec v).msgOut = false → run (.messageAwaitTimeout v) = .next s)) ∧
    (∀ t page, p.request = some (t, page) → p.phase = .carrying → s.inRun = true → (s.proc procPower).state = .running →
      let asked (r : State) : State := { r with pwr := { r.pwr with pwrState := BitVec.ofNat 3 t.code, pwrReq := true, phase := .handshake } }
      let shut : State := { s.closeGroups with pwr := { p with hostHeld := true } }
      (p.hostHeld = false → s.lowering ≠ [] → s.lowerClusters.lowering ≠ [] → run .powerEntry = .next s.lowerClusters) ∧
      (p.hostHeld = false → s.lowering = [] → s.mp.txns = [] → s.mp.abandoned = [] → s.mp.waiting = [] → p.pwrAck = false →
        (p.wake = true → run .powerEntry = .next (s.closeGroups.giveUp 7)) ∧
        (p.wake = false → (t = .sleep ∨ s.fwc.mbxWait = []) → run .powerEntry = .next (asked shut)) ∧
        (p.wake = false → t ≠ .sleep → s.fwc.mbxWait ≠ [] → run .powerEntry = .next shut)) ∧
      (p.hostHeld = true → p.pwrAck = false → (t = .sleep ∨ s.fwc.mbxWait = []) → run .powerEntry = .next (asked s)) ∧
      (p.hostHeld = true → t ≠ .sleep → s.fwc.mbxWait ≠ [] → run .powerEntry = .next s)) ∧
    (up →
      (∀ ack deny, ack = p.pwrAck → run (.pwrAck ack deny) = .next s) ∧
      (∀ deny, p.pwrAck = false → p.pwrReq = true → run (.pwrAck true deny) = .next (withP { p with pwrAck := true, denied := deny, pwrReq := false })) ∧
      (∀ deny t page, p.pwrAck = true → p.phase = .handshake → p.request = some (t, page) → p.pwrReq = false →
        (p.denied = true → run (.pwrAck false deny) = .next ((withP { p with pwrAck := false }).giveUp 9)) ∧
        (p.denied = false → run (.pwrAck false deny) = .next ((withP { p with pwrAck := false }).powerDown t page))) ∧
      (∀ deny, p.pwrAck = true → p.phase = .exiting → p.pwrReq = false → p.undoing = false →
        run (.pwrAck false deny) = .next (withP { p with pwrAck := false, pdReq := s.build.domains })) ∧
      (∀ (k : BitVec 7) (good : Bool),
        let m : BitVec 90 := BitVec.twoPow 90 k.toNat &&& s.build.domains
        let heard := withP { p with pdAck := if good then p.pdAck ||| m else p.pdAck &&& ~~~m }
        (p.phase ≠ .handshake → run (.pdPwrAck k good) = .next heard.clearIso) ∧
        (p.phase = .handshake → p.request = none → p.pdStep = 3 → heard.pwr.pdAck &&& ~~~p.pdReq = 0 → run (.pdPwrAck k good) = .next heard.reachTarget)) ∧
      (p.wakeN = true → run (.wakeN false) = .next (State.latchWake (withP { p with wakeN := false }))) ∧
      (run (.wakeN true) = .next (withP { p with wakeN := true })) ∧
      (p.pwrReq = false → p.pwrAck = false → p.phase = .none_ → p.wake = true → p.state ≠ .run → p.state ≠ .idle → run .powerExit = .next s.beginExit) ∧
      (p.pwrReq = false → p.pwrAck = false → p.phase = .exiting → p.undoing = false → p.pdReq = s.build.domains → s.build.domains &&& ~~~p.pdAck = 0 →
        (p.pdStep ≠ 4 → run .powerExit = .next (withP { p with pdRet := 0, pdStep := 4 })) ∧ (p.pdStep = 4 → run .powerExit = .next s.finishExit))) ∧
    (p.request = none → p.phase = .handshake →
      (p.pdStep = 1 → run .powerEntry = .next (withP { p with pdRet := p.pdRet ||| s.build.kept p.state, pdStep := 2 })) ∧
      (p.pdStep = 2 → run .powerEntry = .next (withP { p with pdReq := p.pdReq &&& ~~~(s.build.affected p.state), pdStep := 3 }))) ∧
    (s.inRun = true → p.phase = .none_ → (s.proc procPower).state = .running → run .wakeConsume = .next (withP { p with wake := false, wakeLate := false }))

/-- CLUSTER_WATCHDOG_EXPIRY (R525): a cluster with work, its watchdog on and 2^WDOG_LOG2 cclk past (16 to 32 after clamping) starts hang recovery with WATCHDOG, or fails its self-test. SUSPECT_REPLAY (R529, R530): with no suspect left the recovery finishes; a suspect that has already ended is skipped; one with its operands held is placed and the cluster enabled. FRONT_END_RESET (R523, R533): the first front-end reset asked for begins, counted, with the driver's bit clear; one in progress ends once the epoch has inverted. WHOLE_BLOCK_RESET (R523, R535, R536): a driver's begins before another; any other is counted; one in progress finishes once no transaction of the previous epoch is left. OUT_OF_SERVICE (R537): the block leaves service with the cause asked for. With none asked for the three change nothing. -/
def Obligations.RecoveriesAndResets : Prop :=
  ∀ (s : State), s.Inv →
    (∀ (c : BitVec 6) (elapsed : Nat),
      let x := s.cluster c
      let run := Sys2Proof.Machine.exec (.clusterWatchdogExpiry c elapsed) s
      let works := x.active ≠ none ∨ x.switch ≠ none ∨ x.ctrl ≠ none
      let late := x.wdogLog2 ≠ 0 ∧ 2 ^ (max 16 (min 32 x.wdogLog2.toNat)) ≤ elapsed
      (works → late → x.inTest = false → run = .next (s.startHang c 0x01 0)) ∧ (works → late → x.inTest = true → run = .next (s.failTest c)) ∧
      (¬(works ∧ late) → run = .next s)) ∧
    (∀ (c : BitVec 6) (r : Recovery), (s.cluster c).recovery = some r → (s.cluster c).link = .held → (s.cluster c).ctrl = none → r.cleared = true → r.now = none →
      s.fwc.feBusy = false → (s.proc (3 + c.toNat)).state = .running → (s.proc procSched).state = .running →
      let run := Sys2Proof.Machine.exec (.suspectReplay c) s
      let on (t : State) : Host.Outcome State Fault Refusal := .next (State.windowsGo t.evictions)
      let skip (rest : List (Position × Nat)) : State := s.updCluster c (fun x => { x with recovery := some { r with todo := rest } })
      (r.todo = [] → run = on (s.finishRecovery c)) ∧
      (∀ p e rest, r.todo = (p, e) :: rest →
        (s.entry e = none → run = on (skip rest)) ∧
        (∀ y, s.entry e = some y → y.report ≠ none → run = on (skip rest)) ∧
        (∀ y, s.entry e = some y → y.report = none → y.launch.noCopy = true ∨ s.copyHeld y.ctx y.launch = true →
          let t := match s.sliceIn y.ctx .empty with | some i => s.takeSlice c y.ctx i | none => s
          run = on (State.fetchPages ((t.updEntry e (fun y => { y with place := .shadow c, state := .issued, phase := if y.kind = kChained then 1 else y.phase })).updCluster c
            (fun x => Cluster.sendCtrl ctEnable 0 { x with
              ctx := some y.ctx, shadow := some { t.buildLaunch e y false (decide (y.cls ≠ 2)) with suspect := true }
              recovery := some { r with now := some (p, e), todo := rest } })) (t.buildLaunch e y false (decide (y.cls ≠ 2))))) ∧
        (∀ y, s.entry e = some y → y.report = none → y.launch.noCopy = false → s.copyHeld y.ctx y.launch = false → run = on (s.obtainCopy e y)))) ∧
    (s.inRun = true → s.fwc.dumping = none → (s.proc procSec).state ≠ .restarting →
      let run := Sys2Proof.Machine.exec .frontEndReset s
      (∀ cause, s.fwc.feBusy = false → s.fwc.asked.find? (fun a => a.1 = kindFrontEnd) = some (kindFrontEnd, cause) →
        run = .next (State.counted { s with fwc := { s.fwc with resetFe := false, asked := s.fwc.asked.filter (fun b => b.1 ≠ kindFrontEnd) } }
          (fun t => t.beginFrontEnd cause))) ∧
      (s.fwc.feBusy = false → (∀ a ∈ s.fwc.asked, a.1 ≠ kindFrontEnd) → run = .next s) ∧
      (s.fwc.feBusy = true → s.mp.invertDue = true → run = .next s) ∧
      (s.fwc.feBusy = true → s.mp.invertDue = false → (s.proc procSched).imageLost = true → (s.proc procSched).state = .restarting → run = .next (s.ask kindWhole 0x09)) ∧
      (s.fwc.feBusy = true → s.mp.invertDue = false → (s.proc procSched).imageLost = false → run = .next s.endFrontEnd)) ∧
    ((s.pwr.state = .run ∨ s.pwr.state = .idle) → s.pins.fRst = false → s.pins.aoRst = false → s.fwc.dumping = none → s.pwr.phase ≠ .handshake → s.pwr.phase ≠ .exiting →
      let run := Sys2Proof.Machine.exec .wholeBlockReset s
      (s.fwc.wholeBusy = none → (∀ a ∈ s.fwc.asked, a.1 ≠ kindWhole) → run = .next s) ∧
      (s.fwc.wholeBusy = none → (kindWhole, 0x0A) ∈ s.fwc.asked → run = .next (s.stopBlock 0x0A)) ∧
      (∀ cause, s.fwc.wholeBusy = none → (kindWhole, 0x0A) ∉ s.fwc.asked → s.fwc.asked.find? (fun a => a.1 = kindWhole) = some (kindWhole, cause) →
        run = .next (State.counted { s with fwc := { s.fwc with asked := s.fwc.asked.filter leavesOos } } (fun t => t.stopBlock cause))) ∧
      (∀ w, s.fwc.wholeBusy = some w → (∃ t ∈ s.mp.abandoned, t.epoch ≠ s.mp.epoch) → run = .next s) ∧
      (∀ w, s.fwc.wholeBusy = some w → (∀ t ∈ s.mp.abandoned, t.epoch = s.mp.epoch) → run = .next s.finishWhole)) ∧
    (∀ cause, s.fwc.asked.find? (fun a => a.1 = kindOos) = some (kindOos, cause) → s.inRun = true →
      Sys2Proof.Machine.exec .outOfService s = .next (s.enterOos cause)) ∧
    ((∀ a ∈ s.fwc.asked, a.1 ≠ kindOos) → Sys2Proof.Machine.exec .outOfService s = .next s)

/-- TOKEN_RECEIVE (R58, R534): a token taken while RX is ready is discarded and counted if it breaks its rules, held during a front-end reset, and else applied; with RX not ready nothing is taken. TOKEN_SEND (R57, R60): the head of the queue passes, counted, and those waiting move up. IDCODE, BYPASS, MBIST_CTRL and MBIST_STATUS (R68 to R70, R568 to R570) scan an instruction and its data register from Test-Logic-Reset or Run-Test/Idle: the register's bits come out on TDO, the bypass register is one zero bit, and a TAP held by TRST_N does nothing; START begins a run only in test mode, with none in progress and no reset input asserted; MBIST_RUN_END gives the run's result. RESET_ASSERT (R74, R75) resets its domain at once; RESET_RELEASE (R562) of the last input starts the block. TEST_MODE_CHANGE (R71) with every reset input asserted and CLOCK_CHANGE (R563) where it is allowed complete; elsewhere the state is undefined, a fault. -/
def Obligations.PinsTokensAndTestAccess : Prop :=
  ∀ (s : State), s.Inv →
    let run (c : Instr) := Sys2Proof.Machine.exec c s
    let pins (p : Pins) : State := { s with pins := p }
    (∀ t : W64,
      let got : State := { s with fe := { s.fe with rxFc := some s.fc } }
      let taken : State := { got.leaveIdle with fe := { s.fe with rxFc := some s.fc, rxAccepted := s.fe.rxAccepted + 1 } }
      (s.rxReady = false → run (.tokenReceive t) = .next s) ∧
      (s.rxReady = true → s.tokenBad t = true → run (.tokenReceive t) = .next { s with fe := { s.fe with rxFc := some s.fc, rxDiscarded := s.fe.rxDiscarded + 1 } }) ∧
      (s.rxReady = true → s.tokenBad t = false → s.fwc.feBusy = true → run (.tokenReceive t) = .next { taken with fe := { taken.fe with rxHeld := s.fe.rxHeld ++ [t] } }) ∧
      (s.rxReady = true → s.tokenBad t = false → s.fwc.feBusy = false → run (.tokenReceive t) = .next (taken.applyToken t))) ∧
    (∀ t rest, s.fe.txq = t :: rest → s.inRun = true → run .tokenSend = .next { s with fe := refillTokens { s.fe with txq := rest, txSent := s.fe.txSent + 1 } }) ∧
    (s.fe.txq = [] → run .tokenSend = .next s) ∧
    (s.pins.readyToScan →
      (run .idcode = .next (pins (s.pins.scanned 0x01 0 32 (lowBits idcode.toNat 32)))) ∧
      (∀ ir : BitVec 8, ir ≠ 0x01 → (ir ≠ 0x10 ∧ ir ≠ 0x11) ∨ s.pins.testMode = false → run (.bypass ir) = .next (pins (s.pins.scanned ir 0 1 [false]))) ∧
      (∀ v : W32,
        let kept : W32 := v &&& 0xFFFC0000
        let scan (p : Pins) : Pins := p.scanned 0x10 (v.setWidth 64) 32 (lowBits s.pins.mbistCtrl.toNat 32)
        (s.pins.testMode = false → run (.mbistCtrl v) = .next (pins (s.pins.scanned 0x10 (if v.getLsbD 31 then 1 else 0) 1 (false :: lowBits v.toNat 31)))) ∧
        (s.pins.testMode = true → bit v 0 = false ∨ s.pins.bistRun = true ∨ s.anyReset = true → run (.mbistCtrl v) = .next (pins { scan s.pins with mbistCtrl := kept })) ∧
        (s.pins.testMode = true → bit v 0 = true → s.pins.bistRun = false → s.anyReset = false → bits v 31 28 ≤ 6 →
          run (.mbistCtrl v) = .next (pins { scan s.pins with mbistCtrl := kept, mbistStatus := 0, bistRun := true })) ∧
        (s.pins.testMode = true → bit v 0 = true → s.pins.bistRun = false → s.anyReset = false → 6 < bits v 31 28 →
          run (.mbistCtrl v) = .next (pins { scan s.pins with mbistCtrl := kept, mbistStatus := 3 }))) ∧
      (run .mbistStatus = .next (pins (if s.pins.testMode then s.pins.scanned 0x11 0 64 (lowBits s.pins.mbistStatus.toNat 64)
        else s.pins.scanned 0x11 0 1 (lowBits 0 64))))) ∧
    (s.pins.trst = true → run .idcode = .next s ∧ run .mbistStatus = .next s ∧ (∀ v, run (.mbistCtrl v) = .next s) ∧ (∀ ir, run (.bypass ir) = .next s)) ∧
    (idcode.getLsbD 0 = true ∧ idcode.extractLsb' 28 4 = 2 ∧ idcode.extractLsb' 12 16 = 0x7404) ∧
    (∀ r, s.pins.bistRun = true → run (.mbistRunEnd r) = .next (pins { s.pins with bistRun := false, mbistStatus := bistStatus r })) ∧
    (∀ dom, s.build.hasDomain dom = true →
      (s.pins.held dom = false → run (.resetAssert dom) = .next (State.resetDomain (pins (setReset s.pins true dom)) dom)) ∧
      (s.pins.held dom = true → run (.resetAssert dom) = .next s) ∧ (s.pins.held dom = false → run (.resetRelease dom) = .next s) ∧
      (s.pins.held dom = true → dom = .t → run (.resetRelease dom) = .next (pins (setReset s.pins false dom))) ∧
      (s.pins.held dom = true → dom ≠ .ao → dom ≠ .t →
        let r := pins (setReset s.pins false dom)
        (r.anyReset = true → run (.resetRelease dom) = .next r) ∧ (r.anyReset = false → run (.resetRelease dom) = .next r.startUp))) ∧
    (∀ level, level ≠ s.pins.testMode →
      (s.pins.aoRst = true → s.allButAo = true → run (.testModeChange level) = .next (pins { s.pins with testMode := level })) ∧
      (s.pins.aoRst = false ∨ s.allButAo = false → run (.testModeChange level) = .fault .stateUndefined)) ∧
    (∀ dom ev, (s.build.hasDomain dom = false ∨ s.clockAllowed dom ev = true → run (.clockChange dom ev) = .next s) ∧
      (s.build.hasDomain dom = true → s.clockAllowed dom ev = false → run (.clockChange dom ev) = .fault .stateUndefined))
end

