-- ==== Sys2Proof/Laws/Table.lean ====
section
/-! SUPPORT. Laws of sparse tables: a read after a write, and that every write keeps the canonical form. -/

namespace Sys2Proof.Machine

/-- The keys of a table are above a bound and rise strictly. -/
def risesFrom {α : Type} : Nat → List (Nat × α) → Prop
  | _, [] => True
  | n, (j, _) :: r => n ≤ j ∧ risesFrom (j + 1) r

theorem risesFrom_mono {α : Type} {m n : Nat} (h : m ≤ n) : ∀ {t : List (Nat × α)}, risesFrom n t → risesFrom m t
  | [], _ => trivial
  | (_, _) :: _, ⟨a, b⟩ => ⟨le_trans h a, b⟩

theorem keysRise_cons_iff {α : Type} (j : Nat) (v : α) (t : List (Nat × α)) :
    keysRise ((j, v) :: t) = true ↔ risesFrom (j + 1) t := by
  induction t generalizing j v with
  | nil => simp [keysRise, risesFrom]
  | cons p r ih =>
    obtain ⟨k, w⟩ := p
    unfold keysRise risesFrom
    rw [Bool.and_eq_true, ih, decide_eq_true_iff, Nat.lt_iff_add_one_le]

theorem keysRise_iff {α : Type} (t : List (Nat × α)) : keysRise t = true ↔ risesFrom 0 t := by
  cases t with
  | nil => simp [keysRise, risesFrom]
  | cons p r => obtain ⟨j, v⟩ := p; simp [keysRise_cons_iff, risesFrom]

variable {α : Type} [DecidableEq α]

theorem tset_rises (d : α) (k : Nat) (v : α) : ∀ (t : Tbl α) (n : Nat), n ≤ k → risesFrom n t → risesFrom n (tset d t k v)
  | [], n, hn, _ => by unfold tset; split <;> simp [risesFrom, hn]
  | (j, w) :: r, n, hn, ⟨h1, h2⟩ => by
    unfold tset
    split
    · split
      · exact risesFrom_mono (by omega) h2
      · exact ⟨h1, h2⟩
    · split
      · split
        · exact ⟨h1, h2⟩
        · exact ⟨hn, by omega, h2⟩
      · exact ⟨h1, tset_rises d k v r (j + 1) (by omega) h2⟩

theorem tset_nodefault (d : α) (k : Nat) (v : α) : ∀ (t : Tbl α),
    (t.all (fun p => decide (p.2 ≠ d))) = true → ((tset d t k v).all (fun p => decide (p.2 ≠ d))) = true
  | [], _ => by unfold tset; split <;> simp_all
  | (j, w) :: r, h => by
    have h' : w ≠ d ∧ (r.all (fun p => decide (p.2 ≠ d))) = true := by simpa using h
    unfold tset
    split
    · split
      · exact h'.2
      · simp only [List.all_cons, h'.2]; simpa using ‹¬v = d›
    · split
      · split
        · exact h
        · simp only [List.all_cons, h'.2]; simpa using ⟨‹¬v = d›, h'.1⟩
      · simp only [List.all_cons, tset_nodefault d k v r h'.2]; simpa using h'.1

theorem tblWf_iff (d : α) (t : Tbl α) :
    tblWf d t = true ↔ risesFrom 0 t ∧ (t.all (fun p => decide (p.2 ≠ d))) = true := by
  simp [tblWf, keysRise_iff]

@[simp] theorem tblWf_nil (d : α) : tblWf d [] = true := rfl

/-- A write keeps the canonical form. -/
theorem tset_wf (d : α) (t : Tbl α) (k : Nat) (v : α) (h : tblWf d t = true) : tblWf d (tset d t k v) = true := by
  rw [tblWf_iff] at *
  exact ⟨tset_rises d k v t 0 (Nat.zero_le _) h.1, tset_nodefault d k v t h.2⟩

/-- An update keeps the canonical form. -/
theorem tupd_wf (d : α) (t : Tbl α) (k : Nat) (f : α → α) (h : tblWf d t = true) : tblWf d (tupd d t k f) = true :=
  tset_wf d t k _ h

theorem filter_rises {β : Type} (p : Nat × β → Bool) : ∀ (n : Nat) (t : List (Nat × β)), risesFrom n t → risesFrom n (t.filter p)
  | _, [], _ => trivial
  | n, (j, w) :: r, ⟨h1, h2⟩ => by
    have ih := filter_rises p (j + 1) r h2
    simp only [List.filter_cons]
    split
    · exact ⟨h1, ih⟩
    · exact risesFrom_mono (by omega) ih

theorem map_rises {β γ : Type} (f : Nat × β → γ) : ∀ (n : Nat) (t : List (Nat × β)), risesFrom n t →
    risesFrom n (t.map (fun p => (p.1, f p)))
  | _, [], _ => trivial
  | _, (j, _) :: r, ⟨h1, h2⟩ => ⟨h1, map_rises f (j + 1) r h2⟩

/-- A filter keeps the canonical form. -/
theorem filter_wf (d : α) (p : Nat × α → Bool) (t : Tbl α) (h : tblWf d t = true) : tblWf d (t.filter p) = true := by
  rw [tblWf_iff] at *
  refine ⟨filter_rises p 0 t h.1, ?_⟩
  rw [List.all_eq_true] at *
  intro x hx
  exact h.2 x (List.mem_of_mem_filter hx)

/-- A map with its defaults dropped is in canonical form. -/
theorem tmap_wf (d : α) (f : Nat → α → α) (t : Tbl α) (h : tblWf d t = true) : tblWf d (tmap d f t) = true := by
  rw [tblWf_iff] at *
  refine ⟨filter_rises _ 0 _ (map_rises (fun p => f p.1 p.2) 0 t h.1), ?_⟩
  rw [List.all_eq_true]
  intro x hx
  simpa using (List.mem_filter.mp hx).2

/-- A key below every listed one reads as the default. -/
theorem tget_below {β : Type} (d : β) (k : Nat) : ∀ (n : Nat) (t : Tbl β), k < n → risesFrom n t → tget d t k = d
  | _, [], _, _ => rfl
  | n, (j, w) :: r, hk, ⟨h1, h2⟩ => by
    have hj : ¬ j = k := by omega
    simpa [tget, hj] using tget_below d k (j + 1) r (by omega) h2

/-- A read after a write of the same key. -/
theorem tget_tset_same (d : α) (k : Nat) (v : α) : ∀ (t : Tbl α) (n : Nat), risesFrom n t → tget d (tset d t k v) k = v
  | [], _, _ => by unfold tset; split <;> simp_all [tget]
  | (j, w) :: r, n, ⟨_, h2⟩ => by
    unfold tset
    by_cases hj : j = k
    · by_cases hv : v = d
      · simp [hj, hv, tget_below d k (j + 1) r (by omega) h2]
      · simp [hj, hv, tget]
    · by_cases hk : k < j
      · by_cases hv : v = d
        · simp [hj, hk, hv, tget, tget_below d k (j + 1) r (by omega) h2]
        · simp [hj, hk, hv, tget]
      · simp [hj, hk, tget, tget_tset_same d k v r (j + 1) h2]

/-- A second write at one key replaces the first. -/
theorem tset_tset (d : α) (k : Nat) (v w : α) : ∀ (t : Tbl α) (n : Nat), risesFrom n t → tset d (tset d t k v) k w = tset d t k w
  | [], _, _ => by
    by_cases hv : v = d
    · simp [tset, hv]
    · by_cases hw : w = d <;> simp [tset, hv, hw]
  | (j, u) :: r, n, ⟨_, h2⟩ => by
    by_cases hj : j = k
    · subst hj
      by_cases hv : v = d
      · have e : tset d ((j, u) :: r) j v = r := by simp [tset, hv]
        rw [e]
        cases r with
        | nil => by_cases hw : w = d <;> simp [tset, hw]
        | cons p r =>
          obtain ⟨h3, h4⟩ := h2
          have hp : ¬ p.1 = j := by omega
          have hl : j < p.1 := by omega
          by_cases hw : w = d <;> simp [tset, hw, hp, hl]
      · by_cases hw : w = d <;> simp [tset, hv, hw]
    · by_cases hk : k < j
      · by_cases hv : v = d
        · simp [tset, hj, hk, hv]
        · by_cases hw : w = d <;> simp [tset, hj, hk, hv, hw]
      · simp [tset, hj, hk, tset_tset d k v w r (j + 1) h2]

/-- Two updates at one key are one. -/
theorem tupd_tupd (d : α) (t : Tbl α) (k : Nat) (f g : α → α) (h : tblWf d t = true) :
    tupd d (tupd d t k f) k g = tupd d t k (fun x => g (f x)) := by
  have hr := ((tblWf_iff d t).mp h).1
  unfold tupd
  rw [tget_tset_same d k _ t 0 hr, tset_tset d k _ _ t 0 hr]

/-- A write leaves every other key alone. -/
@[simp] theorem tget_tset_ne (d : α) (k m : Nat) (v : α) (hm : m ≠ k) : ∀ (t : Tbl α), tget d (tset d t k v) m = tget d t m
  | [] => by unfold tset; split <;> simp [tget, Ne.symm hm]
  | (j, w) :: r => by
    unfold tset
    split
    · split
      · subst_vars; simp [tget, Ne.symm hm]
      · subst_vars; simp [tget, Ne.symm hm]
    · split
      · split
        · rfl
        · simp [tget, Ne.symm hm]
      · simp [tget, tget_tset_ne d k m v hm r]

theorem tget_tupd_same (d : α) (t : Tbl α) (k : Nat) (f : α → α) (h : tblWf d t = true) :
    tget d (tupd d t k f) k = f (tget d t k) :=
  tget_tset_same d k _ t 0 ((tblWf_iff d t).mp h).1

theorem tget_tupd_ne (d : α) (t : Tbl α) (k m : Nat) (f : α → α) (hm : m ≠ k) : tget d (tupd d t k f) m = tget d t m :=
  tget_tset_ne d k m _ hm t

end Sys2Proof.Machine
end

