-- ==== Sys2Proof/Laws/InvBase.lean ====
section
/-! SUPPORT. The invariant `State.Inv` under the record updates and the named operations of Machine/Ops.lean. -/

namespace Sys2Proof.Machine

/-- An update of parts that the invariant does not speak of. -/
theorem Inv.frame {s : State} {fe mp hau xlt pwr lgr gen pins free pend}
    {lnd_entries lnd_ord lnd_staleCount lnd_staleLast lnd_errLog lnd_dropUnconf lnd_dropError lnd_probeLog lnd_fired
    lnd_current lnd_bindings lnd_cached lnd_cacheStamp lnd_backPfn lnd_backPages lnd_freePages lnd_rejects lnd_progReject
    lnd_nodesAdmitted lnd_versionLimits lnd_noRoom lnd_commits lnd_changed fwc_bundlePfn fwc_bundlePages fwc_drvIf
    fwc_startBit fwc_state fwc_reason fwc_fwVersion fwc_ifMin fwc_ifMax fwc_keyProvisioned fwc_locked fwc_caps
    fwc_failedOrder fwc_logPfn fwc_logLog2 fwc_logRp fwc_logWp fwc_lostOther fwc_lostError fwc_trace fwc_mbxWait fwc_reads
    fwc_resetWhole fwc_resetFe fwc_asked fwc_rcvStartFc fwc_rcvCause fwc_rcvKind fwc_feBusy fwc_rcvCluster fwc_winLog2
    fwc_limit fwc_escTotal fwc_stamps fwc_svcBase fwc_dumpPfn fwc_dumpPages fwc_dumpFc fwc_dumpSeq fwc_dumpCause
    fwc_dumpComplete fwc_armed fwc_dumping fwc_wholeBusy fwc_selfTest uc_major uc_minor uc_build uc_patchId uc_freeWords
    uc_restarts uc_csUncorr uc_runaway uc_patching uc_patchPage uc_patchSeq uc_patchWait uc_loaded uc_trapXlt uc_trapOrder
    uc_trapDeck uc_store uc_dispatch uc_masks uc_seq uc_lockHolder uc_patches uc_section_ dck_open_ dck_ready dck_passLog2
    dck_failThresh dck_failed dck_rebuilds dck_gens dck_lateLog dck_errLog dck_lostRows dck_regions dck_scrubNext
    dck_scrubbing dck_scrubFc dck_lastGrant dck_holds dck_testLost irq_grace irq_writeFc irq_vecs res_waiting yrd_table
    yrd_pendingTable yrd_refuse yrd_base yrd_released yrd_late yrd_missed yrd_overrun yrd_untabled yrd_lateLog yrd_windows
    yrd_releaseFc yrd_capFc yrd_quantumFc yrd_parts yrd_accountFc yrd_moves}
    (h : s.Inv) :
    State.Inv ⟨s.build, s.ctxs, s.queues, fe, ⟨uc_major, uc_minor, uc_build, uc_patchId, uc_freeWords, uc_restarts,
    uc_csUncorr, uc_runaway, uc_patching, uc_patchPage, uc_patchSeq, uc_patchWait, uc_loaded, uc_trapXlt, uc_trapOrder,
    uc_trapDeck, uc_store, uc_dispatch, uc_masks, s.uc.threads, uc_seq, uc_lockHolder, uc_patches, uc_section_⟩,
    ⟨lnd_entries, lnd_ord, s.lnd.blazes, lnd_staleCount, lnd_staleLast, lnd_errLog, lnd_dropUnconf, lnd_dropError,
    lnd_probeLog, lnd_fired, lnd_current, lnd_bindings, lnd_cached, lnd_cacheStamp, lnd_backPfn, lnd_backPages,
    lnd_freePages, lnd_rejects, lnd_progReject, s.lnd.graphs, lnd_nodesAdmitted, lnd_versionLimits, lnd_noRoom, lnd_commits,
    lnd_changed⟩, ⟨yrd_table, yrd_pendingTable, yrd_refuse, yrd_base, yrd_released, yrd_late, yrd_missed, yrd_overrun,
    yrd_untabled, yrd_lateLog, yrd_windows, yrd_releaseFc, yrd_capFc, yrd_quantumFc, s.yrd.groups, yrd_parts, yrd_accountFc,
    yrd_moves⟩, ⟨s.res.slots, res_waiting⟩, mp, hau, ⟨dck_open_, dck_ready, dck_passLog2, dck_failThresh, dck_failed,
    dck_rebuilds, dck_gens, dck_lateLog, dck_errLog, dck_lostRows, dck_regions, s.dck.mem, dck_scrubNext, dck_scrubbing,
    dck_scrubFc, dck_lastGrant, dck_holds, dck_testLost⟩, xlt, ⟨s.irq.pending, s.irq.enable, s.irq.inService, irq_grace,
    irq_writeFc, irq_vecs, s.irq.routes⟩, pwr, ⟨fwc_bundlePfn, fwc_bundlePages, fwc_drvIf, fwc_startBit, fwc_state,
    fwc_reason, fwc_fwVersion, fwc_ifMin, fwc_ifMax, fwc_keyProvisioned, fwc_locked, fwc_caps, s.fwc.procs, fwc_failedOrder,
    fwc_logPfn, fwc_logLog2, fwc_logRp, fwc_logWp, fwc_lostOther, fwc_lostError, fwc_trace, s.fwc.mbx, fwc_mbxWait,
    fwc_reads, fwc_resetWhole, fwc_resetFe, fwc_asked, fwc_rcvStartFc, fwc_rcvCause, fwc_rcvKind, fwc_feBusy,
    fwc_rcvCluster, fwc_winLog2, fwc_limit, fwc_escTotal, fwc_stamps, fwc_svcBase, fwc_dumpPfn, fwc_dumpPages, fwc_dumpFc,
    fwc_dumpSeq, fwc_dumpCause, fwc_dumpComplete, fwc_armed, fwc_dumping, fwc_wholeBusy, fwc_selfTest⟩, lgr, s.clusters,
    gen, pins, free, pend⟩ :=
  { h with build := h.build }

/-- An update that replaces the queues, clusters, processors or threads too. -/
theorem Inv.frameMap {s : State} {fe mp hau xlt pwr lgr gen pins free pend} {qs : Tbl Queue} {cs : Tbl Cluster}
    {ps : Tbl Proc} {ts : Tbl Thread} {gs : Tbl ShareGroup}
    {lnd_entries lnd_ord lnd_staleCount lnd_staleLast lnd_errLog lnd_dropUnconf lnd_dropError lnd_probeLog lnd_fired
    lnd_current lnd_bindings lnd_cached lnd_cacheStamp lnd_backPfn lnd_backPages lnd_freePages lnd_rejects lnd_progReject
    lnd_nodesAdmitted lnd_versionLimits lnd_noRoom lnd_commits lnd_changed fwc_bundlePfn fwc_bundlePages fwc_drvIf
    fwc_startBit fwc_state fwc_reason fwc_fwVersion fwc_ifMin fwc_ifMax fwc_keyProvisioned fwc_locked fwc_caps
    fwc_failedOrder fwc_logPfn fwc_logLog2 fwc_logRp fwc_logWp fwc_lostOther fwc_lostError fwc_trace fwc_mbxWait fwc_reads
    fwc_resetWhole fwc_resetFe fwc_asked fwc_rcvStartFc fwc_rcvCause fwc_rcvKind fwc_feBusy fwc_rcvCluster fwc_winLog2
    fwc_limit fwc_escTotal fwc_stamps fwc_svcBase fwc_dumpPfn fwc_dumpPages fwc_dumpFc fwc_dumpSeq fwc_dumpCause
    fwc_dumpComplete fwc_armed fwc_dumping fwc_wholeBusy fwc_selfTest uc_major uc_minor uc_build uc_patchId uc_freeWords
    uc_restarts uc_csUncorr uc_runaway uc_patching uc_patchPage uc_patchSeq uc_patchWait uc_loaded uc_trapXlt uc_trapOrder
    uc_trapDeck uc_store uc_dispatch uc_masks uc_seq uc_lockHolder uc_patches uc_section_ dck_open_ dck_ready dck_passLog2
    dck_failThresh dck_failed dck_rebuilds dck_gens dck_lateLog dck_errLog dck_lostRows dck_regions dck_scrubNext
    dck_scrubbing dck_scrubFc dck_lastGrant dck_holds dck_testLost irq_grace irq_writeFc irq_vecs res_waiting yrd_table
    yrd_pendingTable yrd_refuse yrd_base yrd_released yrd_late yrd_missed yrd_overrun yrd_untabled yrd_lateLog yrd_windows
    yrd_releaseFc yrd_capFc yrd_quantumFc yrd_parts yrd_accountFc yrd_moves}
    (h : s.Inv)
    (hq : tblWf {} qs = true) (hc : tblWf {} cs = true) (hp : tblWf {} ps = true) (ht : tblWf {} ts = true)
    (hg : tblWf {} gs = true) :
    State.Inv ⟨s.build, s.ctxs, qs, fe, ⟨uc_major, uc_minor, uc_build, uc_patchId, uc_freeWords, uc_restarts, uc_csUncorr,
    uc_runaway, uc_patching, uc_patchPage, uc_patchSeq, uc_patchWait, uc_loaded, uc_trapXlt, uc_trapOrder, uc_trapDeck,
    uc_store, uc_dispatch, uc_masks, ts, uc_seq, uc_lockHolder, uc_patches, uc_section_⟩, ⟨lnd_entries, lnd_ord,
    s.lnd.blazes, lnd_staleCount, lnd_staleLast, lnd_errLog, lnd_dropUnconf, lnd_dropError, lnd_probeLog, lnd_fired,
    lnd_current, lnd_bindings, lnd_cached, lnd_cacheStamp, lnd_backPfn, lnd_backPages, lnd_freePages, lnd_rejects,
    lnd_progReject, s.lnd.graphs, lnd_nodesAdmitted, lnd_versionLimits, lnd_noRoom, lnd_commits, lnd_changed⟩, ⟨yrd_table,
    yrd_pendingTable, yrd_refuse, yrd_base, yrd_released, yrd_late, yrd_missed, yrd_overrun, yrd_untabled, yrd_lateLog,
    yrd_windows, yrd_releaseFc, yrd_capFc, yrd_quantumFc, gs, yrd_parts, yrd_accountFc, yrd_moves⟩, ⟨s.res.slots,
    res_waiting⟩, mp, hau, ⟨dck_open_, dck_ready, dck_passLog2, dck_failThresh, dck_failed, dck_rebuilds, dck_gens,
    dck_lateLog, dck_errLog, dck_lostRows, dck_regions, s.dck.mem, dck_scrubNext, dck_scrubbing, dck_scrubFc, dck_lastGrant,
    dck_holds, dck_testLost⟩, xlt, ⟨s.irq.pending, s.irq.enable, s.irq.inService, irq_grace, irq_writeFc, irq_vecs,
    s.irq.routes⟩, pwr, ⟨fwc_bundlePfn, fwc_bundlePages, fwc_drvIf, fwc_startBit, fwc_state, fwc_reason, fwc_fwVersion,
    fwc_ifMin, fwc_ifMax, fwc_keyProvisioned, fwc_locked, fwc_caps, ps, fwc_failedOrder, fwc_logPfn, fwc_logLog2, fwc_logRp,
    fwc_logWp, fwc_lostOther, fwc_lostError, fwc_trace, s.fwc.mbx, fwc_mbxWait, fwc_reads, fwc_resetWhole, fwc_resetFe,
    fwc_asked, fwc_rcvStartFc, fwc_rcvCause, fwc_rcvKind, fwc_feBusy, fwc_rcvCluster, fwc_winLog2, fwc_limit, fwc_escTotal,
    fwc_stamps, fwc_svcBase, fwc_dumpPfn, fwc_dumpPages, fwc_dumpFc, fwc_dumpSeq, fwc_dumpCause, fwc_dumpComplete,
    fwc_armed, fwc_dumping, fwc_wholeBusy, fwc_selfTest⟩, lgr, cs, gen, pins, free, pend⟩ :=
  { h with queues := hq, clusters := hc, procs := hp, threads := ht, groups := hg }

/-- A chain of states, one link at a time. -/
theorem Inv.chain {A : State} {B : State → State} (hA : A.Inv) (hB : ∀ s : State, s.Inv → (B s).Inv) :
    State.Inv (have s := A; B s) := hB A hA
/-- A value named on the way. -/
theorem Inv.named {α : Type} {A : α} {B : α → State} (hB : ∀ x : α, (B x).Inv) : State.Inv (have x := A; B x) := hB A

/-- An update of the Deck's bytes. -/
theorem Inv.frameMem {s : State} {fe mp hau xlt pwr lgr gen pins free pend} {m : List Host.Cell}
    {lnd_entries lnd_ord lnd_staleCount lnd_staleLast lnd_errLog lnd_dropUnconf lnd_dropError lnd_probeLog lnd_fired
    lnd_current lnd_bindings lnd_cached lnd_cacheStamp lnd_backPfn lnd_backPages lnd_freePages lnd_rejects lnd_progReject
    lnd_nodesAdmitted lnd_versionLimits lnd_noRoom lnd_commits lnd_changed fwc_bundlePfn fwc_bundlePages fwc_drvIf
    fwc_startBit fwc_state fwc_reason fwc_fwVersion fwc_ifMin fwc_ifMax fwc_keyProvisioned fwc_locked fwc_caps
    fwc_failedOrder fwc_logPfn fwc_logLog2 fwc_logRp fwc_logWp fwc_lostOther fwc_lostError fwc_trace fwc_mbxWait fwc_reads
    fwc_resetWhole fwc_resetFe fwc_asked fwc_rcvStartFc fwc_rcvCause fwc_rcvKind fwc_feBusy fwc_rcvCluster fwc_winLog2
    fwc_limit fwc_escTotal fwc_stamps fwc_svcBase fwc_dumpPfn fwc_dumpPages fwc_dumpFc fwc_dumpSeq fwc_dumpCause
    fwc_dumpComplete fwc_armed fwc_dumping fwc_wholeBusy fwc_selfTest uc_major uc_minor uc_build uc_patchId uc_freeWords
    uc_restarts uc_csUncorr uc_runaway uc_patching uc_patchPage uc_patchSeq uc_patchWait uc_loaded uc_trapXlt uc_trapOrder
    uc_trapDeck uc_store uc_dispatch uc_masks uc_seq uc_lockHolder uc_patches uc_section_ dck_open_ dck_ready dck_passLog2
    dck_failThresh dck_failed dck_rebuilds dck_gens dck_lateLog dck_errLog dck_lostRows dck_regions dck_scrubNext
    dck_scrubbing dck_scrubFc dck_lastGrant dck_holds dck_testLost irq_grace irq_writeFc irq_vecs res_waiting yrd_table
    yrd_pendingTable yrd_refuse yrd_base yrd_released yrd_late yrd_missed yrd_overrun yrd_untabled yrd_lateLog yrd_windows
    yrd_releaseFc yrd_capFc yrd_quantumFc yrd_parts yrd_accountFc yrd_moves}
    (h : s.Inv) (hm : memWf m = true) :
    State.Inv ⟨s.build, s.ctxs, s.queues, fe, ⟨uc_major, uc_minor, uc_build, uc_patchId, uc_freeWords, uc_restarts,
    uc_csUncorr, uc_runaway, uc_patching, uc_patchPage, uc_patchSeq, uc_patchWait, uc_loaded, uc_trapXlt, uc_trapOrder,
    uc_trapDeck, uc_store, uc_dispatch, uc_masks, s.uc.threads, uc_seq, uc_lockHolder, uc_patches, uc_section_⟩,
    ⟨lnd_entries, lnd_ord, s.lnd.blazes, lnd_staleCount, lnd_staleLast, lnd_errLog, lnd_dropUnconf, lnd_dropError,
    lnd_probeLog, lnd_fired, lnd_current, lnd_bindings, lnd_cached, lnd_cacheStamp, lnd_backPfn, lnd_backPages,
    lnd_freePages, lnd_rejects, lnd_progReject, s.lnd.graphs, lnd_nodesAdmitted, lnd_versionLimits, lnd_noRoom, lnd_commits,
    lnd_changed⟩, ⟨yrd_table, yrd_pendingTable, yrd_refuse, yrd_base, yrd_released, yrd_late, yrd_missed, yrd_overrun,
    yrd_untabled, yrd_lateLog, yrd_windows, yrd_releaseFc, yrd_capFc, yrd_quantumFc, s.yrd.groups, yrd_parts, yrd_accountFc,
    yrd_moves⟩, ⟨s.res.slots, res_waiting⟩, mp, hau, ⟨dck_open_, dck_ready, dck_passLog2, dck_failThresh, dck_failed,
    dck_rebuilds, dck_gens, dck_lateLog, dck_errLog, dck_lostRows, dck_regions, m, dck_scrubNext, dck_scrubbing,
    dck_scrubFc, dck_lastGrant, dck_holds, dck_testLost⟩, xlt, ⟨s.irq.pending, s.irq.enable, s.irq.inService, irq_grace,
    irq_writeFc, irq_vecs, s.irq.routes⟩, pwr, ⟨fwc_bundlePfn, fwc_bundlePages, fwc_drvIf, fwc_startBit, fwc_state,
    fwc_reason, fwc_fwVersion, fwc_ifMin, fwc_ifMax, fwc_keyProvisioned, fwc_locked, fwc_caps, s.fwc.procs, fwc_failedOrder,
    fwc_logPfn, fwc_logLog2, fwc_logRp, fwc_logWp, fwc_lostOther, fwc_lostError, fwc_trace, s.fwc.mbx, fwc_mbxWait,
    fwc_reads, fwc_resetWhole, fwc_resetFe, fwc_asked, fwc_rcvStartFc, fwc_rcvCause, fwc_rcvKind, fwc_feBusy,
    fwc_rcvCluster, fwc_winLog2, fwc_limit, fwc_escTotal, fwc_stamps, fwc_svcBase, fwc_dumpPfn, fwc_dumpPages, fwc_dumpFc,
    fwc_dumpSeq, fwc_dumpCause, fwc_dumpComplete, fwc_armed, fwc_dumping, fwc_wholeBusy, fwc_selfTest⟩, lgr, s.clusters,
    gen, pins, free, pend⟩ :=
  { h with mem := hm }

/-- An update of the interrupt bits. -/
theorem Inv.frameIrq {s : State} {fe mp hau xlt pwr lgr gen pins free pend} {p e i : BitVec 1024}
    {lnd_entries lnd_ord lnd_staleCount lnd_staleLast lnd_errLog lnd_dropUnconf lnd_dropError lnd_probeLog lnd_fired
    lnd_current lnd_bindings lnd_cached lnd_cacheStamp lnd_backPfn lnd_backPages lnd_freePages lnd_rejects lnd_progReject
    lnd_nodesAdmitted lnd_versionLimits lnd_noRoom lnd_commits lnd_changed fwc_bundlePfn fwc_bundlePages fwc_drvIf
    fwc_startBit fwc_state fwc_reason fwc_fwVersion fwc_ifMin fwc_ifMax fwc_keyProvisioned fwc_locked fwc_caps
    fwc_failedOrder fwc_logPfn fwc_logLog2 fwc_logRp fwc_logWp fwc_lostOther fwc_lostError fwc_trace fwc_mbxWait fwc_reads
    fwc_resetWhole fwc_resetFe fwc_asked fwc_rcvStartFc fwc_rcvCause fwc_rcvKind fwc_feBusy fwc_rcvCluster fwc_winLog2
    fwc_limit fwc_escTotal fwc_stamps fwc_svcBase fwc_dumpPfn fwc_dumpPages fwc_dumpFc fwc_dumpSeq fwc_dumpCause
    fwc_dumpComplete fwc_armed fwc_dumping fwc_wholeBusy fwc_selfTest uc_major uc_minor uc_build uc_patchId uc_freeWords
    uc_restarts uc_csUncorr uc_runaway uc_patching uc_patchPage uc_patchSeq uc_patchWait uc_loaded uc_trapXlt uc_trapOrder
    uc_trapDeck uc_store uc_dispatch uc_masks uc_seq uc_lockHolder uc_patches uc_section_ dck_open_ dck_ready dck_passLog2
    dck_failThresh dck_failed dck_rebuilds dck_gens dck_lateLog dck_errLog dck_lostRows dck_regions dck_scrubNext
    dck_scrubbing dck_scrubFc dck_lastGrant dck_holds dck_testLost irq_grace irq_writeFc irq_vecs res_waiting yrd_table
    yrd_pendingTable yrd_refuse yrd_base yrd_released yrd_late yrd_missed yrd_overrun yrd_untabled yrd_lateLog yrd_windows
    yrd_releaseFc yrd_capFc yrd_quantumFc yrd_parts yrd_accountFc yrd_moves}
    (h : s.Inv)
    (hp : p.getLsbD 0x3FF = false) (he : e.getLsbD 0x3FF = false) (hi : i.getLsbD 0x3FF = false) :
    State.Inv ⟨s.build, s.ctxs, s.queues, fe, ⟨uc_major, uc_minor, uc_build, uc_patchId, uc_freeWords, uc_restarts,
    uc_csUncorr, uc_runaway, uc_patching, uc_patchPage, uc_patchSeq, uc_patchWait, uc_loaded, uc_trapXlt, uc_trapOrder,
    uc_trapDeck, uc_store, uc_dispatch, uc_masks, s.uc.threads, uc_seq, uc_lockHolder, uc_patches, uc_section_⟩,
    ⟨lnd_entries, lnd_ord, s.lnd.blazes, lnd_staleCount, lnd_staleLast, lnd_errLog, lnd_dropUnconf, lnd_dropError,
    lnd_probeLog, lnd_fired, lnd_current, lnd_bindings, lnd_cached, lnd_cacheStamp, lnd_backPfn, lnd_backPages,
    lnd_freePages, lnd_rejects, lnd_progReject, s.lnd.graphs, lnd_nodesAdmitted, lnd_versionLimits, lnd_noRoom, lnd_commits,
    lnd_changed⟩, ⟨yrd_table, yrd_pendingTable, yrd_refuse, yrd_base, yrd_released, yrd_late, yrd_missed, yrd_overrun,
    yrd_untabled, yrd_lateLog, yrd_windows, yrd_releaseFc, yrd_capFc, yrd_quantumFc, s.yrd.groups, yrd_parts, yrd_accountFc,
    yrd_moves⟩, ⟨s.res.slots, res_waiting⟩, mp, hau, ⟨dck_open_, dck_ready, dck_passLog2, dck_failThresh, dck_failed,
    dck_rebuilds, dck_gens, dck_lateLog, dck_errLog, dck_lostRows, dck_regions, s.dck.mem, dck_scrubNext, dck_scrubbing,
    dck_scrubFc, dck_lastGrant, dck_holds, dck_testLost⟩, xlt, ⟨p, e, i, irq_grace, irq_writeFc, irq_vecs, s.irq.routes⟩,
    pwr, ⟨fwc_bundlePfn, fwc_bundlePages, fwc_drvIf, fwc_startBit, fwc_state, fwc_reason, fwc_fwVersion, fwc_ifMin,
    fwc_ifMax, fwc_keyProvisioned, fwc_locked, fwc_caps, s.fwc.procs, fwc_failedOrder, fwc_logPfn, fwc_logLog2, fwc_logRp,
    fwc_logWp, fwc_lostOther, fwc_lostError, fwc_trace, s.fwc.mbx, fwc_mbxWait, fwc_reads, fwc_resetWhole, fwc_resetFe,
    fwc_asked, fwc_rcvStartFc, fwc_rcvCause, fwc_rcvKind, fwc_feBusy, fwc_rcvCluster, fwc_winLog2, fwc_limit, fwc_escTotal,
    fwc_stamps, fwc_svcBase, fwc_dumpPfn, fwc_dumpPages, fwc_dumpFc, fwc_dumpSeq, fwc_dumpCause, fwc_dumpComplete,
    fwc_armed, fwc_dumping, fwc_wholeBusy, fwc_selfTest⟩, lgr, s.clusters, gen, pins, free, pend⟩ :=
  { h with irq := ⟨hp, he, hi⟩ }

/-- A byte written keeps the canonical form of memory. -/
theorem memWrite_wf (m : List Host.Cell) (a : Nat) (b : Byte) (h : memWf m = true) : memWf (memWrite m a b) = true :=
  tset_wf 0 m a b h
/-- Bytes written keep the canonical form of memory. -/
theorem memWriteBytes_wf (l : List Byte) : ∀ (m : List Host.Cell) (a : Nat), memWf m = true → memWf (memWriteBytes m a l) = true := by
  induction l with
  | nil => exact fun _ _ h => h
  | cons b l ih => exact fun m a h => ih _ _ (memWrite_wf m a b h)
/-- Bytes zeroed keep the canonical form of memory. -/
theorem memZero_wf (m : List Host.Cell) (a n : Nat) (h : memWf m = true) : memWf (memZero m a n) = true := filter_wf 0 _ m h

theorem Inv.ite {c : Prop} [Decidable c] {a b : State} (ha : a.Inv) (hb : b.Inv) : (if c then a else b).Inv := by
  split <;> assumption

theorem State.updCtx_inv {s : State} (c : BitVec 20) (f : Context → Context) (h : s.Inv) : (s.updCtx c f).Inv :=
  { h with ctxs := tupd_wf _ _ _ _ h.ctxs }
theorem State.updQueue_inv {s : State} (q : BitVec 14) (f : Queue → Queue) (h : s.Inv) : (s.updQueue q f).Inv :=
  { h with queues := tupd_wf _ _ _ _ h.queues }
theorem State.updCluster_inv {s : State} (c : BitVec 6) (f : Cluster → Cluster) (h : s.Inv) : (s.updCluster c f).Inv :=
  { h with clusters := tupd_wf _ _ _ _ h.clusters }
theorem State.updBlaze_inv {s : State} (n : BitVec 16) (f : Blaze → Blaze) (h : s.Inv) : (s.updBlaze n f).Inv :=
  { h with blazes := tupd_wf _ _ _ _ h.blazes }
theorem State.updGraph_inv {s : State} (c : BitVec 20) (g : BitVec 12) (f : Graph → Graph) (h : s.Inv) : (s.updGraph c g f).Inv :=
  { h with graphs := tupd_wf _ _ _ _ h.graphs }
theorem State.updRes_inv {s : State} (r : Nat) (f : ResSlot → ResSlot) (h : s.Inv) : (s.updRes r f).Inv :=
  { h with slots := tupd_wf _ _ _ _ h.slots }
theorem State.updMbx_inv {s : State} (m : BitVec 8) (f : Mbx → Mbx) (h : s.Inv) : (s.updMbx m f).Inv :=
  { h with mbx := tupd_wf _ _ _ _ h.mbx }
theorem State.updProc_inv {s : State} (p : Nat) (f : Proc → Proc) (h : s.Inv) : (s.updProc p f).Inv :=
  { h with procs := tupd_wf _ _ _ _ h.procs }
theorem State.updThread_inv {s : State} (t : BitVec 4) (f : Thread → Thread) (h : s.Inv) : (s.updThread t f).Inv :=
  { h with threads := tupd_wf _ _ _ _ h.threads }
theorem State.each_inv {α : Type} {s : State} (l : List α) (f : State → α → State) (h : s.Inv)
    (hf : ∀ (s : State) (a : α), s.Inv → (f s a).Inv) : (s.each l f).Inv := by
  unfold State.each
  induction l generalizing s with
  | nil => exact h
  | cons a l ih => exact ih (hf s a h)
theorem State.foldl_inv {α : Type} {s : State} (l : List α) (f : State → α → State) (h : s.Inv)
    (hf : ∀ (s : State) (a : α), s.Inv → (f s a).Inv) : (l.foldl f s).Inv := State.each_inv l f h hf

theorem State.raise_inv {s : State} (n : Nat) (h : s.Inv) : (s.raise n).Inv := by
  unfold State.raise
  split
  · rename_i hn
    have hp : (s.irq.pending ||| BitVec.twoPow 1024 n).getLsbD 0x3FF = false := by
      have := h.irq.1
      simp only [BitVec.getLsbD_or, BitVec.getLsbD_twoPow, this, Bool.false_or]
      simp; omega
    have h' : State.Inv { s with irq := { s.irq with pending := s.irq.pending ||| BitVec.twoPow 1024 n } } :=
      { h with irq := ⟨hp, h.irq.2⟩ }
    dsimp only
    split
    · exact Inv.frame h'
    · exact h'
  · exact h

end Sys2Proof.Machine
end

