-- ==== Sys2Proof/Laws/InvOps.lean ====
section
/-! SUPPORT. The invariant `State.Inv` is kept by the operations of Machine/Ops.lean. -/

namespace Sys2Proof.Machine

set_option linter.unusedTactic false
set_option linter.unreachableTactic false

theorem State.updEntry_inv {s : State} (e : Nat) (f : Entry → Entry) (hI : s.Inv) :
    State.Inv (State.updEntry s e f) := by
  unfold State.updEntry
  (try dsimp only)
  repeat' (first | with_reducible assumption | split | (intro _) | refine Inv.frame ?_)


theorem State.updPart_inv {s : State} (p : BitVec 3) (f : Partition → Partition) (hI : s.Inv) :
    State.Inv (State.updPart s p f) := by
  unfold State.updPart
  (try dsimp only)
  repeat' (first | with_reducible assumption | split | (intro _) | refine Inv.frame ?_)


theorem State.updVec_inv {s : State} (v : BitVec 3) (f : Vec → Vec) (hI : s.Inv) :
    State.Inv (State.updVec s v f) := by
  unfold State.updVec
  (try dsimp only)
  repeat' (first | with_reducible assumption | split | (intro _) | refine Inv.frame ?_)


theorem State.updStream_inv {s : State} (k : Nat) (f : Stream → Stream) (hI : s.Inv) :
    State.Inv (State.updStream s k f) := by
  unfold State.updStream
  (try dsimp only)
  repeat' (first | with_reducible assumption | split | (intro _) | refine Inv.frame ?_)


theorem State.logErr_inv {s : State} (origin status : BitVec 8) (event : BitVec 16) (c q : W32) (detail : W64) (hI : s.Inv) :
    State.Inv (State.logErr s origin status event c q detail) := by
  unfold State.logErr
  (try dsimp only)
  repeat' (first | with_reducible assumption | split | (intro _) | refine Inv.frame ?_)


theorem State.logHw_inv {s : State} (event : BitVec 16) (status : BitVec 8) (c : Option (BitVec 20)) (q : Option (BitVec 14)) (detail : Nat) (hI : s.Inv) :
    State.Inv (State.logHw s event status c q detail) := by
  unfold State.logHw
  (try dsimp only)
  repeat' (first | with_reducible assumption | split | with_reducible apply State.logErr_inv | (intro _) | refine Inv.frame ?_)


theorem State.latchWake_inv {s : State} (hI : s.Inv) :
    State.Inv (State.latchWake s) := by
  unfold State.latchWake
  (try dsimp only)
  repeat' (first | with_reducible assumption | split | with_reducible apply State.handshake_inv | (intro _) | refine Inv.frame ?_)


theorem State.noteFlag_inv {s : State} (g : HwFlag) (hI : s.Inv) :
    State.Inv (State.noteFlag s g) := by
  unfold State.noteFlag
  (try dsimp only)
  repeat' (first | with_reducible assumption | split | (intro _) | refine Inv.frame ?_)


theorem State.count_inv {s : State} (i : Nat) (hI : s.Inv) :
    State.Inv (State.count s i) := by
  unfold State.count
  (try dsimp only)
  repeat' (first | with_reducible assumption | split | (intro _) | refine Inv.frame ?_)


theorem State.cruise_inv {s : State} (hI : s.Inv) :
    State.Inv (State.cruise s) := by
  unfold State.cruise
  (try dsimp only)
  repeat' (first | with_reducible assumption | split | (intro _) | refine Inv.frame ?_)


theorem State.freshWord_inv {s : State} (hI : s.Inv) :
    State.Inv (State.freshWord s).2 := by
  unfold State.freshWord
  (try dsimp only)
  repeat' (first | with_reducible assumption | split | (intro _) | refine Inv.frame ?_)


theorem State.drawBucket_inv {s : State} (t : Txn) (hI : s.Inv) :
    State.Inv (State.drawBucket s t) := by
  unfold State.drawBucket
  (try dsimp only)
  repeat' (first | with_reducible assumption | split | with_reducible apply State.updPart_inv | (intro _) | refine Inv.frame ?_)


theorem State.sendTxn_inv {s : State} (t : Txn) (k : Nat) (hI : s.Inv) :
    State.Inv (State.sendTxn s t k) := by
  unfold State.sendTxn
  (try dsimp only)
  repeat' (first | with_reducible assumption | split | with_reducible apply State.drawBucket_inv | (intro _) | refine Inv.frame ?_)


theorem State.issueTxn_inv {s : State} (t : Txn) (hI : s.Inv) :
    State.Inv (State.issueTxn s t) := by
  unfold State.issueTxn
  (try dsimp only)
  repeat' (first | with_reducible assumption | split | with_reducible apply State.sendTxn_inv | (intro _) | refine Inv.frame ?_)


theorem State.promoteTxn_inv {s : State} (write : Bool) (ifc : Nat) (hI : s.Inv) :
    State.Inv (State.promoteTxn s write ifc) := by
  unfold State.promoteTxn
  (try dsimp only)
  repeat' (first | with_reducible assumption | split | with_reducible apply State.sendTxn_inv | (intro _) | refine Inv.frame ?_)


theorem State.promoteAll_inv {s : State} (hI : s.Inv) :
    State.Inv (State.promoteAll s) := by
  unfold State.promoteAll
  (try dsimp only)
  repeat' (first | with_reducible assumption | split | with_reducible apply State.each_inv | with_reducible apply State.promoteTxn_inv | (intro _) | refine Inv.frame ?_)


theorem State.mpWrite_inv {s : State} (part : Option (BitVec 3)) (source : BitVec 6) (pa : Nat) (prot : BitVec 3) (cache qos : BitVec 4) (data : List Byte) (poison : List Bool) (p : Purpose) (hI : s.Inv) :
    State.Inv (State.mpWrite s part source pa prot cache qos data poison p) := by
  unfold State.mpWrite
  (try dsimp only)
  repeat' (first | with_reducible assumption | split | with_reducible apply State.issueTxn_inv | (intro _) | refine Inv.frame ?_)


theorem State.mpRead_inv {s : State} (part : Option (BitVec 3)) (source : BitVec 6) (pa len : Nat) (prot : BitVec 3) (cache qos : BitVec 4) (p : Purpose) (hI : s.Inv) :
    State.Inv (State.mpRead s part source pa len prot cache qos p) := by
  unfold State.mpRead
  (try dsimp only)
  repeat' (first | with_reducible assumption | split | with_reducible apply State.issueTxn_inv | (intro _) | refine Inv.frame ?_)


theorem State.ringWrite_inv {s : State} (part : Option (BitVec 3)) (source : BitVec 6) (pa : Nat) (data : List Byte) (p : Purpose) (hI : s.Inv) :
    State.Inv (State.ringWrite s part source pa data p) := by
  unfold State.ringWrite
  (try dsimp only)
  repeat' (first | with_reducible assumption | split | with_reducible apply State.mpWrite_inv | (intro _) | refine Inv.frame ?_)


theorem State.fwAsk_inv {s : State} (r : FwRead) (off n : Nat) (whole : Bool) (hI : s.Inv) :
    State.Inv (State.fwAsk s r off n whole) := by
  unfold State.fwAsk
  (try dsimp only)
  repeat' (first | with_reducible assumption | split | with_reducible apply State.each_inv | with_reducible apply State.mpRead_inv | (intro _) | refine Inv.frame ?_)


theorem State.dropRead_inv {s : State} (page : Option (BitVec 8)) (hI : s.Inv) :
    State.Inv (State.dropRead s page) := by
  unfold State.dropRead
  (try dsimp only)
  repeat' (first | with_reducible assumption | split | (intro _) | refine Inv.frame ?_)


theorem State.walkRead_inv {s : State} (pa len : Nat) (p : Purpose) (hI : s.Inv) :
    State.Inv (State.walkRead s pa len p) := by
  unfold State.walkRead
  (try dsimp only)
  repeat' (first | with_reducible assumption | split | with_reducible apply State.mpRead_inv | (intro _) | refine Inv.frame ?_)


theorem State.respond_inv {s : State} (r : Resp) (data : W512) (hI : s.Inv) :
    State.Inv (State.respond s r data) := by
  unfold State.respond
  (try dsimp only)
  repeat' (first | with_reducible assumption | split | (intro _) | refine Inv.frame ?_)


theorem State.leaveIdle_inv {s : State} (hI : s.Inv) :
    State.Inv (State.leaveIdle s) := by
  unfold State.leaveIdle
  (try dsimp only)
  repeat' (first | with_reducible assumption | split | (intro _) | refine Inv.frame ?_)


theorem State.holdAccess_inv {s : State} (a : HostAccess) (hI : s.Inv) :
    State.Inv (State.holdAccess s a) := by
  unfold State.holdAccess
  (try dsimp only)
  repeat' (first | with_reducible assumption | split | with_reducible apply State.latchWake_inv | (intro _) | refine Inv.frame ?_)


theorem State.waitAccess_inv {s : State} (a : HostAccess) (fc : Nat) (hI : s.Inv) :
    State.Inv (State.waitAccess s a fc) := by
  unfold State.waitAccess
  (try dsimp only)
  repeat' (first | with_reducible assumption | split | (intro _) | refine Inv.frame ?_)


theorem State.forAccess_inv {s : State} (a : HostAccess) (hI : s.Inv) :
    State.Inv (State.forAccess s a) := by
  unfold State.forAccess
  (try dsimp only)
  repeat' (first | with_reducible assumption | split | (intro _) | refine Inv.frame ?_)


theorem State.host_inv {s : State} (a : HostAccess) (f : State → State) (hI : s.Inv) (hf : ∀ (s : State) , s.Inv → (f s ).Inv) :
    State.Inv (State.host s a f) := by
  unfold State.host
  (try dsimp only)
  repeat' (first | with_reducible assumption | with_reducible apply hf | split | with_reducible apply State.forAccess_inv | with_reducible apply State.holdAccess_inv | with_reducible apply State.leaveIdle_inv | with_reducible apply State.waitAccess_inv | (intro _) | refine Inv.frame ?_)


theorem State.setFw_inv {s : State} (x : FwState) (hI : s.Inv) :
    State.Inv (State.setFw s x) := by
  unfold State.setFw
  (try dsimp only)
  repeat' (first | with_reducible assumption | split | with_reducible apply State.raise_inv | (intro _) | refine Inv.frame ?_)


theorem State.fwRecord_inv {s : State} (proc level event : Nat) (args : List Nat) (hI : s.Inv) :
    State.Inv (State.fwRecord s proc level event args) := by
  unfold State.fwRecord
  (try dsimp only)
  repeat' (first | with_reducible assumption | split | with_reducible apply State.logErr_inv | with_reducible apply State.ringWrite_inv | (intro _) | refine Inv.frame ?_)


theorem State.fwAlert_inv {s : State} (proc event : Nat) (args : List Nat) (hI : s.Inv) :
    State.Inv (State.fwAlert s proc event args) := by
  unfold State.fwAlert
  (try dsimp only)
  repeat' (first | with_reducible assumption | split | with_reducible apply State.freshWord_inv | with_reducible apply State.fwRecord_inv | (intro _) | refine Inv.frame ?_)


theorem State.trace_inv {s : State} (cls proc event : Nat) (args : List Nat) (hI : s.Inv) :
    State.Inv (State.trace s cls proc event args) := by
  unfold State.trace
  (try dsimp only)
  repeat' (first | with_reducible assumption | split | with_reducible apply State.fwRecord_inv | (intro _) | refine Inv.frame ?_)


theorem State.mbxDone_inv {s : State} (page : BitVec 8) (status : BitVec 8) (resp : W512) (hI : s.Inv) :
    State.Inv (State.mbxDone s page status resp) := by
  unfold State.mbxDone
  (try dsimp only)
  repeat' (first | with_reducible assumption | split | with_reducible apply State.raise_inv | with_reducible apply State.trace_inv | with_reducible apply State.updMbx_inv | (intro _) | refine Inv.frame ?_)


theorem State.powered_inv {s : State} (hI : s.Inv) :
    State.Inv (State.powered s) := by
  unfold State.powered
  (try dsimp only)
  repeat' (first | with_reducible assumption | split | with_reducible apply State.freshWord_inv | (intro _) | refine Inv.frame ?_)


theorem State.ask_inv {s : State} (kind : BitVec 4) (cause : BitVec 8) (hI : s.Inv) :
    State.Inv (State.ask s kind cause) := by
  unfold State.ask
  (try dsimp only)
  repeat' (first | with_reducible assumption | split | (intro _) | refine Inv.frame ?_)


end Sys2Proof.Machine
end

