-- ==== Sys2Proof/Laws/InvLanding.lean ====
section
/-! SUPPORT. The invariant `State.Inv` is kept by the operations of Machine/Blazes.lean, Machine/Completion.lean, Machine/Teardown.lean, Machine/Landing.lean. -/

namespace Sys2Proof.Machine

set_option linter.unusedTactic false
set_option linter.unreachableTactic false

theorem State.noteMet_inv {s : State} (n : BitVec 16) (hI : s.Inv) :
    State.Inv (State.noteMet s n) := by
  unfold State.noteMet
  (try dsimp only)
  repeat' (first | with_reducible assumption | split | with_reducible apply State.foldl_inv | (intro _) | refine Inv.frame ?_)


theorem State.countUpdates_inv {s : State} (n : BitVec 16) (y : BlazeCycle) (old new : BlazeRun) (hI : s.Inv) :
    State.Inv (State.countUpdates s n y old new) := by
  unfold State.countUpdates
  (try dsimp only)
  repeat' (first | with_reducible assumption | split | (intro _) | refine Inv.frame ?_)


theorem State.recordError_inv {s : State} (n : BitVec 16) (old new : BlazeRun) (hI : s.Inv) :
    State.Inv (State.recordError s n old new) := by
  unfold State.recordError
  (try dsimp only)
  repeat' (first | with_reducible assumption | split | with_reducible apply State.raise_inv | (intro _) | refine Inv.frame ?_)


theorem State.unmeet_inv {s : State} (n : BitVec 16) (start : W64) (hI : s.Inv) :
    State.Inv (State.unmeet s n start) := by
  unfold State.unmeet
  (try dsimp only)
  repeat' (first | with_reducible assumption | split | with_reducible apply State.foldl_inv | (intro _) | refine Inv.frame ?_)


theorem State.applyUpdates_inv {s : State} (n : BitVec 16) (start : W64) (late : Bool) (old new : BlazeRun) (hI : s.Inv) :
    State.Inv (State.applyUpdates s n start late old new) := by
  unfold State.applyUpdates
  (try dsimp only)
  repeat' (first | with_reducible assumption | split | with_reducible apply State.noteMet_inv | with_reducible apply State.unmeet_inv | with_reducible apply State.updBlaze_inv | (intro _) | refine Inv.frame ?_)


theorem State.blazeUpdate_inv {s : State} (n : BitVec 16) (u : BlazeUp) (hI : s.Inv) :
    State.Inv (State.blazeUpdate s n u) := by
  unfold State.blazeUpdate
  (try dsimp only)
  repeat' (first | with_reducible assumption | split | with_reducible apply State.applyUpdates_inv | with_reducible apply State.countUpdates_inv | with_reducible apply State.recordError_inv | with_reducible apply State.updBlaze_inv | (intro _) | refine Inv.frame ?_)


theorem State.updRef_inv {s : State} (i : Nat) (f : RefRec → RefRec) (hI : s.Inv) :
    State.Inv (State.updRef s i f) := by
  unfold State.updRef
  (try dsimp only)
  repeat' (first | with_reducible assumption | split | (intro _) | refine Inv.frame ?_)


theorem State.takeRef_inv {s : State} (c : BitVec 20) (r : Resolved) (kernel : Bool) (hI : s.Inv) :
    State.Inv (State.takeRef s c r kernel).1 := by
  unfold State.takeRef
  (try dsimp only)
  repeat' (first | with_reducible assumption | split | with_reducible apply State.count_inv | with_reducible apply State.updRef_inv | (intro _) | refine Inv.frame ?_)


theorem State.startReclaim_inv {s : State} (c : BitVec 20) (h : W32) (hI : s.Inv) :
    State.Inv (State.startReclaim s c h) := by
  unfold State.startReclaim
  (try dsimp only)
  repeat' (first | with_reducible assumption | split | with_reducible apply State.updEntry_inv | (intro _) | refine Inv.frame ?_)


theorem State.releaseRef_inv {s : State} (i : Nat) (hI : s.Inv) :
    State.Inv (State.releaseRef s i) := by
  unfold State.releaseRef
  (try dsimp only)
  repeat' (first | with_reducible assumption | split | with_reducible apply State.count_inv | with_reducible apply State.startReclaim_inv | with_reducible apply State.updRef_inv | (intro _) | refine Inv.frame ?_)


theorem State.writeCpl_inv {s : State} (q : BitVec 14) (serial : W32) (status opcode : BitVec 8) (discard : Bool) (start fin : Nat) (hI : s.Inv) :
    State.Inv (State.writeCpl s q serial status opcode discard start fin) := by
  unfold State.writeCpl
  (try dsimp only)
  repeat' (first | with_reducible assumption | split | with_reducible apply State.ringWrite_inv | (intro _) | refine Inv.frame ?_)


theorem State.optionalCpl_inv {s : State} (q : BitVec 14) (serial : W32) (status opcode : BitVec 8) (fc : Nat) (hI : s.Inv) :
    State.Inv (State.optionalCpl s q serial status opcode fc) := by
  unfold State.optionalCpl
  (try dsimp only)
  repeat' (first | with_reducible assumption | split | with_reducible apply State.updQueue_inv | with_reducible apply State.writeCpl_inv | (intro _) | refine Inv.frame ?_)


theorem State.passRejection_inv {s : State} (q : BitVec 14) (r : Rejection) (hI : s.Inv) :
    State.Inv (State.passRejection s q r) := by
  unfold State.passRejection
  (try dsimp only)
  repeat' (first | with_reducible assumption | split | with_reducible apply State.blazeUpdate_inv | with_reducible apply State.optionalCpl_inv | with_reducible apply State.writeCpl_inv | (intro _) | refine Inv.frame ?_)


theorem State.report_inv {s : State} (e : Nat) (status : BitVec 8) (prop : Bool) (hI : s.Inv) :
    State.Inv (State.report s e status prop) := by
  unfold State.report
  (try dsimp only)
  repeat' (first | with_reducible assumption | split | with_reducible apply State.updEntry_inv | (intro _) | refine Inv.frame ?_)


theorem State.clearQueue_inv {s : State} (q : BitVec 14) (hI : s.Inv) :
    State.Inv (State.clearQueue s q) := by
  unfold State.clearQueue
  (try dsimp only)
  repeat' (first | with_reducible assumption | split | with_reducible apply State.updQueue_inv | (intro _) | refine Inv.frame ?_)


theorem State.drainQueue_inv {s : State} (q : BitVec 14) (hI : s.Inv) :
    State.Inv (State.drainQueue s q) := by
  unfold State.drainQueue
  (try dsimp only)
  repeat' (first | with_reducible assumption | split | with_reducible apply State.clearQueue_inv | with_reducible apply State.each_inv | with_reducible apply State.passRejection_inv | with_reducible apply State.report_inv | (intro _) | refine Inv.frame ?_)


theorem State.drainCtx_inv {s : State} (c : BitVec 20) (hI : s.Inv) :
    State.Inv (State.drainCtx s c) := by
  unfold State.drainCtx
  (try dsimp only)
  repeat' (first | with_reducible assumption | split | with_reducible apply State.each_inv | with_reducible apply State.report_inv | with_reducible apply State.updCtx_inv | (intro _) | refine Inv.frame ?_)


theorem State.settle_inv {s : State} (c : BitVec 20) (hI : s.Inv) :
    State.Inv (State.settle s c) := by
  unfold State.settle
  (try dsimp only)
  repeat' (first | with_reducible assumption | split | with_reducible apply State.drainCtx_inv | with_reducible apply State.drainQueue_inv | with_reducible apply State.each_inv | (intro _) | refine Inv.frame ?_)


theorem State.failQueueAt_inv {s : State} (q : BitVec 14) (hI : s.Inv) :
    State.Inv (State.failQueueAt s q) := by
  unfold State.failQueueAt
  (try dsimp only)
  repeat' (first | with_reducible assumption | split | with_reducible apply State.updQueue_inv | (intro _) | refine Inv.frame ?_)


theorem State.hauLog_inv {s : State} (key : Nat) (x : Stream) (status : BitVec 8) (hI : s.Inv) :
    State.Inv (State.hauLog s key x status) := by
  unfold State.hauLog
  (try dsimp only)
  repeat' (first | with_reducible assumption | split | (intro _) | refine Inv.frame ?_)


theorem State.stopStreams_inv {s : State} (c : BitVec 20) (status : BitVec 8) (killed : Bool) (hI : s.Inv) :
    State.Inv (State.stopStreams s c status killed) := by
  unfold State.stopStreams
  (try dsimp only)
  repeat' (first | with_reducible assumption | split | with_reducible apply State.each_inv | with_reducible apply State.hauLog_inv | with_reducible apply State.report_inv | (intro _) | refine Inv.frame ?_)


theorem State.stopClusters_inv {s : State} (c : BitVec 20) (status : BitVec 8) (hI : s.Inv) :
    State.Inv (State.stopClusters s c status) := by
  unfold State.stopClusters
  (try dsimp only)
  repeat' (first | with_reducible assumption | split | with_reducible apply State.each_inv | with_reducible apply State.place_inv | with_reducible apply State.report_inv | with_reducible apply State.updRes_inv | (intro _) | refine Inv.frame ?_ | refine Inv.frameMap ?_ ?_ ?_ ?_ ?_ ?_ | with_reducible apply tmap_wf | with_reducible apply tset_wf | with_reducible apply tupd_wf | with_reducible apply State.Inv.groups | with_reducible apply State.Inv.clusters | with_reducible apply State.Inv.queues | with_reducible apply State.Inv.procs | with_reducible apply State.Inv.threads | exact tblWf_nil _)


theorem State.stopOthers_inv {s : State} (c : BitVec 20) (status : BitVec 8) (hI : s.Inv) :
    State.Inv (State.stopOthers s c status) := by
  unfold State.stopOthers
  (try dsimp only)
  repeat' (first | with_reducible assumption | split | with_reducible apply State.each_inv | with_reducible apply State.report_inv | (intro _) | refine Inv.frame ?_)


theorem State.tearContext_inv {s : State} (c : BitVec 20) (status : BitVec 8) (token : Bool) (hI : s.Inv) :
    State.Inv (State.tearContext s c status token) := by
  unfold State.tearContext
  (try dsimp only)
  repeat' (first | with_reducible assumption | split | with_reducible apply State.each_inv | with_reducible apply State.failQueueAt_inv | with_reducible apply State.updCtx_inv | (intro _) | refine Inv.frame ?_)


theorem State.teardownWith_inv {s : State} (c : BitVec 20) (status : BitVec 8) (token killed : Bool) (hI : s.Inv) :
    State.Inv (State.teardownWith s c status token killed) := by
  unfold State.teardownWith
  (try dsimp only)
  repeat' (first | with_reducible assumption | split | with_reducible apply State.settle_inv | with_reducible apply State.stopClusters_inv | with_reducible apply State.stopOthers_inv | with_reducible apply State.stopStreams_inv | with_reducible apply State.tearContext_inv | (intro _) | refine Inv.frame ?_)


theorem State.teardown_inv {s : State} (c : BitVec 20) (status : BitVec 8) (hI : s.Inv) :
    State.Inv (State.teardown s c status) := by
  unfold State.teardown
  (try dsimp only)
  repeat' (first | with_reducible assumption | split | with_reducible apply State.teardownWith_inv | (intro _) | refine Inv.frame ?_)


theorem State.packetlessRejection_inv {s : State} (q : BitVec 14) (status : BitVec 8) (fails : Bool) (hI : s.Inv) :
    State.Inv (State.packetlessRejection s q status fails) := by
  unfold State.packetlessRejection
  (try dsimp only)
  repeat' (first | with_reducible assumption | split | with_reducible apply State.failQueueAt_inv | with_reducible apply State.optionalCpl_inv | with_reducible apply State.teardown_inv | (intro _) | refine Inv.frame ?_)


theorem State.issue_inv {s : State} (e : Nat) (hI : s.Inv) :
    State.Inv (State.issue s e) := by
  unfold State.issue
  (try dsimp only)
  repeat' (first | with_reducible assumption | split | with_reducible apply State.updEntry_inv | (intro _) | refine Inv.frame ?_)


theorem State.settleBindings_inv {s : State} (c : BitVec 20) (p : BitVec 16) (hI : s.Inv) :
    State.Inv (State.settleBindings s c p) := by
  unfold State.settleBindings
  (try dsimp only)
  repeat' (first | with_reducible assumption | split | (intro _) | refine Inv.frame ?_)


theorem State.settleGraph_inv {s : State} (c : BitVec 20) (g : BitVec 12) (hI : s.Inv) :
    State.Inv (State.settleGraph s c g) := by
  unfold State.settleGraph
  (try dsimp only)
  repeat' (first | with_reducible assumption | split | with_reducible apply State.drainCtx_inv | with_reducible apply State.each_inv | with_reducible apply State.releaseRef_inv | with_reducible apply State.report_inv | with_reducible apply State.updGraph_inv | (intro _) | refine Inv.frame ?_)


theorem State.releaseGraphs_inv {s : State} (c : BitVec 20) (hI : s.Inv) :
    State.Inv (State.releaseGraphs s c) := by
  unfold State.releaseGraphs
  (try dsimp only)
  repeat' (first | with_reducible assumption | split | with_reducible apply State.each_inv | with_reducible apply State.settleGraph_inv | with_reducible apply State.updGraph_inv | (intro _) | refine Inv.frame ?_)


theorem State.signalEnd_inv {s : State} (x : Entry) (status : BitVec 8) (errCtx : BitVec 20) (prop : Bool) (hI : s.Inv) :
    State.Inv (State.signalEnd s x status errCtx prop) := by
  unfold State.signalEnd
  (try dsimp only)
  repeat' (first | with_reducible assumption | split | with_reducible apply State.blazeUpdate_inv | (intro _) | refine Inv.frame ?_)


theorem State.freeEntry_inv {s : State} (e : Nat) (hI : s.Inv) :
    State.Inv (State.freeEntry s e) := by
  unfold State.freeEntry
  (try dsimp only)
  repeat' (first | with_reducible assumption | split | (intro _) | refine Inv.frame ?_)


theorem State.restartTimer_inv {s : State} (q : BitVec 14) (hI : s.Inv) :
    State.Inv (State.restartTimer s q) := by
  unfold State.restartTimer
  (try dsimp only)
  repeat' (first | with_reducible assumption | split | with_reducible apply State.updQueue_inv | (intro _) | refine Inv.frame ?_)


theorem State.retireCpl_inv {s : State} (x : Entry) (status : BitVec 8) (hI : s.Inv) :
    State.Inv (State.retireCpl s x status) := by
  unfold State.retireCpl
  (try dsimp only)
  repeat' (first | with_reducible assumption | split | with_reducible apply State.writeCpl_inv | (intro _) | refine Inv.frame ?_)


theorem State.retireChain_inv {s : State} (x : Entry) (status : BitVec 8) (hI : s.Inv) :
    State.Inv (State.retireChain s x status) := by
  unfold State.retireChain
  (try dsimp only)
  repeat' (first | with_reducible assumption | split | with_reducible apply State.report_inv | with_reducible apply State.updEntry_inv | (intro _) | refine Inv.frame ?_)


theorem State.retireWindow_inv {s : State} (e : Nat) (x : Entry) (hI : s.Inv) :
    State.Inv (State.retireWindow s e x) := by
  unfold State.retireWindow
  (try dsimp only)
  repeat' (first | with_reducible assumption | split | (intro _) | refine Inv.frame ?_)


theorem State.retireHaul_inv {s : State} (x : Entry) (hI : s.Inv) :
    State.Inv (State.retireHaul s x) := by
  unfold State.retireHaul
  (try dsimp only)
  repeat' (first | with_reducible assumption | split | (intro _) | refine Inv.frame ?_)


theorem State.retireLoad_inv {s : State} (x : Entry) (status : BitVec 8) (hI : s.Inv) :
    State.Inv (State.retireLoad s x status) := by
  unfold State.retireLoad
  (try dsimp only)
  repeat' (first | with_reducible assumption | split | with_reducible apply State.settleBindings_inv | (intro _) | refine Inv.frame ?_)


theorem State.retireGraphLoad_inv {s : State} (x : Entry) (status : BitVec 8) (hI : s.Inv) :
    State.Inv (State.retireGraphLoad s x status) := by
  unfold State.retireGraphLoad
  (try dsimp only)
  repeat' (first | with_reducible assumption | split | with_reducible apply State.each_inv | with_reducible apply State.report_inv | with_reducible apply State.settleGraph_inv | with_reducible apply State.updEntry_inv | with_reducible apply State.updGraph_inv | (intro _) | refine Inv.frame ?_)


theorem State.retireGraph_inv {s : State} (e : Nat) (x : Entry) (hI : s.Inv) :
    State.Inv (State.retireGraph s e x) := by
  unfold State.retireGraph
  (try dsimp only)
  repeat' (first | with_reducible assumption | split | with_reducible apply State.report_inv | with_reducible apply State.settleGraph_inv | with_reducible apply State.updGraph_inv | (intro _) | refine Inv.frame ?_)


theorem State.retireNode_inv {s : State} (x : Entry) (status : BitVec 8) (errCtx : BitVec 20) (hI : s.Inv) :
    State.Inv (State.retireNode s x status errCtx) := by
  unfold State.retireNode
  (try dsimp only)
  repeat' (first | with_reducible assumption | split | with_reducible apply State.updEntry_inv | (intro _) | refine Inv.frame ?_)


theorem State.retireBoot_inv {s : State} (x : Entry) (status : BitVec 8) (hI : s.Inv) :
    State.Inv (State.retireBoot s x status) := by
  unfold State.retireBoot
  (try dsimp only)
  repeat' (first | with_reducible assumption | split | with_reducible apply State.setFw_inv | (intro _) | refine Inv.frame ?_)


theorem State.retireLaunch_inv {s : State} (x : Entry) (hI : s.Inv) :
    State.Inv (State.retireLaunch s x) := by
  unfold State.retireLaunch
  (try dsimp only)
  repeat' (first | with_reducible assumption | split | with_reducible apply State.settleBindings_inv | (intro _) | refine Inv.frame ?_)


theorem State.retireKind_inv {s : State} (e : Nat) (x : Entry) (status : BitVec 8) (errCtx : BitVec 20) (hI : s.Inv) :
    State.Inv (State.retireKind s e x status errCtx) := by
  unfold State.retireKind
  (try dsimp only)
  repeat' (first | with_reducible assumption | split | with_reducible apply State.retireBoot_inv | with_reducible apply State.retireChain_inv | with_reducible apply State.retireGraph_inv | with_reducible apply State.retireGraphLoad_inv | with_reducible apply State.retireHaul_inv | with_reducible apply State.retireLaunch_inv | with_reducible apply State.retireLoad_inv | with_reducible apply State.retireNode_inv | with_reducible apply State.retireWindow_inv | (intro _) | refine Inv.frame ?_)


theorem State.retire_inv {s : State} (e : Nat) (x : Entry) (status : BitVec 8) (errCtx : BitVec 20) (prop : Bool) (hI : s.Inv) :
    State.Inv (State.retire s e x status errCtx prop) := by
  unfold State.retire
  (try dsimp only)
  repeat' (first | with_reducible assumption | split | with_reducible apply State.each_inv | with_reducible apply State.freeEntry_inv | with_reducible apply State.releaseRef_inv | with_reducible apply State.restartTimer_inv | with_reducible apply State.retireCpl_inv | with_reducible apply State.retireKind_inv | with_reducible apply State.settle_inv | with_reducible apply State.signalEnd_inv | (intro _) | refine Inv.frame ?_)


theorem execRetirement_inv (e : Nat) {s : State} (hI : s.Inv) :
    ∃ out, execRetirement e s = .next out ∧ out.Inv := by
  unfold execRetirement
  refine ⟨_, rfl, ?_⟩
  (try dsimp only)
  repeat' (first | with_reducible assumption | split | with_reducible apply State.retire_inv | (intro _) | refine Inv.frame ?_)


theorem State.obtainCopy_inv {s : State} (e : Nat) (x : Entry) (hI : s.Inv) :
    State.Inv (State.obtainCopy s e x) := by
  unfold State.obtainCopy
  (try dsimp only)
  repeat' (first | with_reducible assumption | split | (intro _) | refine Inv.frame ?_)


theorem execRejectionPassage_inv (q : BitVec 14) {s : State} (hI : s.Inv) :
    ∃ out, execRejectionPassage q s = .next out ∧ out.Inv := by
  unfold execRejectionPassage
  refine ⟨_, rfl, ?_⟩
  (try dsimp only)
  repeat' (first | with_reducible assumption | split | with_reducible apply State.drainQueue_inv | with_reducible apply State.passRejection_inv | with_reducible apply State.updQueue_inv | (intro _) | refine Inv.frame ?_)


theorem State.mirrorIssue_inv {s : State} (n : BitVec 16) (hI : s.Inv) :
    State.Inv (State.mirrorIssue s n) := by
  unfold State.mirrorIssue
  (try dsimp only)
  repeat' (first | with_reducible assumption | split | with_reducible apply State.each_inv | with_reducible apply State.ringWrite_inv | with_reducible apply State.updBlaze_inv | with_reducible apply State.updEntry_inv | (intro _) | refine Inv.frame ?_)


theorem execMirrorWrite_inv (n : BitVec 16) {s : State} (hI : s.Inv) :
    ∃ out, execMirrorWrite n s = .next out ∧ out.Inv := by
  unfold execMirrorWrite
  refine ⟨_, rfl, ?_⟩
  (try dsimp only)
  repeat' (first | with_reducible assumption | split | with_reducible apply State.mirrorIssue_inv | (intro _) | refine Inv.frame ?_)


theorem State.hostSignal_inv {s : State} (n : BitVec 16) (v : W64) (hI : s.Inv) :
    State.Inv (State.hostSignal s n v) := by
  unfold State.hostSignal
  (try dsimp only)
  repeat' (first | with_reducible assumption | split | with_reducible apply State.blazeUpdate_inv | (intro _) | refine Inv.frame ?_)


end Sys2Proof.Machine
end

