-- ==== Sys2Proof/Laws/InvFetch.lean ====
section
/-! SUPPORT. The invariant `State.Inv` is kept by the operations of Machine/Fetch.lean, Machine/Bundle.lean, Machine/Bucking.lean. -/

namespace Sys2Proof.Machine

set_option linter.unusedTactic false
set_option linter.unreachableTactic false

theorem State.atOpenQueue_inv {s : State} (q : BitVec 14) (off : Nat) (f : State → State) (hI : s.Inv) (hf : ∀ (s : State) , s.Inv → (f s ).Inv) :
    State.Inv (State.atOpenQueue s q off f) := by
  unfold State.atOpenQueue
  (try dsimp only)
  repeat' (first | with_reducible assumption | with_reducible apply hf | split | with_reducible apply State.logHw_inv | (intro _) | refine Inv.frame ?_)


theorem State.duplicate_inv {s : State} (q : BitVec 14) (serial : W32) (opcode : BitVec 8) (hI : s.Inv) :
    State.Inv (State.duplicate s q serial opcode) := by
  unfold State.duplicate
  (try dsimp only)
  repeat' (first | with_reducible assumption | split | with_reducible apply State.optionalCpl_inv | with_reducible apply State.updQueue_inv | (intro _) | refine Inv.frame ?_)


theorem State.startTimer_inv {s : State} (q : BitVec 14) (was : Bool) (hI : s.Inv) :
    State.Inv (State.startTimer s q was) := by
  unfold State.startTimer
  (try dsimp only)
  repeat' (first | with_reducible assumption | split | with_reducible apply State.updQueue_inv | (intro _) | refine Inv.frame ?_)


theorem State.blockQueue_inv {s : State} (q : BitVec 14) (why : BlockWhy) (need : Nat × List W32) (hI : s.Inv) :
    State.Inv (State.blockQueue s q why need) := by
  unfold State.blockQueue
  (try dsimp only)
  repeat' (first | with_reducible assumption | split | with_reducible apply State.updQueue_inv | (intro _) | refine Inv.frame ?_)


theorem State.fillCell_inv {s : State} (q : BitVec 14) (u : W512) (hI : s.Inv) :
    State.Inv (State.fillCell s q u) := by
  unfold State.fillCell
  (try dsimp only)
  repeat' (first | with_reducible assumption | split | with_reducible apply State.startTimer_inv | with_reducible apply State.updQueue_inv | (intro _) | refine Inv.frame ?_)


theorem State.inlinePacket_inv {s : State} (q : BitVec 14) (u : W512) (hI : s.Inv) :
    State.Inv (State.inlinePacket s q u) := by
  unfold State.inlinePacket
  (try dsimp only)
  repeat' (first | with_reducible assumption | split | with_reducible apply State.blockQueue_inv | with_reducible apply State.duplicate_inv | with_reducible apply State.fillCell_inv | with_reducible apply State.updQueue_inv | (intro _) | refine Inv.frame ?_)


theorem State.wpDoorbell_inv {s : State} (q : BitVec 14) (wp : W32) (hI : s.Inv) :
    State.Inv (State.wpDoorbell s q wp) := by
  unfold State.wpDoorbell
  (try dsimp only)
  repeat' (first | with_reducible assumption | split | with_reducible apply State.logHw_inv | with_reducible apply State.packetlessRejection_inv | with_reducible apply State.updQueue_inv | (intro _) | refine Inv.frame ?_)


theorem State.cplRpDoorbell_inv {s : State} (q : BitVec 14) (rp : W32) (hI : s.Inv) :
    State.Inv (State.cplRpDoorbell s q rp) := by
  unfold State.cplRpDoorbell
  (try dsimp only)
  repeat' (first | with_reducible assumption | split | with_reducible apply State.logHw_inv | with_reducible apply State.updQueue_inv | (intro _) | refine Inv.frame ?_)


theorem State.readRing_inv {s : State} (q : BitVec 14) (hI : s.Inv) :
    State.Inv (State.readRing s q) := by
  unfold State.readRing
  (try dsimp only)
  repeat' (first | with_reducible assumption | split | with_reducible apply State.mpRead_inv | with_reducible apply State.updQueue_inv | (intro _) | refine Inv.frame ?_)


theorem State.parkQueue_inv {s : State} (q : BitVec 14) (n : Nat) (hI : s.Inv) :
    State.Inv (State.parkQueue s q n) := by
  unfold State.parkQueue
  (try dsimp only)
  repeat' (first | with_reducible assumption | split | with_reducible apply State.updQueue_inv | (intro _) | refine Inv.frame ?_)


theorem State.fetchQueue_inv {s : State} (q : BitVec 14) (hI : s.Inv) :
    State.Inv (State.fetchQueue s q) := by
  unfold State.fetchQueue
  (try dsimp only)
  repeat' (first | with_reducible assumption | split | with_reducible apply State.blockQueue_inv | with_reducible apply State.duplicate_inv | with_reducible apply State.parkQueue_inv | with_reducible apply State.readRing_inv | with_reducible apply State.startTimer_inv | with_reducible apply State.updQueue_inv | (intro _) | refine Inv.frame ?_)


theorem execFetchTurn_inv {s : State} (hI : s.Inv) :
    ∃ out, execFetchTurn s = .next out ∧ out.Inv := by
  unfold execFetchTurn
  refine ⟨_, rfl, ?_⟩
  (try dsimp only)
  repeat' (first | with_reducible assumption | split | with_reducible apply State.fetchQueue_inv | with_reducible apply State.updQueue_inv | (intro _) | refine Inv.frame ?_)


theorem execQueueTimerFire_inv (q : BitVec 14) {s : State} (hI : s.Inv) :
    ∃ out, execQueueTimerFire q s = .next out ∧ out.Inv := by
  unfold execQueueTimerFire
  refine ⟨_, rfl, ?_⟩
  (try dsimp only)
  repeat' (first | with_reducible assumption | split | with_reducible apply State.packetlessRejection_inv | with_reducible apply State.updQueue_inv | (intro _) | refine Inv.frame ?_)


theorem State.loadMicrocode_inv {s : State} (sec : List Byte) (hI : s.Inv) :
    State.Inv (State.loadMicrocode s sec) := by
  unfold State.loadMicrocode
  (try dsimp only)
  repeat' (first | with_reducible assumption | split | (intro _) | refine Inv.frame ?_)


theorem State.beginPatch_inv {s : State} (page : BitVec 8) (b : List Byte) (hI : s.Inv) :
    State.Inv (State.beginPatch s page b) := by
  unfold State.beginPatch
  (try dsimp only)
  repeat' (first | with_reducible assumption | split | (intro _) | refine Inv.frame ?_)


theorem State.endPatch_inv {s : State} (hI : s.Inv) :
    State.Inv (State.endPatch s) := by
  unfold State.endPatch
  (try dsimp only)
  repeat' (first | with_reducible assumption | split | with_reducible apply State.mbxDone_inv | (intro _) | refine Inv.frame ?_)


theorem State.patchStep_inv (n : Nat) : ∀ (s : State), s.Inv → (State.patchStep n s).Inv := by
  induction n with
  | zero => exact fun _ h => h
  | succ n ih =>
    intro s h
    unfold State.patchStep
    (try dsimp only)
    repeat' (first | with_reducible assumption | split | with_reducible apply ih | with_reducible apply State.endPatch_inv | with_reducible apply State.beginPatch_inv | with_reducible apply State.mbxDone_inv | refine Inv.frame ?_)


theorem State.patchOn_inv {s : State} (hI : s.Inv) : State.Inv (State.patchOn s) := State.patchStep_inv _ _ hI


theorem State.freeThread_inv {s : State} (t : BitVec 4) (hI : s.Inv) :
    State.Inv (State.freeThread s t) := by
  unfold State.freeThread
  (try dsimp only)
  repeat' (first | with_reducible assumption | split | with_reducible apply State.patchOn_inv | (intro _) | refine Inv.frame ?_ | refine Inv.frameMap ?_ ?_ ?_ ?_ ?_ ?_ | with_reducible apply tmap_wf | with_reducible apply tset_wf | with_reducible apply tupd_wf | with_reducible apply State.Inv.groups | with_reducible apply State.Inv.clusters | with_reducible apply State.Inv.queues | with_reducible apply State.Inv.procs | with_reducible apply State.Inv.threads | exact tblWf_nil _)


theorem State.discard_inv {s : State} (t : BitVec 4) (hI : s.Inv) :
    State.Inv (State.discard s t) := by
  unfold State.discard
  (try dsimp only)
  repeat' (first | with_reducible assumption | split | with_reducible apply State.freeThread_inv | with_reducible apply State.updQueue_inv | (intro _) | refine Inv.frame ?_)


theorem State.park_inv {s : State} (t : BitVec 4) (c : Trap) (hI : s.Inv) :
    State.Inv (State.park s t c) := by
  unfold State.park
  (try dsimp only)
  repeat' (first | with_reducible assumption | split | with_reducible apply State.count_inv | with_reducible apply State.updThread_inv | (intro _) | refine Inv.frame ?_)


theorem State.rejectNow_inv {s : State} (t : BitVec 4) (status : BitVec 8) (hI : s.Inv) :
    State.Inv (State.rejectNow s t status) := by
  unfold State.rejectNow
  (try dsimp only)
  repeat' (first | with_reducible assumption | split | with_reducible apply State.freeThread_inv | with_reducible apply State.teardown_inv | with_reducible apply State.updQueue_inv | (intro _) | refine Inv.frame ?_)


theorem State.reject_inv {s : State} (t : BitVec 4) (status : BitVec 8) (hI : s.Inv) :
    State.Inv (State.reject s t status) := by
  unfold State.reject
  (try dsimp only)
  repeat' (first | with_reducible assumption | split | with_reducible apply State.discard_inv | with_reducible apply State.park_inv | with_reducible apply State.rejectNow_inv | (intro _) | refine Inv.frame ?_)


theorem State.abandon_inv {s : State} (t : BitVec 4) (why : BlockWhy) (n : Nat) (l : List W32) (hI : s.Inv) :
    State.Inv (State.abandon s t why n l) := by
  unfold State.abandon
  (try dsimp only)
  repeat' (first | with_reducible assumption | split | with_reducible apply State.blockQueue_inv | with_reducible apply State.each_inv | with_reducible apply State.freeThread_inv | with_reducible apply State.startTimer_inv | with_reducible apply State.updQueue_inv | with_reducible apply State.foldl_inv | (intro _) | refine Inv.frame ?_)


theorem State.objectRead_inv {s : State} (t : BitVec 4) (c : BitVec 20) (h : W32) (hI : s.Inv) :
    State.Inv (State.objectRead s t c h) := by
  unfold State.objectRead
  (try dsimp only)
  repeat' (first | with_reducible assumption | split | with_reducible apply State.walkRead_inv | (intro _) | refine Inv.frame ?_)


theorem State.objPut_inv {s : State} (t : BitVec 4) (c : BitVec 20) (h : W32) (i td : Nat) (o : Option ObjEntry) (hI : s.Inv) :
    State.Inv (State.objPut s t c h i td o) := by
  unfold State.objPut
  (try dsimp only)
  repeat' (first | with_reducible assumption | split | with_reducible apply State.updThread_inv | (intro _) | refine Inv.frame ?_)


theorem State.objMiss_inv {s : State} (t : BitVec 4) (c : BitVec 20) (h : W32) (i td : Nat) (hI : s.Inv) :
    State.Inv (State.objMiss s t c h i td) := by
  unfold State.objMiss
  (try dsimp only)
  repeat' (first | with_reducible assumption | split | with_reducible apply State.objectRead_inv | with_reducible apply State.park_inv | with_reducible apply State.updThread_inv | (intro _) | refine Inv.frame ?_)


theorem State.objInto_inv {s : State} (t : BitVec 4) (h : W32) (i td : Nat) (hI : s.Inv) :
    State.Inv (State.objInto s t h i td) := by
  unfold State.objInto
  (try dsimp only)
  repeat' (first | with_reducible assumption | split | with_reducible apply State.objMiss_inv | with_reducible apply State.objPut_inv | with_reducible apply State.park_inv | (intro _) | refine Inv.frame ?_)


theorem State.restart_inv {s : State} (t : BitVec 4) (hI : s.Inv) :
    State.Inv (State.restart s t) := by
  unfold State.restart
  (try dsimp only)
  repeat' (first | with_reducible assumption | split | with_reducible apply State.updThread_inv | (intro _) | refine Inv.frame ?_)


theorem State.noteChange_inv {s : State} (region key : Nat) (hI : s.Inv) :
    State.Inv (State.noteChange s region key) := by
  unfold State.noteChange
  (try dsimp only)
  repeat' (first | with_reducible assumption | split | (intro _) | refine Inv.frame ?_)


theorem State.bindProgram_inv {s : State} (c : BitVec 20) (p : BitVec 16) (hI : s.Inv) :
    State.Inv (State.bindProgram s c p) := by
  unfold State.bindProgram
  (try dsimp only)
  repeat' (first | with_reducible assumption | split | with_reducible apply State.noteChange_inv | with_reducible apply State.settleBindings_inv | (intro _) | refine Inv.frame ?_)


theorem State.claimGraph_inv {s : State} (c : BitVec 20) (g : BitVec 12) (hI : s.Inv) :
    State.Inv (State.claimGraph s c g) := by
  unfold State.claimGraph
  (try dsimp only)
  repeat' (first | with_reducible assumption | split | with_reducible apply State.noteChange_inv | with_reducible apply State.updGraph_inv | (intro _) | refine Inv.frame ?_)


theorem State.markReleasing_inv {s : State} (c : BitVec 20) (g : BitVec 12) (e : Nat) (hI : s.Inv) :
    State.Inv (State.markReleasing s c g e) := by
  unfold State.markReleasing
  (try dsimp only)
  repeat' (first | with_reducible assumption | split | with_reducible apply State.noteChange_inv | with_reducible apply State.updGraph_inv | (intro _) | refine Inv.frame ?_)


theorem State.retireObject_inv {s : State} (c : BitVec 20) (h : W32) (e : Nat) (hI : s.Inv) :
    State.Inv (State.retireObject s c h e) := by
  unfold State.retireObject
  (try dsimp only)
  repeat' (first | with_reducible assumption | split | with_reducible apply State.noteChange_inv | (intro _) | refine Inv.frame ?_)


theorem State.putEntry_inv {s : State} (x : Entry) (hI : s.Inv) :
    State.Inv (State.putEntry s x) := by
  unfold State.putEntry
  (try dsimp only)
  repeat' (first | with_reducible assumption | split | (intro _) | refine Inv.frame ?_)


theorem State.meetAtCommit_inv {s : State} (e : Nat) (hI : s.Inv) :
    State.Inv (State.meetAtCommit s e) := by
  unfold State.meetAtCommit
  (try dsimp only)
  repeat' (first | with_reducible assumption | split | with_reducible apply State.updEntry_inv | with_reducible apply State.foldl_inv | (intro _) | refine Inv.frame ?_)


theorem State.takeRefs_inv {s : State} (c : BitVec 20) (l : List Resolved) (kernel : Bool) (hI : s.Inv) :
    (s.takeRefs c l kernel).1.Inv := by
  have go : ∀ (l : List Resolved) (a : State × List (W32 × Nat)), a.1.Inv → (l.foldl (fun (a : State × List (W32 × Nat)) r =>
      let p := a.1.takeRef c r kernel
      (p.1, a.2 ++ [(r.handle, p.2)])) a).1.Inv := by
    intro l
    induction l with
    | nil => exact fun _ h => h
    | cons r l ih => exact fun a h => ih _ (State.takeRef_inv _ _ _ h)
  exact go l _ hI


theorem State.putMore_inv {s : State} (ent : Entry) (kind n : Nat) (first : Nat) (late : List Nat) (hI : s.Inv) :
    State.Inv (State.putMore s ent kind n first late) := by
  unfold State.putMore
  (try dsimp only)
  repeat' (first | with_reducible assumption | split | with_reducible apply State.each_inv | with_reducible apply State.putEntry_inv | with_reducible apply State.updEntry_inv | (intro _) | refine Inv.frame ?_)


theorem State.commitActs_inv {s : State} (c : BitVec 20) (acts : Nat) (ta : W64) (first : Nat) (hI : s.Inv) :
    State.Inv (State.commitActs s c acts ta first) := by
  unfold State.commitActs
  (try dsimp only)
  repeat' (first | with_reducible assumption | split | with_reducible apply State.claimGraph_inv | with_reducible apply State.markReleasing_inv | with_reducible apply State.retireObject_inv | (intro _) | refine Inv.frame ?_)


theorem State.commitEntries_inv {s : State} (ent : Entry) (kind n acts : Nat) (ta : W64) (late : List Nat) (hI : s.Inv) :
    State.Inv (State.commitEntries s ent kind n acts ta late) := by
  unfold State.commitEntries
  (try dsimp only)
  repeat' (first | with_reducible assumption | split | with_reducible apply State.commitActs_inv | with_reducible apply State.meetAtCommit_inv | with_reducible apply State.putEntry_inv | with_reducible apply State.putMore_inv | (intro _) | refine Inv.frame ?_)


theorem State.commit_inv {s : State} (t : BitVec 4) (kind n acts : Nat) (ta : W64) (hI : s.Inv) :
    State.Inv (State.commit s t kind n acts ta) := by
  unfold State.commit
  (try dsimp only)
  repeat' (first | with_reducible assumption | split | with_reducible apply State.bindProgram_inv | with_reducible apply State.commitEntries_inv | with_reducible apply State.freeThread_inv | with_reducible apply State.restartTimer_inv | with_reducible apply State.takeRefs_inv | with_reducible apply State.updQueue_inv | (intro _) | refine Inv.frame ?_)


theorem State.admitPacket_inv {s : State} (t : BitVec 4) (kind n acts : Nat) (ta : W64) (hI : s.Inv) :
    State.Inv (State.admitPacket s t kind n acts ta) := by
  unfold State.admitPacket
  (try dsimp only)
  repeat' (first | with_reducible assumption | split | with_reducible apply State.abandon_inv | with_reducible apply State.commit_inv | with_reducible apply State.discard_inv | with_reducible apply State.park_inv | with_reducible apply State.rejectNow_inv | with_reducible apply State.restart_inv | (intro _) | refine Inv.frame ?_)


theorem State.uSet_inv {s : State} (t : BitVec 4) (i : Nat) (v : W64) (hI : s.Inv) :
    State.Inv (State.uSet s t i v) := by
  unfold State.uSet
  (try dsimp only)
  repeat' (first | with_reducible assumption | split | with_reducible apply State.updThread_inv | (intro _) | refine Inv.frame ?_)


theorem State.uNext_inv {s : State} (t : BitVec 4) (hI : s.Inv) :
    State.Inv (State.uNext s t) := by
  unfold State.uNext
  (try dsimp only)
  repeat' (first | with_reducible assumption | split | with_reducible apply State.updThread_inv | (intro _) | refine Inv.frame ?_)


theorem State.ucFault_inv {s : State} (t : BitVec 4) (hI : s.Inv) :
    State.Inv (State.ucFault s t) := by
  unfold State.ucFault
  (try dsimp only)
  repeat' (first | with_reducible assumption | split | with_reducible apply State.logHw_inv | with_reducible apply State.noteFlag_inv | with_reducible apply State.raise_inv | with_reducible apply State.reject_inv | with_reducible apply State.updThread_inv | (intro _) | refine Inv.frame ?_)


theorem State.ucUncorr_inv {s : State} (hI : s.Inv) :
    State.Inv (State.ucUncorr s) := by
  unfold State.ucUncorr
  (try dsimp only)
  repeat' (first | with_reducible assumption | split | with_reducible apply State.ask_inv | with_reducible apply State.noteFlag_inv | with_reducible apply State.raise_inv | (intro _) | refine Inv.frame ?_)


theorem State.handOver_inv {s : State} (q : BitVec 14) (p : Packet) (ringUnits : Nat) (hI : s.Inv) :
    State.Inv (State.handOver s q p ringUnits) := by
  unfold State.handOver
  (try dsimp only)
  repeat' (first | with_reducible assumption | split | with_reducible apply State.reject_inv | (intro _) | refine Inv.frame ?_ | refine Inv.frameMap ?_ ?_ ?_ ?_ ?_ ?_ | with_reducible apply tmap_wf | with_reducible apply tset_wf | with_reducible apply tupd_wf | with_reducible apply State.Inv.groups | with_reducible apply State.Inv.clusters | with_reducible apply State.Inv.queues | with_reducible apply State.Inv.procs | with_reducible apply State.Inv.threads | exact tblWf_nil _)


theorem execThreadDispatch_inv (h : HandOver) {s : State} (hI : s.Inv) :
    ∃ out, execThreadDispatch h s = .next out ∧ out.Inv := by
  unfold execThreadDispatch
  refine ⟨_, rfl, ?_⟩
  (try dsimp only)
  repeat' (first | with_reducible assumption | split | with_reducible apply State.blockQueue_inv | with_reducible apply State.handOver_inv | with_reducible apply State.ucUncorr_inv | with_reducible apply State.updQueue_inv | (intro _) | refine Inv.frame ?_)


theorem State.uop_inv {s : State} (t : BitVec 4) (u : Nat) (f : State → BitVec 40 → State) (hI : s.Inv) (hf : ∀ (s : State) (a0 : BitVec 40), s.Inv → (f s a0).Inv) :
    State.Inv (State.uop s t u f) := by
  unfold State.uop
  (try dsimp only)
  repeat' (first | with_reducible assumption | with_reducible apply hf | split | with_reducible apply State.count_inv | with_reducible apply State.ucFault_inv | with_reducible apply State.updThread_inv | (intro _) | refine Inv.frame ?_)


theorem State.uReg2_inv {s : State} (t : BitVec 4) (u : Nat) (f : W64 → W64 → W64) (hI : s.Inv) :
    State.Inv (State.uReg2 s t u f) := by
  unfold State.uReg2
  (try dsimp only)
  repeat' (first | with_reducible assumption | split | with_reducible apply State.uNext_inv | with_reducible apply State.uSet_inv | with_reducible apply State.uop_inv | (intro _) | refine Inv.frame ?_)


theorem State.uImm1_inv {s : State} (t : BitVec 4) (u : Nat) (f : W64 → W64 → W64) (hI : s.Inv) :
    State.Inv (State.uImm1 s t u f) := by
  unfold State.uImm1
  (try dsimp only)
  repeat' (first | with_reducible assumption | split | with_reducible apply State.uNext_inv | with_reducible apply State.uSet_inv | with_reducible apply State.uop_inv | (intro _) | refine Inv.frame ?_)


theorem execUopNop_inv (t : BitVec 4) {s : State} (hI : s.Inv) :
    ∃ out, execUopNop t s = .next out ∧ out.Inv := by
  unfold execUopNop
  refine ⟨_, rfl, ?_⟩
  (try dsimp only)
  repeat' (first | with_reducible assumption | split | with_reducible apply State.uNext_inv | with_reducible apply State.uop_inv | (intro _) | refine Inv.frame ?_)


theorem execUopAdd_inv (t : BitVec 4) {s : State} (hI : s.Inv) :
    ∃ out, execUopAdd t s = .next out ∧ out.Inv := by
  unfold execUopAdd
  refine ⟨_, rfl, ?_⟩
  (try dsimp only)
  repeat' (first | with_reducible assumption | split | with_reducible apply State.uReg2_inv | (intro _) | refine Inv.frame ?_)


theorem execUopSub_inv (t : BitVec 4) {s : State} (hI : s.Inv) :
    ∃ out, execUopSub t s = .next out ∧ out.Inv := by
  unfold execUopSub
  refine ⟨_, rfl, ?_⟩
  (try dsimp only)
  repeat' (first | with_reducible assumption | split | with_reducible apply State.uReg2_inv | (intro _) | refine Inv.frame ?_)


theorem execUopAnd_inv (t : BitVec 4) {s : State} (hI : s.Inv) :
    ∃ out, execUopAnd t s = .next out ∧ out.Inv := by
  unfold execUopAnd
  refine ⟨_, rfl, ?_⟩
  (try dsimp only)
  repeat' (first | with_reducible assumption | split | with_reducible apply State.uReg2_inv | (intro _) | refine Inv.frame ?_)


theorem execUopOr_inv (t : BitVec 4) {s : State} (hI : s.Inv) :
    ∃ out, execUopOr t s = .next out ∧ out.Inv := by
  unfold execUopOr
  refine ⟨_, rfl, ?_⟩
  (try dsimp only)
  repeat' (first | with_reducible assumption | split | with_reducible apply State.uReg2_inv | (intro _) | refine Inv.frame ?_)


theorem execUopXor_inv (t : BitVec 4) {s : State} (hI : s.Inv) :
    ∃ out, execUopXor t s = .next out ∧ out.Inv := by
  unfold execUopXor
  refine ⟨_, rfl, ?_⟩
  (try dsimp only)
  repeat' (first | with_reducible assumption | split | with_reducible apply State.uReg2_inv | (intro _) | refine Inv.frame ?_)


theorem execUopShl_inv (t : BitVec 4) {s : State} (hI : s.Inv) :
    ∃ out, execUopShl t s = .next out ∧ out.Inv := by
  unfold execUopShl
  refine ⟨_, rfl, ?_⟩
  (try dsimp only)
  repeat' (first | with_reducible assumption | split | with_reducible apply State.uReg2_inv | (intro _) | refine Inv.frame ?_)


theorem execUopShr_inv (t : BitVec 4) {s : State} (hI : s.Inv) :
    ∃ out, execUopShr t s = .next out ∧ out.Inv := by
  unfold execUopShr
  refine ⟨_, rfl, ?_⟩
  (try dsimp only)
  repeat' (first | with_reducible assumption | split | with_reducible apply State.uReg2_inv | (intro _) | refine Inv.frame ?_)


theorem execUopAddi_inv (t : BitVec 4) {s : State} (hI : s.Inv) :
    ∃ out, execUopAddi t s = .next out ∧ out.Inv := by
  unfold execUopAddi
  refine ⟨_, rfl, ?_⟩
  (try dsimp only)
  repeat' (first | with_reducible assumption | split | with_reducible apply State.uImm1_inv | (intro _) | refine Inv.frame ?_)


theorem execUopAndi_inv (t : BitVec 4) {s : State} (hI : s.Inv) :
    ∃ out, execUopAndi t s = .next out ∧ out.Inv := by
  unfold execUopAndi
  refine ⟨_, rfl, ?_⟩
  (try dsimp only)
  repeat' (first | with_reducible assumption | split | with_reducible apply State.uImm1_inv | (intro _) | refine Inv.frame ?_)


theorem execUopShli_inv (t : BitVec 4) {s : State} (hI : s.Inv) :
    ∃ out, execUopShli t s = .next out ∧ out.Inv := by
  unfold execUopShli
  refine ⟨_, rfl, ?_⟩
  (try dsimp only)
  repeat' (first | with_reducible assumption | split | with_reducible apply State.uImm1_inv | (intro _) | refine Inv.frame ?_)


theorem execUopMovi_inv (t : BitVec 4) {s : State} (hI : s.Inv) :
    ∃ out, execUopMovi t s = .next out ∧ out.Inv := by
  unfold execUopMovi
  refine ⟨_, rfl, ?_⟩
  (try dsimp only)
  repeat' (first | with_reducible assumption | split | with_reducible apply State.uImm1_inv | (intro _) | refine Inv.frame ?_)


theorem execUopFld_inv (t : BitVec 4) {s : State} (hI : s.Inv) :
    ∃ out, execUopFld t s = .next out ∧ out.Inv := by
  unfold execUopFld
  refine ⟨_, rfl, ?_⟩
  (try dsimp only)
  repeat' (first | with_reducible assumption | split | with_reducible apply State.uNext_inv | with_reducible apply State.uSet_inv | with_reducible apply State.ucFault_inv | with_reducible apply State.uop_inv | (intro _) | refine Inv.frame ?_)


theorem execUopBr_inv (t : BitVec 4) {s : State} (hI : s.Inv) :
    ∃ out, execUopBr t s = .next out ∧ out.Inv := by
  unfold execUopBr
  refine ⟨_, rfl, ?_⟩
  (try dsimp only)
  repeat' (first | with_reducible assumption | split | with_reducible apply State.uNext_inv | with_reducible apply State.ucFault_inv | with_reducible apply State.uop_inv | with_reducible apply State.updThread_inv | (intro _) | refine Inv.frame ?_)


theorem execUopDrd_inv (t : BitVec 4) {s : State} (hI : s.Inv) :
    ∃ out, execUopDrd t s = .next out ∧ out.Inv := by
  unfold execUopDrd
  refine ⟨_, rfl, ?_⟩
  (try dsimp only)
  repeat' (first | with_reducible assumption | split | with_reducible apply State.park_inv | with_reducible apply State.ucFault_inv | with_reducible apply State.uop_inv | with_reducible apply State.updThread_inv | (intro _) | refine Inv.frame ?_)


theorem execUopObj_inv (t : BitVec 4) {s : State} (hI : s.Inv) :
    ∃ out, execUopObj t s = .next out ∧ out.Inv := by
  unfold execUopObj
  refine ⟨_, rfl, ?_⟩
  (try dsimp only)
  repeat' (first | with_reducible assumption | split | with_reducible apply State.objInto_inv | with_reducible apply State.uNext_inv | with_reducible apply State.uop_inv | (intro _) | refine Inv.frame ?_)


theorem execUopBlz_inv (t : BitVec 4) {s : State} (hI : s.Inv) :
    ∃ out, execUopBlz t s = .next out ∧ out.Inv := by
  unfold execUopBlz
  refine ⟨_, rfl, ?_⟩
  (try dsimp only)
  repeat' (first | with_reducible assumption | split | with_reducible apply State.park_inv | with_reducible apply State.uNext_inv | with_reducible apply State.uop_inv | with_reducible apply State.updThread_inv | (intro _) | refine Inv.frame ?_)


theorem execUopSte_inv (t : BitVec 4) {s : State} (hI : s.Inv) :
    ∃ out, execUopSte t s = .next out ∧ out.Inv := by
  unfold execUopSte
  refine ⟨_, rfl, ?_⟩
  (try dsimp only)
  repeat' (first | with_reducible assumption | split | with_reducible apply State.uNext_inv | with_reducible apply State.uop_inv | with_reducible apply State.updThread_inv | (intro _) | refine Inv.frame ?_)


theorem execUopAdmit_inv (t : BitVec 4) {s : State} (hI : s.Inv) :
    ∃ out, execUopAdmit t s = .next out ∧ out.Inv := by
  unfold execUopAdmit
  refine ⟨_, rfl, ?_⟩
  (try dsimp only)
  repeat' (first | with_reducible assumption | split | with_reducible apply State.admitPacket_inv | with_reducible apply State.uop_inv | (intro _) | refine Inv.frame ?_)


theorem execUopRej_inv (t : BitVec 4) {s : State} (hI : s.Inv) :
    ∃ out, execUopRej t s = .next out ∧ out.Inv := by
  unfold execUopRej
  refine ⟨_, rfl, ?_⟩
  (try dsimp only)
  repeat' (first | with_reducible assumption | split | with_reducible apply State.reject_inv | with_reducible apply State.uop_inv | (intro _) | refine Inv.frame ?_)


theorem execUopRejif_inv (t : BitVec 4) {s : State} (hI : s.Inv) :
    ∃ out, execUopRejif t s = .next out ∧ out.Inv := by
  unfold execUopRejif
  refine ⟨_, rfl, ?_⟩
  (try dsimp only)
  repeat' (first | with_reducible assumption | split | with_reducible apply State.reject_inv | with_reducible apply State.uNext_inv | with_reducible apply State.ucFault_inv | with_reducible apply State.uop_inv | (intro _) | refine Inv.frame ?_)


theorem execDeckWait_inv (t : BitVec 4) {s : State} (hI : s.Inv) :
    ∃ out, execDeckWait t s = .next out ∧ out.Inv := by
  unfold execDeckWait
  refine ⟨_, rfl, ?_⟩
  (try dsimp only)
  repeat' (first | with_reducible assumption | split | with_reducible apply State.reject_inv | with_reducible apply State.uSet_inv | with_reducible apply State.updThread_inv | (intro _) | refine Inv.frame ?_)


theorem execXltMiss_inv (t : BitVec 4) {s : State} (hI : s.Inv) :
    ∃ out, execXltMiss t s = .next out ∧ out.Inv := by
  unfold execXltMiss
  refine ⟨_, rfl, ?_⟩
  (try dsimp only)
  repeat' (first | with_reducible assumption | split | with_reducible apply State.reject_inv | with_reducible apply State.updThread_inv | (intro _) | refine Inv.frame ?_)


theorem execOrder_inv (t : BitVec 4) {s : State} (hI : s.Inv) :
    ∃ out, execOrder t s = .next out ∧ out.Inv := by
  unfold execOrder
  refine ⟨_, rfl, ?_⟩
  (try dsimp only)
  repeat' (first | with_reducible assumption | split | with_reducible apply State.reject_inv | with_reducible apply State.updThread_inv | (intro _) | refine Inv.frame ?_)


theorem execHeader_inv (t : BitVec 4) {s : State} (hI : s.Inv) :
    ∃ out, execHeader t s = .next out ∧ out.Inv := by
  unfold execHeader
  refine ⟨_, rfl, ?_⟩
  (try dsimp only)
  repeat' (first | with_reducible assumption | split | with_reducible apply State.reject_inv | with_reducible apply State.updThread_inv | (intro _) | refine Inv.frame ?_)


theorem execLock_inv (t : BitVec 4) {s : State} (hI : s.Inv) :
    ∃ out, execLock t s = .next out ∧ out.Inv := by
  unfold execLock
  refine ⟨_, rfl, ?_⟩
  (try dsimp only)
  repeat' (first | with_reducible assumption | split | with_reducible apply State.updThread_inv | (intro _) | refine Inv.frame ?_)


theorem execRunaway_inv (t : BitVec 4) (uncorr : Bool) {s : State} (hI : s.Inv) :
    ∃ out, execRunaway t uncorr s = .next out ∧ out.Inv := by
  unfold execRunaway
  refine ⟨_, rfl, ?_⟩
  (try dsimp only)
  repeat' (first | with_reducible assumption | split | with_reducible apply State.count_inv | with_reducible apply State.ucFault_inv | with_reducible apply State.ucUncorr_inv | (intro _) | refine Inv.frame ?_)


theorem execMicrocodeDefinedOpcode_inv (t : BitVec 4) {s : State} (hI : s.Inv) :
    ∃ out, execMicrocodeDefinedOpcode t s = .next out ∧ out.Inv := by
  unfold execMicrocodeDefinedOpcode
  refine ⟨_, rfl, ?_⟩
  (try dsimp only)
  repeat' (first | with_reducible assumption | split | with_reducible apply State.count_inv | with_reducible apply State.reject_inv | with_reducible apply State.updThread_inv | (intro _) | refine Inv.frame ?_)


end Sys2Proof.Machine
end

