-- ==== Sys2Proof/Laws/InvCluster.lean ====
section
/-! SUPPORT. The invariant `State.Inv` is kept by the operations of Machine/Reset.lean, Machine/Link.lean, Machine/Sequencer.lean, Machine/Evict.lean, Machine/Windows.lean, Machine/Switch.lean. -/

namespace Sys2Proof.Machine

set_option linter.unusedTactic false
set_option linter.unreachableTactic false

theorem State.rcvStatus_inv {s : State} (kind : BitVec 4) (cause : BitVec 8) (cluster : BitVec 6) (hI : s.Inv) :
    State.Inv (State.rcvStatus s kind cause cluster) := by
  unfold State.rcvStatus
  (try dsimp only)
  repeat' (first | with_reducible assumption | split | (intro _) | refine Inv.frame ?_)


theorem State.logReset_inv {s : State} (kind : BitVec 4) (cause : BitVec 8) (cluster : BitVec 6) (hI : s.Inv) :
    State.Inv (State.logReset s kind cause cluster) := by
  unfold State.logReset
  (try dsimp only)
  repeat' (first | with_reducible assumption | split | with_reducible apply State.logHw_inv | (intro _) | refine Inv.frame ?_)


theorem State.stamp_inv {s : State} (hI : s.Inv) :
    State.Inv (State.stamp s) := by
  unfold State.stamp
  (try dsimp only)
  repeat' (first | with_reducible assumption | split | (intro _) | refine Inv.frame ?_)


theorem State.dumpWrite_inv {s : State} (k pa len : Nat) (data : List Byte) (poison : List Bool) (hI : s.Inv) :
    State.Inv (State.dumpWrite s k pa len data poison) := by
  unfold State.dumpWrite
  (try dsimp only)
  repeat' (first | with_reducible assumption | split | with_reducible apply State.issueTxn_inv | (intro _) | refine Inv.frame ?_)


theorem State.dumpPartial_inv {s : State} (k : Nat) (hI : s.Inv) :
    State.Inv (State.dumpPartial s k) := by
  unfold State.dumpPartial
  (try dsimp only)
  repeat' (first | with_reducible assumption | split | (intro _) | refine Inv.frame ?_)


theorem State.dumpPage_inv {s : State} (k off len p : Nat) (hI : s.Inv) :
    State.Inv (State.dumpPage s k off len p) := by
  unfold State.dumpPage
  (try dsimp only)
  repeat' (first | with_reducible assumption | split | with_reducible apply State.dumpPartial_inv | with_reducible apply State.dumpWrite_inv | (intro _) | refine Inv.frame ?_)


theorem State.dumpBody_inv {s : State} (hI : s.Inv) :
    State.Inv (State.dumpBody s) := by
  unfold State.dumpBody
  (try dsimp only)
  repeat' (first | with_reducible assumption | split | with_reducible apply State.dumpPage_inv | with_reducible apply State.each_inv | (intro _) | refine Inv.frame ?_)


theorem State.dumpEnd_inv {s : State} (ok : Bool) (hI : s.Inv) :
    State.Inv (State.dumpEnd s ok) := by
  unfold State.dumpEnd
  (try dsimp only)
  repeat' (first | with_reducible assumption | split | (intro _) | refine Inv.frame ?_)


theorem State.dumpClose_inv {s : State} (hI : s.Inv) :
    State.Inv (State.dumpClose s) := by
  unfold State.dumpClose
  (try dsimp only)
  repeat' (first | with_reducible assumption | split | with_reducible apply State.dumpEnd_inv | with_reducible apply State.dumpWrite_inv | (intro _) | refine Inv.frame ?_)


theorem State.startDump_inv {s : State} (cause : BitVec 8) (hI : s.Inv) :
    State.Inv (State.startDump s cause) := by
  unfold State.startDump
  (try dsimp only)
  repeat' (first | with_reducible assumption | split | with_reducible apply State.dumpBody_inv | with_reducible apply State.dumpClose_inv | with_reducible apply State.dumpWrite_inv | with_reducible apply State.powered_inv | (intro _) | refine Inv.frame ?_)


theorem State.dumpWritten_inv {s : State} (k : Nat) (ok : Bool) (hI : s.Inv) :
    State.Inv (State.dumpWritten s k ok) := by
  unfold State.dumpWritten
  (try dsimp only)
  repeat' (first | with_reducible assumption | split | with_reducible apply State.dumpBody_inv | with_reducible apply State.dumpClose_inv | with_reducible apply State.dumpEnd_inv | with_reducible apply State.dumpPartial_inv | (intro _) | refine Inv.frame ?_)


theorem State.enterOos_inv {s : State} (cause : BitVec 8) (hI : s.Inv) :
    State.Inv (State.enterOos s cause) := by
  unfold State.enterOos
  (try dsimp only)
  repeat' (first | with_reducible assumption | split | with_reducible apply State.count_inv | with_reducible apply State.logHw_inv | with_reducible apply State.raise_inv | with_reducible apply State.rcvStatus_inv | with_reducible apply State.setFw_inv | with_reducible apply State.startDump_inv | (intro _) | refine Inv.frame ?_ | refine Inv.frameMap ?_ ?_ ?_ ?_ ?_ ?_ | with_reducible apply tmap_wf | with_reducible apply tset_wf | with_reducible apply tupd_wf | with_reducible apply State.Inv.groups | with_reducible apply State.Inv.clusters | with_reducible apply State.Inv.queues | with_reducible apply State.Inv.procs | with_reducible apply State.Inv.threads | exact tblWf_nil _)


theorem State.counted_inv {s : State} (f : State → State) (hI : s.Inv) (hf : ∀ (s : State) , s.Inv → (f s ).Inv) :
    State.Inv (State.counted s f) := by
  unfold State.counted
  (try dsimp only)
  repeat' (first | with_reducible assumption | with_reducible apply hf | split | with_reducible apply State.enterOos_inv | with_reducible apply State.stamp_inv | (intro _) | refine Inv.frame ?_)


theorem State.leaveService_inv {s : State} (c : BitVec 6) (hI : s.Inv) :
    State.Inv (State.leaveService s c) := by
  unfold State.leaveService
  (try dsimp only)
  repeat' (first | with_reducible assumption | split | with_reducible apply State.cruise_inv | with_reducible apply State.raise_inv | with_reducible apply State.updCluster_inv | (intro _) | refine Inv.frame ?_)


theorem State.returnService_inv {s : State} (c : BitVec 6) (hI : s.Inv) :
    State.Inv (State.returnService s c) := by
  unfold State.returnService
  (try dsimp only)
  repeat' (first | with_reducible assumption | split | with_reducible apply State.cruise_inv | with_reducible apply State.updCluster_inv | (intro _) | refine Inv.frame ?_)


theorem State.returnLaunch_inv {s : State} (e : Nat) (hI : s.Inv) :
    State.Inv (State.returnLaunch s e) := by
  unfold State.returnLaunch
  (try dsimp only)
  repeat' (first | with_reducible assumption | split | with_reducible apply State.updCluster_inv | with_reducible apply State.updEntry_inv | (intro _) | refine Inv.frame ?_)


theorem State.setSlice_inv {s : State} (c : BitVec 20) (i : Nat) (v : SliceState) (hI : s.Inv) :
    State.Inv (State.setSlice s c i v) := by
  unfold State.setSlice
  (try dsimp only)
  repeat' (first | with_reducible assumption | split | with_reducible apply State.updRes_inv | (intro _) | refine Inv.frame ?_)


theorem State.holdCore_inv {s : State} (p : Nat) (hI : s.Inv) :
    State.Inv (State.holdCore s p) := by
  unfold State.holdCore
  (try dsimp only)
  repeat' (first | with_reducible assumption | split | with_reducible apply State.updProc_inv | (intro _) | refine Inv.frame ?_)


theorem State.flushEnds_inv {s : State} (c : BitVec 6) (hI : s.Inv) :
    State.Inv (State.flushEnds s c) := by
  unfold State.flushEnds
  (try dsimp only)
  repeat' (first | with_reducible assumption | split | with_reducible apply State.each_inv | with_reducible apply State.report_inv | with_reducible apply State.updCluster_inv | (intro _) | refine Inv.frame ?_)


theorem State.clusterReset_inv {s : State} (c : BitVec 6) (cause : BitVec 8) (hI : s.Inv) :
    State.Inv (State.clusterReset s c cause) := by
  unfold State.clusterReset
  (try dsimp only)
  repeat' (first | with_reducible assumption | split | with_reducible apply State.count_inv | with_reducible apply State.flushEnds_inv | with_reducible apply State.holdCore_inv | with_reducible apply State.leaveService_inv | with_reducible apply State.logReset_inv | with_reducible apply State.raise_inv | with_reducible apply State.rcvStatus_inv | with_reducible apply State.setSlice_inv | with_reducible apply State.updCluster_inv | (intro _) | refine Inv.frame ?_)


theorem State.dropSlice_inv {s : State} (e : Nat) (hI : s.Inv) :
    State.Inv (State.dropSlice s e) := by
  unfold State.dropSlice
  (try dsimp only)
  repeat' (first | with_reducible assumption | split | with_reducible apply State.setSlice_inv | with_reducible apply State.updEntry_inv | (intro _) | refine Inv.frame ?_)


theorem State.endRestart_inv {s : State} (c : BitVec 6) (hI : s.Inv) :
    State.Inv (State.endRestart s c) := by
  unfold State.endRestart
  (try dsimp only)
  repeat' (first | with_reducible assumption | split | (intro _) | refine Inv.frame ?_)


theorem State.startHang_inv {s : State} (c : BitVec 6) (cause : BitVec 8) (fails : Nat) (hI : s.Inv) :
    State.Inv (State.startHang s c cause fails) := by
  unfold State.startHang
  (try dsimp only)
  repeat' (first | with_reducible assumption | split | with_reducible apply State.clusterReset_inv | with_reducible apply State.counted_inv | with_reducible apply State.dropSlice_inv | with_reducible apply State.each_inv | with_reducible apply State.endRestart_inv | with_reducible apply State.report_inv | with_reducible apply State.teardown_inv | with_reducible apply State.updCluster_inv | (intro _) | refine Inv.frame ?_)


theorem State.linkLost_inv {s : State} (c : BitVec 6) (hI : s.Inv) :
    State.Inv (State.linkLost s c) := by
  unfold State.linkLost
  (try dsimp only)
  repeat' (first | with_reducible assumption | split | with_reducible apply State.each_inv | with_reducible apply State.raise_inv | with_reducible apply State.returnLaunch_inv | with_reducible apply State.updCluster_inv | (intro _) | refine Inv.frame ?_)


theorem State.finishRecovery_inv {s : State} (c : BitVec 6) (hI : s.Inv) :
    State.Inv (State.finishRecovery s c) := by
  unfold State.finishRecovery
  (try dsimp only)
  repeat' (first | with_reducible assumption | split | with_reducible apply State.count_inv | with_reducible apply State.raise_inv | with_reducible apply State.returnService_inv | with_reducible apply State.updCluster_inv | (intro _) | refine Inv.frame ?_)


theorem State.failTest_inv {s : State} (c : BitVec 6) (hI : s.Inv) :
    State.Inv (State.failTest s c) := by
  unfold State.failTest
  (try dsimp only)
  repeat' (first | with_reducible assumption | split | with_reducible apply State.report_inv | with_reducible apply State.updCluster_inv | (intro _) | refine Inv.frame ?_)


theorem State.protocolError_inv {s : State} (c : BitVec 6) (code : BitVec 8) (reset : Bool) (hI : s.Inv) :
    State.Inv (State.protocolError s c code reset) := by
  unfold State.protocolError
  (try dsimp only)
  repeat' (first | with_reducible assumption | split | with_reducible apply State.failTest_inv | with_reducible apply State.leaveService_inv | with_reducible apply State.linkLost_inv | with_reducible apply State.noteFlag_inv | with_reducible apply State.raise_inv | with_reducible apply State.startHang_inv | with_reducible apply State.updCluster_inv | (intro _) | refine Inv.frame ?_)


theorem State.recoveryNext_inv {s : State} (c : BitVec 6) (hI : s.Inv) :
    State.Inv (State.recoveryNext s c) := by
  unfold State.recoveryNext
  (try dsimp only)
  repeat' (first | with_reducible assumption | split | with_reducible apply State.finishRecovery_inv | (intro _) | refine Inv.frame ?_)


theorem State.bindBoot_inv {s : State} (hI : s.Inv) :
    State.Inv (State.bindBoot s) := by
  unfold State.bindBoot
  (try dsimp only)
  repeat' (first | with_reducible assumption | split | with_reducible apply State.updQueue_inv | (intro _) | refine Inv.frame ?_)


theorem State.settleStart_inv {s : State} (hI : s.Inv) :
    State.Inv (State.settleStart s) := by
  unfold State.settleStart
  (try dsimp only)
  repeat' (first | with_reducible assumption | split | with_reducible apply State.bindBoot_inv | with_reducible apply State.cruise_inv | with_reducible apply State.each_inv | with_reducible apply State.protocolError_inv | with_reducible apply State.setFw_inv | with_reducible apply State.updCluster_inv | (intro _) | refine Inv.frame ?_ | refine Inv.frameMap ?_ ?_ ?_ ?_ ?_ ?_ | with_reducible apply tmap_wf | with_reducible apply tset_wf | with_reducible apply tupd_wf | with_reducible apply State.Inv.groups | with_reducible apply State.Inv.clusters | with_reducible apply State.Inv.queues | with_reducible apply State.Inv.procs | with_reducible apply State.Inv.threads | exact tblWf_nil _)


theorem State.capsRead_inv {s : State} (c : BitVec 6) (hI : s.Inv) :
    State.Inv (State.capsRead s c) := by
  unfold State.capsRead
  (try dsimp only)
  repeat' (first | with_reducible assumption | split | with_reducible apply State.protocolError_inv | with_reducible apply State.settleStart_inv | with_reducible apply State.updCluster_inv | (intro _) | refine Inv.frame ?_)


theorem execEngineReady_inv (c : BitVec 6) {s : State} (hI : s.Inv) :
    ∃ out, execEngineReady c s = .next out ∧ out.Inv := by
  unfold execEngineReady
  refine ⟨_, rfl, ?_⟩
  (try dsimp only)
  repeat' (first | with_reducible assumption | split | with_reducible apply State.updCluster_inv | (intro _) | refine Inv.frame ?_)


theorem execEngineReadyFall_inv (c : BitVec 6) {s : State} (hI : s.Inv) :
    ∃ out, execEngineReadyFall c s = .next out ∧ out.Inv := by
  unfold execEngineReadyFall
  refine ⟨_, rfl, ?_⟩
  (try dsimp only)
  repeat' (first | with_reducible assumption | split | with_reducible apply State.protocolError_inv | with_reducible apply State.settleStart_inv | (intro _) | refine Inv.frame ?_)


theorem execReadyTimeout_inv (c : BitVec 6) (elapsed : Nat) {s : State} (hI : s.Inv) :
    ∃ out, execReadyTimeout c elapsed s = .next out ∧ out.Inv := by
  unfold execReadyTimeout
  refine ⟨_, rfl, ?_⟩
  (try dsimp only)
  repeat' (first | with_reducible assumption | split | with_reducible apply State.protocolError_inv | with_reducible apply State.settleStart_inv | (intro _) | refine Inv.frame ?_)


theorem execCtrlTimeout_inv (c : BitVec 6) (elapsed : Nat) {s : State} (hI : s.Inv) :
    ∃ out, execCtrlTimeout c elapsed s = .next out ∧ out.Inv := by
  unfold execCtrlTimeout
  refine ⟨_, rfl, ?_⟩
  (try dsimp only)
  repeat' (first | with_reducible assumption | split | with_reducible apply State.protocolError_inv | with_reducible apply State.settleStart_inv | (intro _) | refine Inv.frame ?_)


theorem State.loopMismatch_inv {s : State} (c : BitVec 6) (hI : s.Inv) :
    State.Inv (State.loopMismatch s c) := by
  unfold State.loopMismatch
  (try dsimp only)
  repeat' (first | with_reducible assumption | split | with_reducible apply State.protocolError_inv | (intro _) | refine Inv.frame ?_)


theorem State.loopBeat_inv {s : State} (c : BitVec 6) (data : BitVec 1024) (last : Bool) (hI : s.Inv) :
    State.Inv (State.loopBeat s c data last) := by
  unfold State.loopBeat
  (try dsimp only)
  repeat' (first | with_reducible assumption | split | with_reducible apply State.loopMismatch_inv | with_reducible apply State.updCluster_inv | (intro _) | refine Inv.frame ?_)


theorem State.loopToken_inv {s : State} (c : BitVec 6) (lane tok : Nat) (hI : s.Inv) :
    State.Inv (State.loopToken s c lane tok) := by
  unfold State.loopToken
  (try dsimp only)
  repeat' (first | with_reducible assumption | split | with_reducible apply State.loopMismatch_inv | with_reducible apply State.protocolError_inv | with_reducible apply State.updCluster_inv | (intro _) | refine Inv.frame ?_)


theorem State.loopSync_inv {s : State} (c : BitVec 6) (yield : Bool) (msg : W32) (hI : s.Inv) :
    State.Inv (State.loopSync s c yield msg) := by
  unfold State.loopSync
  (try dsimp only)
  repeat' (first | with_reducible assumption | split | with_reducible apply State.loopMismatch_inv | with_reducible apply State.updCluster_inv | (intro _) | refine Inv.frame ?_)


theorem execCreditReturn_inv (c : BitVec 6) (pools : BitVec 5) {s : State} (hI : s.Inv) :
    ∃ out, execCreditReturn c pools s = .next out ∧ out.Inv := by
  unfold execCreditReturn
  refine ⟨_, rfl, ?_⟩
  (try dsimp only)
  repeat' (first | with_reducible assumption | split | with_reducible apply State.protocolError_inv | with_reducible apply State.updCluster_inv | (intro _) | refine Inv.frame ?_)


theorem execSyncRequestTaken_inv (c : BitVec 6) {s : State} (hI : s.Inv) :
    ∃ out, execSyncRequestTaken c s = .next out ∧ out.Inv := by
  unfold execSyncRequestTaken
  refine ⟨_, rfl, ?_⟩
  (try dsimp only)
  repeat' (first | with_reducible assumption | split | with_reducible apply State.updCluster_inv | (intro _) | refine Inv.frame ?_)


theorem State.dropLate_inv {s : State} (c : BitVec 6) (hI : s.Inv) :
    State.Inv (State.dropLate s c) := by
  unfold State.dropLate
  (try dsimp only)
  repeat' (first | with_reducible assumption | split | with_reducible apply State.updCluster_inv | (intro _) | refine Inv.frame ?_)


theorem execSyncError_inv (c : BitVec 6) (msg : W32) {s : State} (hI : s.Inv) :
    ∃ out, execSyncError c msg s = .next out ∧ out.Inv := by
  unfold execSyncError
  refine ⟨_, rfl, ?_⟩
  (try dsimp only)
  repeat' (first | with_reducible assumption | split | with_reducible apply State.dropLate_inv | with_reducible apply State.protocolError_inv | (intro _) | refine Inv.frame ?_)


theorem execClusterWatchdogExpiry_inv (c : BitVec 6) (elapsed : Nat) {s : State} (hI : s.Inv) :
    ∃ out, execClusterWatchdogExpiry c elapsed s = .next out ∧ out.Inv := by
  unfold execClusterWatchdogExpiry
  refine ⟨_, rfl, ?_⟩
  (try dsimp only)
  repeat' (first | with_reducible assumption | split | with_reducible apply State.failTest_inv | with_reducible apply State.startHang_inv | (intro _) | refine Inv.frame ?_)


theorem State.charge_inv {s : State} (c : BitVec 6) (hI : s.Inv) :
    State.Inv (State.charge s c) := by
  unfold State.charge
  (try dsimp only)
  repeat' (first | with_reducible assumption | split | with_reducible apply State.updCluster_inv | (intro _) | refine Inv.frame ?_ | refine Inv.frameMap ?_ ?_ ?_ ?_ ?_ ?_ | with_reducible apply tmap_wf | with_reducible apply tset_wf | with_reducible apply tupd_wf | with_reducible apply State.Inv.groups | with_reducible apply State.Inv.clusters | with_reducible apply State.Inv.queues | with_reducible apply State.Inv.procs | with_reducible apply State.Inv.threads | exact tblWf_nil _)


theorem State.passSignal_inv {s : State} (c : BitVec 6) (g : Sig) (hI : s.Inv) :
    State.Inv (State.passSignal s c g) := by
  unfold State.passSignal
  (try dsimp only)
  repeat' (first | with_reducible assumption | split | with_reducible apply State.blazeUpdate_inv | with_reducible apply State.updCluster_inv | with_reducible apply State.updEntry_inv | (intro _) | refine Inv.frame ?_)


theorem State.passSignals_inv {s : State} (c : BitVec 6) (hI : s.Inv) :
    State.Inv (State.passSignals s c) := by
  unfold State.passSignals
  (try dsimp only)
  repeat' (first | with_reducible assumption | split | with_reducible apply State.each_inv | with_reducible apply State.passSignal_inv | with_reducible apply State.updCluster_inv | (intro _) | refine Inv.frame ?_)


theorem State.fetchPages_inv {s : State} (l : Launch) (hI : s.Inv) :
    State.Inv (State.fetchPages s l) := by
  unfold State.fetchPages
  (try dsimp only)
  repeat' (first | with_reducible assumption | split | with_reducible apply State.each_inv | with_reducible apply State.mpRead_inv | (intro _) | refine Inv.frame ?_)


theorem State.fetchChain_inv {s : State} (e : Option Nat) (hI : s.Inv) :
    State.Inv (State.fetchChain s e) := by
  unfold State.fetchChain
  (try dsimp only)
  repeat' (first | with_reducible assumption | split | with_reducible apply State.fetchPages_inv | (intro _) | refine Inv.frame ?_)


theorem State.swapIn_inv {s : State} (c : BitVec 6) (l : Launch) (hI : s.Inv) :
    State.Inv (State.swapIn s c l) := by
  unfold State.swapIn
  (try dsimp only)
  repeat' (first | with_reducible assumption | split | with_reducible apply State.count_inv | with_reducible apply State.fetchChain_inv | with_reducible apply State.freshWord_inv | with_reducible apply State.settle_inv | with_reducible apply State.updCluster_inv | with_reducible apply State.updEntry_inv | (intro _) | refine Inv.frame ?_)


theorem execLaunchStart_inv (c : BitVec 6) {s : State} (hI : s.Inv) :
    ∃ out, execLaunchStart c s = .next out ∧ out.Inv := by
  unfold execLaunchStart
  refine ⟨_, rfl, ?_⟩
  (try dsimp only)
  repeat' (first | with_reducible assumption | split | with_reducible apply State.swapIn_inv | (intro _) | refine Inv.frame ?_)


theorem State.rtStarted_inv {s : State} (i : Nat) (hI : s.Inv) :
    State.Inv (State.rtStarted s i) := by
  unfold State.rtStarted
  (try dsimp only)
  repeat' (first | with_reducible assumption | split | with_reducible apply State.raise_inv | (intro _) | refine Inv.frame ?_)


theorem State.stampStart_inv {s : State} (i : Nat) (hI : s.Inv) :
    State.Inv (State.stampStart s i) := by
  unfold State.stampStart
  (try dsimp only)
  repeat' (first | with_reducible assumption | split | with_reducible apply State.rtStarted_inv | with_reducible apply State.updEntry_inv | (intro _) | refine Inv.frame ?_)


theorem State.firstIssue_inv {s : State} (i : Nat) (hI : s.Inv) :
    State.Inv (State.firstIssue s i) := by
  unfold State.firstIssue
  (try dsimp only)
  repeat' (first | with_reducible assumption | split | with_reducible apply State.stampStart_inv | with_reducible apply State.updEntry_inv | (intro _) | refine Inv.frame ?_)


theorem State.stampWaiting_inv {s : State} (hI : s.Inv) :
    State.Inv (State.stampWaiting s) := by
  unfold State.stampWaiting
  (try dsimp only)
  repeat' (first | with_reducible assumption | split | with_reducible apply State.each_inv | with_reducible apply State.stampStart_inv | (intro _) | refine Inv.frame ?_)


theorem State.issueBundle_inv {s : State} (c : BitVec 6) (l : Launch) (i t : Nat) (b : Bundle) (hI : s.Inv) :
    State.Inv (State.issueBundle s c l i t b) := by
  unfold State.issueBundle
  (try dsimp only)
  repeat' (first | with_reducible assumption | split | with_reducible apply State.firstIssue_inv | with_reducible apply State.passSignals_inv | with_reducible apply State.settle_inv | with_reducible apply State.updCluster_inv | (intro _) | refine Inv.frame ?_)


theorem execBundleIssue_inv (c : BitVec 6) (stream : BitVec 2) (cclk : Nat) {s : State} (hI : s.Inv) :
    ∃ out, execBundleIssue c stream cclk s = .next out ∧ out.Inv := by
  unfold execBundleIssue
  refine ⟨_, rfl, ?_⟩
  (try dsimp only)
  repeat' (first | with_reducible assumption | split | with_reducible apply State.issueBundle_inv | with_reducible apply State.updCluster_inv | (intro _) | refine Inv.frame ?_)


theorem State.chainReady_inv {s : State} (e : Nat) (hI : s.Inv) :
    State.Inv (State.chainReady s e) := by
  unfold State.chainReady
  (try dsimp only)
  repeat' (first | with_reducible assumption | split | with_reducible apply State.obtainCopy_inv | with_reducible apply State.updEntry_inv | (intro _) | refine Inv.frame ?_)


theorem State.completeLaunch_inv {s : State} (c : BitVec 6) (l : Launch) (hI : s.Inv) :
    State.Inv (State.completeLaunch s c l) := by
  unfold State.completeLaunch
  (try dsimp only)
  repeat' (first | with_reducible assumption | split | with_reducible apply State.chainReady_inv | with_reducible apply State.charge_inv | with_reducible apply State.report_inv | with_reducible apply State.setSlice_inv | with_reducible apply State.updCluster_inv | (intro _) | refine Inv.frame ?_)


theorem State.failLaunch_inv {s : State} (c : BitVec 6) (hI : s.Inv) :
    State.Inv (State.failLaunch s c) := by
  unfold State.failLaunch
  (try dsimp only)
  repeat' (first | with_reducible assumption | split | with_reducible apply State.charge_inv | with_reducible apply State.report_inv | with_reducible apply State.teardown_inv | with_reducible apply State.updCluster_inv | (intro _) | refine Inv.frame ?_)


theorem State.doneLane_inv {s : State} (c : BitVec 6) (epoch : BitVec 8) (lane : Nat) (tok : Nat) (hI : s.Inv) :
    State.Inv (State.doneLane s c epoch lane tok) := by
  unfold State.doneLane
  (try dsimp only)
  repeat' (first | with_reducible assumption | split | with_reducible apply State.loopToken_inv | with_reducible apply State.protocolError_inv | with_reducible apply State.updCluster_inv | (intro _) | refine Inv.frame ?_)


theorem execDoneToken_inv (c : BitVec 6) (valid : BitVec 4) (data : W64) (epoch : BitVec 8) {s : State} (hI : s.Inv) :
    ∃ out, execDoneToken c valid data epoch s = .next out ∧ out.Inv := by
  unfold execDoneToken
  refine ⟨_, rfl, ?_⟩
  (try dsimp only)
  repeat' (first | with_reducible assumption | split | with_reducible apply State.doneLane_inv | with_reducible apply State.dropLate_inv | with_reducible apply State.each_inv | with_reducible apply State.failLaunch_inv | with_reducible apply State.settle_inv | with_reducible apply State.updCluster_inv | (intro _) | refine Inv.frame ?_)


theorem execFlushed_inv (c : BitVec 6) (msg : W32) {s : State} (hI : s.Inv) :
    ∃ out, execFlushed c msg s = .next out ∧ out.Inv := by
  unfold execFlushed
  refine ⟨_, rfl, ?_⟩
  (try dsimp only)
  repeat' (first | with_reducible assumption | split | with_reducible apply State.dropLate_inv | with_reducible apply State.loopSync_inv | with_reducible apply State.passSignals_inv | with_reducible apply State.protocolError_inv | with_reducible apply State.updCluster_inv | (intro _) | refine Inv.frame ?_)


theorem State.saveOut_inv {s : State} (c : BitVec 6) (k : BitVec 20) (i off : Nat) (data : List Byte) (hI : s.Inv) :
    State.Inv (State.saveOut s c k i off data) := by
  unfold State.saveOut
  (try dsimp only)
  repeat' (first | with_reducible assumption | split | with_reducible apply State.mpWrite_inv | with_reducible apply State.updCluster_inv | (intro _) | refine Inv.frame ?_)


theorem State.restoreIn_inv {s : State} (c : BitVec 6) (k : BitVec 20) (i off len : Nat) (hI : s.Inv) :
    State.Inv (State.restoreIn s c k i off len) := by
  unfold State.restoreIn
  (try dsimp only)
  repeat' (first | with_reducible assumption | split | with_reducible apply State.mpRead_inv | (intro _) | refine Inv.frame ?_)


theorem State.settleSlice_inv {s : State} (k : BitVec 20) (i : Nat) (hI : s.Inv) :
    State.Inv (State.settleSlice s k i) := by
  unfold State.settleSlice
  (try dsimp only)
  repeat' (first | with_reducible assumption | split | with_reducible apply State.setSlice_inv | (intro _) | refine Inv.frame ?_)


theorem State.beginSwitch_inv {s : State} (c : BitVec 6) (cause : SwCause) (into : Option (BitVec 20)) (entry : Option Nat) (hI : s.Inv) :
    State.Inv (State.beginSwitch s c cause into entry) := by
  unfold State.beginSwitch
  (try dsimp only)
  repeat' (first | with_reducible assumption | split | with_reducible apply State.trace_inv | with_reducible apply State.updCluster_inv | (intro _) | refine Inv.frame ?_)


theorem State.withdrawShadow_inv {s : State} (c : BitVec 6) (hI : s.Inv) :
    State.Inv (State.withdrawShadow s c) := by
  unfold State.withdrawShadow
  (try dsimp only)
  repeat' (first | with_reducible assumption | split | with_reducible apply State.returnLaunch_inv | with_reducible apply State.updCluster_inv | (intro _) | refine Inv.frame ?_)


theorem State.keepChain_inv {s : State} (c : BitVec 6) (hI : s.Inv) :
    State.Inv (State.keepChain s c) := by
  unfold State.keepChain
  (try dsimp only)
  repeat' (first | with_reducible assumption | split | with_reducible apply State.updCluster_inv | with_reducible apply State.updEntry_inv | (intro _) | refine Inv.frame ?_)


theorem State.parkStreams_inv {s : State} (k : BitVec 20) (hI : s.Inv) :
    State.Inv (State.parkStreams s k) := by
  unfold State.parkStreams
  (try dsimp only)
  repeat' (first | with_reducible assumption | split | (intro _) | refine Inv.frame ?_)


theorem State.beginLoad_inv {s : State} (k : BitVec 20) (r : Nat) (hI : s.Inv) :
    State.Inv (State.beginLoad s k r) := by
  unfold State.beginLoad
  (try dsimp only)
  repeat' (first | with_reducible assumption | split | with_reducible apply State.trace_inv | with_reducible apply State.updCtx_inv | with_reducible apply State.updRes_inv | (intro _) | refine Inv.frame ?_)


theorem State.startWaiting_inv {s : State} (hI : s.Inv) :
    State.Inv (State.startWaiting s) := by
  unfold State.startWaiting
  (try dsimp only)
  repeat' (first | with_reducible assumption | split | with_reducible apply State.beginLoad_inv | (intro _) | refine Inv.frame ?_)


theorem State.freeResidency_inv {s : State} (r : Nat) (hI : s.Inv) :
    State.Inv (State.freeResidency s r) := by
  unfold State.freeResidency
  (try dsimp only)
  repeat' (first | with_reducible assumption | split | with_reducible apply State.settle_inv | with_reducible apply State.startWaiting_inv | with_reducible apply State.updCtx_inv | with_reducible apply State.updRes_inv | (intro _) | refine Inv.frame ?_)


theorem State.evictStep_inv {s : State} (r : Nat) (hI : s.Inv) :
    State.Inv (State.evictStep s r) := by
  unfold State.evictStep
  (try dsimp only)
  repeat' (first | with_reducible assumption | split | with_reducible apply State.beginSwitch_inv | with_reducible apply State.each_inv | with_reducible apply State.freeResidency_inv | with_reducible apply State.mpWrite_inv | with_reducible apply State.parkStreams_inv | with_reducible apply State.updCluster_inv | with_reducible apply State.updRes_inv | with_reducible apply State.withdrawShadow_inv | (intro _) | refine Inv.frame ?_)


theorem State.evictions_inv {s : State} (hI : s.Inv) :
    State.Inv (State.evictions s) := by
  unfold State.evictions
  (try dsimp only)
  repeat' (first | with_reducible assumption | split | with_reducible apply State.each_inv | with_reducible apply State.evictStep_inv | (intro _) | refine Inv.frame ?_)


theorem State.beginEvict_inv {s : State} (k : BitVec 20) (hI : s.Inv) :
    State.Inv (State.beginEvict s k) := by
  unfold State.beginEvict
  (try dsimp only)
  repeat' (first | with_reducible assumption | split | with_reducible apply State.evictStep_inv | with_reducible apply State.trace_inv | with_reducible apply State.updRes_inv | (intro _) | refine Inv.frame ?_)


theorem State.updWindow_inv {s : State} (n : Nat) (f : Window → Window) (hI : s.Inv) :
    State.Inv (State.updWindow s n f) := by
  unfold State.updWindow
  (try dsimp only)
  repeat' (first | with_reducible assumption | split | (intro _) | refine Inv.frame ?_)


theorem State.windowLoad_inv {s : State} (n : Nat) (w : Window) (c : BitVec 6) (k : BitVec 20) (hI : s.Inv) :
    State.Inv (State.windowLoad s n w c k) := by
  unfold State.windowLoad
  (try dsimp only)
  repeat' (first | with_reducible assumption | split | with_reducible apply State.fetchPages_inv | with_reducible apply State.updCluster_inv | with_reducible apply State.updCtx_inv | with_reducible apply State.updWindow_inv | (intro _) | refine Inv.frame ?_)


theorem State.windowGo_inv {s : State} (n : Nat) (hI : s.Inv) :
    State.Inv (State.windowGo s n) := by
  unfold State.windowGo
  (try dsimp only)
  repeat' (first | with_reducible assumption | split | with_reducible apply State.beginSwitch_inv | with_reducible apply State.keepChain_inv | with_reducible apply State.updCluster_inv | with_reducible apply State.windowLoad_inv | with_reducible apply State.withdrawShadow_inv | (intro _) | refine Inv.frame ?_)


theorem State.windowsGo_inv {s : State} (hI : s.Inv) :
    State.Inv (State.windowsGo s) := by
  unfold State.windowsGo
  (try dsimp only)
  repeat' (first | with_reducible assumption | split | with_reducible apply State.each_inv | with_reducible apply State.windowGo_inv | (intro _) | refine Inv.frame ?_)


theorem execPreemptStop_inv (c : BitVec 6) {s : State} (hI : s.Inv) :
    ∃ out, execPreemptStop c s = .next out ∧ out.Inv := by
  unfold execPreemptStop
  refine ⟨_, rfl, ?_⟩
  (try dsimp only)
  repeat' (first | with_reducible assumption | split | with_reducible apply State.charge_inv | with_reducible apply State.keepChain_inv | with_reducible apply State.updCluster_inv | (intro _) | refine Inv.frame ?_)


theorem State.saveBursts_inv {s : State} (c : BitVec 6) (k : BitVec 20) (i off : Nat) (b : List Byte) (hI : s.Inv) :
    State.Inv (State.saveBursts s c k i off b) := by
  unfold State.saveBursts
  (try dsimp only)
  repeat' (first | with_reducible assumption | split | with_reducible apply State.each_inv | with_reducible apply State.saveOut_inv | (intro _) | refine Inv.frame ?_)


theorem State.writeRecord_inv {s : State} (c : BitVec 6) (k : BitVec 20) (i : Nat) (l : Option Launch) (hI : s.Inv) :
    State.Inv (State.writeRecord s c k i l) := by
  unfold State.writeRecord
  (try dsimp only)
  repeat' (first | with_reducible assumption | split | with_reducible apply State.saveBursts_inv | with_reducible apply State.saveOut_inv | (intro _) | refine Inv.frame ?_)


theorem execSwitchOut_inv (c : BitVec 6) {s : State} (hI : s.Inv) :
    ∃ out, execSwitchOut c s = .next out ∧ out.Inv := by
  unfold execSwitchOut
  refine ⟨_, rfl, ?_⟩
  (try dsimp only)
  repeat' (first | with_reducible assumption | split | with_reducible apply State.teardown_inv | with_reducible apply State.updCluster_inv | with_reducible apply State.updEntry_inv | with_reducible apply State.writeRecord_inv | (intro _) | refine Inv.frame ?_)


theorem execSaveBeat_inv (c : BitVec 6) (data : BitVec 1024) (last : Bool) {s : State} (hI : s.Inv) :
    ∃ out, execSaveBeat c data last s = .next out ∧ out.Inv := by
  unfold execSaveBeat
  refine ⟨_, rfl, ?_⟩
  (try dsimp only)
  repeat' (first | with_reducible assumption | split | with_reducible apply State.loopBeat_inv | with_reducible apply State.protocolError_inv | with_reducible apply State.saveOut_inv | with_reducible apply State.updCluster_inv | (intro _) | refine Inv.frame ?_)


theorem State.endSwitch_inv {s : State} (c : BitVec 6) (hI : s.Inv) :
    State.Inv (State.endSwitch s c) := by
  unfold State.endSwitch
  (try dsimp only)
  repeat' (first | with_reducible assumption | split | with_reducible apply State.freshWord_inv | with_reducible apply State.updCluster_inv | (intro _) | refine Inv.frame ?_)


theorem State.takeSlice_inv {s : State} (c : BitVec 6) (k : BitVec 20) (i : Nat) (hI : s.Inv) :
    State.Inv (State.takeSlice s c k i) := by
  unfold State.takeSlice
  (try dsimp only)
  repeat' (first | with_reducible assumption | split | with_reducible apply State.setSlice_inv | with_reducible apply State.updCluster_inv | with_reducible apply State.updCtx_inv | with_reducible apply State.updRes_inv | (intro _) | refine Inv.frame ?_)


theorem State.restoreMore_inv {s : State} (c : BitVec 6) (hI : s.Inv) :
    State.Inv (State.restoreMore s c) := by
  unfold State.restoreMore
  (try dsimp only)
  repeat' (first | with_reducible assumption | split | with_reducible apply State.restoreIn_inv | (intro _) | refine Inv.frame ?_)


theorem State.clearFor_inv {s : State} (c : BitVec 6) (hI : s.Inv) :
    State.Inv (State.clearFor s c) := by
  unfold State.clearFor
  (try dsimp only)
  repeat' (first | with_reducible assumption | split | with_reducible apply State.updCluster_inv | (intro _) | refine Inv.frame ?_)


theorem State.readHeader_inv {s : State} (c : BitVec 6) (k : BitVec 20) (i : Nat) (w : Switch) (hI : s.Inv) :
    State.Inv (State.readHeader s c k i w) := by
  unfold State.readHeader
  (try dsimp only)
  repeat' (first | with_reducible assumption | split | with_reducible apply State.restoreIn_inv | with_reducible apply State.takeSlice_inv | with_reducible apply State.updCluster_inv | (intro _) | refine Inv.frame ?_)


theorem execSwitchIn_inv (c : BitVec 6) {s : State} (hI : s.Inv) :
    ∃ out, execSwitchIn c s = .next out ∧ out.Inv := by
  unfold execSwitchIn
  refine ⟨_, rfl, ?_⟩
  (try dsimp only)
  repeat' (first | with_reducible assumption | split | with_reducible apply State.clearFor_inv | with_reducible apply State.each_inv | with_reducible apply State.endSwitch_inv | with_reducible apply State.evictions_inv | with_reducible apply State.fetchPages_inv | with_reducible apply State.mpRead_inv | with_reducible apply State.readHeader_inv | with_reducible apply State.restoreIn_inv | with_reducible apply State.restoreMore_inv | with_reducible apply State.setSlice_inv | with_reducible apply State.takeSlice_inv | with_reducible apply State.teardown_inv | with_reducible apply State.updCluster_inv | with_reducible apply State.updEntry_inv | with_reducible apply State.windowsGo_inv | (intro _) | refine Inv.frame ?_)


theorem execRestoreBeat_inv (c : BitVec 6) {s : State} (hI : s.Inv) :
    ∃ out, execRestoreBeat c s = .next out ∧ out.Inv := by
  unfold execRestoreBeat
  refine ⟨_, rfl, ?_⟩
  (try dsimp only)
  repeat' (first | with_reducible assumption | split | with_reducible apply State.restoreMore_inv | with_reducible apply State.updCluster_inv | (intro _) | refine Inv.frame ?_)


theorem State.tryEnable_inv {s : State} (c : BitVec 6) (hI : s.Inv) :
    State.Inv (State.tryEnable s c) := by
  unfold State.tryEnable
  (try dsimp only)
  repeat' (first | with_reducible assumption | split | with_reducible apply State.clearFor_inv | with_reducible apply State.updCluster_inv | (intro _) | refine Inv.frame ?_)


theorem State.restoreData_inv {s : State} (c : BitVec 6) (off : Nat) (b : List Byte) (hI : s.Inv) :
    State.Inv (State.restoreData s c off b) := by
  unfold State.restoreData
  (try dsimp only)
  repeat' (first | with_reducible assumption | split | with_reducible apply State.restoreMore_inv | with_reducible apply State.tryEnable_inv | with_reducible apply State.updCluster_inv | with_reducible apply State.foldl_inv | (intro _) | refine Inv.frame ?_)


theorem State.restoreFailed_inv {s : State} (c : BitVec 6) (status : BitVec 8) (hI : s.Inv) :
    State.Inv (State.restoreFailed s c status) := by
  unfold State.restoreFailed
  (try dsimp only)
  repeat' (first | with_reducible assumption | split | with_reducible apply State.teardown_inv | with_reducible apply State.tryEnable_inv | with_reducible apply State.updCluster_inv | (intro _) | refine Inv.frame ?_)


theorem State.masksArrived_inv {s : State} (k : BitVec 20) (b : List Byte) (hI : s.Inv) :
    State.Inv (State.masksArrived s k b) := by
  unfold State.masksArrived
  (try dsimp only)
  repeat' (first | with_reducible assumption | split | with_reducible apply State.updRes_inv | (intro _) | refine Inv.frame ?_)


theorem State.finishTear_inv {s : State} (c : BitVec 6) (hI : s.Inv) :
    State.Inv (State.finishTear s c) := by
  unfold State.finishTear
  (try dsimp only)
  repeat' (first | with_reducible assumption | split | with_reducible apply State.each_inv | with_reducible apply State.report_inv | with_reducible apply State.teardown_inv | with_reducible apply State.updCluster_inv | (intro _) | refine Inv.frame ?_)


theorem State.clearDone_inv {s : State} (c : BitVec 6) (hI : s.Inv) :
    State.Inv (State.clearDone s c) := by
  unfold State.clearDone
  (try dsimp only)
  repeat' (first | with_reducible assumption | split | with_reducible apply State.endSwitch_inv | with_reducible apply State.finishRecovery_inv | with_reducible apply State.finishTear_inv | with_reducible apply State.recoveryNext_inv | with_reducible apply State.report_inv | with_reducible apply State.returnService_inv | with_reducible apply State.updCluster_inv | (intro _) | refine Inv.frame ?_)


theorem State.saveDone_inv {s : State} (c : BitVec 6) (hI : s.Inv) :
    State.Inv (State.saveDone s c) := by
  unfold State.saveDone
  (try dsimp only)
  repeat' (first | with_reducible assumption | split | with_reducible apply State.protocolError_inv | with_reducible apply State.returnLaunch_inv | with_reducible apply State.settleSlice_inv | with_reducible apply State.teardown_inv | with_reducible apply State.updCluster_inv | (intro _) | refine Inv.frame ?_)


theorem State.restoreDone_inv {s : State} (c : BitVec 6) (hI : s.Inv) :
    State.Inv (State.restoreDone s c) := by
  unfold State.restoreDone
  (try dsimp only)
  repeat' (first | with_reducible assumption | split | with_reducible apply State.tryEnable_inv | with_reducible apply State.updCluster_inv | (intro _) | refine Inv.frame ?_)


theorem State.enableDone_inv {s : State} (c : BitVec 6) (hI : s.Inv) :
    State.Inv (State.enableDone s c) := by
  unfold State.enableDone
  (try dsimp only)
  repeat' (first | with_reducible assumption | split | with_reducible apply State.endSwitch_inv | with_reducible apply State.swapIn_inv | with_reducible apply State.updCluster_inv | (intro _) | refine Inv.frame ?_)


theorem execCtrlResponse_inv (c : BitVec 6) (data : W32) (err : Bool) {s : State} (hI : s.Inv) :
    ∃ out, execCtrlResponse c data err s = .next out ∧ out.Inv := by
  unfold execCtrlResponse
  refine ⟨_, rfl, ?_⟩
  (try dsimp only)
  repeat' (first | with_reducible assumption | split | with_reducible apply State.capsRead_inv | with_reducible apply State.clearDone_inv | with_reducible apply State.dropLate_inv | with_reducible apply State.enableDone_inv | with_reducible apply State.evictions_inv | with_reducible apply State.protocolError_inv | with_reducible apply State.restoreDone_inv | with_reducible apply State.saveDone_inv | with_reducible apply State.settleStart_inv | with_reducible apply State.updCluster_inv | with_reducible apply State.windowsGo_inv | (intro _) | refine Inv.frame ?_)


theorem execYielded_inv (c : BitVec 6) (msg : W32) {s : State} (hI : s.Inv) :
    ∃ out, execYielded c msg s = .next out ∧ out.Inv := by
  unfold execYielded
  refine ⟨_, rfl, ?_⟩
  (try dsimp only)
  repeat' (first | with_reducible assumption | split | with_reducible apply State.dropLate_inv | with_reducible apply State.loopSync_inv | with_reducible apply State.protocolError_inv | with_reducible apply State.updCluster_inv | (intro _) | refine Inv.frame ?_)


theorem execEntryReady_inv (e : Nat) {s : State} (hI : s.Inv) :
    ∃ out, execEntryReady e s = .next out ∧ out.Inv := by
  unfold execEntryReady
  refine ⟨_, rfl, ?_⟩
  (try dsimp only)
  repeat' (first | with_reducible assumption | split | with_reducible apply State.obtainCopy_inv | with_reducible apply State.updEntry_inv | with_reducible apply State.windowsGo_inv | (intro _) | refine Inv.frame ?_)


theorem State.recallChain_inv {s : State} (c : BitVec 6) (hI : s.Inv) :
    State.Inv (State.recallChain s c) := by
  unfold State.recallChain
  (try dsimp only)
  repeat' (first | with_reducible assumption | split | with_reducible apply State.beginSwitch_inv | with_reducible apply State.issue_inv | with_reducible apply State.report_inv | with_reducible apply State.updCluster_inv | (intro _) | refine Inv.frame ?_)


theorem execChainedLaunchStart_inv (c : BitVec 6) {s : State} (hI : s.Inv) :
    ∃ out, execChainedLaunchStart c s = .next out ∧ out.Inv := by
  unfold execChainedLaunchStart
  refine ⟨_, rfl, ?_⟩
  (try dsimp only)
  repeat' (first | with_reducible assumption | split | with_reducible apply State.fetchPages_inv | with_reducible apply State.issue_inv | with_reducible apply State.recallChain_inv | with_reducible apply State.report_inv | with_reducible apply State.swapIn_inv | with_reducible apply State.updCluster_inv | with_reducible apply State.updEntry_inv | with_reducible apply State.windowsGo_inv | (intro _) | refine Inv.frame ?_)


theorem execLaunchComplete_inv (c : BitVec 6) {s : State} (hI : s.Inv) :
    ∃ out, execLaunchComplete c s = .next out ∧ out.Inv := by
  unfold execLaunchComplete
  refine ⟨_, rfl, ?_⟩
  (try dsimp only)
  repeat' (first | with_reducible assumption | split | with_reducible apply State.completeLaunch_inv | with_reducible apply State.evictions_inv | with_reducible apply State.updCluster_inv | with_reducible apply State.windowsGo_inv | (intro _) | refine Inv.frame ?_)


theorem execSuspectReplay_inv (c : BitVec 6) {s : State} (hI : s.Inv) :
    ∃ out, execSuspectReplay c s = .next out ∧ out.Inv := by
  unfold execSuspectReplay
  refine ⟨_, rfl, ?_⟩
  (try dsimp only)
  repeat' (first | with_reducible assumption | split | with_reducible apply State.evictions_inv | with_reducible apply State.fetchPages_inv | with_reducible apply State.finishRecovery_inv | with_reducible apply State.obtainCopy_inv | with_reducible apply State.report_inv | with_reducible apply State.takeSlice_inv | with_reducible apply State.updCluster_inv | with_reducible apply State.updEntry_inv | with_reducible apply State.windowsGo_inv | (intro _) | refine Inv.frame ?_)


end Sys2Proof.Machine
end

