-- ==== Sys2Proof/Laws/InvHaul.lean ====
section
/-! SUPPORT. The invariant `State.Inv` is kept by the operations of Machine/Yarder.lean, Machine/Formats.lean, Machine/Xlate.lean, Machine/Haul.lean. -/

namespace Sys2Proof.Machine

set_option linter.unusedTactic false
set_option linter.unreachableTactic false

theorem State.place_inv {s : State} (c : BitVec 6) (e : Nat) (x : Entry) (share : Bool) (hI : s.Inv) :
    State.Inv (State.place s c e x share) := by
  unfold State.place
  (try dsimp only)
  repeat' (first | with_reducible assumption | split | with_reducible apply State.beginSwitch_inv | with_reducible apply State.fetchPages_inv | with_reducible apply State.issue_inv | with_reducible apply State.updCluster_inv | with_reducible apply State.updCtx_inv | with_reducible apply State.updEntry_inv | (intro _) | refine Inv.frame ?_)


theorem State.newRound_inv {s : State} (p : BitVec 3) (l : List (Nat × Entry)) (hI : s.Inv) :
    State.Inv (State.newRound s p l) := by
  unfold State.newRound
  (try dsimp only)
  repeat' (first | with_reducible assumption | split | with_reducible apply State.each_inv | (intro _) | refine Inv.frame ?_ | refine Inv.frameMap ?_ ?_ ?_ ?_ ?_ ?_ | with_reducible apply tmap_wf | with_reducible apply tset_wf | with_reducible apply tupd_wf | with_reducible apply State.Inv.groups | with_reducible apply State.Inv.clusters | with_reducible apply State.Inv.queues | with_reducible apply State.Inv.procs | with_reducible apply State.Inv.threads | exact tblWf_nil _)


theorem State.placeShare_inv {s : State} (c : BitVec 6) (e : Nat) (x : Entry) (hI : s.Inv) :
    State.Inv (State.placeShare s c e x) := by
  unfold State.placeShare
  (try dsimp only)
  repeat' (first | with_reducible assumption | split | with_reducible apply State.place_inv | (intro _) | refine Inv.frame ?_)


theorem State.failLoaded_inv {s : State} (f : Entry → Bool) (hI : s.Inv) :
    State.Inv (State.failLoaded s f) := by
  unfold State.failLoaded
  (try dsimp only)
  repeat' (first | with_reducible assumption | split | with_reducible apply State.each_inv | with_reducible apply State.issue_inv | with_reducible apply State.report_inv | (intro _) | refine Inv.frame ?_)


theorem execSharePlacement_inv (c : BitVec 6) {s : State} (hI : s.Inv) :
    ∃ out, execSharePlacement c s = .next out ∧ out.Inv := by
  unfold execSharePlacement
  refine ⟨_, rfl, ?_⟩
  (try dsimp only)
  repeat' (first | with_reducible assumption | split | with_reducible apply State.failLoaded_inv | with_reducible apply State.newRound_inv | with_reducible apply State.placeShare_inv | with_reducible apply State.updPart_inv | (intro _) | refine Inv.frame ?_)


theorem execBestEffortDispatch_inv {s : State} (hI : s.Inv) :
    ∃ out, execBestEffortDispatch s = .next out ∧ out.Inv := by
  unfold execBestEffortDispatch
  refine ⟨_, rfl, ?_⟩
  (try dsimp only)
  repeat' (first | with_reducible assumption | split | with_reducible apply State.failLoaded_inv | with_reducible apply State.issue_inv | with_reducible apply State.place_inv | with_reducible apply State.returnLaunch_inv | with_reducible apply State.updCluster_inv | with_reducible apply State.updEntry_inv | (intro _) | refine Inv.frame ?_)


theorem State.takeFrom_inv {s : State} (v c : BitVec 6) (e : Nat) (hI : s.Inv) :
    State.Inv (State.takeFrom s v c e) := by
  unfold State.takeFrom
  (try dsimp only)
  repeat' (first | with_reducible assumption | split | with_reducible apply State.place_inv | with_reducible apply State.updCluster_inv | (intro _) | refine Inv.frame ?_)


theorem execDequeTake_inv (c : BitVec 6) {s : State} (hI : s.Inv) :
    ∃ out, execDequeTake c s = .next out ∧ out.Inv := by
  unfold execDequeTake
  refine ⟨_, rfl, ?_⟩
  (try dsimp only)
  repeat' (first | with_reducible assumption | split | with_reducible apply State.takeFrom_inv | (intro _) | refine Inv.frame ?_)


theorem execSteal_inv (c : BitVec 6) {s : State} (hI : s.Inv) :
    ∃ out, execSteal c s = .next out ∧ out.Inv := by
  unfold execSteal
  refine ⟨_, rfl, ?_⟩
  (try dsimp only)
  repeat' (first | with_reducible assumption | split | with_reducible apply State.takeFrom_inv | with_reducible apply State.trace_inv | with_reducible apply State.updCluster_inv | (intro _) | refine Inv.frame ?_)


theorem execResidencyLoad_inv (k : BitVec 20) {s : State} (hI : s.Inv) :
    ∃ out, execResidencyLoad k s = .next out ∧ out.Inv := by
  unfold execResidencyLoad
  refine ⟨_, rfl, ?_⟩
  (try dsimp only)
  repeat' (first | with_reducible assumption | split | with_reducible apply State.evictStep_inv | with_reducible apply State.evictions_inv | with_reducible apply State.startWaiting_inv | with_reducible apply State.trace_inv | with_reducible apply State.updRes_inv | (intro _) | refine Inv.frame ?_)


theorem State.rtFault_inv {s : State} (n : Nat) (overrun : Bool) (hI : s.Inv) :
    State.Inv (State.rtFault s n overrun) := by
  unfold State.rtFault
  (try dsimp only)
  repeat' (first | with_reducible assumption | split | with_reducible apply State.raise_inv | (intro _) | refine Inv.frame ?_)


theorem execReservationWindowOpen_inv (i : BitVec 12) (m : BitVec 8) {s : State} (hI : s.Inv) :
    ∃ out, execReservationWindowOpen i m s = .next out ∧ out.Inv := by
  unfold execReservationWindowOpen
  refine ⟨_, rfl, ?_⟩
  (try dsimp only)
  repeat' (first | with_reducible assumption | split | with_reducible apply State.rtFault_inv | with_reducible apply State.updCluster_inv | with_reducible apply State.windowsGo_inv | (intro _) | refine Inv.frame ?_)


theorem execRtRelease_inv (i : BitVec 12) {s : State} (hI : s.Inv) :
    ∃ out, execRtRelease i s = .next out ∧ out.Inv := by
  unfold execRtRelease
  refine ⟨_, rfl, ?_⟩
  (try dsimp only)
  repeat' (first | with_reducible assumption | split | with_reducible apply State.counted_inv | with_reducible apply State.failLoaded_inv | with_reducible apply State.issue_inv | with_reducible apply State.rtFault_inv | with_reducible apply State.updEntry_inv | with_reducible apply State.windowsGo_inv | (intro _) | refine Inv.frame ?_)


theorem execWindowClose_inv (i : BitVec 12) {s : State} (hI : s.Inv) :
    ∃ out, execWindowClose i s = .next out ∧ out.Inv := by
  unfold execWindowClose
  refine ⟨_, rfl, ?_⟩
  (try dsimp only)
  repeat' (first | with_reducible assumption | split | with_reducible apply State.counted_inv | with_reducible apply State.rtFault_inv | with_reducible apply State.updCluster_inv | (intro _) | refine Inv.frame ?_)


theorem execMajorFrame_inv {s : State} (hI : s.Inv) :
    ∃ out, execMajorFrame s = .next out ∧ out.Inv := by
  unfold execMajorFrame
  refine ⟨_, rfl, ?_⟩
  (try dsimp only)
  repeat' (first | with_reducible assumption | split | with_reducible apply State.trace_inv | (intro _) | refine Inv.frame ?_)


theorem execTableActivation_inv {s : State} (hI : s.Inv) :
    ∃ out, execTableActivation s = .next out ∧ out.Inv := by
  unfold execTableActivation
  refine ⟨_, rfl, ?_⟩
  (try dsimp only)
  repeat' (first | with_reducible assumption | split | with_reducible apply State.counted_inv | with_reducible apply State.each_inv | with_reducible apply State.mbxDone_inv | with_reducible apply State.rtFault_inv | with_reducible apply State.updCluster_inv | (intro _) | refine Inv.frame ?_ | refine Inv.frameMap ?_ ?_ ?_ ?_ ?_ ?_ | with_reducible apply tmap_wf | with_reducible apply tset_wf | with_reducible apply tupd_wf | with_reducible apply State.Inv.groups | with_reducible apply State.Inv.clusters | with_reducible apply State.Inv.queues | with_reducible apply State.Inv.procs | with_reducible apply State.Inv.threads | exact tblWf_nil _)


theorem execAccountingTick_inv {s : State} (hI : s.Inv) :
    ∃ out, execAccountingTick s = .next out ∧ out.Inv := by
  unfold execAccountingTick
  refine ⟨_, rfl, ?_⟩
  (try dsimp only)
  repeat' (first | with_reducible assumption | split | with_reducible apply State.charge_inv | with_reducible apply State.each_inv | (intro _) | refine Inv.frame ?_)


theorem State.join_inv {s : State} (c : BitVec 6) (p : BitVec 3) (hI : s.Inv) :
    State.Inv (State.join s c p) := by
  unfold State.join
  (try dsimp only)
  repeat' (first | with_reducible assumption | split | with_reducible apply State.cruise_inv | with_reducible apply State.each_inv | with_reducible apply State.mbxDone_inv | with_reducible apply State.returnLaunch_inv | with_reducible apply State.updCluster_inv | (intro _) | refine Inv.frame ?_)


theorem execPartitionJoin_inv (c : BitVec 6) {s : State} (hI : s.Inv) :
    ∃ out, execPartitionJoin c s = .next out ∧ out.Inv := by
  unfold execPartitionJoin
  refine ⟨_, rfl, ?_⟩
  (try dsimp only)
  repeat' (first | with_reducible assumption | split | with_reducible apply State.join_inv | (intro _) | refine Inv.frame ?_)


theorem execRegulatorBucketRefill_inv (p : BitVec 3) {s : State} (hI : s.Inv) :
    ∃ out, execRegulatorBucketRefill p s = .next out ∧ out.Inv := by
  unfold execRegulatorBucketRefill
  refine ⟨_, rfl, ?_⟩
  (try dsimp only)
  repeat' (first | with_reducible assumption | split | with_reducible apply State.promoteAll_inv | with_reducible apply State.updPart_inv | (intro _) | refine Inv.frame ?_)


theorem State.probeDone_inv {s : State} (q : BitVec 14) (outcome hops len : Nat) (hI : s.Inv) :
    State.Inv (State.probeDone s q outcome hops len) := by
  unfold State.probeDone
  (try dsimp only)
  repeat' (first | with_reducible assumption | split | with_reducible apply State.fwAlert_inv | with_reducible apply State.restartTimer_inv | (intro _) | refine Inv.frame ?_)


theorem State.leaveChain_inv {s : State} (k : Nat) (x : Entry) (status : BitVec 8) (hI : s.Inv) :
    State.Inv (State.leaveChain s k x status).1 := by
  unfold State.leaveChain
  (try dsimp only)
  repeat' (first | with_reducible assumption | split | with_reducible apply State.updEntry_inv | (intro _) | refine Inv.frame ?_ | refine Inv.frameMap ?_ ?_ ?_ ?_ ?_ ?_ | with_reducible apply tmap_wf | with_reducible apply tset_wf | with_reducible apply tupd_wf | with_reducible apply State.Inv.groups | with_reducible apply State.Inv.clusters | with_reducible apply State.Inv.queues | with_reducible apply State.Inv.procs | with_reducible apply State.Inv.threads | exact tblWf_nil _)


theorem State.failKernelQueue_inv {s : State} (q : BitVec 14) (status : BitVec 8) (head : Option Nat) (hI : s.Inv) :
    State.Inv (State.failKernelQueue s q status head) := by
  unfold State.failKernelQueue
  (try dsimp only)
  repeat' (first | with_reducible assumption | split | with_reducible apply State.each_inv | with_reducible apply State.leaveChain_inv | with_reducible apply State.retire_inv | (intro _) | refine Inv.frame ?_)


theorem State.deadlock_inv {s : State} (l : List (BitVec 14 × Nat × BitVec 16)) (hI : s.Inv) :
    State.Inv (State.deadlock s l) := by
  unfold State.deadlock
  (try dsimp only)
  repeat' (first | with_reducible assumption | split | with_reducible apply State.blazeUpdate_inv | with_reducible apply State.each_inv | with_reducible apply State.failKernelQueue_inv | with_reducible apply State.retire_inv | with_reducible apply State.teardown_inv | (intro _) | refine Inv.frame ?_)


theorem execWaitGraphProbe_inv {s : State} (hI : s.Inv) :
    ∃ out, execWaitGraphProbe s = .next out ∧ out.Inv := by
  unfold execWaitGraphProbe
  refine ⟨_, rfl, ?_⟩
  (try dsimp only)
  repeat' (first | with_reducible assumption | split | with_reducible apply State.deadlock_inv | with_reducible apply State.failKernelQueue_inv | with_reducible apply State.probeDone_inv | with_reducible apply State.teardown_inv | (intro _) | refine Inv.frame ?_)


theorem State.fillLeaf_inv {s : State} (l : Leaf) (hI : s.Inv) :
    State.Inv (State.fillLeaf s l) := by
  unfold State.fillLeaf
  (try dsimp only)
  repeat' (first | with_reducible assumption | split | (intro _) | refine Inv.frame ?_)


theorem State.fillWalk_inv {s : State} (x : WalkEnt) (hI : s.Inv) :
    State.Inv (State.fillWalk s x) := by
  unfold State.fillWalk
  (try dsimp only)
  repeat' (first | with_reducible assumption | split | (intro _) | refine Inv.frame ?_)


theorem State.fillObject_inv {s : State} (k i : BitVec 20) (o : ObjEntry) (hI : s.Inv) :
    State.Inv (State.fillObject s k i o) := by
  unfold State.fillObject
  (try dsimp only)
  repeat' (first | with_reducible assumption | split | (intro _) | refine Inv.frame ?_)


theorem State.touchLeaf_inv {s : State} (l : Leaf) (hI : s.Inv) :
    State.Inv (State.touchLeaf s l) := by
  unfold State.touchLeaf
  (try dsimp only)
  repeat' (first | with_reducible assumption | split | (intro _) | refine Inv.frame ?_)


theorem State.epochTake_inv {s : State} (k : BitVec 20) (e : BitVec 2) (hI : s.Inv) :
    State.Inv (State.epochTake s k e) := by
  unfold State.epochTake
  (try dsimp only)
  repeat' (first | with_reducible assumption | split | with_reducible apply State.updRes_inv | (intro _) | refine Inv.frame ?_)


theorem State.settleInvals_inv {s : State} (hI : s.Inv) :
    State.Inv (State.settleInvals s) := by
  unfold State.settleInvals
  (try dsimp only)
  repeat' (first | with_reducible assumption | split | with_reducible apply State.each_inv | with_reducible apply State.report_inv | (intro _) | refine Inv.frame ?_)


theorem State.epochDone_inv {s : State} (k : BitVec 20) (e : BitVec 2) (hI : s.Inv) :
    State.Inv (State.epochDone s k e) := by
  unfold State.epochDone
  (try dsimp only)
  repeat' (first | with_reducible assumption | split | with_reducible apply State.settleInvals_inv | with_reducible apply State.updRes_inv | (intro _) | refine Inv.frame ?_)


theorem State.writeRecordAt_inv {s : State} (r : FaultRec) (hI : s.Inv) :
    State.Inv (State.writeRecordAt s r) := by
  unfold State.writeRecordAt
  (try dsimp only)
  repeat' (first | with_reducible assumption | split | with_reducible apply State.ringWrite_inv | (intro _) | refine Inv.frame ?_)


theorem State.postNext_inv {s : State} (hI : s.Inv) :
    State.Inv (State.postNext s) := by
  unfold State.postNext
  (try dsimp only)
  repeat' (first | with_reducible assumption | split | with_reducible apply State.writeRecordAt_inv | (intro _) | refine Inv.frame ?_)


theorem State.createRecord_inv {s : State} (r : FaultRec) (hI : s.Inv) :
    State.Inv (State.createRecord s r) := by
  unfold State.createRecord
  (try dsimp only)
  repeat' (first | with_reducible assumption | split | with_reducible apply State.noteFlag_inv | with_reducible apply State.postNext_inv | with_reducible apply State.raise_inv | (intro _) | refine Inv.frame ?_)


theorem State.createAdvice_inv {s : State} (r : FaultRec) (hI : s.Inv) :
    State.Inv (State.createAdvice s r) := by
  unfold State.createAdvice
  (try dsimp only)
  repeat' (first | with_reducible assumption | split | with_reducible apply State.postNext_inv | (intro _) | refine Inv.frame ?_)


theorem State.recordPosted_inv {s : State} (hI : s.Inv) :
    State.Inv (State.recordPosted s) := by
  unfold State.recordPosted
  (try dsimp only)
  repeat' (first | with_reducible assumption | split | with_reducible apply State.postNext_inv | with_reducible apply State.raise_inv | (intro _) | refine Inv.frame ?_)


theorem State.recordFailed_inv {s : State} (hI : s.Inv) :
    State.Inv (State.recordFailed s) := by
  unfold State.recordFailed
  (try dsimp only)
  repeat' (first | with_reducible assumption | split | with_reducible apply State.logHw_inv | with_reducible apply State.noteFlag_inv | with_reducible apply State.raise_inv | (intro _) | refine Inv.frame ?_)


theorem execSlashRingRetry_inv {s : State} (hI : s.Inv) :
    ∃ out, execSlashRingRetry s = .next out ∧ out.Inv := by
  unfold execSlashRingRetry
  refine ⟨_, rfl, ?_⟩
  (try dsimp only)
  repeat' (first | with_reducible assumption | split | with_reducible apply State.writeRecordAt_inv | (intro _) | refine Inv.frame ?_)


theorem State.walkTable_inv {s : State} (w : Walk) (hI : s.Inv) :
    State.Inv (State.walkTable s w) := by
  unfold State.walkTable
  (try dsimp only)
  repeat' (first | with_reducible assumption | split | with_reducible apply State.walkRead_inv | (intro _) | refine Inv.frame ?_)


theorem State.touchHint_inv {s : State} (x : Option WalkEnt) (hI : s.Inv) :
    State.Inv (State.touchHint s x) := by
  unfold State.touchHint
  (try dsimp only)
  repeat' (first | with_reducible assumption | split | (intro _) | refine Inv.frame ?_)


theorem State.startWalk_inv {s : State} (k : BitVec 20) (vpn key : Nat) (e : BitVec 2) (hI : s.Inv) :
    State.Inv (State.startWalk s k vpn key e) := by
  unfold State.startWalk
  (try dsimp only)
  repeat' (first | with_reducible assumption | split | with_reducible apply State.epochTake_inv | with_reducible apply State.touchHint_inv | with_reducible apply State.walkTable_inv | (intro _) | refine Inv.frame ?_)


theorem State.updChunk_inv {s : State} (key n : Nat) (f : Chunk → Chunk) (hI : s.Inv) :
    State.Inv (State.updChunk s key n f) := by
  unfold State.updChunk
  (try dsimp only)
  repeat' (first | with_reducible assumption | split | with_reducible apply State.updStream_inv | (intro _) | refine Inv.frame ?_)


theorem State.dropStream_inv {s : State} (key : Nat) (hI : s.Inv) :
    State.Inv (State.dropStream s key) := by
  unfold State.dropStream
  (try dsimp only)
  repeat' (first | with_reducible assumption | split | (intro _) | refine Inv.frame ?_)


theorem State.failStream_inv {s : State} (key : Nat) (x : Stream) (status : BitVec 8) (hI : s.Inv) :
    State.Inv (State.failStream s key x status) := by
  unfold State.failStream
  (try dsimp only)
  repeat' (first | with_reducible assumption | split | with_reducible apply State.dropStream_inv | with_reducible apply State.each_inv | with_reducible apply State.hauLog_inv | with_reducible apply State.report_inv | with_reducible apply State.teardown_inv | (intro _) | refine Inv.frame ?_)


theorem State.reobtain_inv {s : State} (k : BitVec 20) (hI : s.Inv) :
    State.Inv (State.reobtain s k) := by
  unfold State.reobtain
  (try dsimp only)
  repeat' (first | with_reducible assumption | split | with_reducible apply State.each_inv | with_reducible apply State.obtainCopy_inv | with_reducible apply State.place_inv | with_reducible apply State.report_inv | (intro _) | refine Inv.frame ?_)


theorem State.dropCopies_inv {s : State} (k : BitVec 20) (hit : W32 × Nat × Nat → Bool) (page : Nat → Bool) (hI : s.Inv) :
    State.Inv (State.dropCopies s k hit page) := by
  unfold State.dropCopies
  (try dsimp only)
  repeat' (first | with_reducible assumption | split | with_reducible apply State.reobtain_inv | (intro _) | refine Inv.frame ?_)


theorem State.dropCopy_inv {s : State} (k : OpCopy) (hI : s.Inv) :
    State.Inv (State.dropCopy s k) := by
  unfold State.dropCopy
  (try dsimp only)
  repeat' (first | with_reducible assumption | split | with_reducible apply State.reobtain_inv | (intro _) | refine Inv.frame ?_)


theorem State.dropPage_inv {s : State} (p : Nat) (hI : s.Inv) :
    State.Inv (State.dropPage s p) := by
  unfold State.dropPage
  (try dsimp only)
  repeat' (first | with_reducible assumption | split | (intro _) | refine Inv.frame ?_)


theorem State.cacheTrim_inv (n : Nat) : ∀ (s : State), s.Inv → (State.cacheTrim n s).Inv := by
  induction n with
  | zero => exact fun _ h => h
  | succ n ih =>
    intro s h
    unfold State.cacheTrim
    (try dsimp only)
    repeat' (first | with_reducible assumption | split | with_reducible apply ih | with_reducible apply State.dropPage_inv | with_reducible apply State.dropCopy_inv | refine Inv.frame ?_)


theorem State.trimCache_inv {s : State} (hI : s.Inv) :
    State.Inv (State.trimCache s) := by
  unfold State.trimCache
  (try dsimp only)
  repeat' (first | with_reducible assumption | split | with_reducible apply State.cacheTrim_inv | (intro _) | refine Inv.frame ?_)


theorem State.updLaunches_inv {s : State} (f : Launch → Launch) (hI : s.Inv) :
    State.Inv (State.updLaunches s f) := by
  unfold State.updLaunches
  (try dsimp only)
  repeat' (first | with_reducible assumption | split | (intro _) | refine Inv.frame ?_ | refine Inv.frameMap ?_ ?_ ?_ ?_ ?_ ?_ | with_reducible apply tmap_wf | with_reducible apply tset_wf | with_reducible apply tupd_wf | with_reducible apply State.Inv.groups | with_reducible apply State.Inv.clusters | with_reducible apply State.Inv.queues | with_reducible apply State.Inv.procs | with_reducible apply State.Inv.threads | exact tblWf_nil _)


theorem State.pageArrived_inv {s : State} (p : Nat) (hI : s.Inv) :
    State.Inv (State.pageArrived s p) := by
  unfold State.pageArrived
  (try dsimp only)
  repeat' (first | with_reducible assumption | split | with_reducible apply State.each_inv | with_reducible apply State.trimCache_inv | with_reducible apply State.tryEnable_inv | with_reducible apply State.updLaunches_inv | with_reducible apply State.windowsGo_inv | (intro _) | refine Inv.frame ?_)


theorem State.pageFailed_inv {s : State} (p : Nat) (hI : s.Inv) :
    State.Inv (State.pageFailed s p) := by
  unfold State.pageFailed
  (try dsimp only)
  repeat' (first | with_reducible assumption | split | with_reducible apply State.each_inv | with_reducible apply State.report_inv | with_reducible apply State.teardown_inv | with_reducible apply State.updLaunches_inv | (intro _) | refine Inv.frame ?_)


theorem State.pageLost_inv {s : State} (p : Nat) (hI : s.Inv) :
    State.Inv (State.pageLost s p) := by
  unfold State.pageLost
  (try dsimp only)
  repeat' (first | with_reducible assumption | split | with_reducible apply State.dropPage_inv | with_reducible apply State.each_inv | with_reducible apply State.fetchPages_inv | with_reducible apply State.updLaunches_inv | (intro _) | refine Inv.frame ?_)


theorem State.copyPart_inv {s : State} (e : Nat) (x : Stream) (hI : s.Inv) :
    State.Inv (State.copyPart s e x) := by
  unfold State.copyPart
  (try dsimp only)
  repeat' (first | with_reducible assumption | split | with_reducible apply State.reobtain_inv | with_reducible apply State.trimCache_inv | (intro _) | refine Inv.frame ?_)


theorem State.endStream_inv {s : State} (key : Nat) (x : Stream) (hI : s.Inv) :
    State.Inv (State.endStream s key x) := by
  unfold State.endStream
  (try dsimp only)
  repeat' (first | with_reducible assumption | split | with_reducible apply State.copyPart_inv | with_reducible apply State.dropStream_inv | with_reducible apply State.report_inv | with_reducible apply State.updEntry_inv | with_reducible apply State.windowsGo_inv | (intro _) | refine Inv.frame ?_)


theorem State.settleStream_inv {s : State} (key : Nat) (hI : s.Inv) :
    State.Inv (State.settleStream s key) := by
  unfold State.settleStream
  (try dsimp only)
  repeat' (first | with_reducible assumption | split | with_reducible apply State.dropStream_inv | with_reducible apply State.endStream_inv | with_reducible apply State.evictions_inv | with_reducible apply State.failStream_inv | with_reducible apply State.hauLog_inv | with_reducible apply State.parkStreams_inv | with_reducible apply State.report_inv | with_reducible apply State.teardown_inv | (intro _) | refine Inv.frame ?_)


theorem State.endChunk_inv {s : State} (key n : Nat) (hI : s.Inv) :
    State.Inv (State.endChunk s key n) := by
  unfold State.endChunk
  (try dsimp only)
  repeat' (first | with_reducible assumption | split | with_reducible apply State.epochDone_inv | with_reducible apply State.settleStream_inv | with_reducible apply State.updStream_inv | (intro _) | refine Inv.frame ?_)


theorem State.markFailed_inv {s : State} (key n : Nat) (status : BitVec 8) (hI : s.Inv) :
    State.Inv (State.markFailed s key n status) := by
  unfold State.markFailed
  (try dsimp only)
  repeat' (first | with_reducible assumption | split | with_reducible apply State.updChunk_inv | with_reducible apply State.updStream_inv | (intro _) | refine Inv.frame ?_)


theorem State.fmtFlags_inv {s : State} (x : Stream) (engine : Nat) (ovf flush : Bool) (hI : s.Inv) :
    State.Inv (State.fmtFlags s x engine ovf flush) := by
  unfold State.fmtFlags
  (try dsimp only)
  repeat' (first | with_reducible assumption | split | with_reducible apply State.noteFlag_inv | with_reducible apply State.raise_inv | (intro _) | refine Inv.frame ?_)


theorem State.writePiece_inv {s : State} (key : Nat) (x : Stream) (k : Chunk) (b : List Byte) (p : Piece) (hI : s.Inv) :
    State.Inv (State.writePiece s key x k b p) := by
  unfold State.writePiece
  (try dsimp only)
  repeat' (first | with_reducible assumption | split | with_reducible apply State.mpWrite_inv | refine Inv.frameMem ?_ (memWriteBytes_wf _ _ _ (State.Inv.mem ?_)) | refine Inv.frameMem ?_ (memZero_wf _ _ _ (State.Inv.mem ?_)) | (intro _) | refine Inv.frame ?_)


theorem State.writeResult_inv {s : State} (key : Nat) (x : Stream) (n : Nat) (b : List Byte) (hI : s.Inv) :
    State.Inv (State.writeResult s key x n b) := by
  unfold State.writeResult
  (try dsimp only)
  repeat' (first | with_reducible assumption | split | with_reducible apply State.dropCopies_inv | with_reducible apply State.each_inv | with_reducible apply State.endChunk_inv | with_reducible apply State.updChunk_inv | with_reducible apply State.writePiece_inv | (intro _) | refine Inv.frame ?_)


theorem State.chunkGo_inv {s : State} (key n : Nat) (hI : s.Inv) :
    State.Inv (State.chunkGo s key n) := by
  unfold State.chunkGo
  (try dsimp only)
  repeat' (first | with_reducible assumption | split | with_reducible apply State.endChunk_inv | with_reducible apply State.fmtFlags_inv | with_reducible apply State.updChunk_inv | with_reducible apply State.updStream_inv | with_reducible apply State.writeResult_inv | (intro _) | refine Inv.frame ?_)


theorem State.readPiece_inv {s : State} (key : Nat) (x : Stream) (k : Chunk) (p : Bool × Piece) (hI : s.Inv) :
    State.Inv (State.readPiece s key x k p) := by
  unfold State.readPiece
  (try dsimp only)
  repeat' (first | with_reducible assumption | split | with_reducible apply State.mpRead_inv | with_reducible apply State.updChunk_inv | with_reducible apply State.updStream_inv | (intro _) | refine Inv.frame ?_)


theorem State.beginReads_inv {s : State} (key n : Nat) (hI : s.Inv) :
    State.Inv (State.beginReads s key n) := by
  unfold State.beginReads
  (try dsimp only)
  repeat' (first | with_reducible assumption | split | with_reducible apply State.chunkGo_inv | with_reducible apply State.each_inv | with_reducible apply State.readPiece_inv | with_reducible apply State.updChunk_inv | (intro _) | refine Inv.frame ?_)


theorem State.chunkData_inv {s : State} (key n : Nat) (isDst : Bool) (off : Nat) (b : List Byte) (hI : s.Inv) :
    State.Inv (State.chunkData s key n isDst off b) := by
  unfold State.chunkData
  (try dsimp only)
  repeat' (first | with_reducible assumption | split | with_reducible apply State.chunkGo_inv | with_reducible apply State.updChunk_inv | (intro _) | refine Inv.frame ?_)


theorem State.chunkReadFailed_inv {s : State} (key n : Nat) (status : BitVec 8) (hI : s.Inv) :
    State.Inv (State.chunkReadFailed s key n status) := by
  unfold State.chunkReadFailed
  (try dsimp only)
  repeat' (first | with_reducible assumption | split | with_reducible apply State.chunkGo_inv | with_reducible apply State.markFailed_inv | with_reducible apply State.updChunk_inv | (intro _) | refine Inv.frame ?_)


theorem State.chunkWritten_inv {s : State} (key n : Nat) (ok : Bool) (hI : s.Inv) :
    State.Inv (State.chunkWritten s key n ok) := by
  unfold State.chunkWritten
  (try dsimp only)
  repeat' (first | with_reducible assumption | split | with_reducible apply State.endChunk_inv | with_reducible apply State.markFailed_inv | with_reducible apply State.updChunk_inv | (intro _) | refine Inv.frame ?_)


theorem State.tryLocks_inv {s t : State} (key n : Nat) (hI : s.Inv) (h : s.tryLocks key n = some t) : t.Inv := by
  unfold State.tryLocks at h
  split at h
  · exact absurd h (by simp)
  · split at h
    · exact absurd h (by simp)
    · dsimp only at h
      split at h
      · exact absurd h (by simp)
      · obtain rfl := Option.some.inj h
        exact Inv.frame hI


theorem State.translated_inv {s : State} (key n : Nat) (hI : s.Inv) :
    State.Inv (State.translated s key n) := by
  unfold State.translated
  (try dsimp only)
  repeat' (first | with_reducible assumption | split | with_reducible apply State.beginReads_inv | with_reducible apply State.endChunk_inv | with_reducible apply State.updChunk_inv | refine State.tryLocks_inv _ _ ?_ (by assumption) | (intro _) | refine Inv.frame ?_)


theorem State.stallAt_inv {s : State} (key n : Nat) (cause : BitVec 8) (level vpn : Nat) (wr : Bool) (hI : s.Inv) :
    State.Inv (State.stallAt s key n cause level vpn wr) := by
  unfold State.stallAt
  (try dsimp only)
  repeat' (first | with_reducible assumption | split | with_reducible apply State.createRecord_inv | with_reducible apply State.each_inv | with_reducible apply State.endChunk_inv | with_reducible apply State.updStream_inv | (intro _) | refine Inv.frame ?_)


theorem State.grant_inv {s : State} (key n : Nat) (l : Leaf) (hI : s.Inv) :
    State.Inv (State.grant s key n l) := by
  unfold State.grant
  (try dsimp only)
  repeat' (first | with_reducible assumption | split | with_reducible apply State.updChunk_inv | (intro _) | refine Inv.frame ?_)


theorem State.translate_inv (n : Nat) : ∀ (s : State) (key : Nat), s.Inv → (State.translate n s key).Inv := by
  induction n with
  | zero => exact fun _ _ h => h
  | succ n ih =>
    intro s key h
    unfold State.translate
    (try dsimp only)
    repeat' (first | with_reducible assumption | split | with_reducible apply ih | with_reducible apply State.translated_inv | with_reducible apply State.stallAt_inv | with_reducible apply State.grant_inv | with_reducible apply State.touchLeaf_inv | with_reducible apply State.startWalk_inv | refine Inv.frame ?_)


theorem State.translateOn_inv {s : State} (key : Nat) (hI : s.Inv) :
    State.Inv (State.translateOn s key) := by
  unfold State.translateOn
  (try dsimp only)
  repeat' (first | with_reducible assumption | split | with_reducible apply State.translate_inv | (intro _) | refine Inv.frame ?_)


theorem State.endWalk_inv {s : State} (w : Walk) (hI : s.Inv) :
    State.Inv (State.endWalk s w) := by
  unfold State.endWalk
  (try dsimp only)
  repeat' (first | with_reducible assumption | split | with_reducible apply State.each_inv | with_reducible apply State.epochDone_inv | with_reducible apply State.translateOn_inv | (intro _) | refine Inv.frame ?_)


theorem State.walkResult_inv {s : State} (w : Walk) (r : WalkStep) (hI : s.Inv) :
    State.Inv (State.walkResult s w r) := by
  unfold State.walkResult
  (try dsimp only)
  repeat' (first | with_reducible assumption | split | with_reducible apply State.createAdvice_inv | with_reducible apply State.each_inv | with_reducible apply State.endWalk_inv | with_reducible apply State.fillLeaf_inv | with_reducible apply State.grant_inv | with_reducible apply State.stallAt_inv | (intro _) | refine Inv.frame ?_)


theorem State.walkArrived_inv {s : State} (id : Nat) (b : List Byte) (hI : s.Inv) :
    State.Inv (State.walkArrived s id b) := by
  unfold State.walkArrived
  (try dsimp only)
  repeat' (first | with_reducible assumption | split | with_reducible apply State.fillWalk_inv | with_reducible apply State.walkResult_inv | with_reducible apply State.walkTable_inv | (intro _) | refine Inv.frame ?_)


theorem State.walkFailed_inv {s : State} (id : Nat) (hI : s.Inv) :
    State.Inv (State.walkFailed s id) := by
  unfold State.walkFailed
  (try dsimp only)
  repeat' (first | with_reducible assumption | split | with_reducible apply State.each_inv | with_reducible apply State.endChunk_inv | with_reducible apply State.endWalk_inv | with_reducible apply State.markFailed_inv | (intro _) | refine Inv.frame ?_)


theorem State.physicalChunk_inv {s : State} (key : Nat) (x : Stream) (hI : s.Inv) :
    State.Inv (State.physicalChunk s key x) := by
  unfold State.physicalChunk
  (try dsimp only)
  repeat' (first | with_reducible assumption | split | with_reducible apply State.mpRead_inv | with_reducible apply State.mpWrite_inv | (intro _) | refine Inv.frame ?_)


theorem execChunkStart_inv (engine : BitVec 4) (slot : BitVec 6) {s : State} (hI : s.Inv) :
    ∃ out, execChunkStart engine slot s = .next out ∧ out.Inv := by
  unfold execChunkStart
  refine ⟨_, rfl, ?_⟩
  (try dsimp only)
  repeat' (first | with_reducible assumption | split | with_reducible apply State.epochTake_inv | with_reducible apply State.physicalChunk_inv | with_reducible apply State.settleStream_inv | with_reducible apply State.translateOn_inv | with_reducible apply State.updStream_inv | (intro _) | refine Inv.frame ?_)


theorem execLineLockAcquire_inv (engine : BitVec 4) (slot : BitVec 6) {s : State} (hI : s.Inv) :
    ∃ out, execLineLockAcquire engine slot s = .next out ∧ out.Inv := by
  unfold execLineLockAcquire
  refine ⟨_, rfl, ?_⟩
  (try dsimp only)
  repeat' (first | with_reducible assumption | split | with_reducible apply State.beginReads_inv | refine State.tryLocks_inv _ _ ?_ (by assumption) | (intro _) | refine Inv.frame ?_)


theorem State.rejectLoad_inv {s : State} (e : Nat) (x : Entry) (code : BitVec 8) (record : Nat) (hI : s.Inv) :
    State.Inv (State.rejectLoad s e x code record) := by
  unfold State.rejectLoad
  (try dsimp only)
  repeat' (first | with_reducible assumption | split | with_reducible apply State.report_inv | (intro _) | refine Inv.frame ?_)


theorem State.placeStream_inv {s : State} (key : Nat) (y : Stream) (hI : s.Inv) :
    State.Inv (State.placeStream s key y) := by
  unfold State.placeStream
  (try dsimp only)
  repeat' (first | with_reducible assumption | split | (intro _) | refine Inv.frame ?_)


theorem State.entryStream_inv {s : State} (e key : Nat) (x : Entry) (hI : s.Inv) :
    State.Inv (State.entryStream s e key x) := by
  unfold State.entryStream
  (try dsimp only)
  repeat' (first | with_reducible assumption | split | with_reducible apply State.issue_inv | with_reducible apply State.placeStream_inv | (intro _) | refine Inv.frame ?_)


theorem State.takeInto_inv {s : State} (t : Take) (key : Nat) (hI : s.Inv) :
    State.Inv (State.takeInto s t key) := by
  unfold State.takeInto
  (try dsimp only)
  repeat' (first | with_reducible assumption | split | with_reducible apply State.entryStream_inv | with_reducible apply State.issue_inv | with_reducible apply State.rejectLoad_inv | (intro _) | refine Inv.frame ?_)


theorem State.haulTake_inv {s : State} (t : Take) (hI : s.Inv) :
    State.Inv (State.haulTake s t) := by
  unfold State.haulTake
  (try dsimp only)
  repeat' (first | with_reducible assumption | split | with_reducible apply State.takeInto_inv | (intro _) | refine Inv.frame ?_)


theorem execHaulTake_inv {s : State} (hI : s.Inv) :
    ∃ out, execHaulTake s = .next out ∧ out.Inv := by
  unfold execHaulTake
  refine ⟨_, rfl, ?_⟩
  (try dsimp only)
  repeat' (first | with_reducible assumption | split | with_reducible apply State.haulTake_inv | (intro _) | refine Inv.frame ?_)


theorem State.haulIssue_inv {s : State} (e : Nat) (hI : s.Inv) :
    State.Inv (State.haulIssue s e) := by
  unfold State.haulIssue
  (try dsimp only)
  repeat' (first | with_reducible assumption | split | with_reducible apply State.haulTake_inv | (intro _) | refine Inv.frame ?_)


theorem State.restartChunk_inv {s : State} (key : Nat) (x : Stream) (k : Chunk) (hI : s.Inv) :
    State.Inv (State.restartChunk s key x k) := by
  unfold State.restartChunk
  (try dsimp only)
  repeat' (first | with_reducible assumption | split | with_reducible apply State.epochDone_inv | with_reducible apply State.epochTake_inv | with_reducible apply State.physicalChunk_inv | with_reducible apply State.updChunk_inv | with_reducible apply State.writeResult_inv | (intro _) | refine Inv.frame ?_)


theorem State.restartStreams_inv {s : State} (hI : s.Inv) :
    State.Inv (State.restartStreams s) := by
  unfold State.restartStreams
  (try dsimp only)
  repeat' (first | with_reducible assumption | split | with_reducible apply State.each_inv | with_reducible apply State.restartChunk_inv | with_reducible apply State.translateOn_inv | (intro _) | refine Inv.frame ?_)


end Sys2Proof.Machine
end

