-- ==== Sys2Proof/Laws/InvDeck.lean ====
section
/-! SUPPORT. The invariant `State.Inv` is kept by the operations of Machine/Firmware.lean, Machine/Deck.lean, Machine/Loader.lean, Machine/Ports.lean. -/

namespace Sys2Proof.Machine

set_option linter.unusedTactic false
set_option linter.unreachableTactic false

theorem State.readBundle_inv {s : State} (hI : s.Inv) :
    State.Inv (State.readBundle s) := by
  unfold State.readBundle
  (try dsimp only)
  repeat' (first | with_reducible assumption | split | with_reducible apply State.fwAsk_inv | (intro _) | refine Inv.frame ?_)


theorem State.startFirmware_inv {s : State} (v : W64) (hI : s.Inv) :
    State.Inv (State.startFirmware s v) := by
  unfold State.startFirmware
  (try dsimp only)
  repeat' (first | with_reducible assumption | split | with_reducible apply State.setFw_inv | with_reducible apply State.updProc_inv | (intro _) | refine Inv.frame ?_)


theorem State.refuseStart_inv {s : State} (reason : BitVec 8) (hI : s.Inv) :
    State.Inv (State.refuseStart s reason) := by
  unfold State.refuseStart
  (try dsimp only)
  repeat' (first | with_reducible assumption | split | with_reducible apply State.setFw_inv | (intro _) | refine Inv.frame ?_)


theorem State.firmwareRoute_inv {s : State} (n k : Nat) (hI : s.Inv) : (s.firmwareRoute n k).Inv :=
  ⟨hI.build, hI.irq, hI.ctxs, hI.queues, hI.clusters, hI.mem, tupd_wf {} s.irq.routes k (fun r => { r with
      sec := (Config.firmwareRoute n k).getLsbD 10, pwr := (Config.firmwareRoute n k).getLsbD 9, sched := (Config.firmwareRoute n k).getLsbD 8
      clsEn := (Config.firmwareRoute n k).getLsbD 7, cluster := (Config.firmwareRoute n k).extractLsb' 0 6 }) hI.routes,
    hI.blazes, hI.graphs, hI.slots, hI.mbx, hI.procs, hI.threads, hI.groups⟩


theorem State.firmwareTargets_inv {s : State} (hI : s.Inv) :
    State.Inv (State.firmwareTargets s) := by
  unfold State.firmwareTargets
  (try dsimp only)
  repeat' (first | with_reducible assumption | split | with_reducible apply State.each_inv | with_reducible apply State.firmwareRoute_inv | with_reducible apply State.updProc_inv | (intro _) | refine Inv.frame ?_)


theorem State.acceptBundle_inv {s : State} (b : List Byte) (hI : s.Inv) :
    State.Inv (State.acceptBundle s b) := by
  unfold State.acceptBundle
  (try dsimp only)
  repeat' (first | with_reducible assumption | split | with_reducible apply State.each_inv | with_reducible apply State.firmwareTargets_inv | with_reducible apply State.loadMicrocode_inv | with_reducible apply State.setFw_inv | with_reducible apply State.updCluster_inv | with_reducible apply State.updProc_inv | (intro _) | refine Inv.frame ?_)


theorem State.releaseHeld_inv {s : State} (p : Nat) (hI : s.Inv) : (s.releaseHeld p).Inv := by
  unfold State.releaseHeld
  split
  · exact hI
  · apply State.updProc_inv
    refine Inv.frameIrq hI ?_ hI.irq.2.1 ?_
    · simpa using hI.irq.1
    · simpa using hI.irq.2.2


theorem State.abandonEntry_inv {s : State} (reason : BitVec 4) (hI : s.Inv) :
    State.Inv (State.abandonEntry s reason) := by
  unfold State.abandonEntry
  (try dsimp only)
  repeat' (first | with_reducible assumption | split | with_reducible apply State.mbxDone_inv | with_reducible apply State.raise_inv | with_reducible apply State.trace_inv | (intro _) | refine Inv.frame ?_)


theorem State.failEntry_inv {s : State} (hI : s.Inv) :
    State.Inv (State.failEntry s) := by
  unfold State.failEntry
  (try dsimp only)
  repeat' (first | with_reducible assumption | split | with_reducible apply State.abandonEntry_inv | with_reducible apply State.freshWord_inv | (intro _) | refine Inv.frame ?_)


theorem State.notRestarted_inv {s : State} (p : Nat) (hI : s.Inv) :
    State.Inv (State.notRestarted s p) := by
  unfold State.notRestarted
  (try dsimp only)
  repeat' (first | with_reducible assumption | split | with_reducible apply State.ask_inv | with_reducible apply State.startHang_inv | (intro _) | refine Inv.frame ?_)


theorem State.failProc_inv {s : State} (p : Nat) (cause : BitVec 4) (hI : s.Inv) :
    State.Inv (State.failProc s p cause) := by
  unfold State.failProc
  (try dsimp only)
  repeat' (first | with_reducible assumption | split | with_reducible apply State.ask_inv | with_reducible apply State.count_inv | with_reducible apply State.counted_inv | with_reducible apply State.failEntry_inv | with_reducible apply State.holdCore_inv | with_reducible apply State.notRestarted_inv | with_reducible apply State.raise_inv | with_reducible apply State.releaseHeld_inv | with_reducible apply State.updProc_inv | (intro _) | refine Inv.frame ?_)


theorem execProcessorFailure_inv (p : BitVec 7) (cause : BitVec 4) {s : State} (hI : s.Inv) :
    ∃ out, execProcessorFailure p cause s = .next out ∧ out.Inv := by
  unfold execProcessorFailure
  refine ⟨_, rfl, ?_⟩
  (try dsimp only)
  repeat' (first | with_reducible assumption | split | with_reducible apply State.failProc_inv | (intro _) | refine Inv.frame ?_)


theorem execFwWatchdogExpiry_inv (p : BitVec 7) (elapsed : Nat) {s : State} (hI : s.Inv) :
    ∃ out, execFwWatchdogExpiry p elapsed s = .next out ∧ out.Inv := by
  unfold execFwWatchdogExpiry
  refine ⟨_, rfl, ?_⟩
  (try dsimp only)
  repeat' (first | with_reducible assumption | split | with_reducible apply State.failProc_inv | (intro _) | refine Inv.frame ?_)


theorem execRestartTimeout_inv (p : BitVec 7) {s : State} (hI : s.Inv) :
    ∃ out, execRestartTimeout p s = .next out ∧ out.Inv := by
  unfold execRestartTimeout
  refine ⟨_, rfl, ?_⟩
  (try dsimp only)
  repeat' (first | with_reducible assumption | split | with_reducible apply State.notRestarted_inv | (intro _) | refine Inv.frame ?_)


theorem State.loseChannel_inv {s : State} (c : BitVec 6) (row : Nat) (hI : s.Inv) :
    State.Inv (State.loseChannel s c row).1 := by
  unfold State.loseChannel
  (try dsimp only)
  repeat' (first | with_reducible assumption | split | with_reducible apply State.restoreFailed_inv | with_reducible apply State.updCluster_inv | (intro _) | refine Inv.frame ?_)


theorem State.loseStaging_inv {s : State} (engine off : Nat) (hI : s.Inv) :
    State.Inv (State.loseStaging s engine off).1 := by
  unfold State.loseStaging
  (try dsimp only)
  repeat' (first | with_reducible assumption | split | with_reducible apply State.loseChannel_inv | with_reducible apply State.updChunk_inv | with_reducible apply State.updStream_inv | (intro _) | refine Inv.frame ?_)


theorem State.loseGraph_inv {s : State} (row : Nat) (hI : s.Inv) :
    State.Inv (State.loseGraph s row).1 := by
  unfold State.loseGraph
  (try dsimp only)
  repeat' (first | with_reducible assumption | split | with_reducible apply State.each_inv | with_reducible apply State.report_inv | with_reducible apply State.teardown_inv | with_reducible apply State.updEntry_inv | with_reducible apply State.updGraph_inv | (intro _) | refine Inv.frame ?_)


theorem State.loseShared_inv {s : State} (row : Nat) (hI : s.Inv) :
    State.Inv (State.loseShared s row).1 := by
  unfold State.loseShared
  (try dsimp only)
  repeat' (first | with_reducible assumption | split | with_reducible apply State.failProc_inv | with_reducible apply State.mbxDone_inv | with_reducible apply State.teardown_inv | with_reducible apply State.updProc_inv | (intro _) | refine Inv.frame ?_)


theorem State.loseData_inv {s : State} (region off : Nat) (hI : s.Inv) :
    State.Inv (State.loseData s region off).1 := by
  unfold State.loseData
  (try dsimp only)
  repeat' (first | with_reducible assumption | split | with_reducible apply State.blazeUpdate_inv | with_reducible apply State.dropCopy_inv | with_reducible apply State.each_inv | with_reducible apply State.failQueueAt_inv | with_reducible apply State.freshWord_inv | with_reducible apply State.loseGraph_inv | with_reducible apply State.loseShared_inv | with_reducible apply State.loseStaging_inv | with_reducible apply State.pageLost_inv | with_reducible apply State.report_inv | with_reducible apply State.teardown_inv | with_reducible apply State.updBlaze_inv | (intro _) | refine Inv.frame ?_)


theorem State.logLost_inv {s : State} (bank row region : Nat) (k : Option (BitVec 20)) (hI : s.Inv) :
    State.Inv (State.logLost s bank row region k) := by
  unfold State.logLost
  (try dsimp only)
  repeat' (first | with_reducible assumption | split | with_reducible apply State.raise_inv | (intro _) | refine Inv.frame ?_)


theorem State.readLost_inv {s : State} (bank row : Nat) (hI : s.Inv) :
    State.Inv (State.readLost s bank row) := by
  unfold State.readLost
  (try dsimp only)
  repeat' (first | with_reducible assumption | split | with_reducible apply State.logLost_inv | with_reducible apply State.loseData_inv | (intro _) | refine Inv.frame ?_)


theorem State.markLost_inv {s : State} (bank row : Nat) (hI : s.Inv) :
    State.Inv (State.markLost s bank row) := by
  unfold State.markLost
  (try dsimp only)
  repeat' (first | with_reducible assumption | split | (intro _) | refine Inv.frame ?_)


theorem State.countRebuild_inv {s : State} (bank : Nat) (hI : s.Inv) :
    State.Inv (State.countRebuild s bank) := by
  unfold State.countRebuild
  (try dsimp only)
  repeat' (first | with_reducible assumption | split | with_reducible apply State.count_inv | with_reducible apply State.raise_inv | (intro _) | refine Inv.frame ?_)


theorem State.countWords_inv {s : State} (bank n : Nat) (hI : s.Inv) :
    State.Inv (State.countWords s bank n) := by
  unfold State.countWords
  (try dsimp only)
  repeat' (first | with_reducible assumption | split | with_reducible apply State.count_inv | with_reducible apply State.each_inv | (intro _) | refine Inv.frame ?_)


theorem State.holdStripe_inv {s : State} (bank row n : Nat) (mends : List (Nat × Nat)) (hI : s.Inv) :
    State.Inv (State.holdStripe s bank row n mends) := by
  unfold State.holdStripe
  (try dsimp only)
  repeat' (first | with_reducible assumption | split | (intro _) | refine Inv.frame ?_)


theorem State.mendRows_inv {s : State} (l : List (Nat × Nat)) (hI : s.Inv) :
    State.Inv (State.mendRows s l) := by
  unfold State.mendRows
  (try dsimp only)
  repeat' (first | with_reducible assumption | split | (intro _) | refine Inv.frame ?_)


theorem State.loseRow_inv {s : State} (bank row : Nat) (hI : s.Inv) :
    State.Inv (State.loseRow s bank row) := by
  unfold State.loseRow
  (try dsimp only)
  repeat' (first | with_reducible assumption | split | with_reducible apply State.logLost_inv | with_reducible apply State.markLost_inv | (intro _) | refine Inv.frame ?_)


theorem State.rebuildRow_inv {s : State} (bank row words : Nat) (second : Option (BitVec 3)) (hI : s.Inv) :
    State.Inv (State.rebuildRow s bank row words second).1 := by
  unfold State.rebuildRow
  (try dsimp only)
  repeat' (first | with_reducible assumption | split | with_reducible apply State.countRebuild_inv | with_reducible apply State.countWords_inv | with_reducible apply State.loseRow_inv | with_reducible apply State.markLost_inv | (intro _) | refine Inv.frame ?_)


theorem State.readRow_inv {s : State} (bank row : Nat) (ecc : RowEcc) (hI : s.Inv) :
    State.Inv (State.readRow s bank row ecc).1 := by
  unfold State.readRow
  (try dsimp only)
  repeat' (first | with_reducible assumption | split | with_reducible apply State.countWords_inv | with_reducible apply State.rebuildRow_inv | (intro _) | refine Inv.frame ?_)


theorem State.writeReads_inv {s : State} (bank row : Nat) (ecc : RowEcc) (hI : s.Inv) : (s.writeReads bank row ecc).Inv := by
  cases ecc with
  | clean => exact hI
  | corrected n => exact State.countWords_inv _ _ hI
  | uncorrectable a n b => exact Inv.ite (State.logLost_inv _ _ _ _ (State.rebuildRow_inv _ _ _ _ hI)) (State.rebuildRow_inv _ _ _ _ hI)


theorem State.begunAccess_inv {s : State} (bank row : Nat) (hI : s.Inv) :
    State.Inv (State.begunAccess s bank row) := by
  unfold State.begunAccess
  (try dsimp only)
  repeat' (first | with_reducible assumption | split | with_reducible apply State.mendRows_inv | (intro _) | refine Inv.frame ?_)


theorem State.deckRead_inv {s : State} (bank row n : Nat) (scrub : Bool) (ecc : RowEcc) (hI : s.Inv) :
    State.Inv (State.deckRead s bank row n scrub ecc) := by
  unfold State.deckRead
  (try dsimp only)
  repeat' (first | with_reducible assumption | split | with_reducible apply State.holdStripe_inv | with_reducible apply State.logLost_inv | with_reducible apply State.readLost_inv | with_reducible apply State.readRow_inv | (intro _) | refine Inv.frame ?_)


theorem State.deckWrite_inv {s : State} (bank row n : Nat) (rows : BitVec 7) (whole : Bool) (ecc : RowEcc) (hI : s.Inv) :
    State.Inv (State.deckWrite s bank row n rows whole ecc) := by
  unfold State.deckWrite
  (try dsimp only)
  repeat' (first | with_reducible assumption | split | with_reducible apply State.holdStripe_inv | with_reducible apply State.mendRows_inv | with_reducible apply State.writeReads_inv | (intro _) | refine Inv.frame ?_)


theorem execDeckRowAccess_inv (bank : BitVec 7) (reqs : List DeckReq) (ecc : RowEcc) {s : State} (hI : s.Inv) :
    ∃ out, execDeckRowAccess bank reqs ecc s = .next out ∧ out.Inv := by
  unfold execDeckRowAccess
  refine ⟨_, rfl, ?_⟩
  (try dsimp only)
  repeat' (first | with_reducible assumption | split | with_reducible apply State.begunAccess_inv | with_reducible apply State.deckRead_inv | with_reducible apply State.deckWrite_inv | with_reducible apply State.grant_inv | (intro _) | refine Inv.frame ?_)


theorem State.scrubRow_inv {s : State} (bank row : Nat) (ecc : RowEcc) (hI : s.Inv) :
    State.Inv (State.scrubRow s bank row ecc).1 := by
  unfold State.scrubRow
  (try dsimp only)
  repeat' (first | with_reducible assumption | split | with_reducible apply State.holdStripe_inv | with_reducible apply State.logLost_inv | with_reducible apply State.readRow_inv | (intro _) | refine Inv.frame ?_)


theorem State.mendParity_inv {s : State} (bank row : Nat) (hI : s.Inv) :
    State.Inv (State.mendParity s bank row) := by
  unfold State.mendParity
  (try dsimp only)
  repeat' (first | with_reducible assumption | split | with_reducible apply State.countRebuild_inv | (intro _) | refine Inv.frame ?_)


theorem execScrubRead_inv (ecc : RowEcc) {s : State} (hI : s.Inv) :
    ∃ out, execScrubRead ecc s = .next out ∧ out.Inv := by
  unfold execScrubRead
  refine ⟨_, rfl, ?_⟩
  (try dsimp only)
  repeat' (first | with_reducible assumption | split | with_reducible apply State.scrubRow_inv | (intro _) | refine Inv.frame ?_)


theorem State.saveFailed_inv {s : State} (k : BitVec 20) (i : Nat) (status : BitVec 8) (hI : s.Inv) :
    State.Inv (State.saveFailed s k i status) := by
  unfold State.saveFailed
  (try dsimp only)
  repeat' (first | with_reducible assumption | split | with_reducible apply State.setSlice_inv | with_reducible apply State.teardown_inv | (intro _) | refine Inv.frame ?_)


theorem State.lateLog_inv {s : State} (k : BitVec 20) (group : BitVec 4) (gen : BitVec 8) (engine : Nat) (hI : s.Inv) :
    State.Inv (State.lateLog s k group gen engine) := by
  unfold State.lateLog
  (try dsimp only)
  repeat' (first | with_reducible assumption | split | (intro _) | refine Inv.frame ?_)


theorem execLateWrite_inv (group : BitVec 4) (gen : BitVec 8) (src : LateWrite) {s : State} (hI : s.Inv) :
    ∃ out, execLateWrite group gen src s = .next out ∧ out.Inv := by
  unfold execLateWrite
  refine ⟨_, rfl, ?_⟩
  (try dsimp only)
  repeat' (first | with_reducible assumption | split | with_reducible apply State.lateLog_inv | with_reducible apply State.restoreFailed_inv | with_reducible apply State.saveFailed_inv | with_reducible apply State.settleStream_inv | with_reducible apply State.updStream_inv | (intro _) | refine Inv.frame ?_)


theorem State.writeRegion_inv {s : State} (r : Nat) (v : W64) (hI : s.Inv) :
    State.Inv (State.writeRegion s r v) := by
  unfold State.writeRegion
  (try dsimp only)
  repeat' (first | with_reducible assumption | split | with_reducible apply State.logHw_inv | (intro _) | refine Inv.frame ?_)


theorem execDeckRegionZeroed_inv (r : BitVec 6) {s : State} (hI : s.Inv) :
    ∃ out, execDeckRegionZeroed r s = .next out ∧ out.Inv := by
  unfold execDeckRegionZeroed
  refine ⟨_, rfl, ?_⟩
  (try dsimp only)
  repeat' (first | with_reducible assumption | split | refine Inv.frameMem ?_ (memWriteBytes_wf _ _ _ (State.Inv.mem ?_)) | refine Inv.frameMem ?_ (memZero_wf _ _ _ (State.Inv.mem ?_)) | (intro _) | refine Inv.frame ?_)


theorem State.writeImage_inv {s : State} (x : Entry) (m : Image) (pages : List Nat) (hI : s.Inv) :
    State.Inv (State.writeImage s x m pages) := by
  unfold State.writeImage
  (try dsimp only)
  repeat' (first | with_reducible assumption | split | with_reducible apply State.each_inv | with_reducible apply State.ringWrite_inv | (intro _) | refine Inv.frame ?_)


theorem State.imageWritten_inv {s : State} (ord : Nat) (ok : Bool) (hI : s.Inv) :
    State.Inv (State.imageWritten s ord ok) := by
  unfold State.imageWritten
  (try dsimp only)
  repeat' (first | with_reducible assumption | split | with_reducible apply State.report_inv | with_reducible apply State.teardown_inv | (intro _) | refine Inv.frame ?_)


theorem State.traceLoad_inv {s : State} (c : BitVec 6) (x : Entry) (last status : Nat) (hI : s.Inv) :
    State.Inv (State.traceLoad s c x last status) := by
  unfold State.traceLoad
  (try dsimp only)
  repeat' (first | with_reducible assumption | split | with_reducible apply State.each_inv | with_reducible apply State.trace_inv | (intro _) | refine Inv.frame ?_)


theorem execLoaderRun_inv (e : Nat) {s : State} (hI : s.Inv) :
    ∃ out, execLoaderRun e s = .next out ∧ out.Inv := by
  unfold execLoaderRun
  refine ⟨_, rfl, ?_⟩
  (try dsimp only)
  repeat' (first | with_reducible assumption | split | with_reducible apply State.rejectLoad_inv | with_reducible apply State.report_inv | with_reducible apply State.traceLoad_inv | with_reducible apply State.updEntry_inv | with_reducible apply State.writeImage_inv | (intro _) | refine Inv.frame ?_)


theorem State.rewriteImages_inv {s : State} (hI : s.Inv) :
    State.Inv (State.rewriteImages s) := by
  unfold State.rewriteImages
  (try dsimp only)
  repeat' (first | with_reducible assumption | split | with_reducible apply State.each_inv | with_reducible apply State.report_inv | with_reducible apply State.writeImage_inv | (intro _) | refine Inv.frame ?_)


theorem State.descArrived_inv {s : State} (key : Nat) (data : Option (List Byte)) (hI : s.Inv) :
    State.Inv (State.descArrived s key data) := by
  unfold State.descArrived
  (try dsimp only)
  repeat' (first | with_reducible assumption | split | with_reducible apply State.beginEvict_inv | with_reducible apply State.dropStream_inv | with_reducible apply State.freeResidency_inv | with_reducible apply State.hauLog_inv | with_reducible apply State.teardown_inv | with_reducible apply State.updRes_inv | (intro _) | refine Inv.frame ?_)


theorem State.objArrived_inv {s : State} (t : BitVec 4) (c : BitVec 20) (h : W32) (b : List Byte) (hI : s.Inv) :
    State.Inv (State.objArrived s t c h b) := by
  unfold State.objArrived
  (try dsimp only)
  repeat' (first | with_reducible assumption | split | with_reducible apply State.fillObject_inv | with_reducible apply State.objPut_inv | (intro _) | refine Inv.frame ?_)


theorem State.fieldsArrived_inv {s : State} (t : BitVec 4) (c : BitVec 20) (h : W32) (b : List Byte) (hI : s.Inv) :
    State.Inv (State.fieldsArrived s t c h b) := by
  unfold State.fieldsArrived
  (try dsimp only)
  repeat' (first | with_reducible assumption | split | with_reducible apply State.objPut_inv | with_reducible apply State.objectRead_inv | with_reducible apply State.updCtx_inv | (intro _) | refine Inv.frame ?_)


theorem State.objFailed_inv {s : State} (t : BitVec 4) (c : BitVec 20) (h : W32) (hI : s.Inv) :
    State.Inv (State.objFailed s t c h) := by
  unfold State.objFailed
  (try dsimp only)
  repeat' (first | with_reducible assumption | split | with_reducible apply State.updThread_inv | (intro _) | refine Inv.frame ?_)


theorem State.graphObject_inv {s : State} (e : Nat) (c : BitVec 20) (h : W32) (b : List Byte) (hI : s.Inv) :
    State.Inv (State.graphObject s e c h b) := by
  unfold State.graphObject
  (try dsimp only)
  repeat' (first | with_reducible assumption | split | with_reducible apply State.fillObject_inv | with_reducible apply State.report_inv | with_reducible apply State.updEntry_inv | (intro _) | refine Inv.frame ?_)


theorem State.graphFields_inv {s : State} (c : BitVec 20) (b : List Byte) (hI : s.Inv) :
    State.Inv (State.graphFields s c b) := by
  unfold State.graphFields
  (try dsimp only)
  repeat' (first | with_reducible assumption | split | with_reducible apply State.updCtx_inv | (intro _) | refine Inv.frame ?_)


theorem State.graphReadFailed_inv {s : State} (e : Nat) (c : BitVec 20) (hI : s.Inv) :
    State.Inv (State.graphReadFailed s e c) := by
  unfold State.graphReadFailed
  (try dsimp only)
  repeat' (first | with_reducible assumption | split | with_reducible apply State.report_inv | with_reducible apply State.teardown_inv | (intro _) | refine Inv.frame ?_)


theorem State.ringArrived_inv {s : State} (q : BitVec 14) (pa : Nat) (data : Option (List Byte)) (n : Nat) (hI : s.Inv) :
    State.Inv (State.ringArrived s q pa data n) := by
  unfold State.ringArrived
  (try dsimp only)
  repeat' (first | with_reducible assumption | split | with_reducible apply State.packetlessRejection_inv | with_reducible apply State.updQueue_inv | (intro _) | refine Inv.frame ?_)


theorem State.cplAnswered_inv {s : State} (q : BitVec 14) (c : Option (BitVec 20)) (k : W32) (ok : Bool) (hI : s.Inv) :
    State.Inv (State.cplAnswered s q c k ok) := by
  unfold State.cplAnswered
  (try dsimp only)
  repeat' (first | with_reducible assumption | split | with_reducible apply State.logHw_inv | with_reducible apply State.raise_inv | (intro _) | refine Inv.frame ?_)


theorem State.cplWritten_inv {s : State} (q : BitVec 14) (k : W32) (ok : Bool) (hI : s.Inv) :
    State.Inv (State.cplWritten s q k ok) := by
  unfold State.cplWritten
  (try dsimp only)
  repeat' (first | with_reducible assumption | split | with_reducible apply State.cplAnswered_inv | with_reducible apply State.updQueue_inv | (intro _) | refine Inv.frame ?_)


theorem State.mirrorWritten_inv {s : State} (n : BitVec 16) (ok : Bool) (hI : s.Inv) :
    State.Inv (State.mirrorWritten s n ok) := by
  unfold State.mirrorWritten
  (try dsimp only)
  repeat' (first | with_reducible assumption | split | with_reducible apply State.each_inv | with_reducible apply State.logHw_inv | with_reducible apply State.mirrorIssue_inv | with_reducible apply State.report_inv | with_reducible apply State.updBlaze_inv | (intro _) | refine Inv.frame ?_)


theorem State.messageAnswered_inv {s : State} (v : Nat) (ok : Bool) (hI : s.Inv) :
    State.Inv (State.messageAnswered s v ok) := by
  unfold State.messageAnswered
  (try dsimp only)
  repeat' (first | with_reducible assumption | split | with_reducible apply State.logHw_inv | with_reducible apply State.updVec_inv | (intro _) | refine Inv.frame ?_)


theorem State.reclaimed_inv {s : State} (key : Nat) (ok : Bool) (hI : s.Inv) :
    State.Inv (State.reclaimed s key ok) := by
  unfold State.reclaimed
  (try dsimp only)
  repeat' (first | with_reducible assumption | split | with_reducible apply State.dropCopies_inv | with_reducible apply State.dropStream_inv | with_reducible apply State.hauLog_inv | with_reducible apply State.report_inv | (intro _) | refine Inv.frame ?_)


theorem State.imageArrived_inv {s : State} (page : Option (BitVec 8)) (off : Nat) (data : Option (List Byte)) (hI : s.Inv) :
    State.Inv (State.imageArrived s page off data) := by
  unfold State.imageArrived
  (try dsimp only)
  repeat' (first | with_reducible assumption | split | with_reducible apply State.fwAsk_inv | (intro _) | refine Inv.frame ?_)


theorem State.spanArrived_inv {s : State} (page : BitVec 8) (k : BitVec 20) (data : Option (List Byte)) (hI : s.Inv) :
    State.Inv (State.spanArrived s page k data) := by
  unfold State.spanArrived
  (try dsimp only)
  repeat' (first | with_reducible assumption | split | (intro _) | refine Inv.frame ?_)


theorem State.masksWritten_inv {s : State} (k : BitVec 20) (ok : Bool) (hI : s.Inv) :
    State.Inv (State.masksWritten s k ok) := by
  unfold State.masksWritten
  (try dsimp only)
  repeat' (first | with_reducible assumption | split | with_reducible apply State.evictions_inv | with_reducible apply State.saveFailed_inv | (intro _) | refine Inv.frame ?_)


theorem State.readOkay_inv {s : State} (t : Txn) (b : List Byte) (hI : s.Inv) :
    State.Inv (State.readOkay s t b) := by
  unfold State.readOkay
  (try dsimp only)
  repeat' (first | with_reducible assumption | split | with_reducible apply State.chunkData_inv | with_reducible apply State.descArrived_inv | with_reducible apply State.fieldsArrived_inv | with_reducible apply State.graphFields_inv | with_reducible apply State.graphObject_inv | with_reducible apply State.imageArrived_inv | with_reducible apply State.masksArrived_inv | with_reducible apply State.objArrived_inv | with_reducible apply State.pageArrived_inv | with_reducible apply State.restoreData_inv | with_reducible apply State.ringArrived_inv | with_reducible apply State.spanArrived_inv | with_reducible apply State.spanRead_inv | with_reducible apply State.walkArrived_inv | (intro _) | refine Inv.frame ?_)


theorem State.readFailed_inv {s : State} (t : Txn) (poison : Bool) (hI : s.Inv) :
    State.Inv (State.readFailed s t poison) := by
  unfold State.readFailed
  (try dsimp only)
  repeat' (first | with_reducible assumption | split | with_reducible apply State.chunkReadFailed_inv | with_reducible apply State.descArrived_inv | with_reducible apply State.graphReadFailed_inv | with_reducible apply State.imageArrived_inv | with_reducible apply State.objFailed_inv | with_reducible apply State.pageFailed_inv | with_reducible apply State.restoreFailed_inv | with_reducible apply State.ringArrived_inv | with_reducible apply State.spanArrived_inv | with_reducible apply State.spanRead_inv | with_reducible apply State.teardown_inv | with_reducible apply State.walkFailed_inv | (intro _) | refine Inv.frame ?_)


theorem State.writeAnswered_inv {s : State} (t : Txn) (ok : Bool) (hI : s.Inv) : (s.writeAnswered t ok).Inv := by
  unfold State.writeAnswered
  generalize t.purpose = p
  cases p <;> dsimp only <;> (first | exact hI | skip)
  case chunkWrite => exact State.chunkWritten_inv _ _ _ hI
  case cplEntry => exact State.cplWritten_inv _ _ _ hI
  case cplPast => exact State.cplAnswered_inv _ _ _ _ hI
  case mirror => exact State.mirrorWritten_inv _ _ hI
  case irqMessage => exact State.messageAnswered_inv _ _ hI
  case faultRecord => exact Inv.ite (State.recordPosted_inv hI) (State.recordFailed_inv hI)
  case reclaim => exact State.reclaimed_inv _ _ hI
  case saveWrite => exact Inv.ite (State.settleSlice_inv _ _ hI) (State.saveFailed_inv _ _ _ hI)
  case maskWrite => exact State.masksWritten_inv _ _ hI
  case dump => exact State.dumpWritten_inv _ _ hI
  case imageWrite => exact State.imageWritten_inv _ _ hI


theorem State.portFail_inv {s : State} (t : Txn) (hI : s.Inv) :
    State.Inv (State.portFail s t) := by
  unfold State.portFail
  (try dsimp only)
  repeat' (first | with_reducible assumption | split | with_reducible apply State.logHw_inv | with_reducible apply State.raise_inv | (intro _) | refine Inv.frame ?_)


theorem State.tryInvert_inv {s : State} (hI : s.Inv) :
    State.Inv (State.tryInvert s) := by
  unfold State.tryInvert
  (try dsimp only)
  repeat' (first | with_reducible assumption | split | with_reducible apply State.promoteAll_inv | (intro _) | refine Inv.frame ?_)


theorem State.drainOne_inv {s : State} (mine : Txn → Bool) (hI : s.Inv) :
    State.Inv (State.drainOne s mine) := by
  unfold State.drainOne
  (try dsimp only)
  repeat' (first | with_reducible assumption | split | with_reducible apply State.promoteAll_inv | with_reducible apply State.tryInvert_inv | (intro _) | refine Inv.frame ?_)


theorem State.unexpected_inv {s : State} (write : Bool) (ifc : Nat) (epoch : Bool) (source : BitVec 6) (slot : Nat) (hI : s.Inv) :
    State.Inv (State.unexpected s write ifc epoch source slot) := by
  unfold State.unexpected
  (try dsimp only)
  repeat' (first | with_reducible assumption | split | with_reducible apply State.drainOne_inv | with_reducible apply State.raise_inv | (intro _) | refine Inv.frame ?_)


theorem State.answer_inv {s : State} (t : Txn) (resp : Resp) (poison : Bool) (accept fail : State → State) (hI : s.Inv) (haccept : ∀ (s : State) , s.Inv → (accept s ).Inv) (hfail : ∀ (s : State) , s.Inv → (fail s ).Inv) :
    State.Inv (State.answer s t resp poison accept fail) := by
  unfold State.answer
  (try dsimp only)
  repeat' (first | with_reducible assumption | with_reducible apply haccept | with_reducible apply hfail | split | with_reducible apply State.issueTxn_inv | with_reducible apply State.portFail_inv | with_reducible apply State.promoteAll_inv | (intro _) | refine Inv.frame ?_)


theorem execManagerReadResponse_inv (ifc : BitVec 6) (id : BitVec 12) (resp : Resp) (poison : Bool) (data : List Byte) {s : State} (hI : s.Inv) :
    ∃ out, execManagerReadResponse ifc id resp poison data s = .next out ∧ out.Inv := by
  unfold execManagerReadResponse
  refine ⟨_, rfl, ?_⟩
  (try dsimp only)
  repeat' (first | with_reducible assumption | split | with_reducible apply State.answer_inv | with_reducible apply State.readFailed_inv | with_reducible apply State.readOkay_inv | with_reducible apply State.unexpected_inv | (intro _) | refine Inv.frame ?_)


theorem execManagerWriteResponse_inv (ifc : BitVec 6) (id : BitVec 12) (resp : Resp) {s : State} (hI : s.Inv) :
    ∃ out, execManagerWriteResponse ifc id resp s = .next out ∧ out.Inv := by
  unfold execManagerWriteResponse
  refine ⟨_, rfl, ?_⟩
  (try dsimp only)
  repeat' (first | with_reducible assumption | split | with_reducible apply State.answer_inv | with_reducible apply State.unexpected_inv | with_reducible apply State.writeAnswered_inv | (intro _) | refine Inv.frame ?_)


theorem execPortTimeout_inv {s : State} (hI : s.Inv) :
    ∃ out, execPortTimeout s = .next out ∧ out.Inv := by
  unfold execPortTimeout
  refine ⟨_, rfl, ?_⟩
  (try dsimp only)
  repeat' (first | with_reducible assumption | split | with_reducible apply State.ask_inv | (intro _) | refine Inv.frame ?_)


theorem execDrainTimeout_inv {s : State} (hI : s.Inv) :
    ∃ out, execDrainTimeout s = .next out ∧ out.Inv := by
  unfold execDrainTimeout
  refine ⟨_, rfl, ?_⟩
  (try dsimp only)
  repeat' (first | with_reducible assumption | split | with_reducible apply State.enterOos_inv | with_reducible apply State.raise_inv | with_reducible apply State.foldl_inv | (intro _) | refine Inv.frame ?_)


end Sys2Proof.Machine
end

