-- ==== Sys2Proof/Laws/InvCommands.lean ====
section
/-! SUPPORT. The invariant `State.Inv` is kept by the operations of Machine/Routines.lean, Machine/Graphs.lean, Machine/Commands.lean. -/

namespace Sys2Proof.Machine

set_option linter.unusedTactic false
set_option linter.unreachableTactic false

theorem State.resolveAll_inv (c : BitVec 20) (t : BitVec 4) (l : List W32) :
    ∀ (i : Nat) (s : State), s.Inv → (State.resolveAll c t l i s).1.Inv := by
  induction l with
  | nil => exact fun _ _ h => h
  | cons a l ih =>
    intro i s h
    unfold State.resolveAll
    (try dsimp only)
    repeat' (first | with_reducible assumption | split | with_reducible apply ih | with_reducible apply State.park_inv | with_reducible apply State.objPut_inv | with_reducible apply State.objMiss_inv)


theorem State.readRecord_inv {s : State} (t : BitVec 4) (region key : Nat) (hI : s.Inv) :
    State.Inv (State.readRecord s t region key) := by
  unfold State.readRecord
  (try dsimp only)
  repeat' (first | with_reducible assumption | split | with_reducible apply State.park_inv | with_reducible apply State.updThread_inv | (intro _) | refine Inv.frame ?_)


theorem State.routineEnd_inv {s : State} (t : BitVec 4) (y : Routine) (hI : s.Inv) :
    State.Inv (State.routineEnd s t y) := by
  unfold State.routineEnd
  (try dsimp only)
  repeat' (first | with_reducible assumption | split | with_reducible apply State.admitPacket_inv | with_reducible apply State.readRecord_inv | with_reducible apply State.reject_inv | with_reducible apply State.updThread_inv | (intro _) | refine Inv.frame ?_)


theorem State.routine_inv {s : State} (t : BitVec 4) (op : Nat) (r : State → Routine) (hI : s.Inv) :
    State.Inv (State.routine s t op r) := by
  unfold State.routine
  (try dsimp only)
  repeat' (first | with_reducible assumption | split | with_reducible apply State.readRecord_inv | with_reducible apply State.reject_inv | with_reducible apply State.resolveAll_inv | with_reducible apply State.routineEnd_inv | (intro _) | refine Inv.frame ?_)


theorem State.freeRoutine_inv {s : State} (t : BitVec 4) (hI : s.Inv) :
    State.Inv (State.freeRoutine s t) := by
  unfold State.freeRoutine
  (try dsimp only)
  repeat' (first | with_reducible assumption | split | with_reducible apply State.admitPacket_inv | with_reducible apply State.fillObject_inv | with_reducible apply State.park_inv | with_reducible apply State.reject_inv | with_reducible apply State.resolveAll_inv | with_reducible apply State.updThread_inv | (intro _) | refine Inv.frame ?_)


theorem State.resolveGraph_inv (e : Nat) (c : BitVec 20) (l : List W32) :
    ∀ (s : State) (a : Resolving), s.Inv → (State.resolveGraph e c l s a).1.Inv := by
  induction l with
  | nil => exact fun _ _ h => h
  | cons a l ih =>
    intro s a h
    unfold State.resolveGraph
    (try dsimp only)
    repeat' (first | with_reducible assumption | split | with_reducible apply ih | with_reducible apply State.updEntry_inv | with_reducible apply State.walkRead_inv)


theorem State.graphRefs_inv {s : State} (c : BitVec 20) (g : BitVec 12) (x : Entry) (l : List W32) (hI : s.Inv) :
    State.Inv (State.graphRefs s c g x l) := by
  unfold State.graphRefs
  (try dsimp only)
  repeat' (first | with_reducible assumption | split | with_reducible apply State.each_inv | with_reducible apply State.takeRef_inv | with_reducible apply State.updGraph_inv | (intro _) | refine Inv.frame ?_)


theorem State.applyLoad_inv {s : State} (e : Nat) (x : Entry) (hI : s.Inv) :
    State.Inv (State.applyLoad s e x) := by
  unfold State.applyLoad
  (try dsimp only)
  repeat' (first | with_reducible assumption | split | with_reducible apply State.graphRefs_inv | with_reducible apply State.report_inv | with_reducible apply State.resolveGraph_inv | with_reducible apply State.updGraph_inv | (intro _) | refine Inv.frame ?_)


theorem execGraphLoad_inv (st : OpStep) {s : State} (hI : s.Inv) :
    ∃ out, execGraphLoad st s = .next out ∧ out.Inv := by
  unfold execGraphLoad
  refine ⟨_, rfl, ?_⟩
  (try dsimp only)
  repeat' (first | with_reducible assumption | split | with_reducible apply State.applyLoad_inv | with_reducible apply State.haulIssue_inv | with_reducible apply State.report_inv | with_reducible apply State.routine_inv | (intro _) | refine Inv.frame ?_)


theorem State.applyPatch_inv {s : State} (e : Nat) (x : Entry) (hI : s.Inv) :
    State.Inv (State.applyPatch s e x) := by
  unfold State.applyPatch
  (try dsimp only)
  repeat' (first | with_reducible assumption | split | with_reducible apply State.graphRefs_inv | with_reducible apply State.report_inv | with_reducible apply State.resolveGraph_inv | with_reducible apply State.settleGraph_inv | with_reducible apply State.updEntry_inv | with_reducible apply State.updGraph_inv | (intro _) | refine Inv.frame ?_)


theorem execGraphPatch_inv (st : OpStep) {s : State} (hI : s.Inv) :
    ∃ out, execGraphPatch st s = .next out ∧ out.Inv := by
  unfold execGraphPatch
  refine ⟨_, rfl, ?_⟩
  (try dsimp only)
  repeat' (first | with_reducible assumption | split | with_reducible apply State.applyPatch_inv | with_reducible apply State.haulIssue_inv | with_reducible apply State.report_inv | with_reducible apply State.routine_inv | (intro _) | refine Inv.frame ?_)


theorem State.startGraph_inv {s : State} (e : Nat) (x : Entry) (hI : s.Inv) :
    State.Inv (State.startGraph s e x) := by
  unfold State.startGraph
  (try dsimp only)
  repeat' (first | with_reducible assumption | split | with_reducible apply State.freshWord_inv | with_reducible apply State.issue_inv | with_reducible apply State.report_inv | with_reducible apply State.updEntry_inv | (intro _) | refine Inv.frame ?_)


theorem execGraphLaunch_inv (st : OpStep) {s : State} (hI : s.Inv) :
    ∃ out, execGraphLaunch st s = .next out ∧ out.Inv := by
  unfold execGraphLaunch
  refine ⟨_, rfl, ?_⟩
  (try dsimp only)
  repeat' (first | with_reducible assumption | split | with_reducible apply State.routine_inv | with_reducible apply State.startGraph_inv | (intro _) | refine Inv.frame ?_)


theorem execGraphNodeAdmission_inv (e : Nat) {s : State} (hI : s.Inv) :
    ∃ out, execGraphNodeAdmission e s = .next out ∧ out.Inv := by
  unfold execGraphNodeAdmission
  refine ⟨_, rfl, ?_⟩
  (try dsimp only)
  repeat' (first | with_reducible assumption | split | with_reducible apply State.meetAtCommit_inv | with_reducible apply State.putEntry_inv | with_reducible apply State.report_inv | with_reducible apply State.restartTimer_inv | with_reducible apply State.teardown_inv | with_reducible apply State.updEntry_inv | (intro _) | refine Inv.frame ?_)


theorem execGraphRelease_inv (st : OpStep) {s : State} (hI : s.Inv) :
    ∃ out, execGraphRelease st s = .next out ∧ out.Inv := by
  unfold execGraphRelease
  refine ⟨_, rfl, ?_⟩
  (try dsimp only)
  repeat' (first | with_reducible assumption | split | with_reducible apply State.issue_inv | with_reducible apply State.report_inv | with_reducible apply State.routine_inv | with_reducible apply State.settleGraph_inv | (intro _) | refine Inv.frame ?_)


theorem State.start_inv {s : State} (e : Nat) (kind : Nat) (f : State → Entry → State) (hI : s.Inv) (hf : ∀ (s : State) (a0 : Entry), s.Inv → (f s a0).Inv) :
    State.Inv (State.start s e kind f) := by
  unfold State.start
  (try dsimp only)
  repeat' (first | with_reducible assumption | with_reducible apply hf | split | with_reducible apply State.issue_inv | with_reducible apply State.report_inv | (intro _) | refine Inv.frame ?_)


theorem execNop_inv (st : OpStep) {s : State} (hI : s.Inv) :
    ∃ out, execNop st s = .next out ∧ out.Inv := by
  unfold execNop
  refine ⟨_, rfl, ?_⟩
  (try dsimp only)
  repeat' (first | with_reducible assumption | split | with_reducible apply State.report_inv | with_reducible apply State.routine_inv | with_reducible apply State.start_inv | (intro _) | refine Inv.frame ?_)


theorem State.placements_inv {s t : State} (hI : s.Inv) (h : t ∈ s.placements) : t.Inv := by
  unfold State.placements at h
  obtain ⟨o, ho, e⟩ := List.mem_filterMap.mp h
  have hn : o = .next t := by
    cases o <;> simp at e
    rw [e]
  rcases List.mem_cons.mp ho with rfl | ho
  · obtain ⟨u, hu, hi⟩ := execBestEffortDispatch_inv hI
    rw [hu] at hn
    cases hn
    exact hi
  · obtain ⟨c, _, rfl⟩ := List.mem_map.mp ho
    obtain ⟨u, hu, hi⟩ := execSharePlacement_inv c hI
    rw [hu] at hn
    cases hn
    exact hi


theorem execLaunch_inv (st : OpStep) {s : State} (hI : s.Inv) :
    ∃ out, execLaunch st s = .next out ∧ out.Inv := by
  unfold execLaunch
  refine ⟨_, rfl, ?_⟩
  split
  · exact State.routine_inv _ _ _ hI
  · split
    · split
      · cases h : s.placements.find? _ with
        | none => exact hI
        | some t => exact State.placements_inv hI (List.mem_of_find?_eq_some h)
      · exact hI
    · exact hI


theorem execHaul_inv (st : OpStep) {s : State} (hI : s.Inv) :
    ∃ out, execHaul st s = .next out ∧ out.Inv := by
  unfold execHaul
  refine ⟨_, rfl, ?_⟩
  (try dsimp only)
  repeat' (first | with_reducible assumption | split | with_reducible apply State.haulIssue_inv | with_reducible apply State.routine_inv | (intro _) | refine Inv.frame ?_)


theorem execSignal_inv (st : OpStep) {s : State} (hI : s.Inv) :
    ∃ out, execSignal st s = .next out ∧ out.Inv := by
  unfold execSignal
  refine ⟨_, rfl, ?_⟩
  (try dsimp only)
  repeat' (first | with_reducible assumption | split | with_reducible apply State.blazeUpdate_inv | with_reducible apply State.each_inv | with_reducible apply State.report_inv | with_reducible apply State.routine_inv | with_reducible apply State.start_inv | (intro _) | refine Inv.frame ?_)


theorem execWait_inv (st : OpStep) {s : State} (hI : s.Inv) :
    ∃ out, execWait st s = .next out ∧ out.Inv := by
  unfold execWait
  refine ⟨_, rfl, ?_⟩
  (try dsimp only)
  repeat' (first | with_reducible assumption | split | with_reducible apply State.report_inv | with_reducible apply State.routine_inv | with_reducible apply State.start_inv | (intro _) | refine Inv.frame ?_)


theorem execProgramLoad_inv (st : OpStep) {s : State} (hI : s.Inv) :
    ∃ out, execProgramLoad st s = .next out ∧ out.Inv := by
  unfold execProgramLoad
  refine ⟨_, rfl, ?_⟩
  (try dsimp only)
  repeat' (first | with_reducible assumption | split | with_reducible apply State.haulIssue_inv | with_reducible apply State.routine_inv | (intro _) | refine Inv.frame ?_)


theorem State.createContext_inv {s : State} (p : Packet) (hI : s.Inv) :
    State.Inv (State.createContext s p).1 := by
  unfold State.createContext
  (try dsimp only)
  repeat' (first | with_reducible assumption | split | with_reducible apply State.updCtx_inv | (intro _) | refine Inv.frame ?_)


theorem execContextCreate_inv (st : OpStep) {s : State} (hI : s.Inv) :
    ∃ out, execContextCreate st s = .next out ∧ out.Inv := by
  unfold execContextCreate
  refine ⟨_, rfl, ?_⟩
  (try dsimp only)
  repeat' (first | with_reducible assumption | split | with_reducible apply State.createContext_inv | with_reducible apply State.report_inv | with_reducible apply State.routine_inv | with_reducible apply State.start_inv | (intro _) | refine Inv.frame ?_)


theorem State.inertEntries_inv {s : State} (k : BitVec 20) (hI : s.Inv) :
    State.Inv (State.inertEntries s k) := by
  unfold State.inertEntries
  (try dsimp only)
  repeat' (first | with_reducible assumption | split | (intro _) | refine Inv.frame ?_)


theorem State.destroyContext_inv {s : State} (e : Nat) (k : BitVec 20) (hI : s.Inv) :
    State.Inv (State.destroyContext s e k) := by
  unfold State.destroyContext
  (try dsimp only)
  repeat' (first | with_reducible assumption | split | with_reducible apply State.beginEvict_inv | with_reducible apply State.each_inv | with_reducible apply State.inertEntries_inv | with_reducible apply State.releaseGraphs_inv | with_reducible apply State.report_inv | with_reducible apply State.settle_inv | with_reducible apply State.teardown_inv | with_reducible apply State.updCtx_inv | with_reducible apply State.updQueue_inv | (intro _) | refine Inv.frame ?_)


theorem execContextDestroy_inv (st : OpStep) {s : State} (hI : s.Inv) :
    ∃ out, execContextDestroy st s = .next out ∧ out.Inv := by
  unfold execContextDestroy
  refine ⟨_, rfl, ?_⟩
  (try dsimp only)
  repeat' (first | with_reducible assumption | split | with_reducible apply State.destroyContext_inv | with_reducible apply State.routine_inv | with_reducible apply State.start_inv | (intro _) | refine Inv.frame ?_)


theorem execContextKill_inv (st : OpStep) {s : State} (hI : s.Inv) :
    ∃ out, execContextKill st s = .next out ∧ out.Inv := by
  unfold execContextKill
  refine ⟨_, rfl, ?_⟩
  (try dsimp only)
  repeat' (first | with_reducible assumption | split | with_reducible apply State.report_inv | with_reducible apply State.routine_inv | with_reducible apply State.start_inv | with_reducible apply State.teardownWith_inv | (intro _) | refine Inv.frame ?_)


theorem State.bindQueue_inv {s : State} (p : Packet) (hI : s.Inv) :
    State.Inv (State.bindQueue s p).1 := by
  unfold State.bindQueue
  (try dsimp only)
  repeat' (first | with_reducible assumption | split | with_reducible apply State.updQueue_inv | (intro _) | refine Inv.frame ?_)


theorem execQueueBind_inv (st : OpStep) {s : State} (hI : s.Inv) :
    ∃ out, execQueueBind st s = .next out ∧ out.Inv := by
  unfold execQueueBind
  refine ⟨_, rfl, ?_⟩
  (try dsimp only)
  repeat' (first | with_reducible assumption | split | with_reducible apply State.bindQueue_inv | with_reducible apply State.report_inv | with_reducible apply State.routine_inv | with_reducible apply State.start_inv | (intro _) | refine Inv.frame ?_)


theorem State.unbindQueue_inv {s : State} (e : Nat) (q : BitVec 14) (hI : s.Inv) :
    State.Inv (State.unbindQueue s e q) := by
  unfold State.unbindQueue
  (try dsimp only)
  repeat' (first | with_reducible assumption | split | with_reducible apply State.drainQueue_inv | with_reducible apply State.report_inv | with_reducible apply State.settle_inv | with_reducible apply State.updQueue_inv | (intro _) | refine Inv.frame ?_)


theorem execQueueUnbind_inv (st : OpStep) {s : State} (hI : s.Inv) :
    ∃ out, execQueueUnbind st s = .next out ∧ out.Inv := by
  unfold execQueueUnbind
  refine ⟨_, rfl, ?_⟩
  (try dsimp only)
  repeat' (first | with_reducible assumption | split | with_reducible apply State.routine_inv | with_reducible apply State.start_inv | with_reducible apply State.unbindQueue_inv | (intro _) | refine Inv.frame ?_)


theorem execObjectFree_inv (st : OpStep) {s : State} (hI : s.Inv) :
    ∃ out, execObjectFree st s = .next out ∧ out.Inv := by
  unfold execObjectFree
  refine ⟨_, rfl, ?_⟩
  (try dsimp only)
  repeat' (first | with_reducible assumption | split | with_reducible apply State.freeRoutine_inv | with_reducible apply State.report_inv | with_reducible apply State.routine_inv | with_reducible apply State.start_inv | with_reducible apply State.startReclaim_inv | with_reducible apply State.updEntry_inv | (intro _) | refine Inv.frame ?_)


theorem State.dropRange_inv {s : State} (k : BitVec 20) (all : Bool) (first pages : Nat) (hI : s.Inv) :
    State.Inv (State.dropRange s k all first pages) := by
  unfold State.dropRange
  (try dsimp only)
  repeat' (first | with_reducible assumption | split | with_reducible apply State.dropCopies_inv | (intro _) | refine Inv.frame ?_)


theorem State.invalidate_inv {s : State} (e : Nat) (p : Packet) (hI : s.Inv) :
    State.Inv (State.invalidate s e p) := by
  unfold State.invalidate
  (try dsimp only)
  repeat' (first | with_reducible assumption | split | with_reducible apply State.dropRange_inv | with_reducible apply State.settleInvals_inv | with_reducible apply State.updRes_inv | (intro _) | refine Inv.frame ?_)


theorem execTlbInvalidate_inv (st : OpStep) {s : State} (hI : s.Inv) :
    ∃ out, execTlbInvalidate st s = .next out ∧ out.Inv := by
  unfold execTlbInvalidate
  refine ⟨_, rfl, ?_⟩
  (try dsimp only)
  repeat' (first | with_reducible assumption | split | with_reducible apply State.invalidate_inv | with_reducible apply State.routine_inv | with_reducible apply State.start_inv | (intro _) | refine Inv.frame ?_)


theorem State.faultResume_inv {s : State} (p : Packet) (hI : s.Inv) :
    State.Inv (State.faultResume s p) := by
  unfold State.faultResume
  (try dsimp only)
  repeat' (first | with_reducible assumption | split | (intro _) | refine Inv.frame ?_)


theorem execFaultResume_inv (st : OpStep) {s : State} (hI : s.Inv) :
    ∃ out, execFaultResume st s = .next out ∧ out.Inv := by
  unfold execFaultResume
  refine ⟨_, rfl, ?_⟩
  (try dsimp only)
  repeat' (first | with_reducible assumption | split | with_reducible apply State.faultResume_inv | with_reducible apply State.report_inv | with_reducible apply State.routine_inv | with_reducible apply State.start_inv | (intro _) | refine Inv.frame ?_)


theorem State.configBlaze_inv {s : State} (e : Nat) (p : Packet) (hI : s.Inv) :
    State.Inv (State.configBlaze s e p) := by
  unfold State.configBlaze
  (try dsimp only)
  repeat' (first | with_reducible assumption | split | with_reducible apply State.mirrorIssue_inv | with_reducible apply State.report_inv | with_reducible apply State.updBlaze_inv | with_reducible apply State.updEntry_inv | (intro _) | refine Inv.frame ?_)


theorem execBlazeConfig_inv (st : OpStep) {s : State} (hI : s.Inv) :
    ∃ out, execBlazeConfig st s = .next out ∧ out.Inv := by
  unfold execBlazeConfig
  refine ⟨_, rfl, ?_⟩
  (try dsimp only)
  repeat' (first | with_reducible assumption | split | with_reducible apply State.configBlaze_inv | with_reducible apply State.routine_inv | with_reducible apply State.start_inv | (intro _) | refine Inv.frame ?_)


theorem State.testGo_inv {s : State} (t : BitVec 4) (target : Nat) (hI : s.Inv) :
    State.Inv (State.testGo s t target) := by
  unfold State.testGo
  (try dsimp only)
  repeat' (first | with_reducible assumption | split | with_reducible apply State.routine_inv | (intro _) | refine Inv.frame ?_)


theorem State.startTest_inv {s : State} (e target : Nat) (f : State → Entry → State) (hI : s.Inv) (hf : ∀ (s : State) (a0 : Entry), s.Inv → (f s a0).Inv) :
    State.Inv (State.startTest s e target f) := by
  unfold State.startTest
  (try dsimp only)
  repeat' (first | with_reducible assumption | with_reducible apply hf | split | with_reducible apply State.start_inv | (intro _) | refine Inv.frame ?_)


theorem State.beginTest_inv {s : State} (c : BitVec 6) (e : Nat) (hI : s.Inv) :
    State.Inv (State.beginTest s c e) := by
  unfold State.beginTest
  (try dsimp only)
  repeat' (first | with_reducible assumption | split | with_reducible apply State.updCluster_inv | (intro _) | refine Inv.frame ?_)


theorem State.testLeave_inv {s : State} (e : Nat) (c : BitVec 6) (hI : s.Inv) :
    State.Inv (State.testLeave s e c) := by
  unfold State.testLeave
  (try dsimp only)
  repeat' (first | with_reducible assumption | split | with_reducible apply State.beginSwitch_inv | with_reducible apply State.beginTest_inv | with_reducible apply State.leaveService_inv | with_reducible apply State.updCluster_inv | (intro _) | refine Inv.frame ?_)


theorem execSelfTestCluster_inv (st : TestStep) {s : State} (hI : s.Inv) :
    ∃ out, execSelfTestCluster st s = .next out ∧ out.Inv := by
  unfold execSelfTestCluster
  refine ⟨_, rfl, ?_⟩
  (try dsimp only)
  repeat' (first | with_reducible assumption | split | with_reducible apply State.failTest_inv | with_reducible apply State.report_inv | with_reducible apply State.routine_inv | with_reducible apply State.startTest_inv | with_reducible apply State.testGo_inv | with_reducible apply State.testLeave_inv | with_reducible apply State.updCluster_inv | (intro _) | refine Inv.frame ?_)


theorem State.emptyCaches_inv {s : State} (hI : s.Inv) :
    State.Inv (State.emptyCaches s) := by
  unfold State.emptyCaches
  (try dsimp only)
  repeat' (first | with_reducible assumption | split | (intro _) | refine Inv.frame ?_)


theorem State.blockTest_inv {s : State} (e : Nat) (hI : s.Inv) :
    State.Inv (State.blockTest s e) := by
  unfold State.blockTest
  (try dsimp only)
  repeat' (first | with_reducible assumption | split | with_reducible apply State.report_inv | (intro _) | refine Inv.frame ?_)


theorem execSelfTestFrontEnd_inv (st : TestStep) {s : State} (hI : s.Inv) :
    ∃ out, execSelfTestFrontEnd st s = .next out ∧ out.Inv := by
  unfold execSelfTestFrontEnd
  refine ⟨_, rfl, ?_⟩
  (try dsimp only)
  repeat' (first | with_reducible assumption | split | with_reducible apply State.blockTest_inv | with_reducible apply State.emptyCaches_inv | with_reducible apply State.refuseStart_inv | with_reducible apply State.report_inv | with_reducible apply State.routine_inv | with_reducible apply State.startTest_inv | with_reducible apply State.testGo_inv | (intro _) | refine Inv.frame ?_)


theorem execSelfTestDeck_inv (st : TestStep) {s : State} (hI : s.Inv) :
    ∃ out, execSelfTestDeck st s = .next out ∧ out.Inv := by
  unfold execSelfTestDeck
  refine ⟨_, rfl, ?_⟩
  (try dsimp only)
  repeat' (first | with_reducible assumption | split | with_reducible apply State.blockTest_inv | with_reducible apply State.mendParity_inv | with_reducible apply State.report_inv | with_reducible apply State.routine_inv | with_reducible apply State.scrubRow_inv | with_reducible apply State.startTest_inv | with_reducible apply State.testGo_inv | (intro _) | refine Inv.frame ?_)


end Sys2Proof.Machine
end

