-- ==== Sys2Proof/Laws/InvHost.lean ====
section
/-! SUPPORT. The invariant `State.Inv` is kept by the operations of Machine/Mailbox.lean, Machine/Irq.lean, Machine/HostPort.lean. -/

namespace Sys2Proof.Machine

set_option linter.unusedTactic false
set_option linter.unreachableTactic false

theorem State.spanRead_inv {s : State} (page : BitVec 8) (k : BitVec 20) (hI : s.Inv) :
    State.Inv (State.spanRead s page k) := by
  unfold State.spanRead
  (try dsimp only)
  repeat' (first | with_reducible assumption | split | with_reducible apply State.mpRead_inv | (intro _) | refine Inv.frame ?_)


theorem State.loadTable_inv {s : State} (page : BitVec 8) (image : Option (List Byte)) (hI : s.Inv) :
    State.Inv (State.loadTable s page image) := by
  unfold State.loadTable
  (try dsimp only)
  repeat' (first | with_reducible assumption | split | with_reducible apply State.mbxDone_inv | (intro _) | refine Inv.frame ?_)


theorem State.groupConfig_inv {s : State} (page : BitVec 8) (w : W64) (hI : s.Inv) :
    State.Inv (State.groupConfig s page w) := by
  unfold State.groupConfig
  (try dsimp only)
  repeat' (first | with_reducible assumption | split | with_reducible apply State.mbxDone_inv | (intro _) | refine Inv.frame ?_ | refine Inv.frameMap ?_ ?_ ?_ ?_ ?_ ?_ | with_reducible apply tmap_wf | with_reducible apply tset_wf | with_reducible apply tupd_wf | with_reducible apply State.Inv.groups | with_reducible apply State.Inv.clusters | with_reducible apply State.Inv.queues | with_reducible apply State.Inv.procs | with_reducible apply State.Inv.threads | exact tblWf_nil _)


theorem State.assignPart_inv {s : State} (page : BitVec 8) (w m : W64) (hI : s.Inv) :
    State.Inv (State.assignPart s page w m) := by
  unfold State.assignPart
  (try dsimp only)
  repeat' (first | with_reducible assumption | split | with_reducible apply State.cruise_inv | with_reducible apply State.each_inv | with_reducible apply State.join_inv | with_reducible apply State.mbxDone_inv | with_reducible apply State.updCluster_inv | with_reducible apply State.updPart_inv | (intro _) | refine Inv.frame ?_)


theorem State.regulatePart_inv {s : State} (page : BitVec 8) (w : W64) (hI : s.Inv) :
    State.Inv (State.regulatePart s page w) := by
  unfold State.regulatePart
  (try dsimp only)
  repeat' (first | with_reducible assumption | split | with_reducible apply State.mbxDone_inv | with_reducible apply State.promoteAll_inv | with_reducible apply State.updPart_inv | (intro _) | refine Inv.frame ?_)


theorem State.patchRequest_inv {s : State} (page : BitVec 8) (w2 : W64) (image : Option (List Byte)) (hI : s.Inv) :
    State.Inv (State.patchRequest s page w2 image) := by
  unfold State.patchRequest
  (try dsimp only)
  repeat' (first | with_reducible assumption | split | with_reducible apply State.mbxDone_inv | with_reducible apply State.patchOn_inv | (intro _) | refine Inv.frame ?_)


theorem State.ledgerAdd_inv {s : State} (page : BitVec 8) (w1 v : W64) (hI : s.Inv) :
    State.Inv (State.ledgerAdd s page w1 v) := by
  unfold State.ledgerAdd
  (try dsimp only)
  repeat' (first | with_reducible assumption | split | with_reducible apply State.mbxDone_inv | (intro _) | refine Inv.frame ?_)


theorem State.ledgerCopy_inv {s : State} (page : BitVec 8) (hI : s.Inv) :
    State.Inv (State.ledgerCopy s page) := by
  unfold State.ledgerCopy
  (try dsimp only)
  repeat' (first | with_reducible assumption | split | with_reducible apply State.mbxDone_inv | with_reducible apply State.powered_inv | (intro _) | refine Inv.frame ?_)


theorem State.dumpRequest_inv {s : State} (page : BitVec 8) (w1 w2 : W64) (hI : s.Inv) :
    State.Inv (State.dumpRequest s page w1 w2) := by
  unfold State.dumpRequest
  (try dsimp only)
  repeat' (first | with_reducible assumption | split | with_reducible apply State.mbxDone_inv | (intro _) | refine Inv.frame ?_)


theorem State.beginPoll_inv {s : State} (t : PState) (page : Option (BitVec 8)) (hI : s.Inv) :
    State.Inv (State.beginPoll s t page) := by
  unfold State.beginPoll
  (try dsimp only)
  repeat' (first | with_reducible assumption | split | with_reducible apply State.trace_inv | (intro _) | refine Inv.frame ?_)


theorem State.nextPoll_inv {s : State} (hI : s.Inv) :
    State.Inv (State.nextPoll s) := by
  unfold State.nextPoll
  (try dsimp only)
  repeat' (first | with_reducible assumption | split | with_reducible apply State.beginPoll_inv | (intro _) | refine Inv.frame ?_)


theorem State.powerRequest_inv {s : State} (page : BitVec 8) (w : W64) (hI : s.Inv) :
    State.Inv (State.powerRequest s page w) := by
  unfold State.powerRequest
  (try dsimp only)
  repeat' (first | with_reducible assumption | split | with_reducible apply State.mbxDone_inv | with_reducible apply State.nextPoll_inv | (intro _) | refine Inv.frame ?_)


theorem State.carryOut_inv {s : State} (page : BitVec 8) (image : Option (List Byte)) (hI : s.Inv) :
    State.Inv (State.carryOut s page image) := by
  unfold State.carryOut
  (try dsimp only)
  repeat' (first | with_reducible assumption | split | with_reducible apply State.assignPart_inv | with_reducible apply State.dropRead_inv | with_reducible apply State.dumpRequest_inv | with_reducible apply State.groupConfig_inv | with_reducible apply State.ledgerAdd_inv | with_reducible apply State.ledgerCopy_inv | with_reducible apply State.loadTable_inv | with_reducible apply State.mbxDone_inv | with_reducible apply State.patchRequest_inv | with_reducible apply State.powerRequest_inv | with_reducible apply State.regulatePart_inv | with_reducible apply State.updMbx_inv | (intro _) | refine Inv.frame ?_)


theorem State.goIgnored_inv {s : State} (page : BitVec 8) (v : W32) (hI : s.Inv) :
    State.Inv (State.goIgnored s page v) := by
  unfold State.goIgnored
  (try dsimp only)
  repeat' (first | with_reducible assumption | split | with_reducible apply State.logHw_inv | (intro _) | refine Inv.frame ?_)


theorem State.readImage_inv {s : State} (page : BitVec 8) (hI : s.Inv) :
    State.Inv (State.readImage s page) := by
  unfold State.readImage
  (try dsimp only)
  repeat' (first | with_reducible assumption | split | with_reducible apply State.fwAsk_inv | (intro _) | refine Inv.frame ?_)


theorem State.mbxGo_inv {s : State} (page : BitVec 8) (v : W32) (hI : s.Inv) :
    State.Inv (State.mbxGo s page v) := by
  unfold State.mbxGo
  (try dsimp only)
  repeat' (first | with_reducible assumption | split | with_reducible apply State.carryOut_inv | with_reducible apply State.goIgnored_inv | with_reducible apply State.readImage_inv | with_reducible apply State.trace_inv | with_reducible apply State.updMbx_inv | (intro _) | refine Inv.frame ?_)


theorem State.mbxWrite_inv {s : State} (page : BitVec 8) (off : Nat) (n : HostSize) (data : W512) (hI : s.Inv) :
    State.Inv (State.mbxWrite s page off n data) := by
  unfold State.mbxWrite
  (try dsimp only)
  repeat' (first | with_reducible assumption | split | with_reducible apply State.mbxGo_inv | with_reducible apply State.respond_inv | with_reducible apply State.updMbx_inv | (intro _) | refine Inv.frame ?_)


theorem State.mbxRead_inv {s : State} (page : BitVec 8) (off : Nat) (n : HostSize) (hI : s.Inv) :
    State.Inv (State.mbxRead s page off n) := by
  unfold State.mbxRead
  (try dsimp only)
  repeat' (first | with_reducible assumption | split | with_reducible apply State.respond_inv | (intro _) | refine Inv.frame ?_)


theorem State.mbxServeOne_inv {s : State} (a : HostAccess) (hI : s.Inv) :
    State.Inv (State.mbxServeOne s a) := by
  unfold State.mbxServeOne
  (try dsimp only)
  repeat' (first | with_reducible assumption | split | with_reducible apply State.mbxRead_inv | with_reducible apply State.mbxWrite_inv | (intro _) | refine Inv.frame ?_)


theorem State.mbxAccess_inv {s : State} (a : HostAccess) (hI : s.Inv) :
    State.Inv (State.mbxAccess s a) := by
  unfold State.mbxAccess
  (try dsimp only)
  repeat' (first | with_reducible assumption | split | with_reducible apply State.mbxServeOne_inv | with_reducible apply State.waitAccess_inv | (intro _) | refine Inv.frame ?_)


theorem State.mbxRow_inv {s : State} (page : BitVec 8) (v : W64) (mine : W512 → Bool) (hI : s.Inv) :
    State.Inv (State.mbxRow s page v mine) := by
  unfold State.mbxRow
  (try dsimp only)
  repeat' (first | with_reducible assumption | split | with_reducible apply State.host_inv | with_reducible apply State.mbxAccess_inv | (intro _) | refine Inv.frame ?_)


theorem State.mbxImage_inv {s : State} (page : BitVec 8) (v : W64) (code : Nat) (hI : s.Inv) :
    State.Inv (State.mbxImage s page v code) := by
  unfold State.mbxImage
  (try dsimp only)
  repeat' (first | with_reducible assumption | split | with_reducible apply State.carryOut_inv | with_reducible apply State.spanRead_inv | (intro _) | refine Inv.frame ?_)


theorem State.mbxImageRow_inv {s : State} (page : BitVec 8) (v : W64) (code : Nat) (step : ImageStep) (hI : s.Inv) :
    State.Inv (State.mbxImageRow s page v code step) := by
  unfold State.mbxImageRow
  (try dsimp only)
  repeat' (first | with_reducible assumption | split | with_reducible apply State.mbxImage_inv | with_reducible apply State.mbxRow_inv | (intro _) | refine Inv.frame ?_)


theorem execHello_inv (page : BitVec 8) (v : W64) {s : State} (hI : s.Inv) :
    ∃ out, execHello page v s = .next out ∧ out.Inv := by
  unfold execHello
  refine ⟨_, rfl, ?_⟩
  (try dsimp only)
  repeat' (first | with_reducible assumption | split | with_reducible apply State.mbxRow_inv | (intro _) | refine Inv.frame ?_)


theorem execRtTableLoad_inv (page : BitVec 8) (v : W64) (image : ImageStep) {s : State} (hI : s.Inv) :
    ∃ out, execRtTableLoad page v image s = .next out ∧ out.Inv := by
  unfold execRtTableLoad
  refine ⟨_, rfl, ?_⟩
  (try dsimp only)
  repeat' (first | with_reducible assumption | split | with_reducible apply State.mbxImageRow_inv | (intro _) | refine Inv.frame ?_)


theorem execShareCfg_inv (page : BitVec 8) (v : W64) {s : State} (hI : s.Inv) :
    ∃ out, execShareCfg page v s = .next out ∧ out.Inv := by
  unfold execShareCfg
  refine ⟨_, rfl, ?_⟩
  (try dsimp only)
  repeat' (first | with_reducible assumption | split | with_reducible apply State.mbxRow_inv | (intro _) | refine Inv.frame ?_)


theorem execSgCfg_inv (page : BitVec 8) (v : W64) {s : State} (hI : s.Inv) :
    ∃ out, execSgCfg page v s = .next out ∧ out.Inv := by
  unfold execSgCfg
  refine ⟨_, rfl, ?_⟩
  (try dsimp only)
  repeat' (first | with_reducible assumption | split | with_reducible apply State.mbxRow_inv | (intro _) | refine Inv.frame ?_)


theorem execPartAssign_inv (page : BitVec 8) (v : W64) {s : State} (hI : s.Inv) :
    ∃ out, execPartAssign page v s = .next out ∧ out.Inv := by
  unfold execPartAssign
  refine ⟨_, rfl, ?_⟩
  (try dsimp only)
  repeat' (first | with_reducible assumption | split | with_reducible apply State.mbxRow_inv | (intro _) | refine Inv.frame ?_)


theorem execPartRegulate_inv (page : BitVec 8) (v : W64) {s : State} (hI : s.Inv) :
    ∃ out, execPartRegulate page v s = .next out ∧ out.Inv := by
  unfold execPartRegulate
  refine ⟨_, rfl, ?_⟩
  (try dsimp only)
  repeat' (first | with_reducible assumption | split | with_reducible apply State.mbxRow_inv | (intro _) | refine Inv.frame ?_)


theorem execProgQuery_inv (page : BitVec 8) (v : W64) {s : State} (hI : s.Inv) :
    ∃ out, execProgQuery page v s = .next out ∧ out.Inv := by
  unfold execProgQuery
  refine ⟨_, rfl, ?_⟩
  (try dsimp only)
  repeat' (first | with_reducible assumption | split | with_reducible apply State.mbxRow_inv | (intro _) | refine Inv.frame ?_)


theorem execUcodePatch_inv (page : BitVec 8) (v : W64) (image : ImageStep) {s : State} (hI : s.Inv) :
    ∃ out, execUcodePatch page v image s = .next out ∧ out.Inv := by
  unfold execUcodePatch
  refine ⟨_, rfl, ?_⟩
  (try dsimp only)
  repeat' (first | with_reducible assumption | split | with_reducible apply State.mbxImageRow_inv | (intro _) | refine Inv.frame ?_)


theorem execLedgerRestore_inv (page : BitVec 8) (v : W64) {s : State} (hI : s.Inv) :
    ∃ out, execLedgerRestore page v s = .next out ∧ out.Inv := by
  unfold execLedgerRestore
  refine ⟨_, rfl, ?_⟩
  (try dsimp only)
  repeat' (first | with_reducible assumption | split | with_reducible apply State.mbxRow_inv | (intro _) | refine Inv.frame ?_)


theorem execLedgerFlush_inv (page : BitVec 8) (v : W64) {s : State} (hI : s.Inv) :
    ∃ out, execLedgerFlush page v s = .next out ∧ out.Inv := by
  unfold execLedgerFlush
  refine ⟨_, rfl, ?_⟩
  (try dsimp only)
  repeat' (first | with_reducible assumption | split | with_reducible apply State.mbxRow_inv | (intro _) | refine Inv.frame ?_)


theorem execWallclock_inv (page : BitVec 8) (v : W64) {s : State} (hI : s.Inv) :
    ∃ out, execWallclock page v s = .next out ∧ out.Inv := by
  unfold execWallclock
  refine ⟨_, rfl, ?_⟩
  (try dsimp only)
  repeat' (first | with_reducible assumption | split | with_reducible apply State.mbxRow_inv | (intro _) | refine Inv.frame ?_)


theorem execDumpArea_inv (page : BitVec 8) (v : W64) {s : State} (hI : s.Inv) :
    ∃ out, execDumpArea page v s = .next out ∧ out.Inv := by
  unfold execDumpArea
  refine ⟨_, rfl, ?_⟩
  (try dsimp only)
  repeat' (first | with_reducible assumption | split | with_reducible apply State.mbxRow_inv | (intro _) | refine Inv.frame ?_)


theorem execPowerPolicy_inv (page : BitVec 8) (v : W64) {s : State} (hI : s.Inv) :
    ∃ out, execPowerPolicy page v s = .next out ∧ out.Inv := by
  unfold execPowerPolicy
  refine ⟨_, rfl, ?_⟩
  (try dsimp only)
  repeat' (first | with_reducible assumption | split | with_reducible apply State.mbxRow_inv | (intro _) | refine Inv.frame ?_)


theorem execMbxGoReservedCode_inv (page : BitVec 8) (v : W64) {s : State} (hI : s.Inv) :
    ∃ out, execMbxGoReservedCode page v s = .next out ∧ out.Inv := by
  unfold execMbxGoReservedCode
  refine ⟨_, rfl, ?_⟩
  (try dsimp only)
  repeat' (first | with_reducible assumption | split | with_reducible apply State.mbxRow_inv | (intro _) | refine Inv.frame ?_)


theorem State.spendGrace_inv {s : State} (hI : s.Inv) :
    State.Inv (State.spendGrace s) := by
  unfold State.spendGrace
  (try dsimp only)
  repeat' (first | with_reducible assumption | split | (intro _) | refine Inv.frame ?_)


theorem State.delivered_inv {s : State} (n : Nat) (hI : s.Inv) :
    State.Inv (State.delivered s n) := by
  unfold State.delivered
  (try dsimp only)
  repeat' (first | with_reducible assumption | split | (intro _) | refine Inv.frame ?_)


theorem State.takeSource_inv {s : State} (n : Nat) (hn : n < 0x3FF) (hI : s.Inv) : (s.takeSource n).Inv := by
  refine Inv.frameIrq hI ?_ hI.irq.2.1 ?_
  · rw [BitVec.getLsbD_and, hI.irq.1, Bool.false_and]
  · rw [BitVec.getLsbD_or, hI.irq.2.2, BitVec.getLsbD_twoPow, Bool.false_or]
    simp
    omega

/-- An eligible source is below 0x3FF (R495). -/
theorem State.hostEligible_lt {s : State} {v : BitVec 3} {n : Nat} (h : s.hostEligible v = some n) : n < 0x3FF := by
  obtain ⟨p, hp, rfl⟩ := Option.map_eq_some_iff.mp h
  have := List.find?_some hp
  simp at this
  omega

/-- An eligible source is below 0x3FF (R495). -/
theorem State.fwEligible_lt {s : State} {p n : Nat} (h : s.fwEligible p = some n) : n < 0x3FF := by
  obtain ⟨p, hp, rfl⟩ := Option.map_eq_some_iff.mp h
  have := List.find?_some hp
  simp at this
  omega


theorem State.endService_inv {s : State} (n : Nat) (hI : s.Inv) : (s.endService n).Inv := by
  refine Inv.frameIrq hI hI.irq.1 hI.irq.2.1 ?_
  rw [BitVec.getLsbD_and, hI.irq.2.2, Bool.false_and]

/-- A word written without its spurious bit has none. -/
theorem noSpurious_clear (x : BitVec 1024) : (noSpurious x).getLsbD 0x3FF = false := by
  simp [noSpurious]


theorem State.completeBad_inv {s : State} (n : Nat) (hI : s.Inv) :
    State.Inv (State.completeBad s n) := by
  unfold State.completeBad
  (try dsimp only)
  repeat' (first | with_reducible assumption | split | with_reducible apply State.logHw_inv | (intro _) | refine Inv.frame ?_)


theorem State.irqWritten_inv {s : State} (hI : s.Inv) :
    State.Inv (State.irqWritten s) := by
  unfold State.irqWritten
  (try dsimp only)
  repeat' (first | with_reducible assumption | split | (intro _) | refine Inv.frame ?_)


theorem State.claim_inv {s : State} (v : BitVec 3) (hI : s.Inv) : (s.claim v).1.Inv := by
  unfold State.claim
  split
  · exact hI
  · dsimp only
    split
    · exact Inv.ite (State.updVec_inv _ _ (State.spendGrace_inv hI)) (State.spendGrace_inv hI)
    · rename_i n h
      dsimp only
      exact State.updVec_inv v _ (State.delivered_inv n (State.takeSource_inv n (State.hostEligible_lt h) (State.spendGrace_inv hI)))


theorem State.claimRead_inv {s : State} (v : BitVec 3) (hI : s.Inv) :
    State.Inv (State.claimRead s v) := by
  unfold State.claimRead
  (try dsimp only)
  repeat' (first | with_reducible assumption | split | with_reducible apply State.claim_inv | with_reducible apply State.respond_inv | (intro _) | refine Inv.frame ?_)


theorem State.completeWrite_inv {s : State} (v : BitVec 3) (value : W64) (hI : s.Inv) :
    State.Inv (State.completeWrite s v value) := by
  unfold State.completeWrite
  (try dsimp only)
  repeat' (first | with_reducible assumption | split | with_reducible apply State.completeBad_inv | with_reducible apply State.endService_inv | with_reducible apply State.irqWritten_inv | with_reducible apply State.updVec_inv | (intro _) | refine Inv.frame ?_)


theorem State.syncRead_inv {s : State} (hI : s.Inv) :
    State.Inv (State.syncRead s) := by
  unfold State.syncRead
  (try dsimp only)
  repeat' (first | with_reducible assumption | split | (intro _) | refine Inv.frame ?_)


theorem State.pendingWrite_inv {s : State} (k : BitVec 4) (value events : W64) (hI : s.Inv) :
    (s.pendingWrite k value events).Inv := by
  unfold State.pendingWrite
  exact State.each_inv _ _ (Inv.frameIrq (State.irqWritten_inv hI) (noSpurious_clear _) hI.irq.2.1 hI.irq.2.2) (fun _ _ h => State.raise_inv _ h)


theorem State.enableWrite_inv {s : State} (k : BitVec 4) (value : W64) (hI : s.Inv) : (s.enableWrite k value).Inv :=
  Inv.frameIrq (State.irqWritten_inv hI) hI.irq.1 (noSpurious_clear _) hI.irq.2.2


theorem State.vecAddrWrite_inv {s : State} (v : BitVec 3) (value : W64) (hI : s.Inv) :
    State.Inv (State.vecAddrWrite s v value) := by
  unfold State.vecAddrWrite
  (try dsimp only)
  repeat' (first | with_reducible assumption | split | with_reducible apply State.irqWritten_inv | with_reducible apply State.updVec_inv | (intro _) | refine Inv.frame ?_)


theorem State.vecCtrlWrite_inv {s : State} (v : BitVec 3) (value : W64) (hI : s.Inv) :
    State.Inv (State.vecCtrlWrite s v value) := by
  unfold State.vecCtrlWrite
  (try dsimp only)
  repeat' (first | with_reducible assumption | split | with_reducible apply State.irqWritten_inv | with_reducible apply State.updVec_inv | (intro _) | refine Inv.frame ?_)


theorem State.routeWrite_inv {s : State} (n : Nat) (value : W64) (hI : s.Inv) : (s.routeWrite n value).Inv :=
  have h := State.irqWritten_inv hI
  { h with
    routes := tupd_wf {} s.irq.routes n (fun r => { r with host := value.extractLsb' 56 8 }) hI.routes }


theorem execIrqClaim_inv (v : BitVec 3) {s : State} (hI : s.Inv) :
    ∃ out, execIrqClaim v s = .next out ∧ out.Inv := by
  unfold execIrqClaim
  refine ⟨_, rfl, ?_⟩
  (try dsimp only)
  repeat' (first | with_reducible assumption | split | with_reducible apply State.claimRead_inv | with_reducible apply State.host_inv | (intro _) | refine Inv.frame ?_)


theorem execIrqComplete_inv (v : BitVec 3) (value : W64) {s : State} (hI : s.Inv) :
    ∃ out, execIrqComplete v value s = .next out ∧ out.Inv := by
  unfold execIrqComplete
  refine ⟨_, rfl, ?_⟩
  (try dsimp only)
  repeat' (first | with_reducible assumption | split | with_reducible apply State.completeWrite_inv | with_reducible apply State.host_inv | with_reducible apply State.respond_inv | (intro _) | refine Inv.frame ?_)


theorem execIrqSync_inv {s : State} (hI : s.Inv) :
    ∃ out, execIrqSync s = .next out ∧ out.Inv := by
  unfold execIrqSync
  refine ⟨_, rfl, ?_⟩
  (try dsimp only)
  repeat' (first | with_reducible assumption | split | with_reducible apply State.host_inv | with_reducible apply State.syncRead_inv | (intro _) | refine Inv.frame ?_)


theorem execIrqPendingWrite_inv (k : BitVec 4) (value events : W64) {s : State} (hI : s.Inv) :
    ∃ out, execIrqPendingWrite k value events s = .next out ∧ out.Inv := by
  unfold execIrqPendingWrite
  refine ⟨_, rfl, ?_⟩
  (try dsimp only)
  repeat' (first | with_reducible assumption | split | with_reducible apply State.host_inv | with_reducible apply State.pendingWrite_inv | with_reducible apply State.respond_inv | (intro _) | refine Inv.frame ?_)


theorem execIrqEnableWrite_inv (k : BitVec 4) (value : W64) {s : State} (hI : s.Inv) :
    ∃ out, execIrqEnableWrite k value s = .next out ∧ out.Inv := by
  unfold execIrqEnableWrite
  refine ⟨_, rfl, ?_⟩
  (try dsimp only)
  repeat' (first | with_reducible assumption | split | with_reducible apply State.enableWrite_inv | with_reducible apply State.host_inv | with_reducible apply State.respond_inv | (intro _) | refine Inv.frame ?_)


theorem State.sendMessage_inv {s : State} (v : BitVec 3) (source : BitVec 10) (hI : s.Inv) :
    State.Inv (State.sendMessage s v source) := by
  unfold State.sendMessage
  (try dsimp only)
  repeat' (first | with_reducible assumption | split | with_reducible apply State.issueTxn_inv | with_reducible apply State.updVec_inv | (intro _) | refine Inv.frame ?_)


theorem execVectorMessage_inv (v : BitVec 3) {s : State} (hI : s.Inv) :
    ∃ out, execVectorMessage v s = .next out ∧ out.Inv := by
  unfold execVectorMessage
  refine ⟨_, rfl, ?_⟩
  (try dsimp only)
  repeat' (first | with_reducible assumption | split | with_reducible apply State.delivered_inv | with_reducible apply State.sendMessage_inv | with_reducible apply State.spendGrace_inv | with_reducible apply State.updVec_inv | (intro _) | refine Inv.frame ?_)


theorem execIrqMessageResend_inv (v : BitVec 3) {s : State} (hI : s.Inv) :
    ∃ out, execIrqMessageResend v s = .next out ∧ out.Inv := by
  unfold execIrqMessageResend
  refine ⟨_, rfl, ?_⟩
  (try dsimp only)
  repeat' (first | with_reducible assumption | split | with_reducible apply State.sendMessage_inv | (intro _) | refine Inv.frame ?_)


theorem execMessageAwaitTimeout_inv (v : BitVec 3) {s : State} (hI : s.Inv) :
    ∃ out, execMessageAwaitTimeout v s = .next out ∧ out.Inv := by
  unfold execMessageAwaitTimeout
  refine ⟨_, rfl, ?_⟩
  (try dsimp only)
  repeat' (first | with_reducible assumption | split | with_reducible apply State.abandonEntry_inv | with_reducible apply State.nextPoll_inv | (intro _) | refine Inv.frame ?_)


theorem execFirmwareClaim_inv (p : BitVec 7) {s : State} (hI : s.Inv) :
    ∃ out, execFirmwareClaim p s = .next out ∧ out.Inv := by
  unfold execFirmwareClaim
  refine ⟨_, rfl, ?_⟩
  split
  · exact hI
  · split
    · exact hI
    · rename_i n h
      exact State.updProc_inv _ _ (State.takeSource_inv _ (State.fwEligible_lt h) hI)


theorem execFirmwareComplete_inv (p : BitVec 7) (source : BitVec 10) {s : State} (hI : s.Inv) :
    ∃ out, execFirmwareComplete p source s = .next out ∧ out.Inv := by
  unfold execFirmwareComplete
  refine ⟨_, rfl, ?_⟩
  (try dsimp only)
  repeat' (first | with_reducible assumption | split | with_reducible apply State.completeBad_inv | with_reducible apply State.endService_inv | with_reducible apply State.updProc_inv | (intro _) | refine Inv.frame ?_)


theorem State.backingWrite_inv {s : State} (v : W64) (hI : s.Inv) :
    State.Inv (State.backingWrite s v) := by
  unfold State.backingWrite
  (try dsimp only)
  repeat' (first | with_reducible assumption | split | (intro _) | refine Inv.frame ?_)


theorem State.faultRingWrite_inv {s : State} (v : W64) (hI : s.Inv) :
    State.Inv (State.faultRingWrite s v) := by
  unfold State.faultRingWrite
  (try dsimp only)
  repeat' (first | with_reducible assumption | split | with_reducible apply State.logHw_inv | with_reducible apply State.postNext_inv | (intro _) | refine Inv.frame ?_)


theorem State.faultRpWrite_inv {s : State} (v : W64) (hI : s.Inv) :
    State.Inv (State.faultRpWrite s v) := by
  unfold State.faultRpWrite
  (try dsimp only)
  repeat' (first | with_reducible assumption | split | with_reducible apply State.logHw_inv | with_reducible apply State.postNext_inv | (intro _) | refine Inv.frame ?_)


theorem State.logRingWrite_inv {s : State} (v : W64) (hI : s.Inv) :
    State.Inv (State.logRingWrite s v) := by
  unfold State.logRingWrite
  (try dsimp only)
  repeat' (first | with_reducible assumption | split | (intro _) | refine Inv.frame ?_)


theorem State.logRpWrite_inv {s : State} (v : W64) (hI : s.Inv) :
    State.Inv (State.logRpWrite s v) := by
  unfold State.logRpWrite
  (try dsimp only)
  repeat' (first | with_reducible assumption | split | (intro _) | refine Inv.frame ?_)


theorem State.askWhole_inv {s : State} (hI : s.Inv) :
    State.Inv (State.askWhole s) := by
  unfold State.askWhole
  (try dsimp only)
  repeat' (first | with_reducible assumption | split | with_reducible apply State.ask_inv | (intro _) | refine Inv.frame ?_)


theorem State.askFrontEnd_inv {s : State} (hI : s.Inv) :
    State.Inv (State.askFrontEnd s) := by
  unfold State.askFrontEnd
  (try dsimp only)
  repeat' (first | with_reducible assumption | split | with_reducible apply State.ask_inv | (intro _) | refine Inv.frame ?_)


theorem State.resetWrite_inv {s : State} (v : W64) (hI : s.Inv) :
    State.Inv (State.resetWrite s v) := by
  unfold State.resetWrite
  (try dsimp only)
  repeat' (first | with_reducible assumption | split | with_reducible apply State.askFrontEnd_inv | with_reducible apply State.askWhole_inv | (intro _) | refine Inv.frame ?_)


theorem State.clsWrite_inv {s : State} (c : BitVec 6) (off : Nat) (v : W64) (hI : s.Inv) :
    State.Inv (State.clsWrite s c off v) := by
  unfold State.clsWrite
  (try dsimp only)
  repeat' (first | with_reducible assumption | split | with_reducible apply State.updCluster_inv | (intro _) | refine Inv.frame ?_)


theorem State.irqWrite_inv {s : State} (off : Nat) (v : W64) (hI : s.Inv) :
    State.Inv (State.irqWrite s off v) := by
  unfold State.irqWrite
  (try dsimp only)
  repeat' (first | with_reducible assumption | split | with_reducible apply State.completeWrite_inv | with_reducible apply State.enableWrite_inv | with_reducible apply State.pendingWrite_inv | with_reducible apply State.routeWrite_inv | with_reducible apply State.vecAddrWrite_inv | with_reducible apply State.vecCtrlWrite_inv | (intro _) | refine Inv.frame ?_)


theorem State.regWrite_inv {s : State} (off : Nat) (v : W64) (hI : s.Inv) :
    State.Inv (State.regWrite s off v) := by
  unfold State.regWrite
  (try dsimp only)
  repeat' (first | with_reducible assumption | split | with_reducible apply State.backingWrite_inv | with_reducible apply State.clsWrite_inv | with_reducible apply State.faultRingWrite_inv | with_reducible apply State.faultRpWrite_inv | with_reducible apply State.irqWrite_inv | with_reducible apply State.logRingWrite_inv | with_reducible apply State.logRpWrite_inv | with_reducible apply State.resetWrite_inv | with_reducible apply State.startFirmware_inv | with_reducible apply State.writeRegion_inv | (intro _) | refine Inv.frame ?_)


theorem State.globalWrite_inv {s : State} (a : Nat) (n : HostSize) (v : W64) (hI : s.Inv) :
    State.Inv (State.globalWrite s a n v) := by
  unfold State.globalWrite
  (try dsimp only)
  repeat' (first | with_reducible assumption | split | with_reducible apply State.regWrite_inv | with_reducible apply State.respond_inv | (intro _) | refine Inv.frame ?_)


theorem State.doorbellWrite_inv {s : State} (q : BitVec 14) (off : Nat) (n : HostSize) (data : W512) (hI : s.Inv) :
    State.Inv (State.doorbellWrite s q off n data) := by
  unfold State.doorbellWrite
  (try dsimp only)
  repeat' (first | with_reducible assumption | split | with_reducible apply State.atOpenQueue_inv | with_reducible apply State.cplRpDoorbell_inv | with_reducible apply State.inlinePacket_inv | with_reducible apply State.respond_inv | with_reducible apply State.wpDoorbell_inv | (intro _) | refine Inv.frame ?_)


theorem State.hostWrite_inv {s : State} (w : HostWrite) (hI : s.Inv) :
    State.Inv (State.hostWrite s w) := by
  unfold State.hostWrite
  (try dsimp only)
  repeat' (first | with_reducible assumption | split | with_reducible apply State.doorbellWrite_inv | with_reducible apply State.globalWrite_inv | with_reducible apply State.hostSignal_inv | with_reducible apply State.mbxAccess_inv | with_reducible apply State.respond_inv | (intro _) | refine Inv.frame ?_)


theorem State.globalRead_inv {s : State} (a : Nat) (n : HostSize) (hI : s.Inv) :
    State.Inv (State.globalRead s a n) := by
  unfold State.globalRead
  (try dsimp only)
  repeat' (first | with_reducible assumption | split | with_reducible apply State.claim_inv | with_reducible apply State.respond_inv | with_reducible apply State.syncRead_inv | (intro _) | refine Inv.frame ?_)


theorem State.hostRead_inv {s : State} (r : HostRead) (hI : s.Inv) :
    State.Inv (State.hostRead s r) := by
  unfold State.hostRead
  (try dsimp only)
  repeat' (first | with_reducible assumption | split | with_reducible apply State.globalRead_inv | with_reducible apply State.mbxAccess_inv | with_reducible apply State.respond_inv | (intro _) | refine Inv.frame ?_)


theorem State.serve_inv {s : State} (a : HostAccess) (hI : s.Inv) :
    State.Inv (State.serve s a) := by
  unfold State.serve
  (try dsimp only)
  repeat' (first | with_reducible assumption | split | with_reducible apply State.hostRead_inv | with_reducible apply State.hostWrite_inv | (intro _) | refine Inv.frame ?_)


theorem State.serveHeld_inv {s : State} (hI : s.Inv) :
    State.Inv (State.serveHeld s) := by
  unfold State.serveHeld
  (try dsimp only)
  repeat' (first | with_reducible assumption | split | with_reducible apply State.each_inv | with_reducible apply State.forAccess_inv | with_reducible apply State.serve_inv | with_reducible apply State.waitAccess_inv | (intro _) | refine Inv.frame ?_)


theorem State.mbxServe_inv {s : State} (hI : s.Inv) :
    State.Inv (State.mbxServe s) := by
  unfold State.mbxServe
  (try dsimp only)
  repeat' (first | with_reducible assumption | split | with_reducible apply State.each_inv | with_reducible apply State.forAccess_inv | with_reducible apply State.serve_inv | with_reducible apply State.waitAccess_inv | (intro _) | refine Inv.frame ?_)


theorem execMailboxAccessTimeout_inv (page : BitVec 8) {s : State} (hI : s.Inv) :
    ∃ out, execMailboxAccessTimeout page s = .next out ∧ out.Inv := by
  unfold execMailboxAccessTimeout
  refine ⟨_, rfl, ?_⟩
  (try dsimp only)
  repeat' (first | with_reducible assumption | split | with_reducible apply State.forAccess_inv | with_reducible apply State.mbxServe_inv | with_reducible apply State.respond_inv | (intro _) | refine Inv.frame ?_)


theorem execInlineDoorbell_inv (q : BitVec 14) (unit : W512) {s : State} (hI : s.Inv) :
    ∃ out, execInlineDoorbell q unit s = .next out ∧ out.Inv := by
  unfold execInlineDoorbell
  refine ⟨_, rfl, ?_⟩
  (try dsimp only)
  repeat' (first | with_reducible assumption | split | with_reducible apply State.doorbellWrite_inv | with_reducible apply State.host_inv | (intro _) | refine Inv.frame ?_)


theorem execWritePointerDoorbell_inv (q : BitVec 14) (wp : W32) {s : State} (hI : s.Inv) :
    ∃ out, execWritePointerDoorbell q wp s = .next out ∧ out.Inv := by
  unfold execWritePointerDoorbell
  refine ⟨_, rfl, ?_⟩
  (try dsimp only)
  repeat' (first | with_reducible assumption | split | with_reducible apply State.doorbellWrite_inv | with_reducible apply State.host_inv | (intro _) | refine Inv.frame ?_)


theorem execCompletionReadPointerDoorbell_inv (q : BitVec 14) (rp : W32) {s : State} (hI : s.Inv) :
    ∃ out, execCompletionReadPointerDoorbell q rp s = .next out ∧ out.Inv := by
  unfold execCompletionReadPointerDoorbell
  refine ⟨_, rfl, ?_⟩
  (try dsimp only)
  repeat' (first | with_reducible assumption | split | with_reducible apply State.doorbellWrite_inv | with_reducible apply State.host_inv | (intro _) | refine Inv.frame ?_)


theorem execSleepHostAccess_inv (a : HostAccess) {s : State} (hI : s.Inv) :
    ∃ out, execSleepHostAccess a s = .next out ∧ out.Inv := by
  unfold execSleepHostAccess
  refine ⟨_, rfl, ?_⟩
  (try dsimp only)
  repeat' (first | with_reducible assumption | split | with_reducible apply State.holdAccess_inv | (intro _) | refine Inv.frame ?_)


theorem execHostSignal_inv (n : BitVec 16) (v : W64) {s : State} (hI : s.Inv) :
    ∃ out, execHostSignal n v s = .next out ∧ out.Inv := by
  unfold execHostSignal
  refine ⟨_, rfl, ?_⟩
  (try dsimp only)
  repeat' (first | with_reducible assumption | split | with_reducible apply State.host_inv | with_reducible apply State.hostSignal_inv | with_reducible apply State.respond_inv | (intro _) | refine Inv.frame ?_)


theorem execXltFltRingWrite_inv (v : W64) {s : State} (hI : s.Inv) :
    ∃ out, execXltFltRingWrite v s = .next out ∧ out.Inv := by
  unfold execXltFltRingWrite
  refine ⟨_, rfl, ?_⟩
  (try dsimp only)
  repeat' (first | with_reducible assumption | split | with_reducible apply State.faultRingWrite_inv | with_reducible apply State.host_inv | with_reducible apply State.respond_inv | (intro _) | refine Inv.frame ?_)


theorem execXltFltRpWrite_inv (v : W64) {s : State} (hI : s.Inv) :
    ∃ out, execXltFltRpWrite v s = .next out ∧ out.Inv := by
  unfold execXltFltRpWrite
  refine ⟨_, rfl, ?_⟩
  (try dsimp only)
  repeat' (first | with_reducible assumption | split | with_reducible apply State.faultRpWrite_inv | with_reducible apply State.host_inv | with_reducible apply State.respond_inv | (intro _) | refine Inv.frame ?_)


theorem execFwcLogRingWrite_inv (v : W64) {s : State} (hI : s.Inv) :
    ∃ out, execFwcLogRingWrite v s = .next out ∧ out.Inv := by
  unfold execFwcLogRingWrite
  refine ⟨_, rfl, ?_⟩
  (try dsimp only)
  repeat' (first | with_reducible assumption | split | with_reducible apply State.host_inv | with_reducible apply State.logRingWrite_inv | with_reducible apply State.respond_inv | (intro _) | refine Inv.frame ?_)


theorem execFwcLogRpWrite_inv (v : W64) {s : State} (hI : s.Inv) :
    ∃ out, execFwcLogRpWrite v s = .next out ∧ out.Inv := by
  unfold execFwcLogRpWrite
  refine ⟨_, rfl, ?_⟩
  (try dsimp only)
  repeat' (first | with_reducible assumption | split | with_reducible apply State.host_inv | with_reducible apply State.logRpWrite_inv | with_reducible apply State.respond_inv | (intro _) | refine Inv.frame ?_)


theorem execLndProgBackingWrite_inv (v : W64) {s : State} (hI : s.Inv) :
    ∃ out, execLndProgBackingWrite v s = .next out ∧ out.Inv := by
  unfold execLndProgBackingWrite
  refine ⟨_, rfl, ?_⟩
  (try dsimp only)
  repeat' (first | with_reducible assumption | split | with_reducible apply State.backingWrite_inv | with_reducible apply State.host_inv | with_reducible apply State.respond_inv | (intro _) | refine Inv.frame ?_)


theorem execDckSwrCfgWrite_inv (r : BitVec 6) (v : W64) {s : State} (hI : s.Inv) :
    ∃ out, execDckSwrCfgWrite r v s = .next out ∧ out.Inv := by
  unfold execDckSwrCfgWrite
  refine ⟨_, rfl, ?_⟩
  (try dsimp only)
  repeat' (first | with_reducible assumption | split | with_reducible apply State.host_inv | with_reducible apply State.respond_inv | with_reducible apply State.writeRegion_inv | (intro _) | refine Inv.frame ?_)


theorem execStart_inv (v : W64) {s : State} (hI : s.Inv) :
    ∃ out, execStart v s = .next out ∧ out.Inv := by
  unfold execStart
  refine ⟨_, rfl, ?_⟩
  (try dsimp only)
  repeat' (first | with_reducible assumption | split | with_reducible apply State.host_inv | with_reducible apply State.respond_inv | with_reducible apply State.startFirmware_inv | (intro _) | refine Inv.frame ?_)


theorem execFwcResetWhole_inv {s : State} (hI : s.Inv) :
    ∃ out, execFwcResetWhole s = .next out ∧ out.Inv := by
  unfold execFwcResetWhole
  refine ⟨_, rfl, ?_⟩
  (try dsimp only)
  repeat' (first | with_reducible assumption | split | with_reducible apply State.askWhole_inv | with_reducible apply State.host_inv | with_reducible apply State.respond_inv | (intro _) | refine Inv.frame ?_)


theorem execFwcResetFrontEnd_inv {s : State} (hI : s.Inv) :
    ∃ out, execFwcResetFrontEnd s = .next out ∧ out.Inv := by
  unfold execFwcResetFrontEnd
  refine ⟨_, rfl, ?_⟩
  (try dsimp only)
  repeat' (first | with_reducible assumption | split | with_reducible apply State.askFrontEnd_inv | with_reducible apply State.host_inv | with_reducible apply State.respond_inv | (intro _) | refine Inv.frame ?_)


theorem execRegisterWrite_inv (w : HostWrite) {s : State} (hI : s.Inv) :
    ∃ out, execRegisterWrite w s = .next out ∧ out.Inv := by
  unfold execRegisterWrite
  refine ⟨_, rfl, ?_⟩
  (try dsimp only)
  repeat' (first | with_reducible assumption | split | with_reducible apply State.host_inv | with_reducible apply State.hostWrite_inv | (intro _) | refine Inv.frame ?_)


end Sys2Proof.Machine
end

