-- ==== Sys2Proof/Laws/InvPower.lean ====
section
/-! SUPPORT. The invariant `State.Inv` is kept by the operations of Machine/Power.lean, Machine/Recovery.lean, Machine/Pins.lean, Machine/Tick.lean. -/

namespace Sys2Proof.Machine

set_option linter.unusedTactic false
set_option linter.unreachableTactic false

theorem execIdleEntry_inv {s : State} (hI : s.Inv) :
    ∃ out, execIdleEntry s = .next out ∧ out.Inv := by
  unfold execIdleEntry
  refine ⟨_, rfl, ?_⟩
  (try dsimp only)
  repeat' (first | with_reducible assumption | split | (intro _) | refine Inv.frame ?_)


theorem execIdleExit_inv {s : State} (hI : s.Inv) :
    ∃ out, execIdleExit s = .next out ∧ out.Inv := by
  unfold execIdleExit
  refine ⟨_, rfl, ?_⟩
  (try dsimp only)
  repeat' (first | with_reducible assumption | split | with_reducible apply State.leaveIdle_inv | (intro _) | refine Inv.frame ?_)


theorem execAutoPowerEntry_inv {s : State} (hI : s.Inv) :
    ∃ out, execAutoPowerEntry s = .next out ∧ out.Inv := by
  unfold execAutoPowerEntry
  refine ⟨_, rfl, ?_⟩
  (try dsimp only)
  repeat' (first | with_reducible assumption | split | with_reducible apply State.beginPoll_inv | (intro _) | refine Inv.frame ?_)


theorem execPowerPoll_inv {s : State} (hI : s.Inv) :
    ∃ out, execPowerPoll s = .next out ∧ out.Inv := by
  unfold execPowerPoll
  refine ⟨_, rfl, ?_⟩
  (try dsimp only)
  repeat' (first | with_reducible assumption | split | with_reducible apply State.abandonEntry_inv | with_reducible apply State.nextPoll_inv | with_reducible apply State.trace_inv | (intro _) | refine Inv.frame ?_)


theorem execPollTimeout_inv {s : State} (hI : s.Inv) :
    ∃ out, execPollTimeout s = .next out ∧ out.Inv := by
  unfold execPollTimeout
  refine ⟨_, rfl, ?_⟩
  (try dsimp only)
  repeat' (first | with_reducible assumption | split | with_reducible apply State.abandonEntry_inv | with_reducible apply State.nextPoll_inv | (intro _) | refine Inv.frame ?_)


theorem State.closeGroups_inv {s : State} (hI : s.Inv) :
    State.Inv (State.closeGroups s) := by
  unfold State.closeGroups
  (try dsimp only)
  repeat' (first | with_reducible assumption | split | with_reducible apply State.foldl_inv | (intro _) | refine Inv.frame ?_)


theorem State.openGroups_inv {s : State} (hI : s.Inv) :
    State.Inv (State.openGroups s) := by
  unfold State.openGroups
  (try dsimp only)
  repeat' (first | with_reducible assumption | split | (intro _) | refine Inv.frame ?_)


theorem State.lowerClusters_inv {s : State} (hI : s.Inv) :
    State.Inv (State.lowerClusters s) := by
  unfold State.lowerClusters
  (try dsimp only)
  repeat' (first | with_reducible assumption | split | with_reducible apply State.beginSwitch_inv | with_reducible apply State.each_inv | with_reducible apply State.updCluster_inv | (intro _) | refine Inv.frame ?_)


theorem State.resetLinks_inv {s : State} (hI : s.Inv) :
    State.Inv (State.resetLinks s) := by
  unfold State.resetLinks
  (try dsimp only)
  repeat' (first | with_reducible assumption | split | with_reducible apply State.each_inv | with_reducible apply State.updCluster_inv | (intro _) | refine Inv.frame ?_)


theorem State.undoEntry_inv {s : State} (hI : s.Inv) :
    State.Inv (State.undoEntry s) := by
  unfold State.undoEntry
  (try dsimp only)
  repeat' (first | with_reducible assumption | split | with_reducible apply State.openGroups_inv | with_reducible apply State.resetLinks_inv | with_reducible apply State.serveHeld_inv | (intro _) | refine Inv.frame ?_)


theorem State.giveUp_inv {s : State} (reason : BitVec 4) (hI : s.Inv) :
    State.Inv (State.giveUp s reason) := by
  unfold State.giveUp
  (try dsimp only)
  repeat' (first | with_reducible assumption | split | with_reducible apply State.abandonEntry_inv | with_reducible apply State.nextPoll_inv | with_reducible apply State.undoEntry_inv | (intro _) | refine Inv.frame ?_)


theorem State.powerDownStep_inv {s : State} (hI : s.Inv) :
    State.Inv (State.powerDownStep s) := by
  unfold State.powerDownStep
  (try dsimp only)
  repeat' (first | with_reducible assumption | split | with_reducible apply State.handshake_inv | (intro _) | refine Inv.frame ?_)


theorem State.handshake_inv {s : State} (t : PState) (hI : s.Inv) :
    State.Inv (State.handshake s t) := by
  unfold State.handshake
  (try dsimp only)
  repeat' (first | with_reducible assumption | split | (intro _) | refine Inv.frame ?_)


theorem execPowerEntry_inv {s : State} (hI : s.Inv) :
    ∃ out, execPowerEntry s = .next out ∧ out.Inv := by
  unfold execPowerEntry
  refine ⟨_, rfl, ?_⟩
  (try dsimp only)
  repeat' (first | with_reducible assumption | split | with_reducible apply State.closeGroups_inv | with_reducible apply State.giveUp_inv | with_reducible apply State.handshake_inv | with_reducible apply State.lowerClusters_inv | with_reducible apply State.powerDownStep_inv | (intro _) | refine Inv.frame ?_)


theorem State.powerDown_inv {s : State} (t : PState) (page : Option (BitVec 8)) (hI : s.Inv) :
    State.Inv (State.powerDown s t page) := by
  unfold State.powerDown
  (try dsimp only)
  repeat' (first | with_reducible assumption | split | with_reducible apply State.mbxDone_inv | with_reducible apply State.raise_inv | (intro _) | refine Inv.frame ?_ | refine Inv.frameMap ?_ ?_ ?_ ?_ ?_ ?_ | with_reducible apply tmap_wf | with_reducible apply tset_wf | with_reducible apply tupd_wf | with_reducible apply State.Inv.groups | with_reducible apply State.Inv.clusters | with_reducible apply State.Inv.queues | with_reducible apply State.Inv.procs | with_reducible apply State.Inv.threads | exact tblWf_nil _)


/-- The state of a start meets the invariant, in every legal build. -/
theorem State.atStart_inv {b : Build} (hb : b.legal) : (State.atStart b).Inv :=
  ⟨hb, ⟨BitVec.getLsbD_zero, BitVec.getLsbD_zero, BitVec.getLsbD_zero⟩, rfl, rfl, rfl, rfl, rfl, rfl, rfl, rfl, rfl, rfl, rfl, rfl⟩

theorem State.restartBlock_inv {s : State} (epoch : Bool) (hI : s.Inv) : (s.restartBlock epoch).Inv :=
  Inv.frame (State.atStart_inv hI.build)


theorem State.beginExit_inv {s : State} (hI : s.Inv) :
    State.Inv (State.beginExit s) := by
  unfold State.beginExit
  (try dsimp only)
  repeat' (first | with_reducible assumption | split | (intro _) | refine Inv.frame ?_)


theorem State.reachTarget_inv {s : State} (hI : s.Inv) :
    State.Inv (State.reachTarget s) := by
  unfold State.reachTarget
  (try dsimp only)
  repeat' (first | with_reducible assumption | split | with_reducible apply State.beginExit_inv | with_reducible apply State.restartBlock_inv | (intro _) | refine Inv.frame ?_)


theorem execPwrAck_inv (ack deny : Bool) {s : State} (hI : s.Inv) :
    ∃ out, execPwrAck ack deny s = .next out ∧ out.Inv := by
  unfold execPwrAck
  refine ⟨_, rfl, ?_⟩
  (try dsimp only)
  repeat' (first | with_reducible assumption | split | with_reducible apply State.giveUp_inv | with_reducible apply State.handshake_inv | with_reducible apply State.powerDown_inv | (intro _) | refine Inv.frame ?_)


theorem State.clearIso_inv {s : State} (hI : s.Inv) :
    State.Inv (State.clearIso s) := by
  unfold State.clearIso
  (try dsimp only)
  repeat' (first | with_reducible assumption | split | (intro _) | refine Inv.frame ?_)


theorem execPdPwrAck_inv (k : BitVec 7) (good : Bool) {s : State} (hI : s.Inv) :
    ∃ out, execPdPwrAck k good s = .next out ∧ out.Inv := by
  unfold execPdPwrAck
  refine ⟨_, rfl, ?_⟩
  (try dsimp only)
  repeat' (first | with_reducible assumption | split | with_reducible apply State.clearIso_inv | with_reducible apply State.handshake_inv | with_reducible apply State.reachTarget_inv | (intro _) | refine Inv.frame ?_)


theorem execWakeN_inv (level : Bool) {s : State} (hI : s.Inv) :
    ∃ out, execWakeN level s = .next out ∧ out.Inv := by
  unfold execWakeN
  refine ⟨_, rfl, ?_⟩
  (try dsimp only)
  repeat' (first | with_reducible assumption | split | with_reducible apply State.latchWake_inv | (intro _) | refine Inv.frame ?_)


theorem execWakeConsume_inv {s : State} (hI : s.Inv) :
    ∃ out, execWakeConsume s = .next out ∧ out.Inv := by
  unfold execWakeConsume
  refine ⟨_, rfl, ?_⟩
  (try dsimp only)
  repeat' (first | with_reducible assumption | split | (intro _) | refine Inv.frame ?_)


theorem State.powerUpStep_inv {s : State} (hI : s.Inv) :
    State.Inv (State.powerUpStep s) := by
  unfold State.powerUpStep
  (try dsimp only)
  repeat' (first | with_reducible assumption | split | (intro _) | refine Inv.frame ?_)


theorem State.finishExit_inv {s : State} (hI : s.Inv) :
    State.Inv (State.finishExit s) := by
  unfold State.finishExit
  (try dsimp only)
  repeat' (first | with_reducible assumption | split | with_reducible apply State.nextPoll_inv | with_reducible apply State.raise_inv | with_reducible apply State.undoEntry_inv | (intro _) | refine Inv.frame ?_ | refine Inv.frameMap ?_ ?_ ?_ ?_ ?_ ?_ | with_reducible apply tmap_wf | with_reducible apply tset_wf | with_reducible apply tupd_wf | with_reducible apply State.Inv.groups | with_reducible apply State.Inv.clusters | with_reducible apply State.Inv.queues | with_reducible apply State.Inv.procs | with_reducible apply State.Inv.threads | exact tblWf_nil _)


theorem execPowerExit_inv {s : State} (hI : s.Inv) :
    ∃ out, execPowerExit s = .next out ∧ out.Inv := by
  unfold execPowerExit
  refine ⟨_, rfl, ?_⟩
  (try dsimp only)
  repeat' (first | with_reducible assumption | split | with_reducible apply State.beginExit_inv | with_reducible apply State.finishExit_inv | with_reducible apply State.powerUpStep_inv | (intro _) | refine Inv.frame ?_)


theorem State.checkBundle_inv {s : State} (hI : s.Inv) :
    State.Inv (State.checkBundle s) := by
  unfold State.checkBundle
  (try dsimp only)
  repeat' (first | with_reducible assumption | split | with_reducible apply State.acceptBundle_inv | with_reducible apply State.dropRead_inv | with_reducible apply State.mbxServe_inv | with_reducible apply State.refuseStart_inv | (intro _) | refine Inv.frame ?_)


theorem execBundleCheck_inv (bundle : ImageStep) {s : State} (hI : s.Inv) :
    ∃ out, execBundleCheck bundle s = .next out ∧ out.Inv := by
  unfold execBundleCheck
  refine ⟨_, rfl, ?_⟩
  (try dsimp only)
  repeat' (first | with_reducible assumption | split | with_reducible apply State.checkBundle_inv | with_reducible apply State.readBundle_inv | (intro _) | refine Inv.frame ?_)


theorem execProcessorRestart_inv (p : BitVec 7) {s : State} (hI : s.Inv) :
    ∃ out, execProcessorRestart p s = .next out ∧ out.Inv := by
  unfold execProcessorRestart
  refine ⟨_, rfl, ?_⟩
  (try dsimp only)
  repeat' (first | with_reducible assumption | split | with_reducible apply State.ask_inv | with_reducible apply State.evictions_inv | with_reducible apply State.flushEnds_inv | with_reducible apply State.fwAlert_inv | with_reducible apply State.mbxServe_inv | with_reducible apply State.nextPoll_inv | with_reducible apply State.updProc_inv | with_reducible apply State.windowsGo_inv | (intro _) | refine Inv.frame ?_)


theorem State.applyToken_inv {s : State} (t : W64) (hI : s.Inv) :
    State.Inv (State.applyToken s t) := by
  unfold State.applyToken
  (try dsimp only)
  repeat' (first | with_reducible assumption | split | with_reducible apply State.each_inv | with_reducible apply State.raise_inv | with_reducible apply State.teardownWith_inv | (intro _) | refine Inv.frame ?_)


theorem State.abandonPorts_inv {s : State} (hI : s.Inv) :
    State.Inv (State.abandonPorts s) := by
  unfold State.abandonPorts
  (try dsimp only)
  repeat' (first | with_reducible assumption | split | with_reducible apply State.each_inv | with_reducible apply State.issueTxn_inv | with_reducible apply State.sendMessage_inv | (intro _) | refine Inv.frame ?_)


theorem State.missWindows_inv {s : State} (hI : s.Inv) :
    State.Inv (State.missWindows s) := by
  unfold State.missWindows
  (try dsimp only)
  repeat' (first | with_reducible assumption | split | with_reducible apply State.counted_inv | with_reducible apply State.each_inv | with_reducible apply State.rtFault_inv | with_reducible apply State.updCluster_inv | (intro _) | refine Inv.frame ?_)


theorem State.beginFrontEnd_inv {s : State} (cause : BitVec 8) (hI : s.Inv) :
    State.Inv (State.beginFrontEnd s cause) := by
  unfold State.beginFrontEnd
  (try dsimp only)
  repeat' (first | with_reducible assumption | split | with_reducible apply State.abandonPorts_inv | with_reducible apply State.count_inv | with_reducible apply State.logReset_inv | with_reducible apply State.missWindows_inv | with_reducible apply State.raise_inv | with_reducible apply State.rcvStatus_inv | with_reducible apply State.releaseHeld_inv | with_reducible apply State.updProc_inv | (intro _) | refine Inv.frame ?_)


theorem State.resetUnits_inv {s : State} (hI : s.Inv) :
    State.Inv (State.resetUnits s) := by
  unfold State.resetUnits
  (try dsimp only)
  repeat' (first | with_reducible assumption | split | with_reducible apply State.each_inv | with_reducible apply State.emptyCaches_inv | with_reducible apply State.epochDone_inv | with_reducible apply State.patchOn_inv | with_reducible apply State.updProc_inv | (intro _) | refine Inv.frame ?_ | refine Inv.frameMap ?_ ?_ ?_ ?_ ?_ ?_ | with_reducible apply tmap_wf | with_reducible apply tset_wf | with_reducible apply tupd_wf | with_reducible apply State.Inv.groups | with_reducible apply State.Inv.clusters | with_reducible apply State.Inv.queues | with_reducible apply State.Inv.procs | with_reducible apply State.Inv.threads | exact tblWf_nil _)


theorem State.endFrontEnd_inv {s : State} (hI : s.Inv) :
    State.Inv (State.endFrontEnd s) := by
  unfold State.endFrontEnd
  (try dsimp only)
  repeat' (first | with_reducible assumption | split | with_reducible apply State.applyToken_inv | with_reducible apply State.each_inv | with_reducible apply State.evictions_inv | with_reducible apply State.failLaunch_inv | with_reducible apply State.mbxServe_inv | with_reducible apply State.passSignals_inv | with_reducible apply State.raise_inv | with_reducible apply State.resetUnits_inv | with_reducible apply State.restartStreams_inv | with_reducible apply State.stampWaiting_inv | with_reducible apply State.startHang_inv | with_reducible apply State.updCluster_inv | with_reducible apply State.windowsGo_inv | (intro _) | refine Inv.frame ?_)


theorem execFrontEndReset_inv {s : State} (hI : s.Inv) :
    ∃ out, execFrontEndReset s = .next out ∧ out.Inv := by
  unfold execFrontEndReset
  refine ⟨_, rfl, ?_⟩
  (try dsimp only)
  repeat' (first | with_reducible assumption | split | with_reducible apply State.ask_inv | with_reducible apply State.beginFrontEnd_inv | with_reducible apply State.counted_inv | with_reducible apply State.endFrontEnd_inv | (intro _) | refine Inv.frame ?_)


theorem State.stopBlock_inv {s : State} (cause : BitVec 8) (hI : s.Inv) :
    State.Inv (State.stopBlock s cause) := by
  unfold State.stopBlock
  (try dsimp only)
  repeat' (first | with_reducible assumption | split | with_reducible apply State.count_inv | with_reducible apply State.each_inv | with_reducible apply State.forAccess_inv | with_reducible apply State.logReset_inv | with_reducible apply State.rcvStatus_inv | with_reducible apply State.respond_inv | with_reducible apply State.serve_inv | with_reducible apply State.startDump_inv | (intro _) | refine Inv.frame ?_ | refine Inv.frameMap ?_ ?_ ?_ ?_ ?_ ?_ | with_reducible apply tmap_wf | with_reducible apply tset_wf | with_reducible apply tupd_wf | with_reducible apply State.Inv.groups | with_reducible apply State.Inv.clusters | with_reducible apply State.Inv.queues | with_reducible apply State.Inv.procs | with_reducible apply State.Inv.threads | exact tblWf_nil _)


theorem State.finishWhole_inv {s : State} (hI : s.Inv) :
    State.Inv (State.finishWhole s) := by
  unfold State.finishWhole
  (try dsimp only)
  repeat' (first | with_reducible assumption | split | with_reducible apply State.restartBlock_inv | (intro _) | refine Inv.frame ?_)


theorem execWholeBlockReset_inv {s : State} (hI : s.Inv) :
    ∃ out, execWholeBlockReset s = .next out ∧ out.Inv := by
  unfold execWholeBlockReset
  refine ⟨_, rfl, ?_⟩
  (try dsimp only)
  repeat' (first | with_reducible assumption | split | with_reducible apply State.counted_inv | with_reducible apply State.finishWhole_inv | with_reducible apply State.handshake_inv | with_reducible apply State.stopBlock_inv | (intro _) | refine Inv.frame ?_)


theorem execOutOfService_inv {s : State} (hI : s.Inv) :
    ∃ out, execOutOfService s = .next out ∧ out.Inv := by
  unfold execOutOfService
  refine ⟨_, rfl, ?_⟩
  (try dsimp only)
  repeat' (first | with_reducible assumption | split | with_reducible apply State.enterOos_inv | (intro _) | refine Inv.frame ?_)


theorem execTokenReceive_inv (t : W64) {s : State} (hI : s.Inv) :
    ∃ out, execTokenReceive t s = .next out ∧ out.Inv := by
  unfold execTokenReceive
  refine ⟨_, rfl, ?_⟩
  (try dsimp only)
  repeat' (first | with_reducible assumption | split | with_reducible apply State.applyToken_inv | with_reducible apply State.leaveIdle_inv | (intro _) | refine Inv.frame ?_)


theorem execTokenSend_inv {s : State} (hI : s.Inv) :
    ∃ out, execTokenSend s = .next out ∧ out.Inv := by
  unfold execTokenSend
  refine ⟨_, rfl, ?_⟩
  (try dsimp only)
  repeat' (first | with_reducible assumption | split | (intro _) | refine Inv.frame ?_)


theorem State.scan_inv {s : State} (ir : BitVec 8) (v n : Nat) (hI : s.Inv) :
    State.Inv (State.scan s ir v n) := by
  unfold State.scan
  (try dsimp only)
  repeat' (first | with_reducible assumption | split | with_reducible apply State.foldl_inv | (intro _) | refine Inv.frame ?_)


theorem execIdcode_inv {s : State} (hI : s.Inv) :
    ∃ out, execIdcode s = .next out ∧ out.Inv := by
  unfold execIdcode
  refine ⟨_, rfl, ?_⟩
  (try dsimp only)
  repeat' (first | with_reducible assumption | split | with_reducible apply State.scan_inv | (intro _) | refine Inv.frame ?_)


theorem execBypass_inv (ir : BitVec 8) {s : State} (hI : s.Inv) :
    ∃ out, execBypass ir s = .next out ∧ out.Inv := by
  unfold execBypass
  refine ⟨_, rfl, ?_⟩
  (try dsimp only)
  repeat' (first | with_reducible assumption | split | with_reducible apply State.scan_inv | (intro _) | refine Inv.frame ?_)


theorem execMbistCtrl_inv (v : W32) {s : State} (hI : s.Inv) :
    ∃ out, execMbistCtrl v s = .next out ∧ out.Inv := by
  unfold execMbistCtrl
  refine ⟨_, rfl, ?_⟩
  (try dsimp only)
  repeat' (first | with_reducible assumption | split | with_reducible apply State.scan_inv | (intro _) | refine Inv.frame ?_)


theorem execMbistStatus_inv {s : State} (hI : s.Inv) :
    ∃ out, execMbistStatus s = .next out ∧ out.Inv := by
  unfold execMbistStatus
  refine ⟨_, rfl, ?_⟩
  (try dsimp only)
  repeat' (first | with_reducible assumption | split | with_reducible apply State.scan_inv | (intro _) | refine Inv.frame ?_)


theorem execMbistRunEnd_inv (r : Option BistResult) {s : State} (hI : s.Inv) :
    ∃ out, execMbistRunEnd r s = .next out ∧ out.Inv := by
  unfold execMbistRunEnd
  refine ⟨_, rfl, ?_⟩
  (try dsimp only)
  repeat' (first | with_reducible assumption | split | (intro _) | refine Inv.frame ?_)


theorem State.resetAlwaysOn_inv {s : State} (hI : s.Inv) :
    State.Inv (State.resetAlwaysOn s) := by
  unfold State.resetAlwaysOn
  (try dsimp only)
  repeat' (first | with_reducible assumption | split | (intro _) | refine Inv.frame ?_ | refine Inv.frameMap ?_ ?_ ?_ ?_ ?_ ?_ | with_reducible apply tmap_wf | with_reducible apply tset_wf | with_reducible apply tupd_wf | with_reducible apply State.Inv.groups | with_reducible apply State.Inv.clusters | with_reducible apply State.Inv.queues | with_reducible apply State.Inv.procs | with_reducible apply State.Inv.threads | exact tblWf_nil _)


theorem State.resetDomain_inv {s : State} (dom : Domain) (hI : s.Inv) : (s.resetDomain dom).Inv := by
  cases dom with
  | ao => exact State.resetAlwaysOn_inv hI
  | f => exact 
    have h := State.restartBlock_inv s.mp.epoch hI
    { h with clusters := hI.clusters, mem := hI.mem }
  | d => exact Inv.frameMem hI (by decide)
  | t => exact Inv.frame hI
  | h => exact Inv.frame hI
  | m p => exact Inv.frame hI
  | c c => exact State.updCluster_inv c _ hI


theorem execResetAssert_inv (dom : Domain) {s : State} (hI : s.Inv) :
    ∃ out, execResetAssert dom s = .next out ∧ out.Inv :=
  ⟨_, rfl, Inv.ite hI (State.resetDomain_inv dom (Inv.frame hI))⟩


theorem State.startUp_inv {s : State} (hI : s.Inv) :
    State.Inv (State.startUp s) := by
  unfold State.startUp
  (try dsimp only)
  repeat' (first | with_reducible assumption | split | with_reducible apply State.clearIso_inv | with_reducible apply State.count_inv | with_reducible apply State.restartBlock_inv | (intro _) | refine Inv.frame ?_)


theorem execResetRelease_inv (dom : Domain) {s : State} (hI : s.Inv) :
    ∃ out, execResetRelease dom s = .next out ∧ out.Inv := by
  unfold execResetRelease
  refine ⟨_, rfl, ?_⟩
  (try dsimp only)
  repeat' (first | with_reducible assumption | split | with_reducible apply State.clearIso_inv | with_reducible apply State.startUp_inv | (intro _) | refine Inv.frame ?_)


theorem execTestModeChange_inv (level : Bool) {s t : State} (hI : s.Inv) (h : execTestModeChange level s = .next t) : t.Inv := by
  unfold execTestModeChange at h
  split at h
  · cases h; exact hI
  · split at h
    · cases h; exact Inv.frame hI
    · cases h


theorem execClockChange_inv (dom : Domain) (ev : ClockEvent) {s t : State} (hI : s.Inv)
    (h : execClockChange dom ev s = .next t) : t.Inv := by
  unfold execClockChange at h
  split at h
  · cases h; exact hI
  · cases h


theorem State.tick_inv {s : State} (hI : s.Inv) :
    State.Inv (State.tick s) := by
  unfold State.tick
  (try dsimp only)
  repeat' (first | with_reducible assumption | split | (intro _) | refine Inv.frame ?_)


end Sys2Proof.Machine
end

