-- ==== Sys2Proof/Laws/State.lean ====
section
/-! SUPPORT. The components of the state under each named update (true by unfolding), what the updates that depend on the state
leave alone, and the reads of one record after an update of it or of another. -/

namespace Sys2Proof.Machine

/-! ## The components under each update -/

@[simp] theorem State.updCtx_build (s : State) (c : BitVec 20) (f : Context → Context) : (s.updCtx c f).build = s.build := rfl
@[simp] theorem State.updCtx_ctxs (s : State) (c : BitVec 20) (f : Context → Context) : (s.updCtx c f).ctxs = tupd {} s.ctxs c.toNat f := rfl
@[simp] theorem State.updCtx_queues (s : State) (c : BitVec 20) (f : Context → Context) : (s.updCtx c f).queues = s.queues := rfl
@[simp] theorem State.updCtx_fe (s : State) (c : BitVec 20) (f : Context → Context) : (s.updCtx c f).fe = s.fe := rfl
@[simp] theorem State.updCtx_uc (s : State) (c : BitVec 20) (f : Context → Context) : (s.updCtx c f).uc = s.uc := rfl
@[simp] theorem State.updCtx_lnd (s : State) (c : BitVec 20) (f : Context → Context) : (s.updCtx c f).lnd = s.lnd := rfl
@[simp] theorem State.updCtx_yrd (s : State) (c : BitVec 20) (f : Context → Context) : (s.updCtx c f).yrd = s.yrd := rfl
@[simp] theorem State.updCtx_res (s : State) (c : BitVec 20) (f : Context → Context) : (s.updCtx c f).res = s.res := rfl
@[simp] theorem State.updCtx_mp (s : State) (c : BitVec 20) (f : Context → Context) : (s.updCtx c f).mp = s.mp := rfl
@[simp] theorem State.updCtx_hau (s : State) (c : BitVec 20) (f : Context → Context) : (s.updCtx c f).hau = s.hau := rfl
@[simp] theorem State.updCtx_dck (s : State) (c : BitVec 20) (f : Context → Context) : (s.updCtx c f).dck = s.dck := rfl
@[simp] theorem State.updCtx_xlt (s : State) (c : BitVec 20) (f : Context → Context) : (s.updCtx c f).xlt = s.xlt := rfl
@[simp] theorem State.updCtx_irq (s : State) (c : BitVec 20) (f : Context → Context) : (s.updCtx c f).irq = s.irq := rfl
@[simp] theorem State.updCtx_pwr (s : State) (c : BitVec 20) (f : Context → Context) : (s.updCtx c f).pwr = s.pwr := rfl
@[simp] theorem State.updCtx_fwc (s : State) (c : BitVec 20) (f : Context → Context) : (s.updCtx c f).fwc = s.fwc := rfl
@[simp] theorem State.updCtx_lgr (s : State) (c : BitVec 20) (f : Context → Context) : (s.updCtx c f).lgr = s.lgr := rfl
@[simp] theorem State.updCtx_clusters (s : State) (c : BitVec 20) (f : Context → Context) : (s.updCtx c f).clusters = s.clusters := rfl
@[simp] theorem State.updCtx_crzGen (s : State) (c : BitVec 20) (f : Context → Context) : (s.updCtx c f).crzGen = s.crzGen := rfl
@[simp] theorem State.updCtx_pins (s : State) (c : BitVec 20) (f : Context → Context) : (s.updCtx c f).pins = s.pins := rfl
@[simp] theorem State.updCtx_free (s : State) (c : BitVec 20) (f : Context → Context) : (s.updCtx c f).free = s.free := rfl
@[simp] theorem State.updCtx_pending (s : State) (c : BitVec 20) (f : Context → Context) : (s.updCtx c f).pending = s.pending := rfl

@[simp] theorem State.updQueue_build (s : State) (q : BitVec 14) (f : Queue → Queue) : (s.updQueue q f).build = s.build := rfl
@[simp] theorem State.updQueue_ctxs (s : State) (q : BitVec 14) (f : Queue → Queue) : (s.updQueue q f).ctxs = s.ctxs := rfl
@[simp] theorem State.updQueue_queues (s : State) (q : BitVec 14) (f : Queue → Queue) : (s.updQueue q f).queues = tupd {} s.queues q.toNat f := rfl
@[simp] theorem State.updQueue_fe (s : State) (q : BitVec 14) (f : Queue → Queue) : (s.updQueue q f).fe = s.fe := rfl
@[simp] theorem State.updQueue_uc (s : State) (q : BitVec 14) (f : Queue → Queue) : (s.updQueue q f).uc = s.uc := rfl
@[simp] theorem State.updQueue_lnd (s : State) (q : BitVec 14) (f : Queue → Queue) : (s.updQueue q f).lnd = s.lnd := rfl
@[simp] theorem State.updQueue_yrd (s : State) (q : BitVec 14) (f : Queue → Queue) : (s.updQueue q f).yrd = s.yrd := rfl
@[simp] theorem State.updQueue_res (s : State) (q : BitVec 14) (f : Queue → Queue) : (s.updQueue q f).res = s.res := rfl
@[simp] theorem State.updQueue_mp (s : State) (q : BitVec 14) (f : Queue → Queue) : (s.updQueue q f).mp = s.mp := rfl
@[simp] theorem State.updQueue_hau (s : State) (q : BitVec 14) (f : Queue → Queue) : (s.updQueue q f).hau = s.hau := rfl
@[simp] theorem State.updQueue_dck (s : State) (q : BitVec 14) (f : Queue → Queue) : (s.updQueue q f).dck = s.dck := rfl
@[simp] theorem State.updQueue_xlt (s : State) (q : BitVec 14) (f : Queue → Queue) : (s.updQueue q f).xlt = s.xlt := rfl
@[simp] theorem State.updQueue_irq (s : State) (q : BitVec 14) (f : Queue → Queue) : (s.updQueue q f).irq = s.irq := rfl
@[simp] theorem State.updQueue_pwr (s : State) (q : BitVec 14) (f : Queue → Queue) : (s.updQueue q f).pwr = s.pwr := rfl
@[simp] theorem State.updQueue_fwc (s : State) (q : BitVec 14) (f : Queue → Queue) : (s.updQueue q f).fwc = s.fwc := rfl
@[simp] theorem State.updQueue_lgr (s : State) (q : BitVec 14) (f : Queue → Queue) : (s.updQueue q f).lgr = s.lgr := rfl
@[simp] theorem State.updQueue_clusters (s : State) (q : BitVec 14) (f : Queue → Queue) : (s.updQueue q f).clusters = s.clusters := rfl
@[simp] theorem State.updQueue_crzGen (s : State) (q : BitVec 14) (f : Queue → Queue) : (s.updQueue q f).crzGen = s.crzGen := rfl
@[simp] theorem State.updQueue_pins (s : State) (q : BitVec 14) (f : Queue → Queue) : (s.updQueue q f).pins = s.pins := rfl
@[simp] theorem State.updQueue_free (s : State) (q : BitVec 14) (f : Queue → Queue) : (s.updQueue q f).free = s.free := rfl
@[simp] theorem State.updQueue_pending (s : State) (q : BitVec 14) (f : Queue → Queue) : (s.updQueue q f).pending = s.pending := rfl

@[simp] theorem State.updCluster_build (s : State) (c : BitVec 6) (f : Cluster → Cluster) : (s.updCluster c f).build = s.build := rfl
@[simp] theorem State.updCluster_ctxs (s : State) (c : BitVec 6) (f : Cluster → Cluster) : (s.updCluster c f).ctxs = s.ctxs := rfl
@[simp] theorem State.updCluster_queues (s : State) (c : BitVec 6) (f : Cluster → Cluster) : (s.updCluster c f).queues = s.queues := rfl
@[simp] theorem State.updCluster_fe (s : State) (c : BitVec 6) (f : Cluster → Cluster) : (s.updCluster c f).fe = s.fe := rfl
@[simp] theorem State.updCluster_uc (s : State) (c : BitVec 6) (f : Cluster → Cluster) : (s.updCluster c f).uc = s.uc := rfl
@[simp] theorem State.updCluster_lnd (s : State) (c : BitVec 6) (f : Cluster → Cluster) : (s.updCluster c f).lnd = s.lnd := rfl
@[simp] theorem State.updCluster_yrd (s : State) (c : BitVec 6) (f : Cluster → Cluster) : (s.updCluster c f).yrd = s.yrd := rfl
@[simp] theorem State.updCluster_res (s : State) (c : BitVec 6) (f : Cluster → Cluster) : (s.updCluster c f).res = s.res := rfl
@[simp] theorem State.updCluster_mp (s : State) (c : BitVec 6) (f : Cluster → Cluster) : (s.updCluster c f).mp = s.mp := rfl
@[simp] theorem State.updCluster_hau (s : State) (c : BitVec 6) (f : Cluster → Cluster) : (s.updCluster c f).hau = s.hau := rfl
@[simp] theorem State.updCluster_dck (s : State) (c : BitVec 6) (f : Cluster → Cluster) : (s.updCluster c f).dck = s.dck := rfl
@[simp] theorem State.updCluster_xlt (s : State) (c : BitVec 6) (f : Cluster → Cluster) : (s.updCluster c f).xlt = s.xlt := rfl
@[simp] theorem State.updCluster_irq (s : State) (c : BitVec 6) (f : Cluster → Cluster) : (s.updCluster c f).irq = s.irq := rfl
@[simp] theorem State.updCluster_pwr (s : State) (c : BitVec 6) (f : Cluster → Cluster) : (s.updCluster c f).pwr = s.pwr := rfl
@[simp] theorem State.updCluster_fwc (s : State) (c : BitVec 6) (f : Cluster → Cluster) : (s.updCluster c f).fwc = s.fwc := rfl
@[simp] theorem State.updCluster_lgr (s : State) (c : BitVec 6) (f : Cluster → Cluster) : (s.updCluster c f).lgr = s.lgr := rfl
@[simp] theorem State.updCluster_clusters (s : State) (c : BitVec 6) (f : Cluster → Cluster) : (s.updCluster c f).clusters = tupd {} s.clusters c.toNat f := rfl
@[simp] theorem State.updCluster_crzGen (s : State) (c : BitVec 6) (f : Cluster → Cluster) : (s.updCluster c f).crzGen = s.crzGen := rfl
@[simp] theorem State.updCluster_pins (s : State) (c : BitVec 6) (f : Cluster → Cluster) : (s.updCluster c f).pins = s.pins := rfl
@[simp] theorem State.updCluster_free (s : State) (c : BitVec 6) (f : Cluster → Cluster) : (s.updCluster c f).free = s.free := rfl
@[simp] theorem State.updCluster_pending (s : State) (c : BitVec 6) (f : Cluster → Cluster) : (s.updCluster c f).pending = s.pending := rfl

@[simp] theorem State.updEntry_build (s : State) (e : Nat) (f : Entry → Entry) : (s.updEntry e f).build = s.build := rfl
@[simp] theorem State.updEntry_ctxs (s : State) (e : Nat) (f : Entry → Entry) : (s.updEntry e f).ctxs = s.ctxs := rfl
@[simp] theorem State.updEntry_queues (s : State) (e : Nat) (f : Entry → Entry) : (s.updEntry e f).queues = s.queues := rfl
@[simp] theorem State.updEntry_fe (s : State) (e : Nat) (f : Entry → Entry) : (s.updEntry e f).fe = s.fe := rfl
@[simp] theorem State.updEntry_uc (s : State) (e : Nat) (f : Entry → Entry) : (s.updEntry e f).uc = s.uc := rfl
@[simp] theorem State.updEntry_lnd (s : State) (e : Nat) (f : Entry → Entry) : (s.updEntry e f).lnd = { s.lnd with entries := lupd s.lnd.entries e f } := rfl
@[simp] theorem State.updEntry_yrd (s : State) (e : Nat) (f : Entry → Entry) : (s.updEntry e f).yrd = s.yrd := rfl
@[simp] theorem State.updEntry_res (s : State) (e : Nat) (f : Entry → Entry) : (s.updEntry e f).res = s.res := rfl
@[simp] theorem State.updEntry_mp (s : State) (e : Nat) (f : Entry → Entry) : (s.updEntry e f).mp = s.mp := rfl
@[simp] theorem State.updEntry_hau (s : State) (e : Nat) (f : Entry → Entry) : (s.updEntry e f).hau = s.hau := rfl
@[simp] theorem State.updEntry_dck (s : State) (e : Nat) (f : Entry → Entry) : (s.updEntry e f).dck = s.dck := rfl
@[simp] theorem State.updEntry_xlt (s : State) (e : Nat) (f : Entry → Entry) : (s.updEntry e f).xlt = s.xlt := rfl
@[simp] theorem State.updEntry_irq (s : State) (e : Nat) (f : Entry → Entry) : (s.updEntry e f).irq = s.irq := rfl
@[simp] theorem State.updEntry_pwr (s : State) (e : Nat) (f : Entry → Entry) : (s.updEntry e f).pwr = s.pwr := rfl
@[simp] theorem State.updEntry_fwc (s : State) (e : Nat) (f : Entry → Entry) : (s.updEntry e f).fwc = s.fwc := rfl
@[simp] theorem State.updEntry_lgr (s : State) (e : Nat) (f : Entry → Entry) : (s.updEntry e f).lgr = s.lgr := rfl
@[simp] theorem State.updEntry_clusters (s : State) (e : Nat) (f : Entry → Entry) : (s.updEntry e f).clusters = s.clusters := rfl
@[simp] theorem State.updEntry_crzGen (s : State) (e : Nat) (f : Entry → Entry) : (s.updEntry e f).crzGen = s.crzGen := rfl
@[simp] theorem State.updEntry_pins (s : State) (e : Nat) (f : Entry → Entry) : (s.updEntry e f).pins = s.pins := rfl
@[simp] theorem State.updEntry_free (s : State) (e : Nat) (f : Entry → Entry) : (s.updEntry e f).free = s.free := rfl
@[simp] theorem State.updEntry_pending (s : State) (e : Nat) (f : Entry → Entry) : (s.updEntry e f).pending = s.pending := rfl

@[simp] theorem State.updBlaze_build (s : State) (n : BitVec 16) (f : Blaze → Blaze) : (s.updBlaze n f).build = s.build := rfl
@[simp] theorem State.updBlaze_ctxs (s : State) (n : BitVec 16) (f : Blaze → Blaze) : (s.updBlaze n f).ctxs = s.ctxs := rfl
@[simp] theorem State.updBlaze_queues (s : State) (n : BitVec 16) (f : Blaze → Blaze) : (s.updBlaze n f).queues = s.queues := rfl
@[simp] theorem State.updBlaze_fe (s : State) (n : BitVec 16) (f : Blaze → Blaze) : (s.updBlaze n f).fe = s.fe := rfl
@[simp] theorem State.updBlaze_uc (s : State) (n : BitVec 16) (f : Blaze → Blaze) : (s.updBlaze n f).uc = s.uc := rfl
@[simp] theorem State.updBlaze_lnd (s : State) (n : BitVec 16) (f : Blaze → Blaze) : (s.updBlaze n f).lnd = { s.lnd with blazes := tupd {} s.lnd.blazes n.toNat f } := rfl
@[simp] theorem State.updBlaze_yrd (s : State) (n : BitVec 16) (f : Blaze → Blaze) : (s.updBlaze n f).yrd = s.yrd := rfl
@[simp] theorem State.updBlaze_res (s : State) (n : BitVec 16) (f : Blaze → Blaze) : (s.updBlaze n f).res = s.res := rfl
@[simp] theorem State.updBlaze_mp (s : State) (n : BitVec 16) (f : Blaze → Blaze) : (s.updBlaze n f).mp = s.mp := rfl
@[simp] theorem State.updBlaze_hau (s : State) (n : BitVec 16) (f : Blaze → Blaze) : (s.updBlaze n f).hau = s.hau := rfl
@[simp] theorem State.updBlaze_dck (s : State) (n : BitVec 16) (f : Blaze → Blaze) : (s.updBlaze n f).dck = s.dck := rfl
@[simp] theorem State.updBlaze_xlt (s : State) (n : BitVec 16) (f : Blaze → Blaze) : (s.updBlaze n f).xlt = s.xlt := rfl
@[simp] theorem State.updBlaze_irq (s : State) (n : BitVec 16) (f : Blaze → Blaze) : (s.updBlaze n f).irq = s.irq := rfl
@[simp] theorem State.updBlaze_pwr (s : State) (n : BitVec 16) (f : Blaze → Blaze) : (s.updBlaze n f).pwr = s.pwr := rfl
@[simp] theorem State.updBlaze_fwc (s : State) (n : BitVec 16) (f : Blaze → Blaze) : (s.updBlaze n f).fwc = s.fwc := rfl
@[simp] theorem State.updBlaze_lgr (s : State) (n : BitVec 16) (f : Blaze → Blaze) : (s.updBlaze n f).lgr = s.lgr := rfl
@[simp] theorem State.updBlaze_clusters (s : State) (n : BitVec 16) (f : Blaze → Blaze) : (s.updBlaze n f).clusters = s.clusters := rfl
@[simp] theorem State.updBlaze_crzGen (s : State) (n : BitVec 16) (f : Blaze → Blaze) : (s.updBlaze n f).crzGen = s.crzGen := rfl
@[simp] theorem State.updBlaze_pins (s : State) (n : BitVec 16) (f : Blaze → Blaze) : (s.updBlaze n f).pins = s.pins := rfl
@[simp] theorem State.updBlaze_free (s : State) (n : BitVec 16) (f : Blaze → Blaze) : (s.updBlaze n f).free = s.free := rfl
@[simp] theorem State.updBlaze_pending (s : State) (n : BitVec 16) (f : Blaze → Blaze) : (s.updBlaze n f).pending = s.pending := rfl

@[simp] theorem State.updGraph_build (s : State) (c : BitVec 20) (g : BitVec 12) (f : Graph → Graph) : (s.updGraph c g f).build = s.build := rfl
@[simp] theorem State.updGraph_ctxs (s : State) (c : BitVec 20) (g : BitVec 12) (f : Graph → Graph) : (s.updGraph c g f).ctxs = s.ctxs := rfl
@[simp] theorem State.updGraph_queues (s : State) (c : BitVec 20) (g : BitVec 12) (f : Graph → Graph) : (s.updGraph c g f).queues = s.queues := rfl
@[simp] theorem State.updGraph_fe (s : State) (c : BitVec 20) (g : BitVec 12) (f : Graph → Graph) : (s.updGraph c g f).fe = s.fe := rfl
@[simp] theorem State.updGraph_uc (s : State) (c : BitVec 20) (g : BitVec 12) (f : Graph → Graph) : (s.updGraph c g f).uc = s.uc := rfl
@[simp] theorem State.updGraph_lnd (s : State) (c : BitVec 20) (g : BitVec 12) (f : Graph → Graph) : (s.updGraph c g f).lnd = { s.lnd with graphs := tupd {} s.lnd.graphs (4096 * c.toNat + g.toNat) f } := rfl
@[simp] theorem State.updGraph_yrd (s : State) (c : BitVec 20) (g : BitVec 12) (f : Graph → Graph) : (s.updGraph c g f).yrd = s.yrd := rfl
@[simp] theorem State.updGraph_res (s : State) (c : BitVec 20) (g : BitVec 12) (f : Graph → Graph) : (s.updGraph c g f).res = s.res := rfl
@[simp] theorem State.updGraph_mp (s : State) (c : BitVec 20) (g : BitVec 12) (f : Graph → Graph) : (s.updGraph c g f).mp = s.mp := rfl
@[simp] theorem State.updGraph_hau (s : State) (c : BitVec 20) (g : BitVec 12) (f : Graph → Graph) : (s.updGraph c g f).hau = s.hau := rfl
@[simp] theorem State.updGraph_dck (s : State) (c : BitVec 20) (g : BitVec 12) (f : Graph → Graph) : (s.updGraph c g f).dck = s.dck := rfl
@[simp] theorem State.updGraph_xlt (s : State) (c : BitVec 20) (g : BitVec 12) (f : Graph → Graph) : (s.updGraph c g f).xlt = s.xlt := rfl
@[simp] theorem State.updGraph_irq (s : State) (c : BitVec 20) (g : BitVec 12) (f : Graph → Graph) : (s.updGraph c g f).irq = s.irq := rfl
@[simp] theorem State.updGraph_pwr (s : State) (c : BitVec 20) (g : BitVec 12) (f : Graph → Graph) : (s.updGraph c g f).pwr = s.pwr := rfl
@[simp] theorem State.updGraph_fwc (s : State) (c : BitVec 20) (g : BitVec 12) (f : Graph → Graph) : (s.updGraph c g f).fwc = s.fwc := rfl
@[simp] theorem State.updGraph_lgr (s : State) (c : BitVec 20) (g : BitVec 12) (f : Graph → Graph) : (s.updGraph c g f).lgr = s.lgr := rfl
@[simp] theorem State.updGraph_clusters (s : State) (c : BitVec 20) (g : BitVec 12) (f : Graph → Graph) : (s.updGraph c g f).clusters = s.clusters := rfl
@[simp] theorem State.updGraph_crzGen (s : State) (c : BitVec 20) (g : BitVec 12) (f : Graph → Graph) : (s.updGraph c g f).crzGen = s.crzGen := rfl
@[simp] theorem State.updGraph_pins (s : State) (c : BitVec 20) (g : BitVec 12) (f : Graph → Graph) : (s.updGraph c g f).pins = s.pins := rfl
@[simp] theorem State.updGraph_free (s : State) (c : BitVec 20) (g : BitVec 12) (f : Graph → Graph) : (s.updGraph c g f).free = s.free := rfl
@[simp] theorem State.updGraph_pending (s : State) (c : BitVec 20) (g : BitVec 12) (f : Graph → Graph) : (s.updGraph c g f).pending = s.pending := rfl

@[simp] theorem State.updPart_build (s : State) (p : BitVec 3) (f : Partition → Partition) : (s.updPart p f).build = s.build := rfl
@[simp] theorem State.updPart_ctxs (s : State) (p : BitVec 3) (f : Partition → Partition) : (s.updPart p f).ctxs = s.ctxs := rfl
@[simp] theorem State.updPart_queues (s : State) (p : BitVec 3) (f : Partition → Partition) : (s.updPart p f).queues = s.queues := rfl
@[simp] theorem State.updPart_fe (s : State) (p : BitVec 3) (f : Partition → Partition) : (s.updPart p f).fe = s.fe := rfl
@[simp] theorem State.updPart_uc (s : State) (p : BitVec 3) (f : Partition → Partition) : (s.updPart p f).uc = s.uc := rfl
@[simp] theorem State.updPart_lnd (s : State) (p : BitVec 3) (f : Partition → Partition) : (s.updPart p f).lnd = s.lnd := rfl
@[simp] theorem State.updPart_yrd (s : State) (p : BitVec 3) (f : Partition → Partition) : (s.updPart p f).yrd = { s.yrd with parts := s.yrd.parts.set p.toFin (f (s.part p)) } := rfl
@[simp] theorem State.updPart_res (s : State) (p : BitVec 3) (f : Partition → Partition) : (s.updPart p f).res = s.res := rfl
@[simp] theorem State.updPart_mp (s : State) (p : BitVec 3) (f : Partition → Partition) : (s.updPart p f).mp = s.mp := rfl
@[simp] theorem State.updPart_hau (s : State) (p : BitVec 3) (f : Partition → Partition) : (s.updPart p f).hau = s.hau := rfl
@[simp] theorem State.updPart_dck (s : State) (p : BitVec 3) (f : Partition → Partition) : (s.updPart p f).dck = s.dck := rfl
@[simp] theorem State.updPart_xlt (s : State) (p : BitVec 3) (f : Partition → Partition) : (s.updPart p f).xlt = s.xlt := rfl
@[simp] theorem State.updPart_irq (s : State) (p : BitVec 3) (f : Partition → Partition) : (s.updPart p f).irq = s.irq := rfl
@[simp] theorem State.updPart_pwr (s : State) (p : BitVec 3) (f : Partition → Partition) : (s.updPart p f).pwr = s.pwr := rfl
@[simp] theorem State.updPart_fwc (s : State) (p : BitVec 3) (f : Partition → Partition) : (s.updPart p f).fwc = s.fwc := rfl
@[simp] theorem State.updPart_lgr (s : State) (p : BitVec 3) (f : Partition → Partition) : (s.updPart p f).lgr = s.lgr := rfl
@[simp] theorem State.updPart_clusters (s : State) (p : BitVec 3) (f : Partition → Partition) : (s.updPart p f).clusters = s.clusters := rfl
@[simp] theorem State.updPart_crzGen (s : State) (p : BitVec 3) (f : Partition → Partition) : (s.updPart p f).crzGen = s.crzGen := rfl
@[simp] theorem State.updPart_pins (s : State) (p : BitVec 3) (f : Partition → Partition) : (s.updPart p f).pins = s.pins := rfl
@[simp] theorem State.updPart_free (s : State) (p : BitVec 3) (f : Partition → Partition) : (s.updPart p f).free = s.free := rfl
@[simp] theorem State.updPart_pending (s : State) (p : BitVec 3) (f : Partition → Partition) : (s.updPart p f).pending = s.pending := rfl

@[simp] theorem State.updRes_build (s : State) (r : Nat) (f : ResSlot → ResSlot) : (s.updRes r f).build = s.build := rfl
@[simp] theorem State.updRes_ctxs (s : State) (r : Nat) (f : ResSlot → ResSlot) : (s.updRes r f).ctxs = s.ctxs := rfl
@[simp] theorem State.updRes_queues (s : State) (r : Nat) (f : ResSlot → ResSlot) : (s.updRes r f).queues = s.queues := rfl
@[simp] theorem State.updRes_fe (s : State) (r : Nat) (f : ResSlot → ResSlot) : (s.updRes r f).fe = s.fe := rfl
@[simp] theorem State.updRes_uc (s : State) (r : Nat) (f : ResSlot → ResSlot) : (s.updRes r f).uc = s.uc := rfl
@[simp] theorem State.updRes_lnd (s : State) (r : Nat) (f : ResSlot → ResSlot) : (s.updRes r f).lnd = s.lnd := rfl
@[simp] theorem State.updRes_yrd (s : State) (r : Nat) (f : ResSlot → ResSlot) : (s.updRes r f).yrd = s.yrd := rfl
@[simp] theorem State.updRes_res (s : State) (r : Nat) (f : ResSlot → ResSlot) : (s.updRes r f).res = { s.res with slots := tupd {} s.res.slots r f } := rfl
@[simp] theorem State.updRes_mp (s : State) (r : Nat) (f : ResSlot → ResSlot) : (s.updRes r f).mp = s.mp := rfl
@[simp] theorem State.updRes_hau (s : State) (r : Nat) (f : ResSlot → ResSlot) : (s.updRes r f).hau = s.hau := rfl
@[simp] theorem State.updRes_dck (s : State) (r : Nat) (f : ResSlot → ResSlot) : (s.updRes r f).dck = s.dck := rfl
@[simp] theorem State.updRes_xlt (s : State) (r : Nat) (f : ResSlot → ResSlot) : (s.updRes r f).xlt = s.xlt := rfl
@[simp] theorem State.updRes_irq (s : State) (r : Nat) (f : ResSlot → ResSlot) : (s.updRes r f).irq = s.irq := rfl
@[simp] theorem State.updRes_pwr (s : State) (r : Nat) (f : ResSlot → ResSlot) : (s.updRes r f).pwr = s.pwr := rfl
@[simp] theorem State.updRes_fwc (s : State) (r : Nat) (f : ResSlot → ResSlot) : (s.updRes r f).fwc = s.fwc := rfl
@[simp] theorem State.updRes_lgr (s : State) (r : Nat) (f : ResSlot → ResSlot) : (s.updRes r f).lgr = s.lgr := rfl
@[simp] theorem State.updRes_clusters (s : State) (r : Nat) (f : ResSlot → ResSlot) : (s.updRes r f).clusters = s.clusters := rfl
@[simp] theorem State.updRes_crzGen (s : State) (r : Nat) (f : ResSlot → ResSlot) : (s.updRes r f).crzGen = s.crzGen := rfl
@[simp] theorem State.updRes_pins (s : State) (r : Nat) (f : ResSlot → ResSlot) : (s.updRes r f).pins = s.pins := rfl
@[simp] theorem State.updRes_free (s : State) (r : Nat) (f : ResSlot → ResSlot) : (s.updRes r f).free = s.free := rfl
@[simp] theorem State.updRes_pending (s : State) (r : Nat) (f : ResSlot → ResSlot) : (s.updRes r f).pending = s.pending := rfl

@[simp] theorem State.updMbx_build (s : State) (m : BitVec 8) (f : Mbx → Mbx) : (s.updMbx m f).build = s.build := rfl
@[simp] theorem State.updMbx_ctxs (s : State) (m : BitVec 8) (f : Mbx → Mbx) : (s.updMbx m f).ctxs = s.ctxs := rfl
@[simp] theorem State.updMbx_queues (s : State) (m : BitVec 8) (f : Mbx → Mbx) : (s.updMbx m f).queues = s.queues := rfl
@[simp] theorem State.updMbx_fe (s : State) (m : BitVec 8) (f : Mbx → Mbx) : (s.updMbx m f).fe = s.fe := rfl
@[simp] theorem State.updMbx_uc (s : State) (m : BitVec 8) (f : Mbx → Mbx) : (s.updMbx m f).uc = s.uc := rfl
@[simp] theorem State.updMbx_lnd (s : State) (m : BitVec 8) (f : Mbx → Mbx) : (s.updMbx m f).lnd = s.lnd := rfl
@[simp] theorem State.updMbx_yrd (s : State) (m : BitVec 8) (f : Mbx → Mbx) : (s.updMbx m f).yrd = s.yrd := rfl
@[simp] theorem State.updMbx_res (s : State) (m : BitVec 8) (f : Mbx → Mbx) : (s.updMbx m f).res = s.res := rfl
@[simp] theorem State.updMbx_mp (s : State) (m : BitVec 8) (f : Mbx → Mbx) : (s.updMbx m f).mp = s.mp := rfl
@[simp] theorem State.updMbx_hau (s : State) (m : BitVec 8) (f : Mbx → Mbx) : (s.updMbx m f).hau = s.hau := rfl
@[simp] theorem State.updMbx_dck (s : State) (m : BitVec 8) (f : Mbx → Mbx) : (s.updMbx m f).dck = s.dck := rfl
@[simp] theorem State.updMbx_xlt (s : State) (m : BitVec 8) (f : Mbx → Mbx) : (s.updMbx m f).xlt = s.xlt := rfl
@[simp] theorem State.updMbx_irq (s : State) (m : BitVec 8) (f : Mbx → Mbx) : (s.updMbx m f).irq = s.irq := rfl
@[simp] theorem State.updMbx_pwr (s : State) (m : BitVec 8) (f : Mbx → Mbx) : (s.updMbx m f).pwr = s.pwr := rfl
@[simp] theorem State.updMbx_fwc (s : State) (m : BitVec 8) (f : Mbx → Mbx) : (s.updMbx m f).fwc = { s.fwc with mbx := tupd {} s.fwc.mbx m.toNat f } := rfl
@[simp] theorem State.updMbx_lgr (s : State) (m : BitVec 8) (f : Mbx → Mbx) : (s.updMbx m f).lgr = s.lgr := rfl
@[simp] theorem State.updMbx_clusters (s : State) (m : BitVec 8) (f : Mbx → Mbx) : (s.updMbx m f).clusters = s.clusters := rfl
@[simp] theorem State.updMbx_crzGen (s : State) (m : BitVec 8) (f : Mbx → Mbx) : (s.updMbx m f).crzGen = s.crzGen := rfl
@[simp] theorem State.updMbx_pins (s : State) (m : BitVec 8) (f : Mbx → Mbx) : (s.updMbx m f).pins = s.pins := rfl
@[simp] theorem State.updMbx_free (s : State) (m : BitVec 8) (f : Mbx → Mbx) : (s.updMbx m f).free = s.free := rfl
@[simp] theorem State.updMbx_pending (s : State) (m : BitVec 8) (f : Mbx → Mbx) : (s.updMbx m f).pending = s.pending := rfl

@[simp] theorem State.updProc_build (s : State) (p : Nat) (f : Proc → Proc) : (s.updProc p f).build = s.build := rfl
@[simp] theorem State.updProc_ctxs (s : State) (p : Nat) (f : Proc → Proc) : (s.updProc p f).ctxs = s.ctxs := rfl
@[simp] theorem State.updProc_queues (s : State) (p : Nat) (f : Proc → Proc) : (s.updProc p f).queues = s.queues := rfl
@[simp] theorem State.updProc_fe (s : State) (p : Nat) (f : Proc → Proc) : (s.updProc p f).fe = s.fe := rfl
@[simp] theorem State.updProc_uc (s : State) (p : Nat) (f : Proc → Proc) : (s.updProc p f).uc = s.uc := rfl
@[simp] theorem State.updProc_lnd (s : State) (p : Nat) (f : Proc → Proc) : (s.updProc p f).lnd = s.lnd := rfl
@[simp] theorem State.updProc_yrd (s : State) (p : Nat) (f : Proc → Proc) : (s.updProc p f).yrd = s.yrd := rfl
@[simp] theorem State.updProc_res (s : State) (p : Nat) (f : Proc → Proc) : (s.updProc p f).res = s.res := rfl
@[simp] theorem State.updProc_mp (s : State) (p : Nat) (f : Proc → Proc) : (s.updProc p f).mp = s.mp := rfl
@[simp] theorem State.updProc_hau (s : State) (p : Nat) (f : Proc → Proc) : (s.updProc p f).hau = s.hau := rfl
@[simp] theorem State.updProc_dck (s : State) (p : Nat) (f : Proc → Proc) : (s.updProc p f).dck = s.dck := rfl
@[simp] theorem State.updProc_xlt (s : State) (p : Nat) (f : Proc → Proc) : (s.updProc p f).xlt = s.xlt := rfl
@[simp] theorem State.updProc_irq (s : State) (p : Nat) (f : Proc → Proc) : (s.updProc p f).irq = s.irq := rfl
@[simp] theorem State.updProc_pwr (s : State) (p : Nat) (f : Proc → Proc) : (s.updProc p f).pwr = s.pwr := rfl
@[simp] theorem State.updProc_fwc (s : State) (p : Nat) (f : Proc → Proc) : (s.updProc p f).fwc = { s.fwc with procs := tupd {} s.fwc.procs p f } := rfl
@[simp] theorem State.updProc_lgr (s : State) (p : Nat) (f : Proc → Proc) : (s.updProc p f).lgr = s.lgr := rfl
@[simp] theorem State.updProc_clusters (s : State) (p : Nat) (f : Proc → Proc) : (s.updProc p f).clusters = s.clusters := rfl
@[simp] theorem State.updProc_crzGen (s : State) (p : Nat) (f : Proc → Proc) : (s.updProc p f).crzGen = s.crzGen := rfl
@[simp] theorem State.updProc_pins (s : State) (p : Nat) (f : Proc → Proc) : (s.updProc p f).pins = s.pins := rfl
@[simp] theorem State.updProc_free (s : State) (p : Nat) (f : Proc → Proc) : (s.updProc p f).free = s.free := rfl
@[simp] theorem State.updProc_pending (s : State) (p : Nat) (f : Proc → Proc) : (s.updProc p f).pending = s.pending := rfl

@[simp] theorem State.updThread_build (s : State) (t : BitVec 4) (f : Thread → Thread) : (s.updThread t f).build = s.build := rfl
@[simp] theorem State.updThread_ctxs (s : State) (t : BitVec 4) (f : Thread → Thread) : (s.updThread t f).ctxs = s.ctxs := rfl
@[simp] theorem State.updThread_queues (s : State) (t : BitVec 4) (f : Thread → Thread) : (s.updThread t f).queues = s.queues := rfl
@[simp] theorem State.updThread_fe (s : State) (t : BitVec 4) (f : Thread → Thread) : (s.updThread t f).fe = s.fe := rfl
@[simp] theorem State.updThread_uc (s : State) (t : BitVec 4) (f : Thread → Thread) : (s.updThread t f).uc = { s.uc with threads := tupd {} s.uc.threads t.toNat f } := rfl
@[simp] theorem State.updThread_lnd (s : State) (t : BitVec 4) (f : Thread → Thread) : (s.updThread t f).lnd = s.lnd := rfl
@[simp] theorem State.updThread_yrd (s : State) (t : BitVec 4) (f : Thread → Thread) : (s.updThread t f).yrd = s.yrd := rfl
@[simp] theorem State.updThread_res (s : State) (t : BitVec 4) (f : Thread → Thread) : (s.updThread t f).res = s.res := rfl
@[simp] theorem State.updThread_mp (s : State) (t : BitVec 4) (f : Thread → Thread) : (s.updThread t f).mp = s.mp := rfl
@[simp] theorem State.updThread_hau (s : State) (t : BitVec 4) (f : Thread → Thread) : (s.updThread t f).hau = s.hau := rfl
@[simp] theorem State.updThread_dck (s : State) (t : BitVec 4) (f : Thread → Thread) : (s.updThread t f).dck = s.dck := rfl
@[simp] theorem State.updThread_xlt (s : State) (t : BitVec 4) (f : Thread → Thread) : (s.updThread t f).xlt = s.xlt := rfl
@[simp] theorem State.updThread_irq (s : State) (t : BitVec 4) (f : Thread → Thread) : (s.updThread t f).irq = s.irq := rfl
@[simp] theorem State.updThread_pwr (s : State) (t : BitVec 4) (f : Thread → Thread) : (s.updThread t f).pwr = s.pwr := rfl
@[simp] theorem State.updThread_fwc (s : State) (t : BitVec 4) (f : Thread → Thread) : (s.updThread t f).fwc = s.fwc := rfl
@[simp] theorem State.updThread_lgr (s : State) (t : BitVec 4) (f : Thread → Thread) : (s.updThread t f).lgr = s.lgr := rfl
@[simp] theorem State.updThread_clusters (s : State) (t : BitVec 4) (f : Thread → Thread) : (s.updThread t f).clusters = s.clusters := rfl
@[simp] theorem State.updThread_crzGen (s : State) (t : BitVec 4) (f : Thread → Thread) : (s.updThread t f).crzGen = s.crzGen := rfl
@[simp] theorem State.updThread_pins (s : State) (t : BitVec 4) (f : Thread → Thread) : (s.updThread t f).pins = s.pins := rfl
@[simp] theorem State.updThread_free (s : State) (t : BitVec 4) (f : Thread → Thread) : (s.updThread t f).free = s.free := rfl
@[simp] theorem State.updThread_pending (s : State) (t : BitVec 4) (f : Thread → Thread) : (s.updThread t f).pending = s.pending := rfl

@[simp] theorem State.updVec_build (s : State) (v : BitVec 3) (f : Vec → Vec) : (s.updVec v f).build = s.build := rfl
@[simp] theorem State.updVec_ctxs (s : State) (v : BitVec 3) (f : Vec → Vec) : (s.updVec v f).ctxs = s.ctxs := rfl
@[simp] theorem State.updVec_queues (s : State) (v : BitVec 3) (f : Vec → Vec) : (s.updVec v f).queues = s.queues := rfl
@[simp] theorem State.updVec_fe (s : State) (v : BitVec 3) (f : Vec → Vec) : (s.updVec v f).fe = s.fe := rfl
@[simp] theorem State.updVec_uc (s : State) (v : BitVec 3) (f : Vec → Vec) : (s.updVec v f).uc = s.uc := rfl
@[simp] theorem State.updVec_lnd (s : State) (v : BitVec 3) (f : Vec → Vec) : (s.updVec v f).lnd = s.lnd := rfl
@[simp] theorem State.updVec_yrd (s : State) (v : BitVec 3) (f : Vec → Vec) : (s.updVec v f).yrd = s.yrd := rfl
@[simp] theorem State.updVec_res (s : State) (v : BitVec 3) (f : Vec → Vec) : (s.updVec v f).res = s.res := rfl
@[simp] theorem State.updVec_mp (s : State) (v : BitVec 3) (f : Vec → Vec) : (s.updVec v f).mp = s.mp := rfl
@[simp] theorem State.updVec_hau (s : State) (v : BitVec 3) (f : Vec → Vec) : (s.updVec v f).hau = s.hau := rfl
@[simp] theorem State.updVec_dck (s : State) (v : BitVec 3) (f : Vec → Vec) : (s.updVec v f).dck = s.dck := rfl
@[simp] theorem State.updVec_xlt (s : State) (v : BitVec 3) (f : Vec → Vec) : (s.updVec v f).xlt = s.xlt := rfl
@[simp] theorem State.updVec_irq (s : State) (v : BitVec 3) (f : Vec → Vec) : (s.updVec v f).irq = { s.irq with vecs := s.irq.vecs.set v.toFin (f (s.vec v)) } := rfl
@[simp] theorem State.updVec_pwr (s : State) (v : BitVec 3) (f : Vec → Vec) : (s.updVec v f).pwr = s.pwr := rfl
@[simp] theorem State.updVec_fwc (s : State) (v : BitVec 3) (f : Vec → Vec) : (s.updVec v f).fwc = s.fwc := rfl
@[simp] theorem State.updVec_lgr (s : State) (v : BitVec 3) (f : Vec → Vec) : (s.updVec v f).lgr = s.lgr := rfl
@[simp] theorem State.updVec_clusters (s : State) (v : BitVec 3) (f : Vec → Vec) : (s.updVec v f).clusters = s.clusters := rfl
@[simp] theorem State.updVec_crzGen (s : State) (v : BitVec 3) (f : Vec → Vec) : (s.updVec v f).crzGen = s.crzGen := rfl
@[simp] theorem State.updVec_pins (s : State) (v : BitVec 3) (f : Vec → Vec) : (s.updVec v f).pins = s.pins := rfl
@[simp] theorem State.updVec_free (s : State) (v : BitVec 3) (f : Vec → Vec) : (s.updVec v f).free = s.free := rfl
@[simp] theorem State.updVec_pending (s : State) (v : BitVec 3) (f : Vec → Vec) : (s.updVec v f).pending = s.pending := rfl

@[simp] theorem State.updStream_build (s : State) (k : Nat) (f : Stream → Stream) : (s.updStream k f).build = s.build := rfl
@[simp] theorem State.updStream_ctxs (s : State) (k : Nat) (f : Stream → Stream) : (s.updStream k f).ctxs = s.ctxs := rfl
@[simp] theorem State.updStream_queues (s : State) (k : Nat) (f : Stream → Stream) : (s.updStream k f).queues = s.queues := rfl
@[simp] theorem State.updStream_fe (s : State) (k : Nat) (f : Stream → Stream) : (s.updStream k f).fe = s.fe := rfl
@[simp] theorem State.updStream_uc (s : State) (k : Nat) (f : Stream → Stream) : (s.updStream k f).uc = s.uc := rfl
@[simp] theorem State.updStream_lnd (s : State) (k : Nat) (f : Stream → Stream) : (s.updStream k f).lnd = s.lnd := rfl
@[simp] theorem State.updStream_yrd (s : State) (k : Nat) (f : Stream → Stream) : (s.updStream k f).yrd = s.yrd := rfl
@[simp] theorem State.updStream_res (s : State) (k : Nat) (f : Stream → Stream) : (s.updStream k f).res = s.res := rfl
@[simp] theorem State.updStream_mp (s : State) (k : Nat) (f : Stream → Stream) : (s.updStream k f).mp = s.mp := rfl
@[simp] theorem State.updStream_hau (s : State) (k : Nat) (f : Stream → Stream) : (s.updStream k f).hau = { s.hau with streams := lupd s.hau.streams k f } := rfl
@[simp] theorem State.updStream_dck (s : State) (k : Nat) (f : Stream → Stream) : (s.updStream k f).dck = s.dck := rfl
@[simp] theorem State.updStream_xlt (s : State) (k : Nat) (f : Stream → Stream) : (s.updStream k f).xlt = s.xlt := rfl
@[simp] theorem State.updStream_irq (s : State) (k : Nat) (f : Stream → Stream) : (s.updStream k f).irq = s.irq := rfl
@[simp] theorem State.updStream_pwr (s : State) (k : Nat) (f : Stream → Stream) : (s.updStream k f).pwr = s.pwr := rfl
@[simp] theorem State.updStream_fwc (s : State) (k : Nat) (f : Stream → Stream) : (s.updStream k f).fwc = s.fwc := rfl
@[simp] theorem State.updStream_lgr (s : State) (k : Nat) (f : Stream → Stream) : (s.updStream k f).lgr = s.lgr := rfl
@[simp] theorem State.updStream_clusters (s : State) (k : Nat) (f : Stream → Stream) : (s.updStream k f).clusters = s.clusters := rfl
@[simp] theorem State.updStream_crzGen (s : State) (k : Nat) (f : Stream → Stream) : (s.updStream k f).crzGen = s.crzGen := rfl
@[simp] theorem State.updStream_pins (s : State) (k : Nat) (f : Stream → Stream) : (s.updStream k f).pins = s.pins := rfl
@[simp] theorem State.updStream_free (s : State) (k : Nat) (f : Stream → Stream) : (s.updStream k f).free = s.free := rfl
@[simp] theorem State.updStream_pending (s : State) (k : Nat) (f : Stream → Stream) : (s.updStream k f).pending = s.pending := rfl

@[simp] theorem State.count_build (s : State) (i : Nat) : (s.count i).build = s.build := rfl
@[simp] theorem State.count_ctxs (s : State) (i : Nat) : (s.count i).ctxs = s.ctxs := rfl
@[simp] theorem State.count_queues (s : State) (i : Nat) : (s.count i).queues = s.queues := rfl
@[simp] theorem State.count_fe (s : State) (i : Nat) : (s.count i).fe = s.fe := rfl
@[simp] theorem State.count_uc (s : State) (i : Nat) : (s.count i).uc = s.uc := rfl
@[simp] theorem State.count_lnd (s : State) (i : Nat) : (s.count i).lnd = s.lnd := rfl
@[simp] theorem State.count_yrd (s : State) (i : Nat) : (s.count i).yrd = s.yrd := rfl
@[simp] theorem State.count_res (s : State) (i : Nat) : (s.count i).res = s.res := rfl
@[simp] theorem State.count_mp (s : State) (i : Nat) : (s.count i).mp = s.mp := rfl
@[simp] theorem State.count_hau (s : State) (i : Nat) : (s.count i).hau = s.hau := rfl
@[simp] theorem State.count_dck (s : State) (i : Nat) : (s.count i).dck = s.dck := rfl
@[simp] theorem State.count_xlt (s : State) (i : Nat) : (s.count i).xlt = s.xlt := rfl
@[simp] theorem State.count_irq (s : State) (i : Nat) : (s.count i).irq = s.irq := rfl
@[simp] theorem State.count_pwr (s : State) (i : Nat) : (s.count i).pwr = s.pwr := rfl
@[simp] theorem State.count_fwc (s : State) (i : Nat) : (s.count i).fwc = s.fwc := rfl
@[simp] theorem State.count_lgr (s : State) (i : Nat) : (s.count i).lgr = { s.lgr with counts := tupd 0 s.lgr.counts i (fun x => if x = BitVec.allOnes 64 then x else x + 1) } := rfl
@[simp] theorem State.count_clusters (s : State) (i : Nat) : (s.count i).clusters = s.clusters := rfl
@[simp] theorem State.count_crzGen (s : State) (i : Nat) : (s.count i).crzGen = s.crzGen := rfl
@[simp] theorem State.count_pins (s : State) (i : Nat) : (s.count i).pins = s.pins := rfl
@[simp] theorem State.count_free (s : State) (i : Nat) : (s.count i).free = s.free := rfl
@[simp] theorem State.count_pending (s : State) (i : Nat) : (s.count i).pending = s.pending := rfl

@[simp] theorem State.cruise_build (s : State) : (s.cruise).build = s.build := rfl
@[simp] theorem State.cruise_ctxs (s : State) : (s.cruise).ctxs = s.ctxs := rfl
@[simp] theorem State.cruise_queues (s : State) : (s.cruise).queues = s.queues := rfl
@[simp] theorem State.cruise_fe (s : State) : (s.cruise).fe = s.fe := rfl
@[simp] theorem State.cruise_uc (s : State) : (s.cruise).uc = s.uc := rfl
@[simp] theorem State.cruise_lnd (s : State) : (s.cruise).lnd = s.lnd := rfl
@[simp] theorem State.cruise_yrd (s : State) : (s.cruise).yrd = s.yrd := rfl
@[simp] theorem State.cruise_res (s : State) : (s.cruise).res = s.res := rfl
@[simp] theorem State.cruise_mp (s : State) : (s.cruise).mp = s.mp := rfl
@[simp] theorem State.cruise_hau (s : State) : (s.cruise).hau = s.hau := rfl
@[simp] theorem State.cruise_dck (s : State) : (s.cruise).dck = s.dck := rfl
@[simp] theorem State.cruise_xlt (s : State) : (s.cruise).xlt = s.xlt := rfl
@[simp] theorem State.cruise_irq (s : State) : (s.cruise).irq = s.irq := rfl
@[simp] theorem State.cruise_pwr (s : State) : (s.cruise).pwr = s.pwr := rfl
@[simp] theorem State.cruise_fwc (s : State) : (s.cruise).fwc = s.fwc := rfl
@[simp] theorem State.cruise_lgr (s : State) : (s.cruise).lgr = s.lgr := rfl
@[simp] theorem State.cruise_clusters (s : State) : (s.cruise).clusters = s.clusters := rfl
@[simp] theorem State.cruise_crzGen (s : State) : (s.cruise).crzGen = s.crzGen + 1 := rfl
@[simp] theorem State.cruise_pins (s : State) : (s.cruise).pins = s.pins := rfl
@[simp] theorem State.cruise_free (s : State) : (s.cruise).free = s.free := rfl
@[simp] theorem State.cruise_pending (s : State) : (s.cruise).pending = s.pending := rfl

@[simp] theorem State.latchWake_build (s : State) : (s.latchWake).build = s.build := rfl
@[simp] theorem State.latchWake_ctxs (s : State) : (s.latchWake).ctxs = s.ctxs := rfl
@[simp] theorem State.latchWake_queues (s : State) : (s.latchWake).queues = s.queues := rfl
@[simp] theorem State.latchWake_fe (s : State) : (s.latchWake).fe = s.fe := rfl
@[simp] theorem State.latchWake_uc (s : State) : (s.latchWake).uc = s.uc := rfl
@[simp] theorem State.latchWake_lnd (s : State) : (s.latchWake).lnd = s.lnd := rfl
@[simp] theorem State.latchWake_yrd (s : State) : (s.latchWake).yrd = s.yrd := rfl
@[simp] theorem State.latchWake_res (s : State) : (s.latchWake).res = s.res := rfl
@[simp] theorem State.latchWake_mp (s : State) : (s.latchWake).mp = s.mp := rfl
@[simp] theorem State.latchWake_hau (s : State) : (s.latchWake).hau = s.hau := rfl
@[simp] theorem State.latchWake_dck (s : State) : (s.latchWake).dck = s.dck := rfl
@[simp] theorem State.latchWake_xlt (s : State) : (s.latchWake).xlt = s.xlt := rfl
@[simp] theorem State.latchWake_irq (s : State) : (s.latchWake).irq = s.irq := rfl
@[simp] theorem State.latchWake_pwr (s : State) : (s.latchWake).pwr = { s.pwr with wake := true, wakeLate := s.pwr.wakeLate || decide (s.pwr.phase = .handshake) } := rfl
@[simp] theorem State.latchWake_fwc (s : State) : (s.latchWake).fwc = s.fwc := rfl
@[simp] theorem State.latchWake_lgr (s : State) : (s.latchWake).lgr = s.lgr := rfl
@[simp] theorem State.latchWake_clusters (s : State) : (s.latchWake).clusters = s.clusters := rfl
@[simp] theorem State.latchWake_crzGen (s : State) : (s.latchWake).crzGen = s.crzGen := rfl
@[simp] theorem State.latchWake_pins (s : State) : (s.latchWake).pins = s.pins := rfl
@[simp] theorem State.latchWake_free (s : State) : (s.latchWake).free = s.free := rfl
@[simp] theorem State.latchWake_pending (s : State) : (s.latchWake).pending = s.pending := rfl

@[simp] theorem State.respond_build (s : State) (r : Resp) (d : W512) : (s.respond r d).build = s.build := rfl
@[simp] theorem State.respond_ctxs (s : State) (r : Resp) (d : W512) : (s.respond r d).ctxs = s.ctxs := rfl
@[simp] theorem State.respond_queues (s : State) (r : Resp) (d : W512) : (s.respond r d).queues = s.queues := rfl
@[simp] theorem State.respond_fe (s : State) (r : Resp) (d : W512) : (s.respond r d).fe = { s.fe with resp := { resp := r, data := d, notBefore := s.fc, id := s.fe.hostId } } := rfl
@[simp] theorem State.respond_uc (s : State) (r : Resp) (d : W512) : (s.respond r d).uc = s.uc := rfl
@[simp] theorem State.respond_lnd (s : State) (r : Resp) (d : W512) : (s.respond r d).lnd = s.lnd := rfl
@[simp] theorem State.respond_yrd (s : State) (r : Resp) (d : W512) : (s.respond r d).yrd = s.yrd := rfl
@[simp] theorem State.respond_res (s : State) (r : Resp) (d : W512) : (s.respond r d).res = s.res := rfl
@[simp] theorem State.respond_mp (s : State) (r : Resp) (d : W512) : (s.respond r d).mp = s.mp := rfl
@[simp] theorem State.respond_hau (s : State) (r : Resp) (d : W512) : (s.respond r d).hau = s.hau := rfl
@[simp] theorem State.respond_dck (s : State) (r : Resp) (d : W512) : (s.respond r d).dck = s.dck := rfl
@[simp] theorem State.respond_xlt (s : State) (r : Resp) (d : W512) : (s.respond r d).xlt = s.xlt := rfl
@[simp] theorem State.respond_irq (s : State) (r : Resp) (d : W512) : (s.respond r d).irq = s.irq := rfl
@[simp] theorem State.respond_pwr (s : State) (r : Resp) (d : W512) : (s.respond r d).pwr = s.pwr := rfl
@[simp] theorem State.respond_fwc (s : State) (r : Resp) (d : W512) : (s.respond r d).fwc = s.fwc := rfl
@[simp] theorem State.respond_lgr (s : State) (r : Resp) (d : W512) : (s.respond r d).lgr = s.lgr := rfl
@[simp] theorem State.respond_clusters (s : State) (r : Resp) (d : W512) : (s.respond r d).clusters = s.clusters := rfl
@[simp] theorem State.respond_crzGen (s : State) (r : Resp) (d : W512) : (s.respond r d).crzGen = s.crzGen := rfl
@[simp] theorem State.respond_pins (s : State) (r : Resp) (d : W512) : (s.respond r d).pins = s.pins := rfl
@[simp] theorem State.respond_free (s : State) (r : Resp) (d : W512) : (s.respond r d).free = s.free := rfl
@[simp] theorem State.respond_pending (s : State) (r : Resp) (d : W512) : (s.respond r d).pending = s.pending := rfl

/-! ## The updates that depend on the state -/

@[simp] theorem State.logErr_build (s : State) (o st : BitVec 8) (ev : BitVec 16) (c q : W32) (d : W64) : (s.logErr o st ev c q d).build = s.build := rfl
@[simp] theorem State.logErr_ctxs (s : State) (o st : BitVec 8) (ev : BitVec 16) (c q : W32) (d : W64) : (s.logErr o st ev c q d).ctxs = s.ctxs := rfl
@[simp] theorem State.logErr_queues (s : State) (o st : BitVec 8) (ev : BitVec 16) (c q : W32) (d : W64) : (s.logErr o st ev c q d).queues = s.queues := rfl
@[simp] theorem State.logErr_fe (s : State) (o st : BitVec 8) (ev : BitVec 16) (c q : W32) (d : W64) : (s.logErr o st ev c q d).fe = s.fe := rfl
@[simp] theorem State.logErr_uc (s : State) (o st : BitVec 8) (ev : BitVec 16) (c q : W32) (d : W64) : (s.logErr o st ev c q d).uc = s.uc := rfl
@[simp] theorem State.logErr_lnd (s : State) (o st : BitVec 8) (ev : BitVec 16) (c q : W32) (d : W64) : (s.logErr o st ev c q d).lnd = s.lnd := rfl
@[simp] theorem State.logErr_yrd (s : State) (o st : BitVec 8) (ev : BitVec 16) (c q : W32) (d : W64) : (s.logErr o st ev c q d).yrd = s.yrd := rfl
@[simp] theorem State.logErr_res (s : State) (o st : BitVec 8) (ev : BitVec 16) (c q : W32) (d : W64) : (s.logErr o st ev c q d).res = s.res := rfl
@[simp] theorem State.logErr_mp (s : State) (o st : BitVec 8) (ev : BitVec 16) (c q : W32) (d : W64) : (s.logErr o st ev c q d).mp = s.mp := rfl
@[simp] theorem State.logErr_hau (s : State) (o st : BitVec 8) (ev : BitVec 16) (c q : W32) (d : W64) : (s.logErr o st ev c q d).hau = s.hau := rfl
@[simp] theorem State.logErr_dck (s : State) (o st : BitVec 8) (ev : BitVec 16) (c q : W32) (d : W64) : (s.logErr o st ev c q d).dck = s.dck := rfl
@[simp] theorem State.logErr_xlt (s : State) (o st : BitVec 8) (ev : BitVec 16) (c q : W32) (d : W64) : (s.logErr o st ev c q d).xlt = s.xlt := rfl
@[simp] theorem State.logErr_irq (s : State) (o st : BitVec 8) (ev : BitVec 16) (c q : W32) (d : W64) : (s.logErr o st ev c q d).irq = s.irq := rfl
@[simp] theorem State.logErr_pwr (s : State) (o st : BitVec 8) (ev : BitVec 16) (c q : W32) (d : W64) : (s.logErr o st ev c q d).pwr = s.pwr := rfl
@[simp] theorem State.logErr_fwc (s : State) (o st : BitVec 8) (ev : BitVec 16) (c q : W32) (d : W64) : (s.logErr o st ev c q d).fwc = s.fwc := rfl
@[simp] theorem State.logErr_clusters (s : State) (o st : BitVec 8) (ev : BitVec 16) (c q : W32) (d : W64) : (s.logErr o st ev c q d).clusters = s.clusters := rfl
@[simp] theorem State.logErr_crzGen (s : State) (o st : BitVec 8) (ev : BitVec 16) (c q : W32) (d : W64) : (s.logErr o st ev c q d).crzGen = s.crzGen := rfl
@[simp] theorem State.logErr_pins (s : State) (o st : BitVec 8) (ev : BitVec 16) (c q : W32) (d : W64) : (s.logErr o st ev c q d).pins = s.pins := rfl
@[simp] theorem State.logErr_free (s : State) (o st : BitVec 8) (ev : BitVec 16) (c q : W32) (d : W64) : (s.logErr o st ev c q d).free = s.free := rfl
@[simp] theorem State.logErr_pending (s : State) (o st : BitVec 8) (ev : BitVec 16) (c q : W32) (d : W64) : (s.logErr o st ev c q d).pending = s.pending := rfl

@[simp] theorem State.logHw_build (s : State) (ev : BitVec 16) (st : BitVec 8) (c : Option (BitVec 20)) (q : Option (BitVec 14)) (d : Nat) : (s.logHw ev st c q d).build = s.build := rfl
@[simp] theorem State.logHw_ctxs (s : State) (ev : BitVec 16) (st : BitVec 8) (c : Option (BitVec 20)) (q : Option (BitVec 14)) (d : Nat) : (s.logHw ev st c q d).ctxs = s.ctxs := rfl
@[simp] theorem State.logHw_queues (s : State) (ev : BitVec 16) (st : BitVec 8) (c : Option (BitVec 20)) (q : Option (BitVec 14)) (d : Nat) : (s.logHw ev st c q d).queues = s.queues := rfl
@[simp] theorem State.logHw_fe (s : State) (ev : BitVec 16) (st : BitVec 8) (c : Option (BitVec 20)) (q : Option (BitVec 14)) (d : Nat) : (s.logHw ev st c q d).fe = s.fe := rfl
@[simp] theorem State.logHw_uc (s : State) (ev : BitVec 16) (st : BitVec 8) (c : Option (BitVec 20)) (q : Option (BitVec 14)) (d : Nat) : (s.logHw ev st c q d).uc = s.uc := rfl
@[simp] theorem State.logHw_lnd (s : State) (ev : BitVec 16) (st : BitVec 8) (c : Option (BitVec 20)) (q : Option (BitVec 14)) (d : Nat) : (s.logHw ev st c q d).lnd = s.lnd := rfl
@[simp] theorem State.logHw_yrd (s : State) (ev : BitVec 16) (st : BitVec 8) (c : Option (BitVec 20)) (q : Option (BitVec 14)) (d : Nat) : (s.logHw ev st c q d).yrd = s.yrd := rfl
@[simp] theorem State.logHw_res (s : State) (ev : BitVec 16) (st : BitVec 8) (c : Option (BitVec 20)) (q : Option (BitVec 14)) (d : Nat) : (s.logHw ev st c q d).res = s.res := rfl
@[simp] theorem State.logHw_mp (s : State) (ev : BitVec 16) (st : BitVec 8) (c : Option (BitVec 20)) (q : Option (BitVec 14)) (d : Nat) : (s.logHw ev st c q d).mp = s.mp := rfl
@[simp] theorem State.logHw_hau (s : State) (ev : BitVec 16) (st : BitVec 8) (c : Option (BitVec 20)) (q : Option (BitVec 14)) (d : Nat) : (s.logHw ev st c q d).hau = s.hau := rfl
@[simp] theorem State.logHw_dck (s : State) (ev : BitVec 16) (st : BitVec 8) (c : Option (BitVec 20)) (q : Option (BitVec 14)) (d : Nat) : (s.logHw ev st c q d).dck = s.dck := rfl
@[simp] theorem State.logHw_xlt (s : State) (ev : BitVec 16) (st : BitVec 8) (c : Option (BitVec 20)) (q : Option (BitVec 14)) (d : Nat) : (s.logHw ev st c q d).xlt = s.xlt := rfl
@[simp] theorem State.logHw_irq (s : State) (ev : BitVec 16) (st : BitVec 8) (c : Option (BitVec 20)) (q : Option (BitVec 14)) (d : Nat) : (s.logHw ev st c q d).irq = s.irq := rfl
@[simp] theorem State.logHw_pwr (s : State) (ev : BitVec 16) (st : BitVec 8) (c : Option (BitVec 20)) (q : Option (BitVec 14)) (d : Nat) : (s.logHw ev st c q d).pwr = s.pwr := rfl
@[simp] theorem State.logHw_fwc (s : State) (ev : BitVec 16) (st : BitVec 8) (c : Option (BitVec 20)) (q : Option (BitVec 14)) (d : Nat) : (s.logHw ev st c q d).fwc = s.fwc := rfl
@[simp] theorem State.logHw_clusters (s : State) (ev : BitVec 16) (st : BitVec 8) (c : Option (BitVec 20)) (q : Option (BitVec 14)) (d : Nat) : (s.logHw ev st c q d).clusters = s.clusters := rfl
@[simp] theorem State.logHw_crzGen (s : State) (ev : BitVec 16) (st : BitVec 8) (c : Option (BitVec 20)) (q : Option (BitVec 14)) (d : Nat) : (s.logHw ev st c q d).crzGen = s.crzGen := rfl
@[simp] theorem State.logHw_pins (s : State) (ev : BitVec 16) (st : BitVec 8) (c : Option (BitVec 20)) (q : Option (BitVec 14)) (d : Nat) : (s.logHw ev st c q d).pins = s.pins := rfl
@[simp] theorem State.logHw_free (s : State) (ev : BitVec 16) (st : BitVec 8) (c : Option (BitVec 20)) (q : Option (BitVec 14)) (d : Nat) : (s.logHw ev st c q d).free = s.free := rfl
@[simp] theorem State.logHw_pending (s : State) (ev : BitVec 16) (st : BitVec 8) (c : Option (BitVec 20)) (q : Option (BitVec 14)) (d : Nat) : (s.logHw ev st c q d).pending = s.pending := rfl

@[simp] theorem State.raise_build (s : State) (n : Nat) : (s.raise n).build = s.build := by
  unfold State.raise
  split
  · dsimp only
    split <;> rfl
  · rfl
@[simp] theorem State.raise_ctxs (s : State) (n : Nat) : (s.raise n).ctxs = s.ctxs := by
  unfold State.raise
  split
  · dsimp only
    split <;> rfl
  · rfl
@[simp] theorem State.raise_queues (s : State) (n : Nat) : (s.raise n).queues = s.queues := by
  unfold State.raise
  split
  · dsimp only
    split <;> rfl
  · rfl
@[simp] theorem State.raise_fe (s : State) (n : Nat) : (s.raise n).fe = s.fe := by
  unfold State.raise
  split
  · dsimp only
    split <;> rfl
  · rfl
@[simp] theorem State.raise_uc (s : State) (n : Nat) : (s.raise n).uc = s.uc := by
  unfold State.raise
  split
  · dsimp only
    split <;> rfl
  · rfl
@[simp] theorem State.raise_lnd (s : State) (n : Nat) : (s.raise n).lnd = s.lnd := by
  unfold State.raise
  split
  · dsimp only
    split <;> rfl
  · rfl
@[simp] theorem State.raise_yrd (s : State) (n : Nat) : (s.raise n).yrd = s.yrd := by
  unfold State.raise
  split
  · dsimp only
    split <;> rfl
  · rfl
@[simp] theorem State.raise_res (s : State) (n : Nat) : (s.raise n).res = s.res := by
  unfold State.raise
  split
  · dsimp only
    split <;> rfl
  · rfl
@[simp] theorem State.raise_mp (s : State) (n : Nat) : (s.raise n).mp = s.mp := by
  unfold State.raise
  split
  · dsimp only
    split <;> rfl
  · rfl
@[simp] theorem State.raise_hau (s : State) (n : Nat) : (s.raise n).hau = s.hau := by
  unfold State.raise
  split
  · dsimp only
    split <;> rfl
  · rfl
@[simp] theorem State.raise_dck (s : State) (n : Nat) : (s.raise n).dck = s.dck := by
  unfold State.raise
  split
  · dsimp only
    split <;> rfl
  · rfl
@[simp] theorem State.raise_xlt (s : State) (n : Nat) : (s.raise n).xlt = s.xlt := by
  unfold State.raise
  split
  · dsimp only
    split <;> rfl
  · rfl
@[simp] theorem State.raise_fwc (s : State) (n : Nat) : (s.raise n).fwc = s.fwc := by
  unfold State.raise
  split
  · dsimp only
    split <;> rfl
  · rfl
@[simp] theorem State.raise_lgr (s : State) (n : Nat) : (s.raise n).lgr = s.lgr := by
  unfold State.raise
  split
  · dsimp only
    split <;> rfl
  · rfl
@[simp] theorem State.raise_clusters (s : State) (n : Nat) : (s.raise n).clusters = s.clusters := by
  unfold State.raise
  split
  · dsimp only
    split <;> rfl
  · rfl
@[simp] theorem State.raise_crzGen (s : State) (n : Nat) : (s.raise n).crzGen = s.crzGen := by
  unfold State.raise
  split
  · dsimp only
    split <;> rfl
  · rfl
@[simp] theorem State.raise_pins (s : State) (n : Nat) : (s.raise n).pins = s.pins := by
  unfold State.raise
  split
  · dsimp only
    split <;> rfl
  · rfl
@[simp] theorem State.raise_free (s : State) (n : Nat) : (s.raise n).free = s.free := by
  unfold State.raise
  split
  · dsimp only
    split <;> rfl
  · rfl
@[simp] theorem State.raise_pending (s : State) (n : Nat) : (s.raise n).pending = s.pending := by
  unfold State.raise
  split
  · dsimp only
    split <;> rfl
  · rfl

@[simp] theorem State.leaveIdle_build (s : State) : (s.leaveIdle).build = s.build := by
  unfold State.leaveIdle
  split <;> rfl
@[simp] theorem State.leaveIdle_ctxs (s : State) : (s.leaveIdle).ctxs = s.ctxs := by
  unfold State.leaveIdle
  split <;> rfl
@[simp] theorem State.leaveIdle_queues (s : State) : (s.leaveIdle).queues = s.queues := by
  unfold State.leaveIdle
  split <;> rfl
@[simp] theorem State.leaveIdle_fe (s : State) : (s.leaveIdle).fe = s.fe := by
  unfold State.leaveIdle
  split <;> rfl
@[simp] theorem State.leaveIdle_uc (s : State) : (s.leaveIdle).uc = s.uc := by
  unfold State.leaveIdle
  split <;> rfl
@[simp] theorem State.leaveIdle_lnd (s : State) : (s.leaveIdle).lnd = s.lnd := by
  unfold State.leaveIdle
  split <;> rfl
@[simp] theorem State.leaveIdle_yrd (s : State) : (s.leaveIdle).yrd = s.yrd := by
  unfold State.leaveIdle
  split <;> rfl
@[simp] theorem State.leaveIdle_res (s : State) : (s.leaveIdle).res = s.res := by
  unfold State.leaveIdle
  split <;> rfl
@[simp] theorem State.leaveIdle_mp (s : State) : (s.leaveIdle).mp = s.mp := by
  unfold State.leaveIdle
  split <;> rfl
@[simp] theorem State.leaveIdle_hau (s : State) : (s.leaveIdle).hau = s.hau := by
  unfold State.leaveIdle
  split <;> rfl
@[simp] theorem State.leaveIdle_dck (s : State) : (s.leaveIdle).dck = s.dck := by
  unfold State.leaveIdle
  split <;> rfl
@[simp] theorem State.leaveIdle_xlt (s : State) : (s.leaveIdle).xlt = s.xlt := by
  unfold State.leaveIdle
  split <;> rfl
@[simp] theorem State.leaveIdle_irq (s : State) : (s.leaveIdle).irq = s.irq := by
  unfold State.leaveIdle
  split <;> rfl
@[simp] theorem State.leaveIdle_fwc (s : State) : (s.leaveIdle).fwc = s.fwc := by
  unfold State.leaveIdle
  split <;> rfl
@[simp] theorem State.leaveIdle_lgr (s : State) : (s.leaveIdle).lgr = s.lgr := by
  unfold State.leaveIdle
  split <;> rfl
@[simp] theorem State.leaveIdle_clusters (s : State) : (s.leaveIdle).clusters = s.clusters := by
  unfold State.leaveIdle
  split <;> rfl
@[simp] theorem State.leaveIdle_crzGen (s : State) : (s.leaveIdle).crzGen = s.crzGen := by
  unfold State.leaveIdle
  split <;> rfl
@[simp] theorem State.leaveIdle_pins (s : State) : (s.leaveIdle).pins = s.pins := by
  unfold State.leaveIdle
  split <;> rfl
@[simp] theorem State.leaveIdle_free (s : State) : (s.leaveIdle).free = s.free := by
  unfold State.leaveIdle
  split <;> rfl
@[simp] theorem State.leaveIdle_pending (s : State) : (s.leaveIdle).pending = s.pending := by
  unfold State.leaveIdle
  split <;> rfl

@[simp] theorem State.setFw_build (s : State) (x : FwState) : (s.setFw x).build = s.build := by
  unfold State.setFw
  split
  · rfl
  · exact State.raise_build _ _
@[simp] theorem State.setFw_ctxs (s : State) (x : FwState) : (s.setFw x).ctxs = s.ctxs := by
  unfold State.setFw
  split
  · rfl
  · exact State.raise_ctxs _ _
@[simp] theorem State.setFw_queues (s : State) (x : FwState) : (s.setFw x).queues = s.queues := by
  unfold State.setFw
  split
  · rfl
  · exact State.raise_queues _ _
@[simp] theorem State.setFw_fe (s : State) (x : FwState) : (s.setFw x).fe = s.fe := by
  unfold State.setFw
  split
  · rfl
  · exact State.raise_fe _ _
@[simp] theorem State.setFw_uc (s : State) (x : FwState) : (s.setFw x).uc = s.uc := by
  unfold State.setFw
  split
  · rfl
  · exact State.raise_uc _ _
@[simp] theorem State.setFw_lnd (s : State) (x : FwState) : (s.setFw x).lnd = s.lnd := by
  unfold State.setFw
  split
  · rfl
  · exact State.raise_lnd _ _
@[simp] theorem State.setFw_yrd (s : State) (x : FwState) : (s.setFw x).yrd = s.yrd := by
  unfold State.setFw
  split
  · rfl
  · exact State.raise_yrd _ _
@[simp] theorem State.setFw_res (s : State) (x : FwState) : (s.setFw x).res = s.res := by
  unfold State.setFw
  split
  · rfl
  · exact State.raise_res _ _
@[simp] theorem State.setFw_mp (s : State) (x : FwState) : (s.setFw x).mp = s.mp := by
  unfold State.setFw
  split
  · rfl
  · exact State.raise_mp _ _
@[simp] theorem State.setFw_hau (s : State) (x : FwState) : (s.setFw x).hau = s.hau := by
  unfold State.setFw
  split
  · rfl
  · exact State.raise_hau _ _
@[simp] theorem State.setFw_dck (s : State) (x : FwState) : (s.setFw x).dck = s.dck := by
  unfold State.setFw
  split
  · rfl
  · exact State.raise_dck _ _
@[simp] theorem State.setFw_xlt (s : State) (x : FwState) : (s.setFw x).xlt = s.xlt := by
  unfold State.setFw
  split
  · rfl
  · exact State.raise_xlt _ _
@[simp] theorem State.setFw_lgr (s : State) (x : FwState) : (s.setFw x).lgr = s.lgr := by
  unfold State.setFw
  split
  · rfl
  · exact State.raise_lgr _ _
@[simp] theorem State.setFw_clusters (s : State) (x : FwState) : (s.setFw x).clusters = s.clusters := by
  unfold State.setFw
  split
  · rfl
  · exact State.raise_clusters _ _
@[simp] theorem State.setFw_crzGen (s : State) (x : FwState) : (s.setFw x).crzGen = s.crzGen := by
  unfold State.setFw
  split
  · rfl
  · exact State.raise_crzGen _ _
@[simp] theorem State.setFw_pins (s : State) (x : FwState) : (s.setFw x).pins = s.pins := by
  unfold State.setFw
  split
  · rfl
  · exact State.raise_pins _ _
@[simp] theorem State.setFw_free (s : State) (x : FwState) : (s.setFw x).free = s.free := by
  unfold State.setFw
  split
  · rfl
  · exact State.raise_free _ _
@[simp] theorem State.setFw_pending (s : State) (x : FwState) : (s.setFw x).pending = s.pending := by
  unfold State.setFw
  split
  · rfl
  · exact State.raise_pending _ _

@[simp] theorem State.holdAccess_build (s : State) (a : HostAccess) : (s.holdAccess a).build = s.build := by
  unfold State.holdAccess
  dsimp only
  split <;> rfl
@[simp] theorem State.holdAccess_ctxs (s : State) (a : HostAccess) : (s.holdAccess a).ctxs = s.ctxs := by
  unfold State.holdAccess
  dsimp only
  split <;> rfl
@[simp] theorem State.holdAccess_queues (s : State) (a : HostAccess) : (s.holdAccess a).queues = s.queues := by
  unfold State.holdAccess
  dsimp only
  split <;> rfl
@[simp] theorem State.holdAccess_fe (s : State) (a : HostAccess) : (s.holdAccess a).fe = s.fe := by
  unfold State.holdAccess
  dsimp only
  split <;> rfl
@[simp] theorem State.holdAccess_uc (s : State) (a : HostAccess) : (s.holdAccess a).uc = s.uc := by
  unfold State.holdAccess
  dsimp only
  split <;> rfl
@[simp] theorem State.holdAccess_lnd (s : State) (a : HostAccess) : (s.holdAccess a).lnd = s.lnd := by
  unfold State.holdAccess
  dsimp only
  split <;> rfl
@[simp] theorem State.holdAccess_yrd (s : State) (a : HostAccess) : (s.holdAccess a).yrd = s.yrd := by
  unfold State.holdAccess
  dsimp only
  split <;> rfl
@[simp] theorem State.holdAccess_res (s : State) (a : HostAccess) : (s.holdAccess a).res = s.res := by
  unfold State.holdAccess
  dsimp only
  split <;> rfl
@[simp] theorem State.holdAccess_mp (s : State) (a : HostAccess) : (s.holdAccess a).mp = s.mp := by
  unfold State.holdAccess
  dsimp only
  split <;> rfl
@[simp] theorem State.holdAccess_hau (s : State) (a : HostAccess) : (s.holdAccess a).hau = s.hau := by
  unfold State.holdAccess
  dsimp only
  split <;> rfl
@[simp] theorem State.holdAccess_dck (s : State) (a : HostAccess) : (s.holdAccess a).dck = s.dck := by
  unfold State.holdAccess
  dsimp only
  split <;> rfl
@[simp] theorem State.holdAccess_xlt (s : State) (a : HostAccess) : (s.holdAccess a).xlt = s.xlt := by
  unfold State.holdAccess
  dsimp only
  split <;> rfl
@[simp] theorem State.holdAccess_irq (s : State) (a : HostAccess) : (s.holdAccess a).irq = s.irq := by
  unfold State.holdAccess
  dsimp only
  split <;> rfl
@[simp] theorem State.holdAccess_fwc (s : State) (a : HostAccess) : (s.holdAccess a).fwc = s.fwc := by
  unfold State.holdAccess
  dsimp only
  split <;> rfl
@[simp] theorem State.holdAccess_lgr (s : State) (a : HostAccess) : (s.holdAccess a).lgr = s.lgr := by
  unfold State.holdAccess
  dsimp only
  split <;> rfl
@[simp] theorem State.holdAccess_clusters (s : State) (a : HostAccess) : (s.holdAccess a).clusters = s.clusters := by
  unfold State.holdAccess
  dsimp only
  split <;> rfl
@[simp] theorem State.holdAccess_crzGen (s : State) (a : HostAccess) : (s.holdAccess a).crzGen = s.crzGen := by
  unfold State.holdAccess
  dsimp only
  split <;> rfl
@[simp] theorem State.holdAccess_pins (s : State) (a : HostAccess) : (s.holdAccess a).pins = s.pins := by
  unfold State.holdAccess
  dsimp only
  split <;> rfl
@[simp] theorem State.holdAccess_free (s : State) (a : HostAccess) : (s.holdAccess a).free = s.free := by
  unfold State.holdAccess
  dsimp only
  split <;> rfl
@[simp] theorem State.holdAccess_pending (s : State) (a : HostAccess) : (s.holdAccess a).pending = s.pending := by
  unfold State.holdAccess
  dsimp only
  split <;> rfl

@[simp] theorem State.drawBucket_build (s : State) (t : Txn) : (s.drawBucket t).build = s.build := by
  unfold State.drawBucket
  split
  · rfl
  · split <;> rfl
@[simp] theorem State.drawBucket_ctxs (s : State) (t : Txn) : (s.drawBucket t).ctxs = s.ctxs := by
  unfold State.drawBucket
  split
  · rfl
  · split <;> rfl
@[simp] theorem State.drawBucket_queues (s : State) (t : Txn) : (s.drawBucket t).queues = s.queues := by
  unfold State.drawBucket
  split
  · rfl
  · split <;> rfl
@[simp] theorem State.drawBucket_fe (s : State) (t : Txn) : (s.drawBucket t).fe = s.fe := by
  unfold State.drawBucket
  split
  · rfl
  · split <;> rfl
@[simp] theorem State.drawBucket_uc (s : State) (t : Txn) : (s.drawBucket t).uc = s.uc := by
  unfold State.drawBucket
  split
  · rfl
  · split <;> rfl
@[simp] theorem State.drawBucket_lnd (s : State) (t : Txn) : (s.drawBucket t).lnd = s.lnd := by
  unfold State.drawBucket
  split
  · rfl
  · split <;> rfl
@[simp] theorem State.drawBucket_res (s : State) (t : Txn) : (s.drawBucket t).res = s.res := by
  unfold State.drawBucket
  split
  · rfl
  · split <;> rfl
@[simp] theorem State.drawBucket_mp (s : State) (t : Txn) : (s.drawBucket t).mp = s.mp := by
  unfold State.drawBucket
  split
  · rfl
  · split <;> rfl
@[simp] theorem State.drawBucket_hau (s : State) (t : Txn) : (s.drawBucket t).hau = s.hau := by
  unfold State.drawBucket
  split
  · rfl
  · split <;> rfl
@[simp] theorem State.drawBucket_dck (s : State) (t : Txn) : (s.drawBucket t).dck = s.dck := by
  unfold State.drawBucket
  split
  · rfl
  · split <;> rfl
@[simp] theorem State.drawBucket_xlt (s : State) (t : Txn) : (s.drawBucket t).xlt = s.xlt := by
  unfold State.drawBucket
  split
  · rfl
  · split <;> rfl
@[simp] theorem State.drawBucket_irq (s : State) (t : Txn) : (s.drawBucket t).irq = s.irq := by
  unfold State.drawBucket
  split
  · rfl
  · split <;> rfl
@[simp] theorem State.drawBucket_pwr (s : State) (t : Txn) : (s.drawBucket t).pwr = s.pwr := by
  unfold State.drawBucket
  split
  · rfl
  · split <;> rfl
@[simp] theorem State.drawBucket_fwc (s : State) (t : Txn) : (s.drawBucket t).fwc = s.fwc := by
  unfold State.drawBucket
  split
  · rfl
  · split <;> rfl
@[simp] theorem State.drawBucket_lgr (s : State) (t : Txn) : (s.drawBucket t).lgr = s.lgr := by
  unfold State.drawBucket
  split
  · rfl
  · split <;> rfl
@[simp] theorem State.drawBucket_clusters (s : State) (t : Txn) : (s.drawBucket t).clusters = s.clusters := by
  unfold State.drawBucket
  split
  · rfl
  · split <;> rfl
@[simp] theorem State.drawBucket_crzGen (s : State) (t : Txn) : (s.drawBucket t).crzGen = s.crzGen := by
  unfold State.drawBucket
  split
  · rfl
  · split <;> rfl
@[simp] theorem State.drawBucket_pins (s : State) (t : Txn) : (s.drawBucket t).pins = s.pins := by
  unfold State.drawBucket
  split
  · rfl
  · split <;> rfl
@[simp] theorem State.drawBucket_free (s : State) (t : Txn) : (s.drawBucket t).free = s.free := by
  unfold State.drawBucket
  split
  · rfl
  · split <;> rfl
@[simp] theorem State.drawBucket_pending (s : State) (t : Txn) : (s.drawBucket t).pending = s.pending := by
  unfold State.drawBucket
  split
  · rfl
  · split <;> rfl

@[simp] theorem State.issueTxn_build (s : State) (t : Txn) : (s.issueTxn t).build = s.build := by
  unfold State.issueTxn
  split
  · exact State.drawBucket_build _ _
  · rfl
@[simp] theorem State.issueTxn_ctxs (s : State) (t : Txn) : (s.issueTxn t).ctxs = s.ctxs := by
  unfold State.issueTxn
  split
  · exact State.drawBucket_ctxs _ _
  · rfl
@[simp] theorem State.issueTxn_queues (s : State) (t : Txn) : (s.issueTxn t).queues = s.queues := by
  unfold State.issueTxn
  split
  · exact State.drawBucket_queues _ _
  · rfl
@[simp] theorem State.issueTxn_fe (s : State) (t : Txn) : (s.issueTxn t).fe = s.fe := by
  unfold State.issueTxn
  split
  · exact State.drawBucket_fe _ _
  · rfl
@[simp] theorem State.issueTxn_uc (s : State) (t : Txn) : (s.issueTxn t).uc = s.uc := by
  unfold State.issueTxn
  split
  · exact State.drawBucket_uc _ _
  · rfl
@[simp] theorem State.issueTxn_lnd (s : State) (t : Txn) : (s.issueTxn t).lnd = s.lnd := by
  unfold State.issueTxn
  split
  · exact State.drawBucket_lnd _ _
  · rfl
@[simp] theorem State.issueTxn_res (s : State) (t : Txn) : (s.issueTxn t).res = s.res := by
  unfold State.issueTxn
  split
  · exact State.drawBucket_res _ _
  · rfl
@[simp] theorem State.issueTxn_hau (s : State) (t : Txn) : (s.issueTxn t).hau = s.hau := by
  unfold State.issueTxn
  split
  · exact State.drawBucket_hau _ _
  · rfl
@[simp] theorem State.issueTxn_dck (s : State) (t : Txn) : (s.issueTxn t).dck = s.dck := by
  unfold State.issueTxn
  split
  · exact State.drawBucket_dck _ _
  · rfl
@[simp] theorem State.issueTxn_xlt (s : State) (t : Txn) : (s.issueTxn t).xlt = s.xlt := by
  unfold State.issueTxn
  split
  · exact State.drawBucket_xlt _ _
  · rfl
@[simp] theorem State.issueTxn_irq (s : State) (t : Txn) : (s.issueTxn t).irq = s.irq := by
  unfold State.issueTxn
  split
  · exact State.drawBucket_irq _ _
  · rfl
@[simp] theorem State.issueTxn_pwr (s : State) (t : Txn) : (s.issueTxn t).pwr = s.pwr := by
  unfold State.issueTxn
  split
  · exact State.drawBucket_pwr _ _
  · rfl
@[simp] theorem State.issueTxn_fwc (s : State) (t : Txn) : (s.issueTxn t).fwc = s.fwc := by
  unfold State.issueTxn
  split
  · exact State.drawBucket_fwc _ _
  · rfl
@[simp] theorem State.issueTxn_lgr (s : State) (t : Txn) : (s.issueTxn t).lgr = s.lgr := by
  unfold State.issueTxn
  split
  · exact State.drawBucket_lgr _ _
  · rfl
@[simp] theorem State.issueTxn_clusters (s : State) (t : Txn) : (s.issueTxn t).clusters = s.clusters := by
  unfold State.issueTxn
  split
  · exact State.drawBucket_clusters _ _
  · rfl
@[simp] theorem State.issueTxn_crzGen (s : State) (t : Txn) : (s.issueTxn t).crzGen = s.crzGen := by
  unfold State.issueTxn
  split
  · exact State.drawBucket_crzGen _ _
  · rfl
@[simp] theorem State.issueTxn_pins (s : State) (t : Txn) : (s.issueTxn t).pins = s.pins := by
  unfold State.issueTxn
  split
  · exact State.drawBucket_pins _ _
  · rfl
@[simp] theorem State.issueTxn_free (s : State) (t : Txn) : (s.issueTxn t).free = s.free := by
  unfold State.issueTxn
  split
  · exact State.drawBucket_free _ _
  · rfl
@[simp] theorem State.issueTxn_pending (s : State) (t : Txn) : (s.issueTxn t).pending = s.pending := by
  unfold State.issueTxn
  split
  · exact State.drawBucket_pending _ _
  · rfl

/-- A draw changes only the bucket of the burst's partition. -/
theorem State.drawBucket_frame (s : State) (t : Txn) : s.drawBucket t = { s with yrd := (s.drawBucket t).yrd } := by
  unfold State.drawBucket
  split
  · rfl
  · split <;> rfl

/-- A burst issued or made to wait changes only the manager ports and the bucket of its partition's regulator. -/
theorem State.issueTxn_frame (s : State) (t : Txn) :
    s.issueTxn t = { s with mp := (s.issueTxn t).mp, yrd := (s.issueTxn t).yrd } := by
  unfold State.issueTxn
  split
  · unfold State.sendTxn
    rw [State.drawBucket_frame]
  · rfl

/-- Raising a source changes only the pending bits and the wake latch. -/
theorem State.raise_frame (s : State) (n : Nat) :
    s.raise n = { s with irq := { s.irq with pending := (s.raise n).irq.pending }, pwr := (s.raise n).pwr } := by
  unfold State.raise
  split
  · dsimp only
    split <;> rfl
  · rfl

/-- Raising a source below 0x3FF sets its pending bit and no other (R495). -/
theorem State.raise_sets (s : State) (n m : Nat) (hn : n < 0x3FF) :
    (s.raise n).irq.pending.getLsbD m = (s.irq.pending.getLsbD m || decide (m = n)) := by
  have h : (s.raise n).irq.pending = s.irq.pending ||| BitVec.twoPow 1024 n := by
    unfold State.raise
    rw [if_pos hn]
    dsimp only
    split <;> rfl
  rw [h, BitVec.getLsbD_or, BitVec.getLsbD_twoPow]
  by_cases hm : m = n
  · subst hm; simp; omega
  · simp [hm, Ne.symm hm]

/-- Source 0x3FF is never raised (R495). -/
@[simp] theorem State.raise_spurious (s : State) : s.raise 0x3FF = s := rfl

/-! ## Reads after the return from IDLE -/

@[simp] theorem State.leaveIdle_ctx (s : State) (c : BitVec 20) : s.leaveIdle.ctx c = s.ctx c := by
  unfold State.leaveIdle
  split <;> rfl
@[simp] theorem State.leaveIdle_queue (s : State) (q : BitVec 14) : s.leaveIdle.queue q = s.queue q := by
  unfold State.leaveIdle
  split <;> rfl
@[simp] theorem State.leaveIdle_entry (s : State) (e : Nat) : s.leaveIdle.entry e = s.entry e := by
  unfold State.leaveIdle
  split <;> rfl
@[simp] theorem State.leaveIdle_blaze (s : State) (n : BitVec 16) : s.leaveIdle.blaze n = s.blaze n := by
  unfold State.leaveIdle
  split <;> rfl
@[simp] theorem State.leaveIdle_cluster (s : State) (c : BitVec 6) : s.leaveIdle.cluster c = s.cluster c := by
  unfold State.leaveIdle
  split <;> rfl
@[simp] theorem State.leaveIdle_part (s : State) (p : BitVec 3) : s.leaveIdle.part p = s.part p := by
  unfold State.leaveIdle
  split <;> rfl
@[simp] theorem State.leaveIdle_resSlot (s : State) (r : Nat) : s.leaveIdle.resSlot r = s.resSlot r := by
  unfold State.leaveIdle
  split <;> rfl
@[simp] theorem State.leaveIdle_mbx (s : State) (m : BitVec 8) : s.leaveIdle.mbx m = s.mbx m := by
  unfold State.leaveIdle
  split <;> rfl
@[simp] theorem State.leaveIdle_proc (s : State) (p : Nat) : s.leaveIdle.proc p = s.proc p := by
  unfold State.leaveIdle
  split <;> rfl
@[simp] theorem State.leaveIdle_thread (s : State) (t : BitVec 4) : s.leaveIdle.thread t = s.thread t := by
  unfold State.leaveIdle
  split <;> rfl
@[simp] theorem State.leaveIdle_vec (s : State) (v : BitVec 3) : s.leaveIdle.vec v = s.vec v := by
  unfold State.leaveIdle
  split <;> rfl
@[simp] theorem State.leaveIdle_stream (s : State) (k : Nat) : s.leaveIdle.stream k = s.stream k := by
  unfold State.leaveIdle
  split <;> rfl
@[simp] theorem State.leaveIdle_graph (s : State) (c : BitVec 20) (g : BitVec 12) : s.leaveIdle.graph c g = s.graph c g := by
  unfold State.leaveIdle
  split <;> rfl
@[simp] theorem State.leaveIdle_cplPeriod (s : State) : s.leaveIdle.cplPeriod = s.cplPeriod := by
  unfold State.leaveIdle
  split <;> rfl
@[simp] theorem State.leaveIdle_fc (s : State) : s.leaveIdle.fc = s.fc := by
  unfold State.leaveIdle
  split <;> rfl
@[simp] theorem State.leaveIdle_queueEntries (s : State) (q : BitVec 14) : s.leaveIdle.queueEntries q = s.queueEntries q := by
  unfold State.leaveIdle
  split <;> rfl
@[simp] theorem State.leaveIdle_ctxEntries (s : State) (c : BitVec 20) : s.leaveIdle.ctxEntries c = s.ctxEntries c := by
  unfold State.leaveIdle
  split <;> rfl
@[simp] theorem State.leaveIdle_userHeld (s : State) : s.leaveIdle.userHeld = s.userHeld := by
  unfold State.leaveIdle
  split <;> rfl
@[simp] theorem State.leaveIdle_ctxQueues (s : State) (c : BitVec 20) : s.leaveIdle.ctxQueues c = s.ctxQueues c := by
  unfold State.leaveIdle
  split <;> rfl
@[simp] theorem State.leaveIdle_inRun (s : State) : s.leaveIdle.inRun = s.inRun := by
  unfold State.leaveIdle
  split
  · rename_i h
    simp [State.inRun, h]
  · rfl
@[simp] theorem State.leaveIdle_feRuns (s : State) : s.leaveIdle.feRuns = s.feRuns := by
  simp [State.feRuns]
@[simp] theorem State.leaveIdle_admits (s : State) : s.leaveIdle.admits = s.admits := by
  unfold State.admits
  rw [State.leaveIdle_feRuns]
  unfold State.leaveIdle
  split <;> rfl

/-- In every state but IDLE an access changes no power state. -/
theorem State.leaveIdle_run (s : State) (h : s.pwr.state ≠ .idle) : s.leaveIdle = s := if_neg h

/-! ## Reads after an update -/

/-- An update of a keyed list at a key that is listed. -/
theorem lget_lupd_same {α : Type} (k : Nat) (f : α → α) : ∀ (t : List (Nat × α)), lget (lupd t k f) k = (lget t k).map f
  | [] => rfl
  | (j, v) :: r => by
    have ih := lget_lupd_same k f r
    by_cases h : j = k
    · simp [lupd, lget, h]
    · simp only [lupd, List.map_cons, lget, h, if_false] at ih ⊢
      exact ih

/-- An update of a keyed list at another key. -/
theorem lget_lupd_ne {α : Type} (k m : Nat) (f : α → α) (hm : m ≠ k) : ∀ (t : List (Nat × α)), lget (lupd t k f) m = lget t m
  | [] => rfl
  | (j, v) :: r => by
    have ih := lget_lupd_ne k m f hm r
    by_cases h : j = k
    · subst h
      simp only [lupd, List.map_cons, lget, if_true, Ne.symm hm, if_false] at ih ⊢
      exact ih
    · by_cases h2 : j = m
      · simp [lupd, lget, h2, hm]
      · simp only [lupd, List.map_cons, lget, h, h2, if_false] at ih ⊢
        exact ih

/-- Reading `ctx` after an update of it. -/
theorem State.updCtx_same (s : State) (k : BitVec 20) (f : Context → Context) (h : tblWf {} s.ctxs = true) :
    (s.updCtx k f).ctx k = f (s.ctx k) := tget_tupd_same _ _ _ _ h
/-- Two updates of one record are one. -/
theorem State.updCtx_twice (s : State) (k : BitVec 20) (f g : Context → Context) (h : tblWf {} s.ctxs = true) :
    (s.updCtx k f).updCtx k g = s.updCtx k (fun x => g (f x)) := by
  simp only [State.updCtx, tupd_tupd _ _ _ _ _ h]
/-- Reading another `ctx` after an update of one. -/
theorem State.updCtx_other (s : State) {j k : BitVec 20} (f : Context → Context) (h : j ≠ k) : (s.updCtx k f).ctx j = s.ctx j :=
  tget_tupd_ne _ _ _ _ _ (fun e => h (BitVec.eq_of_toNat_eq e))

/-- Reading `queue` after an update of it. -/
theorem State.updQueue_same (s : State) (k : BitVec 14) (f : Queue → Queue) (h : tblWf {} s.queues = true) :
    (s.updQueue k f).queue k = f (s.queue k) := tget_tupd_same _ _ _ _ h
/-- Two updates of one record are one. -/
theorem State.updQueue_twice (s : State) (k : BitVec 14) (f g : Queue → Queue) (h : tblWf {} s.queues = true) :
    (s.updQueue k f).updQueue k g = s.updQueue k (fun x => g (f x)) := by
  simp only [State.updQueue, tupd_tupd _ _ _ _ _ h]
/-- Reading another `queue` after an update of one. -/
theorem State.updQueue_other (s : State) {j k : BitVec 14} (f : Queue → Queue) (h : j ≠ k) : (s.updQueue k f).queue j = s.queue j :=
  tget_tupd_ne _ _ _ _ _ (fun e => h (BitVec.eq_of_toNat_eq e))

/-- Reading `cluster` after an update of it. -/
theorem State.updCluster_same (s : State) (k : BitVec 6) (f : Cluster → Cluster) (h : tblWf {} s.clusters = true) :
    (s.updCluster k f).cluster k = f (s.cluster k) := tget_tupd_same _ _ _ _ h
/-- Two updates of one record are one. -/
theorem State.updCluster_twice (s : State) (k : BitVec 6) (f g : Cluster → Cluster) (h : tblWf {} s.clusters = true) :
    (s.updCluster k f).updCluster k g = s.updCluster k (fun x => g (f x)) := by
  simp only [State.updCluster, tupd_tupd _ _ _ _ _ h]
/-- Reading another `cluster` after an update of one. -/
theorem State.updCluster_other (s : State) {j k : BitVec 6} (f : Cluster → Cluster) (h : j ≠ k) : (s.updCluster k f).cluster j = s.cluster j :=
  tget_tupd_ne _ _ _ _ _ (fun e => h (BitVec.eq_of_toNat_eq e))

/-- Reading `blaze` after an update of it. -/
theorem State.updBlaze_same (s : State) (k : BitVec 16) (f : Blaze → Blaze) (h : tblWf {} s.lnd.blazes = true) :
    (s.updBlaze k f).blaze k = f (s.blaze k) := tget_tupd_same _ _ _ _ h
/-- Two updates of one record are one. -/
theorem State.updBlaze_twice (s : State) (k : BitVec 16) (f g : Blaze → Blaze) (h : tblWf {} s.lnd.blazes = true) :
    (s.updBlaze k f).updBlaze k g = s.updBlaze k (fun x => g (f x)) := by
  simp only [State.updBlaze, tupd_tupd _ _ _ _ _ h]
/-- Reading another `blaze` after an update of one. -/
theorem State.updBlaze_other (s : State) {j k : BitVec 16} (f : Blaze → Blaze) (h : j ≠ k) : (s.updBlaze k f).blaze j = s.blaze j :=
  tget_tupd_ne _ _ _ _ _ (fun e => h (BitVec.eq_of_toNat_eq e))

/-- Reading `mbx` after an update of it. -/
theorem State.updMbx_same (s : State) (k : BitVec 8) (f : Mbx → Mbx) (h : tblWf {} s.fwc.mbx = true) :
    (s.updMbx k f).mbx k = f (s.mbx k) := tget_tupd_same _ _ _ _ h
/-- Two updates of one record are one. -/
theorem State.updMbx_twice (s : State) (k : BitVec 8) (f g : Mbx → Mbx) (h : tblWf {} s.fwc.mbx = true) :
    (s.updMbx k f).updMbx k g = s.updMbx k (fun x => g (f x)) := by
  simp only [State.updMbx, tupd_tupd _ _ _ _ _ h]
/-- Reading another `mbx` after an update of one. -/
theorem State.updMbx_other (s : State) {j k : BitVec 8} (f : Mbx → Mbx) (h : j ≠ k) : (s.updMbx k f).mbx j = s.mbx j :=
  tget_tupd_ne _ _ _ _ _ (fun e => h (BitVec.eq_of_toNat_eq e))

/-- Reading `thread` after an update of it. -/
theorem State.updThread_same (s : State) (k : BitVec 4) (f : Thread → Thread) (h : tblWf {} s.uc.threads = true) :
    (s.updThread k f).thread k = f (s.thread k) := tget_tupd_same _ _ _ _ h
/-- Two updates of one record are one. -/
theorem State.updThread_twice (s : State) (k : BitVec 4) (f g : Thread → Thread) (h : tblWf {} s.uc.threads = true) :
    (s.updThread k f).updThread k g = s.updThread k (fun x => g (f x)) := by
  simp only [State.updThread, tupd_tupd _ _ _ _ _ h]
/-- Reading another `thread` after an update of one. -/
theorem State.updThread_other (s : State) {j k : BitVec 4} (f : Thread → Thread) (h : j ≠ k) : (s.updThread k f).thread j = s.thread j :=
  tget_tupd_ne _ _ _ _ _ (fun e => h (BitVec.eq_of_toNat_eq e))

/-- Reading `resSlot` after an update of it. -/
theorem State.updRes_same (s : State) (k : Nat) (f : ResSlot → ResSlot) (h : tblWf {} s.res.slots = true) :
    (s.updRes k f).resSlot k = f (s.resSlot k) := tget_tupd_same _ _ _ _ h
/-- Two updates of one record are one. -/
theorem State.updRes_twice (s : State) (k : Nat) (f g : ResSlot → ResSlot) (h : tblWf {} s.res.slots = true) :
    (s.updRes k f).updRes k g = s.updRes k (fun x => g (f x)) := by
  simp only [State.updRes, tupd_tupd _ _ _ _ _ h]
/-- Reading another `resSlot` after an update of one. -/
theorem State.updRes_other (s : State) {j k : Nat} (f : ResSlot → ResSlot) (h : j ≠ k) : (s.updRes k f).resSlot j = s.resSlot j :=
  tget_tupd_ne _ _ _ _ _ h

/-- Reading `proc` after an update of it. -/
theorem State.updProc_same (s : State) (k : Nat) (f : Proc → Proc) (h : tblWf {} s.fwc.procs = true) :
    (s.updProc k f).proc k = f (s.proc k) := tget_tupd_same _ _ _ _ h
/-- Two updates of one record are one. -/
theorem State.updProc_twice (s : State) (k : Nat) (f g : Proc → Proc) (h : tblWf {} s.fwc.procs = true) :
    (s.updProc k f).updProc k g = s.updProc k (fun x => g (f x)) := by
  simp only [State.updProc, tupd_tupd _ _ _ _ _ h]
/-- Reading another `proc` after an update of one. -/
theorem State.updProc_other (s : State) {j k : Nat} (f : Proc → Proc) (h : j ≠ k) : (s.updProc k f).proc j = s.proc j :=
  tget_tupd_ne _ _ _ _ _ h

/-! ## Served accesses -/

@[simp] theorem State.takenAs_build (s : State) (id : BitVec 16) : (s.takenAs id).build = s.build := State.leaveIdle_build s
@[simp] theorem State.taken_build (s : State) : s.taken.build = s.build := State.leaveIdle_build s
@[simp] theorem State.takenAs_ctxs (s : State) (id : BitVec 16) : (s.takenAs id).ctxs = s.ctxs := State.leaveIdle_ctxs s
@[simp] theorem State.taken_ctxs (s : State) : s.taken.ctxs = s.ctxs := State.leaveIdle_ctxs s
@[simp] theorem State.takenAs_queues (s : State) (id : BitVec 16) : (s.takenAs id).queues = s.queues := State.leaveIdle_queues s
@[simp] theorem State.taken_queues (s : State) : s.taken.queues = s.queues := State.leaveIdle_queues s
@[simp] theorem State.takenAs_uc (s : State) (id : BitVec 16) : (s.takenAs id).uc = s.uc := State.leaveIdle_uc s
@[simp] theorem State.taken_uc (s : State) : s.taken.uc = s.uc := State.leaveIdle_uc s
@[simp] theorem State.takenAs_lnd (s : State) (id : BitVec 16) : (s.takenAs id).lnd = s.lnd := State.leaveIdle_lnd s
@[simp] theorem State.taken_lnd (s : State) : s.taken.lnd = s.lnd := State.leaveIdle_lnd s
@[simp] theorem State.takenAs_yrd (s : State) (id : BitVec 16) : (s.takenAs id).yrd = s.yrd := State.leaveIdle_yrd s
@[simp] theorem State.taken_yrd (s : State) : s.taken.yrd = s.yrd := State.leaveIdle_yrd s
@[simp] theorem State.takenAs_res (s : State) (id : BitVec 16) : (s.takenAs id).res = s.res := State.leaveIdle_res s
@[simp] theorem State.taken_res (s : State) : s.taken.res = s.res := State.leaveIdle_res s
@[simp] theorem State.takenAs_mp (s : State) (id : BitVec 16) : (s.takenAs id).mp = s.mp := State.leaveIdle_mp s
@[simp] theorem State.taken_mp (s : State) : s.taken.mp = s.mp := State.leaveIdle_mp s
@[simp] theorem State.takenAs_hau (s : State) (id : BitVec 16) : (s.takenAs id).hau = s.hau := State.leaveIdle_hau s
@[simp] theorem State.taken_hau (s : State) : s.taken.hau = s.hau := State.leaveIdle_hau s
@[simp] theorem State.takenAs_dck (s : State) (id : BitVec 16) : (s.takenAs id).dck = s.dck := State.leaveIdle_dck s
@[simp] theorem State.taken_dck (s : State) : s.taken.dck = s.dck := State.leaveIdle_dck s
@[simp] theorem State.takenAs_xlt (s : State) (id : BitVec 16) : (s.takenAs id).xlt = s.xlt := State.leaveIdle_xlt s
@[simp] theorem State.taken_xlt (s : State) : s.taken.xlt = s.xlt := State.leaveIdle_xlt s
@[simp] theorem State.takenAs_irq (s : State) (id : BitVec 16) : (s.takenAs id).irq = s.irq := State.leaveIdle_irq s
@[simp] theorem State.taken_irq (s : State) : s.taken.irq = s.irq := State.leaveIdle_irq s
@[simp] theorem State.takenAs_fwc (s : State) (id : BitVec 16) : (s.takenAs id).fwc = s.fwc := State.leaveIdle_fwc s
@[simp] theorem State.taken_fwc (s : State) : s.taken.fwc = s.fwc := State.leaveIdle_fwc s
@[simp] theorem State.takenAs_lgr (s : State) (id : BitVec 16) : (s.takenAs id).lgr = s.lgr := State.leaveIdle_lgr s
@[simp] theorem State.taken_lgr (s : State) : s.taken.lgr = s.lgr := State.leaveIdle_lgr s
@[simp] theorem State.takenAs_clusters (s : State) (id : BitVec 16) : (s.takenAs id).clusters = s.clusters := State.leaveIdle_clusters s
@[simp] theorem State.taken_clusters (s : State) : s.taken.clusters = s.clusters := State.leaveIdle_clusters s
@[simp] theorem State.takenAs_crzGen (s : State) (id : BitVec 16) : (s.takenAs id).crzGen = s.crzGen := State.leaveIdle_crzGen s
@[simp] theorem State.taken_crzGen (s : State) : s.taken.crzGen = s.crzGen := State.leaveIdle_crzGen s
@[simp] theorem State.takenAs_pins (s : State) (id : BitVec 16) : (s.takenAs id).pins = s.pins := State.leaveIdle_pins s
@[simp] theorem State.taken_pins (s : State) : s.taken.pins = s.pins := State.leaveIdle_pins s
@[simp] theorem State.takenAs_free (s : State) (id : BitVec 16) : (s.takenAs id).free = s.free := State.leaveIdle_free s
@[simp] theorem State.taken_free (s : State) : s.taken.free = s.free := State.leaveIdle_free s
@[simp] theorem State.takenAs_pending (s : State) (id : BitVec 16) : (s.takenAs id).pending = s.pending := State.leaveIdle_pending s
@[simp] theorem State.taken_pending (s : State) : s.taken.pending = s.pending := State.leaveIdle_pending s
@[simp] theorem State.takenAs_fe (s : State) (id : BitVec 16) : (s.takenAs id).fe = { s.fe with hostId := id } := rfl
@[simp] theorem State.taken_fe (s : State) : s.taken.fe = { s.fe with hostId := 0 } := rfl
@[simp] theorem State.takenAs_pwr (s : State) (id : BitVec 16) : (s.takenAs id).pwr = s.leaveIdle.pwr := rfl
@[simp] theorem State.taken_pwr (s : State) : s.taken.pwr = s.leaveIdle.pwr := rfl

@[simp] theorem State.taken_queue (s : State) (k : BitVec 14) : s.taken.queue k = s.queue k := State.leaveIdle_queue s k
@[simp] theorem State.taken_ctx (s : State) (k : BitVec 20) : s.taken.ctx k = s.ctx k := State.leaveIdle_ctx s k
@[simp] theorem State.taken_blaze (s : State) (k : BitVec 16) : s.taken.blaze k = s.blaze k := State.leaveIdle_blaze s k
@[simp] theorem State.taken_cluster (s : State) (k : BitVec 6) : s.taken.cluster k = s.cluster k := State.leaveIdle_cluster s k
@[simp] theorem State.taken_part (s : State) (k : BitVec 3) : s.taken.part k = s.part k := State.leaveIdle_part s k
@[simp] theorem State.taken_mbx (s : State) (k : BitVec 8) : s.taken.mbx k = s.mbx k := State.leaveIdle_mbx s k
@[simp] theorem State.taken_proc (s : State) (k : Nat) : s.taken.proc k = s.proc k := State.leaveIdle_proc s k
@[simp] theorem State.taken_entry (s : State) (k : Nat) : s.taken.entry k = s.entry k := State.leaveIdle_entry s k
@[simp] theorem State.taken_vec (s : State) (k : BitVec 3) : s.taken.vec k = s.vec k := State.leaveIdle_vec s k
@[simp] theorem State.taken_fc (s : State) : s.taken.fc = s.fc := rfl

/-- A host write that the port serves at once has its effect on the state taken. -/
theorem State.host_write {s : State} (h : s.takesWrite) (w : HostWrite) (f : State → State) : s.host (.write w) f = f (s.takenAs w.id) := by
  have hb : s.behind (.write w) = false := by
    rw [← h.2]
    unfold State.behind
    congr 1
    funext x
    cases isWrite x.1 <;> rfl
  unfold State.host
  rw [if_pos h.1, hb]
  simp [State.forAccess, State.takenAs, accessId]

/-- A host read that the port serves at once has its effect on the state taken. -/
theorem State.host_read {s : State} (h : s.takesRead) (r : HostRead) (f : State → State) : s.host (.read r) f = f (s.takenAs r.id) := by
  have hb : s.behind (.read r) = false := by
    rw [← h.2]
    unfold State.behind
    congr 1
    funext x
    cases isWrite x.1 <;> rfl
  unfold State.host
  rw [if_pos h.1, hb]
  simp [State.forAccess, State.takenAs, accessId]

/-- The same for the shorthand of a command that writes one register. -/
theorem State.host_wr {s : State} (h : s.takesWrite) (off n v : Nat) (f : State → State) : s.host (hostWr off n v) f = f s.taken :=
  State.host_write h _ f

/-- The same for the shorthand of a command that reads one register. -/
theorem State.host_rd {s : State} (h : s.takesRead) (off : Nat) (f : State → State) : s.host (hostRd off) f = f s.taken :=
  State.host_read h _ f

/-- Reading a partition after an update of it. -/
@[simp] theorem State.updPart_same (s : State) (p : BitVec 3) (f : Partition → Partition) : (s.updPart p f).part p = f (s.part p) := by
  exact Vector.getElem_set_self _
/-- Reading a host vector after an update of it. -/
@[simp] theorem State.updVec_same (s : State) (v : BitVec 3) (f : Vec → Vec) : (s.updVec v f).vec v = f (s.vec v) := by
  exact Vector.getElem_set_self _
/-- Reading a Landing entry after an update of it. -/
@[simp] theorem State.updEntry_same (s : State) (e : Nat) (f : Entry → Entry) : (s.updEntry e f).entry e = (s.entry e).map f :=
  lget_lupd_same e f _
/-- Reading another Landing entry after an update of one. -/
theorem State.updEntry_other (s : State) {d e : Nat} (f : Entry → Entry) (h : d ≠ e) : (s.updEntry e f).entry d = s.entry d :=
  lget_lupd_ne e d f h _
/-- Reading a haul stream after an update of it. -/
@[simp] theorem State.updStream_same (s : State) (k : Nat) (f : Stream → Stream) : (s.updStream k f).stream k = (s.stream k).map f :=
  lget_lupd_same k f _

/-- The error log after a hardware record: WP counts, and the ledger's counters stay (R545, R546). -/
@[simp] theorem State.logHw_lgr (s : State) (ev : BitVec 16) (st : BitVec 8) (c : Option (BitVec 20)) (q : Option (BitVec 14)) (d : Nat) :
    (s.logHw ev st c q d).lgr.counts = s.lgr.counts ∧ (s.logHw ev st c q d).lgr.wp = s.lgr.wp + 1 := ⟨rfl, rfl⟩

/-! ## The Deck's bytes -/

/-- A byte read after it was written. -/
theorem memRead_memWrite_same (m : List Host.Cell) (a : Nat) (b : Byte) (h : memWf m = true) : memRead (memWrite m a b) a = b :=
  tget_tset_same 0 a b m 0 ((tblWf_iff 0 m).mp h).1
/-- A write leaves every other byte. -/
theorem memRead_memWrite_ne (m : List Host.Cell) (a c : Nat) (b : Byte) (h : c ≠ a) : memRead (memWrite m a b) c = memRead m c :=
  tget_tset_ne 0 a c b h m

end Sys2Proof.Machine
end

