-- ==== Sys2Proof/WellFormed.lean ====
section
/-! DEFINITION. Which commands are well formed: operands within the ranges that the spec gives every build. What a build
does not have (a cluster, a Landing entry, a Deck bank) is checked by the meanings, over the state. -/

namespace Sys2Proof

/-- Firmware processors are numbered 0 to 66 (R467). -/
def wfProc (p : BitVec 7) : Bool := decide (p.toNat ≤ 66)

/-- Landing entries number at most 131,072 (R398). -/
def wfEntry (e : Nat) : Bool := decide (e < 131072)

/-- A row of 512 bytes holds 64 words (R392, R401); one access reads at most `most` rows, and a rebuild seven others. -/
def wfEcc (most : Nat) : RowEcc → Bool
  | .clean => true
  | .corrected n => decide (1 ≤ n) && decide (n ≤ 64 * most)
  | .uncorrectable _ n _ => decide (n ≤ 64 * 7)

/-- A Deck request that writes names a row (R394). -/
def wfDeckOp : DeckOp → Bool
  | .read => true
  | .write rows _ => decide (rows ≠ 0)

/-- A step of a packet opcode. -/
def wfOp : OpStep → Bool
  | .routine _ => true
  | .execute e => wfEntry e

/-- A step of SELF_TEST. -/
def wfTest : TestStep → Bool
  | .routine _ => true
  | .execute e => wfEntry e
  | .leave e => wfEntry e
  | .finish e _ => wfEntry e
  | .row e _ _ ecc => wfEntry e && wfEcc 1 ecc
  | .parity e _ _ => wfEntry e

/-- A command is well formed when
its operands lie in the ranges that the spec gives every build. -/
def Instr.wf : Instr → Bool
  | .deckRowAccess _ reqs ecc => !reqs.isEmpty && reqs.all (fun r => wfDeckOp r.op) && wfEcc 7 ecc
  | .scrubRead ecc => wfEcc 1 ecc
  | .creditReturn _ pools => decide (pools ≠ 0)
  | .doneToken _ valid _ _ => decide (valid ≠ 0)
  | .firmwareClaim p => wfProc p
  | .firmwareComplete p _ => wfProc p
  | .processorFailure p cause => wfProc p && decide (1 ≤ cause.toNat) && decide (cause.toNat ≤ 4)
  | .fwWatchdogExpiry p _ => wfProc p
  | .processorRestart p => wfProc p
  | .restartTimeout p => wfProc p
  | .entryReady e => wfEntry e
  | .retirement e => wfEntry e
  | .loaderRun e => wfEntry e
  | .graphNodeAdmission e => wfEntry e
  | .nop st => wfOp st
  | .launch st => wfOp st
  | .haul st => wfOp st
  | .signal st => wfOp st
  | .wait st => wfOp st
  | .programLoad st => wfOp st
  | .graphLoad st => wfOp st
  | .graphLaunch st => wfOp st
  | .graphPatch st => wfOp st
  | .graphRelease st => wfOp st
  | .contextCreate st => wfOp st
  | .contextDestroy st => wfOp st
  | .queueBind st => wfOp st
  | .queueUnbind st => wfOp st
  | .objectFree st => wfOp st
  | .tlbInvalidate st => wfOp st
  | .faultResume st => wfOp st
  | .contextKill st => wfOp st
  | .blazeConfig st => wfOp st
  | .selfTestCluster st => wfTest st
  | .selfTestFrontEnd st => wfTest st
  | .selfTestDeck st => wfTest st
  | .pdPwrAck k _ => decide (k.toNat < 90)
  | _ => true

end Sys2Proof
end

