-- ==== Sys2Proof/Tests/Slice0.lean ====
section
/-! SUPPORT. The model's own tests: ill-formed commands that WellFormed refuses, states that meet the hypotheses of each
statement, and small runs of single commands with results taken from the spec. -/

open Sys2Proof Sys2Proof.Machine
-- one theorem at a time: many kernel evaluations at once need more memory than the check has
set_option Elab.async false

/-! ## The invariant, as a check that runs -/

/-- The tables of records are in canonical form. -/
def recordsCheck (s : State) : Bool :=
  [tblWf {} s.ctxs, tblWf {} s.queues, tblWf {} s.clusters, tblWf {} s.irq.routes, tblWf {} s.lnd.blazes, tblWf {} s.lnd.graphs].all id

/-- The tables of units and cores are in canonical form. -/
def unitsCheck (s : State) : Bool :=
  [tblWf {} s.res.slots, tblWf {} s.fwc.mbx, tblWf {} s.fwc.procs, tblWf {} s.uc.threads, tblWf {} s.yrd.groups].all id

/-- The invariant's clauses. -/
def invCheck (s : State) : Bool :=
  decide s.build.legal && decide s.irq.noSpurious && memWf s.dck.mem && recordsCheck s && unitsCheck s

/-- A state whose check passes meets the invariant. -/
theorem inv_of_check {s : State} (h : invCheck s = true) : s.Inv := by
  unfold invCheck recordsCheck unitsCheck at h
  simp only [List.all_cons, List.all_nil, id_eq, Bool.and_true, Bool.and_eq_true, decide_eq_true_eq] at h
  have units := h.2
  have records := h.1.2
  have base := h.1.1
  exact {
    build := base.1.1
    irq := base.1.2
    mem := base.2
    ctxs := records.1
    queues := records.2.1
    clusters := records.2.2.1
    routes := records.2.2.2.1
    blazes := records.2.2.2.2.1
    graphs := records.2.2.2.2.2
    slots := units.1
    mbx := units.2.1
    procs := units.2.2.1
    threads := units.2.2.2.1
    groups := units.2.2.2.2 }

/-! ## States that meet the hypotheses of the statements -/

/-- The reset state has an empty queue, runs, and is out of reset. -/
theorem test_wit_tick : State.reset.pending = [] ∧ State.reset.pwr.state = .run ∧ State.reset.pins.fRst = false ∧
    State.reset.pins.aoRst = false := by decide +kernel
/-- A state in which FE_CYCLES does not count. -/
theorem test_wit_tick_held : ¬(({ State.reset with pwr := { State.reset.pwr with state := .sleep } } : State).pwr.state = .run) := by decide +kernel

/-- The reset state meets the invariant. -/
theorem test_wit_inv : State.reset.Inv := inv_of_check (by decide +kernel)

/-- Queue 5 of the boot context, with a packet kept in its cell or without one, in a block that is READY. -/
def doorState (cell : Option W512) : State :=
  { State.reset with
    ctxs := [(1, { state := .active })]
    queues := [(5, { state := .open_, ctx := 1, ringLog2 := 8, wp := 7, rp := 5, cplLog2 := 4, cplWp := 3, cplRp := 1, cell })]
    uc := { State.reset.uc with loaded := true }
    fwc := { State.reset.fwc with state := .ready } }
/-- The four outcomes: behind (serial −1), refused and kept (serial 1 or 2 ahead), next (serial 0). -/
theorem test_wit_inline : (doorState none).takesWrite ∧ (doorState none).queueOpen 5 ∧ (doorState none).cplDue 5 = false ∧
    sdiff32 0xFFFFFFFF ((doorState none).nextSerial 5) < 0 ∧
    ((doorState (some (0x100000000))).queueOpen 5 ∧ ((doorState (some (0x100000000))).queue 5).cell = some (0x100000000) ∧
      ¬((0x100000000 : W512).extractLsb' 32 32 = (2 : W32))) ∧
    ((doorState none).queue 5).cell = none ∧ 0 < sdiff32 1 ((doorState none).nextSerial 5) ∧
    sdiff32 0 ((doorState none).nextSerial 5) = 0 ∧ (doorState none).check1 5 (unitPkt 0) = true ∧
    (doorState none).threadFree 5 = true ∧ (doorState none).cplMayGo 5 = true ∧
    (doorState none).admits = true ∧ (doorState none).uc.loaded = true ∧ ((doorState none).queue 5).fstate ≠ .blocked := by decide +kernel

/-- A value in range, one that is negative and one that is too far back. -/
theorem test_wit_cpl_rp : (doorState none).takesWrite ∧ (doorState none).queueOpen 5 ∧
    (0 ≤ sdiff32 ((doorState none).queue 5).cplWp 3 ∧ sdiff32 ((doorState none).queue 5).cplWp 3 ≤ 2 ^ ((doorState none).queue 5).cplLog2.toNat) ∧
    sdiff32 ((doorState none).queue 5).cplWp 4 < 0 ∧
    2 ^ ((doorState none).queue 5).cplLog2.toNat < sdiff32 ((doorState none).queue 5).cplWp 0xFFFFFFF0 := by decide +kernel

/-- Queue 6 is FREE. -/
theorem test_wit_doorbell_free : (doorState none).takesWrite ∧ (doorState none).fwc.state ≠ .outOfService ∧
    ¬(((doorState none).queue 6).state = .open_ ∧ (6 : BitVec 14).toNat < (doorState none).build.queueSlots) := by decide +kernel

/-- The block in SLEEP holds accesses; in RUN it serves them. -/
theorem test_wit_sleep : ({ State.reset with pwr := { State.reset.pwr with state := .sleep } } : State).hostHolds = true ∧
    State.reset.hostHolds = false := by decide +kernel

/-- Blaze 9 configured at value 4, and Blaze 10 in ERROR; Blaze 11 is not configured. -/
def blazeState : State :=
  { State.reset with lnd := { State.reset.lnd with blazes := [(9, { configured := true, value := 4 }), (10, { configured := true, error := true })] } }
/-- Each outcome of a host signal has its state: unconfigured, ERROR, equal, passed and ahead. -/
theorem test_wit_signal : blazeState.takesWrite ∧ blazeState.fwc.state ≠ .outOfService ∧ (11 : BitVec 16).toNat < blazeState.build.blazes ∧
    (blazeState.blaze 11).configured = false ∧ ((blazeState.blaze 10).configured = true ∧ (blazeState.blaze 10).error = true) ∧
    ((blazeState.blaze 9).configured = true ∧ (blazeState.blaze 9).error = false ∧ (4 : W64) = (blazeState.blaze 9).value) ∧
    ((3 : W64) ≠ (blazeState.blaze 9).value ∧ reached (blazeState.blaze 9).value 3 = true) ∧
    reached (blazeState.blaze 9).value 5 = false ∧ (blazeState.blaze 9).cycle = none ∧ (blazeState.blaze 10).cycle = none := by decide +kernel

/-- Rings with WP 5: RP 5 is in range, RP 6 is not. -/
def ringState : State :=
  { State.reset with xlt := { State.reset.xlt with wp := 5, ringLog2 := 7 }, fwc := { State.reset.fwc with logWp := 5, logLog2 := 7 } }
/-- A fault record that is held unposted. -/
def heldState : State := { ringState with xlt := { ringState.xlt with held := [{ cause := 1, write := false, advice := false, unposted := true, engine := 0, slot := 0, va := 0, ctx := 1, level := 0, queue := 5, fc := 0 }] } }
/-- The state meets each clause: a ring of 2^16 records and one of 2^17, RP 5 in range, RP 6 out of range, a record held. -/
theorem test_wit_slash_ring : ringState.takesWrite ∧ ringState.xlt.held = [] ∧ ringState.xlt.posting = none ∧ bits (16 : W64) 4 0 = 16 ∧
    bits (17 : W64) 4 0 = 17 ∧ heldState.takesWrite ∧ (∃ x ∈ heldState.xlt.held, x.unposted = true) ∧
    (ringState.xlt.wp - (0x500000000 : W64).extractLsb' 32 32).toNat ≤ 2 ^ ringState.xlt.ringLog2.toNat ∧
    2 ^ ringState.xlt.ringLog2.toNat < (ringState.xlt.wp - (0x600000000 : W64).extractLsb' 32 32).toNat := by decide +kernel

/-- A value of RP in range and one out of range. -/
theorem test_wit_log_ring : (ringState.fwc.logWp - (0x500000000 : W64).extractLsb' 32 32).toNat ≤ 2 ^ ringState.fwc.logSize ∧
    2 ^ ringState.fwc.logSize < (ringState.fwc.logWp - (0x600000000 : W64).extractLsb' 32 32).toNat := by decide +kernel

/-- Region 3 is being zeroed; region 2 is not. -/
def regionState (f : FwState) : State :=
  { State.reset with fwc := { State.reset.fwc with state := f }, dck := { State.reset.dck with regions := [(3, { valid := true, zeroing := true })] } }
/-- The states of the clauses: before READY, in READY, a region that is free to change and one that is being zeroed. -/
theorem test_wit_regions : (regionState .idle).takesWrite ∧ (regionState .idle).fwc.state ≠ .ready ∧ (regionState .idle).fwc.state ≠ .outOfService ∧
    (regionState .ready).takesWrite ∧ (2 : BitVec 6).toNat < (regionState .idle).build.swRegions ∧
    (regionState .idle).leaveIdle.regionBusy 2 = false ∧ (tget {} (regionState .idle).dck.regions 2).zeroing = false ∧
    (tget {} (regionState .idle).dck.regions 3).zeroing = true := by decide +kernel

/-- IDLE after reset, and READY. -/
theorem test_wit_start : State.reset.takesWrite ∧ State.reset.fwc.state = .idle ∧ bit (1 : W64) 0 = true ∧ State.reset.fwc.state ≠ .ready ∧
    (regionState .ready).takesWrite ∧ (regionState .ready).fwc.state ≠ .idle ∧ (regionState .ready).fwc.state = .ready := by decide +kernel

/-- An 8-byte write to an offset, and one with a wrong length. -/
def write8 (a : BitVec 27) : HostWrite := { addr := a, size := .b8, data := 0x10001 }
/-- The forms of the clauses. -/
theorem test_wit_register : State.reset.takesWrite ∧ writeForm { write8 0x0F000 with lenZero := false } = false ∧
    (writeForm (write8 0x0F000) && writeForm (write8 0x3F000) && writeForm (write8 0x40008) && writeForm (write8 0x90058) &&
     writeForm (write8 0xE0000) && writeForm (write8 0xFFFF8)) = true ∧ (write8 0).size = .b8 := by decide +kernel

/-- An access of page 2 that has waited since cycle 0. -/
def waitState : State :=
  { State.reset with fe := { State.reset.fe with cycles := 16384 }, fwc := { State.reset.fwc with mbxWait := [(hostRd 0x202010, 0)] } }
/-- Its wait is exactly 16,384 fc. -/
theorem test_wit_mbx_timeout : isMailbox (hostRd 0x202010) = true ∧ accessPage (hostRd 0x202010) = (2 : BitVec 8).toNat ∧ 0 + 16384 ≤ waitState.fc := by decide +kernel

/-- Source 5 routed to vector 0 and to the security core, enabled for both and pending; vector 1 has nothing routed and is SENT,
vector 2 is SERVING source 8. -/
def irqState : State :=
  { State.reset with
    irq := { State.reset.irq with
      pending := 0x30, enable := 0x20, inService := 0x100, routes := [(5, { host := 1, sec := true })]
      vecs := #v[{ en := true }, { state := .sent, en := true, failedFc := some 0, msgSource := 5 }, { state := .serving, held := some 8 }, {}, {}, {}, {}, {}] }
    fe := { State.reset.fe with cycles := 65536 }
    fwc := { State.reset.fwc with procs := [(0, { state := .running, enable := 0x20 }), (2, { state := .running, held := some 8 })] } }
/-- Source 5 is the lowest eligible one of vector 0, in a state that meets the invariant; vector 1 has none. -/
theorem test_wit_claim : irqState.Inv ∧ irqState.takesRead ∧ irqState.irq.grace = [] ∧ (irqState.vec 0).state ≠ .serving ∧
    lowest (irqState.eligibleFor 0) 5 ∧ (irqState.vec 1).state = .sent ∧ (∀ n, ¬irqState.eligibleFor 1 n) ∧
    (irqState.vec 3).state = .idle ∧ (∀ n, ¬irqState.eligibleFor 3 n) ∧ (irqState.vec 2).state = .serving := by
  refine ⟨inv_of_check (by decide +kernel),
    by decide +kernel, by decide +kernel, by decide +kernel, ⟨by decide +kernel, ?_⟩, by decide +kernel, ?_, by decide +kernel, ?_, by decide +kernel⟩
  · intro m hm h
    obtain ⟨-, h, -⟩ := h
    simp [irqState, tget, Nat.ne_of_gt hm] at h
  · intro n h
    obtain ⟨-, h, -⟩ := h
    by_cases h5 : 5 = n <;> simp [irqState, tget, h5] at h
  · intro n h
    obtain ⟨-, h, -⟩ := h
    by_cases h5 : 5 = n <;> simp [irqState, tget, h5] at h

/-- Vector 2 and the scheduler core hold source 8; vector 0 and the security core hold none. -/
theorem test_wit_complete : irqState.takesWrite ∧ ((irqState.vec 2).state = .serving ∧ (irqState.vec 2).held = some ((8 : W64).extractLsb' 0 10)) ∧
    ¬((irqState.vec 0).state = .serving ∧ (irqState.vec 0).held = some ((8 : W64).extractLsb' 0 10)) ∧
    (irqState.proc (2 : BitVec 7).toNat).state = .running ∧ (irqState.proc (2 : BitVec 7).toNat).held = some 8 ∧
    (irqState.proc (0 : BitVec 7).toNat).state = .running ∧ (irqState.proc (0 : BitVec 7).toNat).held ≠ some 8 := by decide +kernel

/-- The port serves accesses in the state. -/
theorem test_wit_irq_words : irqState.takesWrite ∧ raisable irqState.build.clusters 5 = true := by decide +kernel

/-- A block whose last IRQ write took effect at cycle 4. -/
theorem test_wit_sync : ({ State.reset with irq := { State.reset.irq with writeFc := some 4 } } : State).takesRead := by decide +kernel

/-- Vector 0 may send source 5; vector 1's message failed at cycle 0. -/
theorem test_wit_message : irqState.sendsMessages ∧ (irqState.vec 0).en = true ∧ (irqState.vec 0).state = .idle ∧
    (irqState.vec 0).msgOut = false ∧ (irqState.vec 1).failedFc = some 0 ∧ 0 + 65536 ≤ irqState.fc := by decide +kernel

/-- Source 5 is the security core's lowest eligible one. -/
theorem test_wit_fw_claim : (irqState.proc (0 : BitVec 7).toNat).state = .running ∧ (irqState.proc (0 : BitVec 7).toNat).held = none ∧
    lowest (irqState.eligibleForProc (0 : BitVec 7).toNat) 5 ∧ (∀ n, ¬State.reset.eligibleForProc (0 : BitVec 7).toNat n) := by
  refine ⟨by decide +kernel, by decide +kernel, ⟨by decide +kernel, ?_⟩, ?_⟩
  · intro m hm h
    obtain ⟨-, h, -⟩ := h
    simp [irqState, tget, Nat.ne_of_gt hm, Route.names] at h

  · intro n h
    obtain ⟨-, h, -⟩ := h
    exact absurd h (by simp [State.reset, State.atStart, tget, Route.names, procSec])

/-- Pages 1 to 3 in each mailbox state: the request of a code, with SEQ 7 and these parameter words, and the scheduler, power
and security cores and those of clusters 2 and 3 running. -/
def mbxState (code w1 w2 : Nat) : State :=
  let req : W512 := BitVec.ofNat 512 (code + 7 * 2 ^ 32 + w1 * 2 ^ 64 + w2 * 2 ^ 128)
  { State.reset with
    ctxs := [(1, { state := .active, shareGroup := 3 })]
    uc := { State.reset.uc with loaded := true }
    fwc := { State.reset.fwc with
      state := .ready
      mbx := [(1, { req }), (2, { req, state := .busy, seq := 6 }), (3, { req, state := .done, seq := 7 })]
      procs := [(0, { state := .running }), (1, { state := .running }), (2, { state := .running }), (5, { state := .running }), (6, { state := .running })] } }
/-- A repeated value, a BUSY page and another SEQ. -/
theorem test_wit_go : (mbxState 1 0 0).Inv ∧ (1, Instr.hello 3 7) ∈ plainRequests 3 7 ∧ (mbxState 1 0 0).takesWrite ∧
    ((mbxState 1 0 0).proc procSched).state = .running ∧ (mbxState 1 0 0).fwc.feBusy = false ∧ bits ((mbxState 1 0 0).mbx 3).req 7 0 = 1 ∧
    ((7 : W64).extractLsb' 0 32 = ((mbxState 1 0 0).mbx 3).seq ∧ ((mbxState 1 0 0).mbx 3).state ≠ .idle) ∧
    (¬((7 : W64).extractLsb' 0 32 = ((mbxState 1 0 0).mbx 2).seq ∧ ((mbxState 1 0 0).mbx 2).state ≠ .idle) ∧ ((mbxState 1 0 0).mbx 2).state = .busy) ∧
    (¬((8 : W64).extractLsb' 0 32 = ((mbxState 1 0 0).mbx 1).seq ∧ ((mbxState 1 0 0).mbx 1).state ≠ .idle) ∧
      (8 : W64).extractLsb' 0 32 ≠ ((mbxState 1 0 0).mbx 1).req.extractLsb' 32 32) := by
  refine ⟨inv_of_check (by decide +kernel), ?_⟩
  and_intros <;> decide +kernel

/-- A request with code 0x0E, and a HELLO with a reserved bit set. -/
theorem test_wit_reserved : (mbxState 0x0E 0 0).Inv ∧ (mbxState 0x0E 0 0).takesWrite ∧ ((mbxState 0x0E 0 0).proc procSched).state = .running ∧
    (mbxState 0x0E 0 0).fwc.feBusy = false ∧ ((mbxState 0x0E 0 0).mbx 1).state = .idle ∧ ((mbxState 0x0E 0 0).mbx 1).awaiting = false ∧
    (7 : W64).extractLsb' 0 32 = ((mbxState 0x0E 0 0).mbx 1).req.extractLsb' 32 32 ∧
    requestAssigned (bits ((mbxState 0x0E 0 0).mbx 1).req 7 0) = false ∧ requestForm ((mbxState 1 1 0).mbx 1).req = false := by
  refine ⟨inv_of_check (by decide +kernel), ?_⟩
  and_intros <;> decide +kernel

/-- A page whose request has NOTIFY 1. -/
theorem test_wit_notify : (mbxState 0x101 0 0).Inv ∧ bit ((mbxState 0x101 0 0).mbx 1).req 8 = true :=
  ⟨inv_of_check (by decide +kernel), by decide +kernel⟩

/-- A binding of program 4 of context 1. -/
def queryState : State :=
  { mbxState 7 (1 + 4 * 2 ^ 32) 0 with lnd := { State.reset.lnd with current := [(65540, 9)], bindings := [{ ctx := 1, program := 4, binding := 9, state := .ready }] } }
/-- Each request starts on page 1; group 3 has an ACTIVE context, group 2 has none. -/
theorem test_wit_shares : (mbxState 1 0 0).Inv ∧ (mbxState 1 0 0).startsRequest 1 7 1 ∧ (mbxState 3 0 0).startsRequest 1 7 3 ∧
    (mbxState 4 0x50002 0).startsRequest 1 7 4 ∧ (¬∃ x ∈ (mbxState 4 0x50002 0).ctxs, x.2.state = .active ∧ x.2.shareGroup.toNat = 2) ∧
    (mbxState 4 0x50103 0).startsRequest 1 7 4 ∧ ((tget {} (mbxState 4 0x50103 0).yrd.groups 3).partition ≠ 1 ∧
      ∃ x ∈ (mbxState 4 0x50103 0).ctxs, x.2.state = .active ∧ x.2.shareGroup.toNat = 3) ∧
    (mbxState 7 1 0).startsRequest 1 7 7 ∧ tget 0 (mbxState 7 1 0).lnd.current 65536 = 0 ∧
    queryState.startsRequest 1 7 7 ∧ tget 0 queryState.lnd.current 65540 = 9 ∧ (queryState.binding 1 4).isSome = true := by
  refine ⟨inv_of_check (by decide +kernel), ?_⟩
  and_intros <;> decide +kernel

/-- Cluster 2 is in service, in partition 0; no table. -/
def assignState (w1 w2 : Nat) : State := { mbxState 5 w1 w2 with clusters := [(2, { inService := true })] }
/-- A table that names cluster 2. -/
def tabledState : State := { assignState 1 4 with yrd := { State.reset.yrd with table := some { id := 1, majorFc := 200000, minors := 1, startFc := 0, entries := [1 + 2 * 2 ^ 108] } } }
/-- Absent clusters, none to move, a tabled one, one to drain; a regulator within and one beyond the sum. -/
theorem test_wit_partitions : (assignState 1 4).Inv ∧ (assignState 0x100 4).startsRequest 1 7 5 ∧
    (assignState 0x100 4).assignBad ((assignState 0x100 4).param 1 1) ((assignState 0x100 4).param 1 2) = true ∧
    (assignState 0 4).startsRequest 1 7 5 ∧ (assignState 1 4).startsRequest 1 7 5 ∧ (assignState 1 4).build.clusters ≠ 16 ∧
    (assignState 1 4).assignBad ((assignState 1 4).param 1 1) ((assignState 1 4).param 1 2) = false ∧
    (List.range (assignState 0 4).build.clusters).filter (fun c => ((assignState 0 4).param 1 2).getLsbD c &&
      decide (((assignState 0 4).cluster (BitVec.ofNat 6 c)).partition ≠ 0)) = [] ∧
    (List.range (assignState 1 4).build.clusters).filter (fun c => ((assignState 1 4).param 1 2).getLsbD c &&
      decide (((assignState 1 4).cluster (BitVec.ofNat 6 c)).partition ≠ 1)) = [2] ∧
    ((assignState 1 4).tableNames 2 = false ∧ ((assignState 1 4).cluster 2).inService = true) ∧
    (tabledState.startsRequest 1 7 5 ∧ tabledState.tableNames 2 = true) ∧
    (mbxState 6 (0xFF * 2 ^ 32) 0).startsRequest 1 7 6 ∧ (mbxState 6 (0xFF * 2 ^ 32) 0).shareSum 0 false 0xFF ≤ 256 ∧
    (let s := mbxState 6 (0xFF * 2 ^ 32) 0; 256 < (s.updPart 1 (fun x => { x with rdShare := 2 })).shareSum 0 false 0xFF) := by
  refine ⟨inv_of_check (by decide +kernel), ?_⟩
  and_intros <;> decide +kernel

/-- Counter 1 is already restored. -/
def restoredState : State := { mbxState 9 1 5 with lgr := { State.reset.lgr with restored := 2 } }
/-- Each request starts on page 1, with parameters at the edge of their range. -/
theorem test_wit_ledger : (mbxState 9 1 5).Inv ∧ (mbxState 9 1 5).startsRequest 1 7 9 ∧ (mbxState 9 1 5).ledgerIndex 1 = true ∧
    (mbxState 9 1 5).lgr.restored.getLsbD 1 = false ∧ restoredState.startsRequest 1 7 9 ∧ restoredState.lgr.restored.getLsbD 1 = true ∧
    (mbxState 0x0A 0 0).startsRequest 1 7 0x0A ∧ (mbxState 0x0B 99 0).startsRequest 1 7 0x0B ∧ (mbxState 0x0C 0x1000 16384).startsRequest 1 7 0x0C ∧
    bits ((mbxState 0x0C 0x1000 16384).param 1 2) 14 0 = 16384 ∧
    (mbxState 0x0D 0x28280020 0).startsRequest 1 7 0x0D ∧ bits ((mbxState 0x0D 0x28280020 0).param 1 1) 31 24 = 40 ∧
    bits ((mbxState 0x0D 0x28280020 0).param 1 1) 5 4 = 2 ∧ bits ((mbxState 0x0D 0x28280020 0).param 1 1) 2 0 = 0 ∧
    (mbxState 0x0D 0x14140002 0).startsRequest 1 7 0x0D ∧ enterState (bits ((mbxState 0x0D 0x14140002 0).param 1 1) 2 0) = some .sleep ∧
    (mbxState 0x0D 0x14140002 0).pwr.later = [] ∧ (mbxState 0x0D 0x14140002 0).mayPoll = true := by
  refine ⟨inv_of_check (by decide +kernel), ?_⟩
  and_intros <;> decide +kernel

/-- The bytes of a real-time table with no entry, and of no table. -/
def emptyTable : List Byte := toBytes 4 200000 ++ toBytes 2 1 ++ List.replicate 58 0
/-- Page 1 has started a request that names an image, which has been read, or failed. -/
def imageState (code : Nat) (failed : Bool) (b : List Byte) : State :=
  let s := mbxState code 0 0
  { s.updMbx 1 (fun m => { m with state := .busy, seq := 7, awaiting := true }) with
    fwc := { (s.updMbx 1 (fun m => { m with state := .busy, seq := 7, awaiting := true })).fwc with
      reads := [{ page := some 1, pa := 0, len := 64, parts := [(0, b)], failed, whole := true }] } }
/-- A table accepted, one refused by check 1, a failed read, a patch before LOADED and one that is no bundle; the last clause
needs a signed patch, whose key and signature are uninterpreted. -/
theorem test_wit_images : (imageState 2 false emptyTable).Inv ∧ (mbxState 2 0 0).startsRequest 1 7 2 ∧ (mbxState 2 0 0).fwc.reads = [] ∧
    (imageState 2 false emptyTable).imageRead 1 7 2 (some emptyTable) ∧ (imageState 2 false emptyTable).spanWanted 1 (some emptyTable) = none ∧
    (imageState 2 false emptyTable).tableRefused 1 emptyTable = none ∧ (imageState 2 false [0]).imageRead 1 7 2 (some [0]) ∧
    (imageState 2 false [0]).tableRefused 1 [0] = some 1 ∧ (imageState 2 true []).imageRead 1 7 2 none ∧
    (mbxState 8 0 64).startsRequest 1 7 8 ∧ 0 < bits ((mbxState 8 0 64).param 1 2) 23 0 ∧ (mbxState 8 0 0).inRun = true ∧ (mbxState 8 0 0).uc.loaded = true ∧
    (imageState 8 true []).imageRead 1 7 8 none ∧ (imageState 8 false [0]).imageRead 1 7 8 (some [0]) ∧
    (imageState 8 false [0]).uc.patchWait = [] ∧ (imageState 8 false [0]).uc.patchPage = none ∧ bundleForm [] 0 = false ∧
    (let s := mbxState 8 0 0; ({ s with uc := { s.uc with loaded := false } } : State).startsRequest 1 7 8) := by
  refine ⟨inv_of_check (by decide +kernel), ?_⟩
  and_intros <;> decide +kernel

/-- A pending table with no entry, no table active. -/
def pendingState : State :=
  let s := mbxState 2 0 0
  { s with yrd := { s.yrd with pendingTable := some (tableOf emptyTable, 1) } }
/-- Its hypotheses hold at once. -/
theorem test_wit_activation : pendingState.Inv ∧ pendingState.yrd.pendingTable = some (tableOf emptyTable, 1) ∧
    (pendingState.proc procSched).state = .running ∧ pendingState.tableContexts (tableOf emptyTable) = [] ∧
    (tableOf emptyTable).startFc ≤ pendingState.fc ∧ pendingState.yrd.table = none := by
  refine ⟨inv_of_check (by decide +kernel), ?_⟩
  and_intros <;> decide +kernel

/-- A table of 200,000 fc whose first frame is over, and a cluster that has run a launch of group 3 for that long. -/
def frameState : State :=
  { mbxState 2 0 0 with
    fe := { State.reset.fe with cycles := 200000 }
    yrd := { State.reset.yrd with table := some (tableOf emptyTable) } }
/-- The frame is over and the tick due. -/
theorem test_wit_frames : frameState.Inv ∧ frameState.yrd.table = some (tableOf emptyTable) ∧ 0 < (tableOf emptyTable).majorFc ∧
    frameState.yrd.base.toNat + (tableOf emptyTable).majorFc ≤ frameState.fc ∧ frameState.yrd.accountFc + 65536 ≤ frameState.fc := by
  refine ⟨inv_of_check (by decide +kernel), ?_⟩
  and_intros <;> decide +kernel

/-- Cluster 2 drains towards partition 1; cluster 3 stays. -/
def drainState : State := { mbxState 5 0 0 with clusters := [(2, { inService := true, moveTo := some 1 })] }
/-- Both kinds of cluster, and a build with regulators. -/
theorem test_wit_join : drainState.Inv ∧ (drainState.cluster 2).moveTo = some 1 ∧ (drainState.cluster 2).empty = true ∧
    (drainState.proc procSched).state = .running ∧ (drainState.cluster 2).deque = [] ∧ (drainState.cluster 3).moveTo = none ∧
    drainState.build.clusters ≠ 16 := by
  refine ⟨inv_of_check (by decide +kernel), ?_⟩
  and_intros <;> decide +kernel

/-- Queue 5 is WOKEN, with `n` unread units and the units given held. -/
def wokenState (n : Nat) (units : List W512) : State :=
  let s := mbxState 0 0 0
  { s with
    uc := { s.uc with loaded := true, dispatch := [(0, 0xFC000000)] }
    queues := [(5, { state := .open_, ctx := 1, ringLog2 := 8, wp := BitVec.ofNat 32 n, fstate := if units = [] then .woken else .fetching, units
                     tmoLog2 := 20 })] }
/-- A queue with two unread units, and one with none. -/
theorem test_wit_fetch : (wokenState 2 []).Inv ∧ (wokenState 2 []).admits = true ∧ (wokenState 2 []).fetchChoice = some 5 ∧
    ((wokenState 2 []).queue 5).units = [] ∧ ((wokenState 2 []).queue 5).reading = false ∧ 0 < (wokenState 2 []).unread 5 ∧
    (wokenState 2 []).queues.countP (fun p => p.2.reading) < 128 ∧ (wokenState 0 []).admits = true ∧ (wokenState 0 []).fetchChoice = some 5 ∧
    (wokenState 0 []).unread 5 = 0 ∧
    (let s := (wokenState 0 []).updQueue 5 (fun x => { x with fstate := .fetching, parking := true })
     s.fetchChoice = some 5 ∧ s.unread 5 = 0 ∧ (s.queue 5).parking = true) ∧
    (let s := (wokenState 1 []).updQueue 5 (fun x => { x with fstate := .fetching, parking := true })
     s.fetchChoice = some 5 ∧ 0 < s.unread 5) := by
  refine ⟨inv_of_check (by decide +kernel), ?_⟩
  and_intros <;> decide +kernel

/-- A ring packet read, one in the cell and one sent on, each a NOP with the next serial; every thread is free. -/
theorem test_wit_dispatch : (wokenState 1 [0]).Inv ∧ (wokenState 1 [0]).admits = true ∧ (wokenState 1 [0]).uc.loaded = true ∧
    ((wokenState 1 [0]).queue 5).state = .open_ ∧ (wokenState 1 [0]).uc.threads.countP (fun p => p.2.busy) < 16 ∧
    ((wokenState 1 [0]).queueThreads 5).length < 4 ∧ headUnits ((wokenState 1 [0]).queue 5).units ≤ ((wokenState 1 [0]).queue 5).units.length ∧
    ((wokenState 1 [0]).queue 5).fstate = .fetching ∧ (0 : W512).extractLsb' 32 32 = (wokenState 1 [0]).nextSerial 5 ∧
    (wokenState 1 [0]).cplMayGo 5 = true ∧ (wokenState 1 [0]).check1 5 (unitsPkt [0]) = true ∧ (wokenState 1 [0]).check1 5 (unitPkt 0) = true ∧
    ((wokenState 1 [0]).thread 0).busy = false ∧ (wokenState 1 [0]).headerCheck (unitsPkt [0]) false false = none ∧
    (let s := (wokenState 1 []).updQueue 5 (fun x => { x with inl := [0] }); (s.queue 5).inl = [0] ∧ s.check1 5 (unitPkt 0) = true) ∧
    (let s := (wokenState 1 []).updQueue 5 (fun x => { x with cell := some 0 })
     (s.queue 5).inl = [] ∧ (s.queue 5).cell = some 0 ∧ (0 : W512).extractLsb' 32 32 = s.nextSerial 5 ∧ s.cplMayGo 5 = true ∧
       (s.queue 5).fstate ≠ .blocked ∧ s.check1 5 (unitPkt 0) = true) := by
  refine ⟨inv_of_check (by decide +kernel), ?_⟩
  and_intros <;> decide +kernel

/-- Queue 5 of context `k`, in the state given, armed, with its timer run out at the bound of TMO_LOG2 1. -/
def firedState (k : BitVec 20) (f : FState) (entries : List (Nat × Entry)) : State :=
  let s := mbxState 0 0 0
  { s with
    fe := { s.fe with cycles := 1048576 }
    lnd := { s.lnd with entries }
    queues := [(5, { state := .open_, ctx := k, tmoLog2 := 1, fstate := f, cell := some 0x500000000 })] }
/-- Each outcome: BLOCKED, a gap on a user queue and on a kernel queue. -/
theorem test_wit_timer : (firedState 1 .blocked []).Inv ∧ (firedState 1 .blocked []).tmoArmed 5 = true ∧ ((firedState 1 .blocked []).queue 5).fired = false ∧
    (firedState 1 .blocked []).fwc.feBusy = false ∧ (firedState 1 .blocked []).fwc.state ≠ .outOfService ∧
    ((firedState 1 .blocked []).queue 5).timerFc + 2 ^ (max 20 (min 40 ((firedState 1 .blocked []).queue 5).tmoLog2.toNat)) ≤ (firedState 1 .blocked []).fc ∧
    (firedState 1 .blocked []).queueEntries 5 = [] ∧ ((firedState 1 .blocked []).queue 5).fstate = .blocked ∧
    ((firedState 1 .gap []).tmoArmed 5 = true ∧ ((firedState 1 .gap []).queue 5).fstate ≠ .blocked ∧
      (0x500000000 : W512).extractLsb' 32 32 ≠ (firedState 1 .gap []).nextSerial 5 ∧ ((firedState 1 .gap []).queue 5).ctx ≠ kernelCtx ∧
      (firedState 1 .gap []).cplDue 5 = false) ∧
    ((firedState 0 .gap []).tmoArmed 5 = true ∧ ((firedState 0 .gap []).queue 5).ctx = kernelCtx ∧ ((firedState 0 .gap []).queue 5).cplLog2 = 0) ∧
    ((firedState 1 .gap [(8, { ctx := 1, queue := 5 })]).tmoArmed 5 = true ∧ (firedState 1 .gap [(8, { ctx := 1, queue := 5 })]).queueEntries 5 ≠ []) := by
  refine ⟨inv_of_check (by decide +kernel), ?_⟩
  and_intros <;> decide +kernel

/-- Thread 3 is about to run microword `w`, its T1 holding `v` and its T2 holding 5. -/
def wordState (w : BitVec 40) (v : W64) : State :=
  let s := wokenState 0 []
  { s with uc := { s.uc with store := [(7, w)],
                             threads := [(3, { busy := true, queue := 5, upc := 7, startPc := 7, headerDone := true,
                                               regs := ((Vector.replicate 32 0).set 1 v).set 2 5 })] } }
/-- A MOVI to T1, to T0 and to T30, and a free thread. -/
theorem test_wit_movi : (wordState 0x2C20000009 1).Inv ∧ (wordState 0x2C20000009 1).runsWord 3 ∧ uOp ((wordState 0x2C20000009 1).microword 3) = 0x0B ∧
    uTd ((wordState 0x2C20000009 1).microword 3) = 1 ∧
    ((wordState 0x2C00000009 1).runsWord 3 ∧ uOp ((wordState 0x2C00000009 1).microword 3) = 0x0B ∧ uTd ((wordState 0x2C00000009 1).microword 3) = 0) ∧
    ((wordState 0x2FC0000009 1).runsWord 3 ∧ uOp ((wordState 0x2FC0000009 1).microword 3) = 0x0B ∧ uTd ((wordState 0x2FC0000009 1).microword 3) = 30) ∧
    ((wordState 0 0).thread 0).busy = false ∧ (((wordState 0 0).handOver 5 0 1).thread 0).busy = true := by
  refine ⟨inv_of_check (by decide +kernel), ?_⟩
  and_intros <;> decide +kernel

/-- One word of each UOP, TD 3, TA 1, TB 2 or an immediate. -/
theorem test_wit_arithmetic : (wordState 0 0).Inv ∧
    (∀ u ∈ [0, 1, 2, 3, 4, 5, 6, 7, 8, 9, 10, 11], (wordState (BitVec.ofNat 40 (u * 2 ^ 34 + 3 * 2 ^ 29 + 2 ^ 24 + 2 * 2 ^ 19)) 9).runsWord 3 ∧
      uOp ((wordState (BitVec.ofNat 40 (u * 2 ^ 34 + 3 * 2 ^ 29 + 2 ^ 24 + 2 * 2 ^ 19)) 9).microword 3) = u) ∧
    (wordState 0 0).chosen ≠ some 2 :=
  ⟨inv_of_check (by decide +kernel), by decide +kernel, by decide +kernel⟩

/-- BR and REJIF with each assigned COND and one that is not, on a negative and on a zero value. -/
theorem test_wit_conditions : (wordState 0 0).Inv ∧
    (∀ k ∈ [0, 1, 2, 3, 4, 5, 15],
      ((wordState (BitVec.ofNat 40 (0x18 * 2 ^ 34 + 2 ^ 24 + k * 2 ^ 20 + 9)) 0).runsWord 3 ∧
        uOp ((wordState (BitVec.ofNat 40 (0x18 * 2 ^ 34 + 2 ^ 24 + k * 2 ^ 20 + 9)) 0).microword 3) = 0x18 ∧
        bits ((wordState (BitVec.ofNat 40 (0x18 * 2 ^ 34 + 2 ^ 24 + k * 2 ^ 20 + 9)) 0).microword 3) 23 20 = k) ∧
      ((wordState (BitVec.ofNat 40 (0x32 * 2 ^ 34 + 2 ^ 24 + 4 * 2 ^ 16 + k)) 0).runsWord 3 ∧
        uOp ((wordState (BitVec.ofNat 40 (0x32 * 2 ^ 34 + 2 ^ 24 + 4 * 2 ^ 16 + k)) 0).microword 3) = 0x32 ∧
        bits ((wordState (BitVec.ofNat 40 (0x32 * 2 ^ 34 + 2 ^ 24 + 4 * 2 ^ 16 + k)) 0).microword 3) 3 0 = k)) ∧
    ((wordState 0 0xFFFFFFFFFFFFFFFF).uReg 3 1).toInt < 0 :=
  ⟨inv_of_check (by decide +kernel), by decide +kernel, by decide +kernel⟩

/-- One word of each kind: FLD in range and not, STE, DRD of regions 1 and 6, BLZ, and OBJ of a handle that is not cached. -/
theorem test_wit_deckwords : (wordState 0 0).Inv ∧
    (∀ w ∈ [0x40213BF000, 0x403FFFF000, 0xA060020000, 0x8061010000, 0x8061060000, 0x8861000000, 0x8461000000], (wordState (BitVec.ofNat 40 w) 9).runsWord 3) ∧
    (wordState 0x8461000000 9).resolve 1 9 = none ∧ uOp 0x8461000000 = 0x21 ∧ uOp 0x8861000000 = 0x22 ∧ uOp 0x8061060000 = 0x20 ∧ uArg8 0x8061060000 = 6 ∧
    uArg8 0x8061010000 = 1 ∧ uOp 0xA060020000 = 0x28 ∧ uOp 0x40213BF000 = 0x10 ∧ bits (0x40213BF000 : BitVec 40) 28 18 + bits (0x40213BF000 : BitVec 40) 17 12 ≤ 2047 ∧
    2047 < bits (0x403FFFF000 : BitVec 40) 28 18 + bits (0x403FFFF000 : BitVec 40) 17 12 :=
  ⟨inv_of_check (by decide +kernel), by decide +kernel, by decide +kernel, by decide +kernel, by decide +kernel, by decide +kernel, by decide +kernel, by decide +kernel,
    by decide +kernel, by decide +kernel, by decide +kernel, by decide +kernel⟩

/-- Thread 3 runs microword `w` for a NOP packet; its marks are those of `f`. -/
def admitState (w : BitVec 40) (f : Thread → Thread) : State :=
  let s := wordState w 0
  { s with
    ctxs := [(1, { state := .active, quota := 4 })]
    uc := { s.uc with threads := s.uc.threads.map (fun p => (p.1, f p.2)) } }
/-- ADMIT of one NOP entry that commits; ADMIT and REJ that wait for the header reads; a header failure; a stale handle. -/
theorem test_wit_admit : (admitState 0xC000000000 id).Inv ∧ (admitState 0xC000000000 id).runsWord 3 ∧
    (let s := admitState 0xC000000000 id
     let c := s.updThread 3 (fun x => { x with count := x.count + 1 })
     c.uc.lockHolder = none ∧ c.earlierHeld 3 = false ∧ c.check1 5 0 = true ∧ c.conflict 3 = false ∧ (c.thread 3).headerFail = none ∧
     (c.thread 3).stale = false ∧ ¬(c.quotaOf 1 < 1) ∧ admitKind 0 false = true ∧ c.bound 5 1 [] = none ∧ (c.thread 3).objects = []) ∧
    ((admitState 0xC000000000 (fun x => { x with headerDone := false })).runsWord 3 ∧
     (admitState 0xC400000000 (fun x => { x with headerDone := false })).runsWord 3 ∧ (admitState 0xC400040000 id).runsWord 3 ∧
     (admitState 0xC000000000 (fun x => { x with stale := true })).runsWord 3 ∧ (admitState 0xC000000020 id).runsWord 3 ∧
     admitKind 0x20 false = false ∧ (admitState 0xC000000000 (fun x => { x with headerFail := some 3 })).runsWord 3) := by
  refine ⟨inv_of_check (by decide +kernel), ?_⟩
  and_intros <;> decide +kernel

/-- Thread 3 trapped by each cause, cleared and not; a runaway; a packet of opcode 0x80; a failed BLZ. -/
theorem test_wit_traps : (admitState 0 (fun x => { x with trap := some .deckWait, drd := some (4, 7) })).Inv ∧
    ((admitState 0 (fun x => { x with trap := some .deckWait, reject := some 3 })).thread 3).reject = some 3 ∧
    (admitState 0 (fun x => { x with trap := some .order })).earlierHeld 3 = false ∧
    (admitState 0 (fun x => { x with trap := some .lock })).uc.lockHolder = none ∧
    (let s := admitState 0 (fun x => { x with trap := some .order, seq := 1 })
     ({ s with uc := { s.uc with threads := (2, { busy := true, queue := 5 }) :: s.uc.threads } } : State).earlierHeld 3 = true) ∧
    ((admitState 0 (fun x => { x with trap := some .xltMiss, miss := some (1, 0, 0) })).thread 3).miss ≠ none ∧
    (admitState 0 (fun x => { x with count := 4096 })).chosen = some 3 ∧ (admitState 0 (fun x => { x with count := 4096 })).feRuns = true ∧ (admitState 0 id).uc.csUncorr = false ∧
    (admitState 0 id).fwc.state ≠ .outOfService ∧ (admitState 0 id).fwc.asked = [] ∧ (admitState 0 id).chosen = some 3 ∧ (admitState 0 id).feRuns = true ∧
    uAssigned (uOp ((admitState 0xFC00000000 id).microword 3)) = false ∧
    0x80 ≤ (pktOpcode ((admitState 0 (fun x => { x with pkt := 0x80 })).thread 3).pkt).toNat := by
  refine ⟨inv_of_check (by decide +kernel), ?_⟩
  and_intros <;> decide +kernel

/-- A packet of each opcode at START; a NOP that is admitted, a SIGNAL of a Blaze that does not allow the context, a CONTEXT_KILL
without a reason. -/
theorem test_wit_routines : (admitState 0 id).Inv ∧
    (∀ op ∈ [0x00, 0x01, 0x02, 0x03, 0x04, 0x05, 0x07, 0x09, 0x20, 0x21, 0x22, 0x23, 0x25, 0x26, 0x27, 0x28, 0x29],
      (admitState 0 (fun x => { x with pkt := BitVec.ofNat 2048 op })).atRoutine 3 op = true) ∧
    ((admitState 0 id).thread 3).readsOf (fun g => g = 6) = 0 ∧ (signalRoutine 3).blazes ≠ [] ∧ (graphReleaseRoutine 1 9).notes ≠ [] ∧
    ((admitState 0 (fun x => { x with pkt := 0x27 })).killRoutine 3).bad = true ∧
    ((admitState 0 id).resolveAll 1 3 [(0x00000001 : W32)] 0).2 = true ∧
    (let a := admitState 0 id
     nopRoutine.notes = [] ∧ nopRoutine.bad = false ∧ nopRoutine.blazes = [] ∧ nopRoutine.handles = [] ∧ a.admitTrap 3 = none ∧ a.check1 5 0 = true ∧
       a.conflict 3 = false ∧ a.admitFails 3 nopRoutine.kind nopRoutine.n nopRoutine.acts nopRoutine.ta = none ∧ a.bound 5 1 [] = none) := by
  refine ⟨inv_of_check (by decide +kernel), ?_⟩
  and_intros <;> decide +kernel

/-- A rejection that the Landing holds, older than nothing. -/
def heldRejection : Rejection := { serial := 0, opcode := 0, status := 4, blaze := none, fc := 0, ord := 2, cplReserved := false }
/-- Entry 8 of queue 5 and context 1, as `x` says; Blaze 4 of context 1 with a mirror write due; a rejection held on queue 5. -/
def landState (x : Entry) : State :=
  let s := admitState 0 id
  { s with
    lnd := { s.lnd with entries := [(8, { x with ctx := 1, queue := 5, ord := 1 })]
                        blazes := [(4, { configured := true, owner := 1, mirrorEn := true, mirrorDue := true, mirrorPa := 0x1000, value := 9 })] }
    queues := [(5, { state := .open_, ctx := 1, ringLog2 := 8, tmoLog2 := 20, rejections := [heldRejection] })] }
/-- A NOP that becomes ready, one that retires, one torn down. -/
theorem test_wit_landing : (landState {}).Inv ∧ (landState {}).inRun = true ∧
    (∃ x, (landState {}).entry 8 = some x ∧ (landState {}).isReady 8 x = true) ∧
    (∃ x, (landState { state := .issued, report := some (0, false) }).entry 8 = some x ∧ x.report = some (0, false) ∧ x.kind ≠ kWaitExt ∧ x.chainOf = none) ∧
    (landState {}).rejectionTurn 5 heldRejection = false ∧ ({ landState {} with lnd := { (landState {}).lnd with entries := [] } } : State).rejectionTurn 5 heldRejection = true ∧
    ((landState {}).blaze 4).mirrorDue = true ∧ ((landState {}).blaze 4).mirrorEn = true ∧ (landState {}).configsAt 4 1 = [] ∧ (landState {}).feRuns = true ∧
    (landState {}).yrd.windows = [] ∧ ((landState {}).blaze 4).cycle = none ∧ ((landState {}).queue 5).state = .open_ := by
  refine ⟨inv_of_check (by decide +kernel), by decide +kernel, ⟨_, rfl, by decide +kernel⟩, ⟨_, rfl, by decide +kernel, by decide +kernel, by decide +kernel⟩, ?_⟩
  and_intros <;> decide +kernel

/-- Entry 8 of context 1 is READY, of kind `k`, with the packet that the fields give: context 3 and a queue number are bits 320 up. -/
def readyState (k n : Nat) : State :=
  landState { state := .ready, img := BitVec.ofNat 512 (k * 2 ^ 136), pkt := BitVec.ofNat 2048 (n * 2 ^ 320) }
/-- One entry of each kind, and each record that the commands meet: a FREE context, the kernel context, an ACTIVE one, a FREE and
an OPEN queue. -/
theorem test_wit_landing_commands : (readyState 0 0).Inv ∧
    (∀ k ∈ [0, 3, 4, 0x20, 0x21, 0x22, 0x23, 0x26, 0x27], ∃ x, (readyState k 3).entry 8 = some x ∧ x.actKind = k ∧ x.state = .ready ∧ x.report = none) ∧
    (readyState 0 0).feRuns = true ∧ ((readyState 0 0).ctx 3).state = .free ∧ ((readyState 0 0).ctx 1).state = .active ∧ ((readyState 0 0).ctx 0).state = .free ∧
    ((readyState 0 0).queue 3).state = .free ∧ ((readyState 0 0).queue 5).state = .open_ ∧
    (tget {} (readyState 0 0).yrd.groups 0).partition = 0 ∧ (tget {} (readyState 0 0).yrd.groups 0).partition ≠ 1 := by
  refine ⟨inv_of_check (by decide +kernel), ?_, ?_⟩
  · intro k hk
    simp only [List.mem_cons, List.not_mem_nil, or_false] at hk
    rcases hk with rfl | rfl | rfl | rfl | rfl | rfl | rfl | rfl | rfl <;> exact ⟨_, rfl, by decide +kernel, rfl, rfl⟩
  · and_intros <;> decide +kernel

/-- The SELF_TEST of cluster 0 at READY, with the cluster as given. -/
def testedState (c : Cluster) : State := { readyState 0x29 0 with clusters := [(0, c)] }
/-- One entry of each kind and target; a cluster out of service, one in its test. -/
theorem test_wit_kernel_commands : (readyState 0 0).Inv ∧
    (∀ k ∈ [0x24, 0x25, 0x28, 0x29], ∃ x, (readyState k 0).entry 8 = some x ∧ x.kind = k ∧ x.state = .ready ∧ x.report = none ∧ pf x.pkt 321 320 = 0) ∧
    (∃ x, (readyState 0x29 1).entry 8 = some x ∧ pf x.pkt 321 320 = 1) ∧ (∃ x, (readyState 0x29 2).entry 8 = some x ∧ pf x.pkt 321 320 = 2) ∧
    (readyState 0 0).feRuns = true ∧ (readyState 0x25 0).epochCount 0 ((readyState 0x25 0).epoch 0 + 1) = 0 ∧ (readyState 0x24 0).xlt.retiring.find? (fun r => r.entry = some 8) = none ∧
    ((readyState 0x28 0).issue 8).blazeNamed 0 8 = false ∧ ((readyState 0x28 0).blaze 0).mirrorOut = false ∧
    ((readyState 0x29 1).issue 8).userHeld ≠ 0 ∧ (readyState 0x29 1).fwc.selfTest = none ∧
    ((testedState { link := .out }).cluster 0).link = .out ∧ ((testedState { link := .out }).cluster 0).startFail = false ∧
    ((testedState { link := .out }).cluster 0).recovery = none ∧ ((testedState { link := .out }).cluster 0).hangWait = none ∧
    ((testedState { link := .held, testing := some 8, inTest := true }).cluster 0).testing = some 8 ∧ ((testedState { link := .held, testing := some 8, inTest := true }).cluster 0).ctrl = none ∧
    (admitState 0 (fun y => { y with pkt := 0x24 })).atRoutine 3 0x24 = true ∧ (admitState 0 (fun y => { y with pkt := 0x24 })).admitTrap 3 = none ∧
    (admitState 0 (fun y => { y with pkt := 0x24 })).threadObj 3 0 = none ∧ (admitState 0 id).ctxOut 0 = false ∧ ((admitState 0 id).ctx 0).state = .free := by
  refine ⟨inv_of_check (by decide +kernel), ?_, ⟨_, rfl, by decide +kernel⟩, ⟨_, rfl, by decide +kernel⟩, ?_⟩
  · intro k hk
    simp only [List.mem_cons, List.not_mem_nil, or_false] at hk
    rcases hk with rfl | rfl | rfl | rfl <;> exact ⟨_, rfl, by decide +kernel, rfl, rfl, by decide +kernel⟩
  · and_intros <;> decide +kernel

/-- Graph 0 of context 1 holds one version of one NOP node; entry 8 is READY, of kind `k`. -/
def graphState (k : Nat) (g : Graph) (f : Entry → Entry) : State :=
  let s := landState (f { state := .ready, img := BitVec.ofNat 512 (k * 2 ^ 136) })
  { s with lnd := { s.lnd with graphs := [(4096, g)] }, ctxs := [(1, { state := .active, quota := 4, resident := true })]
           res := { s.res with slots := [(0, { state := .resident, ctx := 1, slices := [.empty] })] } }
/-- Graph 0 with its one version. -/
def heldGraph : Graph := { claimed := true, loaded := true, holds := true, versions := [{ number := 0, nodes := [0] }], nextVersion := 1 }
/-- A HAUL that an engine takes, an image that is malformed, a launch of a graph held, one not loaded and one that failed, an
admission of a node, and a release. -/
theorem test_wit_graphs : (graphState 7 heldGraph id).Inv ∧ (graphState 7 heldGraph id).feRuns = true ∧
    (∃ x, (graphState 7 heldGraph id).entry 8 = some x ∧ x.kind = kGraphLaunch ∧ x.state = .ready ∧ (graphState 7 heldGraph id).graph x.ctx x.graphNo = heldGraph) ∧
    (∃ x, (graphState 2 heldGraph id).entry 8 = some x ∧ x.actKind = kHaul ∧ (graphState 2 heldGraph id).nextTake = some (.entry 8 x)) ∧
    (∃ x, (graphState 6 heldGraph (fun y => { y with state := .issued, phase := 1 })).entry 8 = some x ∧ x.kind = kGraphLoad ∧ x.phase = 1 ∧ x.report = none ∧
      (graphState 6 heldGraph (fun y => { y with state := .issued, phase := 1 })).imageForm x.ctx x.staged (bits x.img 471 448) = false) ∧
    (∃ x, (graphState 7 heldGraph (fun y => { y with state := .issued, phase := 1 })).entry 8 = some x ∧ x.torn = false ∧
      (graphState 7 heldGraph (fun y => { y with state := .issued, phase := 1 })).bound x.queue 1 [] = none ∧ x.nextNode = 0) ∧
    (graphState 7 heldGraph (fun y => { y with state := .issued, phase := 1 })).admits = true ∧
    (∃ x, (graphState 9 heldGraph id).entry 8 = some x ∧ x.kind = kGraphRelease) ∧ (∃ x, (graphState 1 heldGraph id).entry 8 = some x ∧ x.actKind = kLaunch) := by
  refine ⟨inv_of_check (by decide +kernel), by decide +kernel, ⟨_, rfl, ?_⟩, ⟨_, rfl, ?_⟩, ⟨_, rfl, ?_⟩, ⟨_, rfl, ?_⟩, by decide +kernel, ⟨_, rfl, by decide +kernel⟩,
    ⟨_, rfl, by decide +kernel⟩⟩ <;> and_intros <;> decide +kernel

/-- A ring read of queue 5 outstanding on interface 2 with slot 1, begun at `f`, at fc `n`. -/
def portState (f n : Nat) : State :=
  let s := wokenState 2 []
  let t : Txn := { write := false, ifc := 2, epoch := false, source := srcRing, slot := 1, pa := 0, len := 64, prot := 3, cache := 0, qos := 8, retries := 0, data := [], purpose := .ringRead 5 1, fc := f }
  { s with fe := { s.fe with cycles := BitVec.ofNat 64 n }, mp := { s.mp with txns := [t] } }
/-- A response that finds its transaction, one that finds none, and transactions that have waited for the limit. -/
theorem test_wit_manager : (portState 0 0).Inv ∧ (portState 0 0).pins.fRst = false ∧ (portState 0 0).pins.aoRst = false ∧ (portState 0 0).fwc.wholeBusy = none ∧ (portState 0 0).unitActs (.ringRead 5 1) = true ∧
    ((portState 0 0).mp.find false 2 (bit (BitVec.ofNat 12 (srcRing.toNat * 32 + 1)) 11) ((BitVec.ofNat 12 (srcRing.toNat * 32 + 1)).extractLsb' 5 6)
      (bits (BitVec.ofNat 12 (srcRing.toNat * 32 + 1)) 4 0)).isSome = true ∧
    (portState 0 0).mp.find true 2 false srcRing 1 = none ∧ (portState 0 0).mp.find false 2 true srcRing 1 = none ∧ (portState 0 0).mp.abandoned = [] ∧
    (portState 0 0).mp.epoch = false ∧ 0 < (portState 0 0).mp.retryLimit.toNat ∧
    ((portState 0 (2 ^ 40)).feRuns = true ∧ (portState 0 (2 ^ 40)).fwc.asked = [] ∧ ∃ t ∈ (portState 0 (2 ^ 40)).mp.txns, t.fc + (portState 0 (2 ^ 40)).mp.drainLimit ≤ (portState 0 (2 ^ 40)).fc) ∧
    (∀ t ∈ (portState 0 0).mp.txns, (portState 0 0).fc < t.fc + (portState 0 0).mp.drainLimit) ∧
    (let s := portState 0 (2 ^ 40)
     let d : State := { s with mp := { s.mp with abandoned := s.mp.txns, txns := [], drainFc := some 0, epoch := true } }
     d.mp.drainFc = some 0 ∧ 0 + d.mp.drainLimit ≤ d.fc ∧ d.mp.previous ≠ [] ∧ ∀ t ∈ d.mp.previous, t.ifc < 64) := by
  refine ⟨inv_of_check (by decide +kernel), ?_⟩
  and_intros <;> decide +kernel

/-- A HAUL that an engine takes, a physical stream and a virtual one that may start a chunk, and a load whose image is empty. -/
def haulState (kind : StreamKind) (k : Nat) (f : Entry → Entry) : State :=
  let s := graphState k heldGraph f
  { s with hau := { s.hau with streams := [(0, { kind, entry := 8, ctx := 1, desc := 0, total := 1 })], lockQueue := [(0, 0)] }
           clusters := [(2, { inService := true })]
           xlt := { s.xlt with failedFc := some 0 } }
/-- Each clause's premises. -/
theorem test_wit_haul : (haulState .haul 2 id).Inv ∧ (haulState .haul 2 id).feRuns = true ∧
    ((haulState .haul 2 id).nextTake.bind (fun t => (haulState .haul 2 id).haulSlot t.ctx)).isSome = true ∧ (landState {}).nextTake = none ∧
    (∃ x, (haulState (.descriptor 1) 2 id).stream 0 = some x ∧ (haulState (.descriptor 1) 2 id).chunkMayStart 0 x = true ∧ x.next ∉ x.skip ∧ x.kind.virtual = false) ∧
    (∃ x, (haulState .haul 2 id).stream 0 = some x ∧ (haulState .haul 2 id).chunkMayStart 0 x = true ∧ x.next ∉ x.skip ∧ x.kind.virtual = true) ∧
    (haulState .haul 2 id).hau.lockQueue = [(0, 0)] ∧ (haulState .haul 2 id).tryLocks 0 0 = none ∧
    (((haulState .haul 5 (fun y => { y with state := .issued, phase := 1 })).entry 8).any (fun x => decide (x.kind = kProgramLoad) && !x.torn &&
      decide ((haulState .haul 5 (fun y => { y with state := .issued, phase := 1 })).loaderCore 8 x = some 2)) = true) := by
  refine ⟨inv_of_check (by decide +kernel), by decide +kernel, by decide +kernel, by decide +kernel, ⟨_, rfl, ?_⟩, ⟨_, rfl, ?_⟩, by decide +kernel,
    by decide +kernel, ?_⟩ <;> and_intros <;> decide +kernel

/-- Entry 8 is a launch of class `n`, READY at its cluster's choice; context 1 resident, cluster 2 in service; queue 5 has fired. -/
def yardState (n : BitVec 2) (deque : List Nat) : State :=
  let s := haulState .haul 1 (fun y => { y with cls := n })
  { s with
    lnd := { s.lnd with fired := [5], bindings := [{ ctx := 1, program := 0, binding := 0, state := .ready }] }
    clusters := [(2, { inService := true, deque }), (3, { inService := true })] }
/-- Share work for cluster 2 (of no weight: by age), best-effort work, a deque to take and to steal from, a fired queue, and a context
that needs residency with a slot free. -/
theorem test_wit_yarder : (yardState 1 []).Inv ∧ (yardState 1 []).feRuns = true ∧ (yardState 1 []).releaseDue = false ∧ (yardState 2 []).releaseDue = false ∧
    (let f := (yardState 1 []).failLoaded (yardState 1 []).shareWork
     ((yardState 1 []).allClusters.any (fun c => (leastBy ageKey (f.shareFor c)).isSome && (f.roundPick (f.cluster c).partition (f.shareFor c)).isNone)) = true) ∧
    ((yardState 2 []).shareDue (yardState 2 []).allClusters = false ∧
     (let f := (yardState 2 []).failLoaded (fun x => x.cls = 2)
      (leastBy ageKey (f.lnd.entries.filter (fun p => p.2.cls = 2 && f.placeable p.2 && (f.dequeFor p.2).isSome))).isSome = true)) ∧
    ((yardState 2 [8]).shareDue [2] = false ∧ ((yardState 2 [8]).cluster 2).deque = [8] ∧ ((yardState 2 [8]).cluster 3).deque = []) ∧
    (yardState 2 [8]).schedState 3 = .idle ∧ ((yardState 2 [8]).cluster 3).empty = true ∧
    ((yardState 1 []).lnd.fired = [5] ∧ ((yardState 1 []).proc procSched).state = .running ∧ ((yardState 1 []).queue 5).ctx ≠ kernelCtx) ∧
    ((landState { state := .ready, img := BitVec.ofNat 512 (2 ^ 136) }).needsResidency 1 = true ∧ ((landState {}).ctx 1).resident = false ∧
      (landState {}).freeRes ≠ none ∧ (landState {}).res.waiting = [] ∧ ∀ p ∈ (landState {}).res.slots, p.2.state ≠ .evicting) := by
  refine ⟨inv_of_check (by decide +kernel), ?_⟩
  and_intros <;> decide +kernel

/-- A table of one entry for queue 5 and cluster 2 that fires in minor frame 0, with the windows given, at fc `n`. -/
def windowState (n : Nat) (l : List Window) : State :=
  let s := yardState 1 []
  let e : BitVec 128 := BitVec.ofNat 128 (1 + 100 * 2 ^ 36 + 5 * 2 ^ 114)
  { s with fe := { s.fe with cycles := BitVec.ofNat 64 n }
           yrd := { s.yrd with table := some { id := 1, majorFc := 200000, minors := 1, startFc := 0, entries := [e] }, windows := l } }
/-- A window of entry 0 for cluster 2 at instant 1000. -/
def oneWindow (launch : Option Nat) (released ended : Bool) : Window :=
  { entry := 0, row := BitVec.ofNat 128 (1 + 100 * 2 ^ 36 + 5 * 2 ^ 114), instant := 1000, cluster := 2, length := 100, launch, released, ended, switched := true, loaded := true, counted := false, inert := false }
/-- An entry that fires, in its lead; a window before and at its instant; one that overran, one that ended. -/
theorem test_wit_windows : (windowState 0 []).Inv ∧ (windowState 0 []).inRun = true ∧
    rtFires ((windowState 0 []).yrd.table.elim 0 (fun t => t.entries.getD 0 0)) 1 0 = true ∧
    rtFires ((windowState 0 []).yrd.table.elim 0 (fun t => t.entries.getD 0 0)) 1 1 = false ∧ ((windowState 0 []).queue 5).state = .open_ ∧ ((windowState 0 []).ctx 1).state = .active ∧
    (let s := windowState 1000 [oneWindow (some 8) false false]
     let s := s.windowsGo
     s.yrd.windows.findIdx? (fun w => w.entry = 0 && !w.inert && !w.released && !w.ended) = some 0 ∧ s.yrd.windows.all (fun w => w.launch.isSome && decide (w.instant ≤ s.fc)) = true ∧ (s.cluster 2).inService = true ∧ (s.cluster 2).active = none) ∧
    (let s := windowState 5000 [oneWindow (some 8) true false]
     s.yrd.windows.findIdx? (fun w => w.entry = 0 && decide (w.instant + w.length ≤ s.fc)) = some 0) ∧
    (let s := windowState 5000 [oneWindow none false true]
     s.yrd.windows.findIdx? (fun w => w.entry = 0 && decide (w.instant + w.length ≤ s.fc)) = some 0) := by
  refine ⟨inv_of_check (by decide +kernel), ?_⟩
  and_intros <;> decide +kernel

/-- Cluster 2 holds context 1 with link ACTIVE, as `f` says; entry 8 is an ISSUED launch. -/
def clusterState (f : Cluster → Cluster) : State :=
  let s := haulState .haul 1 (fun y => { y with state := .issued })
  { s with clusters := [(2, f { inService := true, link := .active, ctx := some 1, slice := some 0, rstN := true, credits := [4, 4, 4, 4, 4] })] }
/-- A launch of entry 8 with no operands. -/
def oneLaunch : Launch := { entry := 8, ctx := 1, replays := 1, serial := 0, image := {} }
/-- A switch that stops what runs. -/
def oneSwitch : Switch := { phase := .stopping, cause := .evict, into := none, entry := none, outSlice := none, inSlice := none, writes := 0, suppressed := false, fail := none }
/-- A launch that starts, one that runs, one all of whose streams are done, one that stops, and a chained one that has ended. -/
theorem test_wit_cluster : (clusterState id).Inv ∧
    ((clusterState (fun x => { x with shadow := some oneLaunch })).cluster 2).canStart = true ∧ oneLaunch.loaded = true ∧
    (oneLaunch.allDone = true ∧ ((clusterState (fun x => { x with active := some oneLaunch })).cluster 2).ops = []) ∧
    ((clusterState (fun x => { x with chainNext := some 8 })).cluster 2).chainNext = some 8 ∧
    ((clusterState (fun x => { x with active := some oneLaunch, switch := some oneSwitch })).cluster 2).preempt = false := by
  refine ⟨inv_of_check (by decide +kernel), ?_⟩
  and_intros <;> decide +kernel

/-- Cluster 2 in a switch of phase `p` towards `k`, its link as given. -/
def switchState (p : SwPhase) (k : Option (BitVec 20)) (f : Cluster → Cluster) : State :=
  let s := clusterState (fun x => f { x with switch := some { oneSwitch with phase := p, into := k } })
  { s with res := { s.res with slots := [(0, { state := .resident, ctx := 1, slices := [.empty], masksRead := true })] } }
/-- A sync request, taken or not. -/
def oneSync (yield taken : Bool) : SyncReq := { yield, classes := 15, tag := 0, taken, final := true }
/-- Each phase, each message's request and each beat. -/
theorem test_wit_switch : (switchState .yielded none id).Inv ∧
    ((switchState .yielded none (fun x => { x with link := .held })).cluster 2).ctrl = none ∧
    (switchState .saved (some 1) (fun x => { x with link := .held })).residentSlot 1 = some 0 ∧
    (switchState .saved (some 1) id).sliceIn 1 .image = none ∧ (switchState .saved (some 1) id).sliceIn 1 .empty = some 0 ∧
    (switchState .saved (some 1) id).resuming { oneSwitch with phase := .saved, into := some 1 } = none ∧
    ((switchState .saved none (fun x => { x with sync := [oneSync false false] })).cluster 2).sync.findIdx? (fun r => !r.taken) = some 0 ∧
    ((switchState .yielding none (fun x => { x with sync := [oneSync true true] })).cluster 2).rstN = true ∧
    ((switchState .yielding none id).cluster 2).recovery = none ∧ ((switchState .yielding none id).cluster 2).link ≠ .loopback ∧
    (switchState .saving none id).channelHeld 2 + 128 ≤ (switchState .saving none id).build.channelShare ∧ (switchState .yielded none id).yrd.windows = [] ∧
    bits (0x10000000 : W32) 31 28 = 1 ∧ (0x10000000 : W32).extractLsb' 16 8 = ((switchState .yielding none id).cluster 2).epoch ∧
    bits (0xF0000000 : W32) 31 28 = 15 ∧
    ((switchState .saving none (fun x => { x with link := .saving })).cluster 2).link = .saving ∧
    ((switchState .restoring none (fun x => { x with link := .restoring, down := [0] })).cluster 2).down ≠ [] := by
  refine ⟨inv_of_check (by decide +kernel), ?_⟩
  and_intros <;> decide +kernel

/-- A link that answers, one that waits for READY, one with each command outstanding, and credits below and at the capability. -/
theorem test_wit_link : (clusterState id).Inv ∧ ((clusterState id).cluster 2).rstN = true ∧ ((clusterState id).cluster 2).answers = true ∧
    ((clusterState (fun x => { x with link := .waitReady })).cluster 2).link = .waitReady ∧
    (∀ n ∈ [ctCapRead, ctEnable, ctSave, ctRestore, ctClear, ctLoopOn, ctLoopOff],
      ((clusterState (fun x => Cluster.sendCtrl n 0 x)).cluster 2).ctrl.any (fun w => decide (bits w 31 24 = n)) = true) ∧
    (∃ k, k < 5 ∧ (1 : BitVec 5).getLsbD k = true ∧ capCredit (clusterState id).fwc.caps k ≤ nth ((clusterState id).cluster 2).credits k) := by
  refine ⟨inv_of_check (by decide +kernel), by decide +kernel, by decide +kernel, by decide +kernel, by decide +kernel, ⟨0, ?_⟩⟩
  and_intros <;> decide +kernel

/-- A ready Deck whose group 0 is open, with row 7 of bank 0 lost, a scrub due and a stream in engine 0's slot 0. -/
def deckState : State :=
  let s := haulState .haul 2 id
  { s with fe := { s.fe with cycles := BitVec.ofNat 64 (2 ^ 50) }
           dck := { s.dck with ready := true, open_ := 1, lostRows := [(0, 7)], passLog2 := 36, scrubNext := 9 } }
/-- An access of row `n`. -/
def deckReq (op : DeckOp) (kind : DeckKind) (n : Nat) : DeckReq := { kind, age := 0, row := BitVec.ofNat 10 n, op }
/-- The same Deck with stripe 3 of group 0 held for one more access, which mends row 3 of bank 0. -/
def heldDeck : State := { deckState with dck := { deckState.dck with holds := [⟨0, 3, 1, [(0, 3)]⟩] } }
/-- A grant of each kind, a scrub that is due, and a generation that has passed. -/
theorem test_wit_deck : deckState.Inv ∧ (deckState.dck.grant 0 [deckReq .read .wide 3]).isSome = true ∧
    (deckState.dck.grant 0 [deckReq (.write 0x7F true) .wide 3]).isSome = true ∧ (writtenBanks 0 3 0x7F).length = 7 ∧
    (deckState.dck.grant 0 [deckReq (.write 1 true) .wide 3]).isSome = true ∧ (writtenBanks 0 3 1).length ≠ 7 ∧
    (heldDeck.dck.grant 0 [deckReq .read .begun 3]).isSome = true ∧ heldDeck.dck.holds.find? (fun h => h.group = 0 && h.stripe = 3) = some ⟨0, 3, 1, [(0, 3)]⟩ ∧
    (deckState.dck.grant 0 [deckReq .read .scrub 7]).isSome = true ∧ deckState.dck.grant 0 [] = none ∧
    (0 < deckState.build.deckGroups ∧ deckState.dck.ready = true ∧ deckState.dck.open_.getLsbD 0 = true) ∧
    (deckState.dck.lostRows.contains (0, 7) = true ∧ deckState.dck.lostRows.contains (0, 3) = false ∧ deckState.dck.failed.getLsbD 0 = false) ∧
    (deckState.dck.passLog2 ≠ 0 ∧ deckState.dck.scrubFc + 2 ^ passLog deckState.dck.passLog2.toNat / deckState.build.deckRows ≤ deckState.fc) ∧
    tget 0 deckState.dck.gens 0 ≠ 1 ∧ (deckState.stream 0).isSome = true ∧ deckState.stream 5 = none ∧ deckState.savedSlice 2 1 = none := by
  refine ⟨inv_of_check (by decide +kernel), ?_⟩
  and_intros <;> decide +kernel

/-- The block in VERIFYING; processor 1 has failed at fc 5 with cause 2; the fuses hold `key`. -/
def verifyState (key : BitVec 384) : State :=
  let s := mbxState 0 0 0
  { s with
    fe := { s.fe with cycles := BitVec.ofNat 64 (2 ^ 30) }
    pins := { s.pins with keyHash := key }
    fwc := { s.fwc with state := .verifying, bundlePages := 1, failedOrder := [1]
                        procs := [(0, { state := .running }), (1, { state := .restarting, cause := 2, failFc := 5, restartFc := 5 }), (2, { state := .running, contain := 3, wdogLog2 := 20 })] } }
/-- The same with the bundle read as one zero byte. -/
def bundleState : State :=
  { verifyState 5 with fwc := { (verifyState 5).fwc with reads := [{ page := none, pa := 0, len := 1, parts := [(0, [0])], whole := true }] } }
/-- A start without a key hash, one without a bundle and one with a malformed one; each failure; a restart. No accepted bundle is
written out here: R472 checks a signature, whose check is a constant of the configuration that Lean cannot evaluate. -/
theorem test_wit_firmware : (verifyState 5).Inv ∧ (verifyState 5).fwc.state = .verifying ∧ (verifyState 5).inRun = true ∧ (verifyState 0).pins.keyHash = 0 ∧
    ¬((verifyState 5).pins.keyHash = 0 ∨ (verifyState 5).pins.keyHash = BitVec.allOnes 384) ∧ (verifyState 5).fwc.bundlePages ≠ 0 ∧
    (verifyState 5).fwc.imageRead none = none ∧ bundleState.fwc.imageRead none = some (some [0]) ∧ bundleForm [0] (4096 * bundleState.fwc.bundlePages.toNat) = false ∧ (verifyState 5).procLives 2 = true ∧ bit ((verifyState 5).proc 2).contain 1 = true ∧
    bit ((verifyState 5).proc 2).contain 0 = true ∧ ((verifyState 5).proc 1).state = .restarting ∧ ((verifyState 5).proc 1).failFc + 2 ^ 21 ≤ (verifyState 5).fc ∧
    (verifyState 5).fwc.failedOrder = [1] ∧ ((verifyState 5).proc 1).imageLost = false ∧ ((verifyState 5).proc 1).cause ≠ 0 ∧
    ((verifyState 5).proc procSec).state = .running ∧ ((verifyState 5).proc 1).restartFc = BitVec.ofNat 32 ((verifyState 5).proc 1).failFc := by
  refine ⟨inv_of_check (by decide +kernel), ?_⟩
  and_intros <;> decide +kernel

/-- The block with the power core running, its power controls as `f` says, at fc 2^40. -/
def powerState (f : Pwr → Pwr) : State :=
  let s := mbxState 0 0 0
  { s with
    fe := { s.fe with cycles := BitVec.ofNat 64 (2 ^ 40) }, pwr := f s.pwr
    fwc := { s.fwc with mbx := [] } }
/-- Each phase of an entry and of an exit. -/
theorem test_wit_power : (powerState id).Inv ∧ (powerState id).inRun = true ∧ (powerState id).quiet = true ∧ (powerState id).pwr.state = .run ∧
    (powerState id).pwr.quietFc + 256 ≤ (powerState id).fc ∧ (powerState (fun p => { p with state := .idle, auto := 2 })).mayPoll = true ∧
    (powerState (fun p => { p with state := .idle, auto := 2 })).pwr.quietFc + 2 ^ (powerState id).pwr.sleepLog2.toNat ≤ (powerState id).fc ∧
    ((powerState (fun p => { p with phase := .polling, request := some (.sleep, none) })).refusal .sleep = none ∧
      (powerState (fun p => { p with phase := .polling, request := some (.sleep, none) })).delays = false ∧
      (powerState (fun p => { p with phase := .polling, wake := true })).refusal .sleep = some 7 ∧
      (powerState (fun p => { p with phase := .polling })).pwr.pollFc + 2 ^ 20 ≤ (powerState id).fc) ∧
    ((powerState (fun p => { p with phase := .carrying, request := some (.sleep, none) })).lowering = [] ∧ (powerState id).mp.txns = [] ∧ (powerState id).mp.abandoned = [] ∧
      (powerState id).mp.waiting = [] ∧ (powerState id).pwr.hostHeld = false ∧ (powerState id).fwc.mbxWait = [] ∧
      (powerState id).pwr.pwrAck = false ∧ (powerState id).pwr.wake = false) ∧
    ((powerState id).pins.aoRst = false ∧ (powerState id).pwr.wakeN = true ∧ ((powerState id).proc procPower).state = .running) ∧
    ((powerState (fun p => { p with state := .sleep, wake := true })).pwr.phase = .none_ ∧ (powerState (fun p => { p with state := .sleep, wake := true })).pwr.pwrReq = false) ∧
    ((powerState (fun p => { p with phase := .exiting, pdAck := BitVec.allOnes 90 })).pwr.pdReq = (powerState id).build.domains ∧
      (powerState id).build.domains &&& ~~~(BitVec.allOnes 90) = 0) := by
  refine ⟨inv_of_check (by decide +kernel), ?_⟩
  and_intros <;> decide +kernel

/-- The block with resets asked for, and cluster 2 as `f` says. -/
def resetState (asked : List (BitVec 4 × BitVec 8)) (f : Cluster → Cluster) : State :=
  let s := clusterState f
  { s with fwc := { s.fwc with asked } }
/-- A recovery whose suspects are `todo`. -/
def oneRecovery (todo : List (Position × Nat)) : Recovery := { cause := 1, held := [], todo, now := none, guilty := none, fails := 0, cleared := true }
/-- A watchdog that has run out, suspects to replay, and each reset asked for. -/
theorem test_wit_recovery : (resetState [] id).Inv ∧
    (((resetState [] (fun x => { x with active := some oneLaunch, wdogLog2 := 20 })).cluster 2).wdogLog2 ≠ 0 ∧
      ((resetState [] (fun x => { x with active := some oneLaunch, wdogLog2 := 20 })).cluster 2).inTest = false ∧ 2 ^ (max 16 (min 32 20)) ≤ 2 ^ 20) ∧
    (((resetState [] (fun x => { x with link := .held, recovery := some (oneRecovery [(.running, 8)]) })).cluster 2).ctrl = none ∧
      ((resetState [] id).proc (3 + 2)).state = .running ∧ ((resetState [] id).proc procSched).state = .running ∧
      ((resetState [] id).entry 8).any (fun y => y.report.isNone && y.launch.noCopy) = true) ∧
    ((resetState [(kindFrontEnd, 6)] id).inRun = true ∧ (resetState [(kindFrontEnd, 6)] id).fwc.dumping = none ∧ ((resetState [(kindFrontEnd, 6)] id).proc procSec).state ≠ .restarting ∧
      (resetState [(kindFrontEnd, 6)] id).fwc.feBusy = false ∧ (resetState [(kindFrontEnd, 6)] id).fwc.asked.find? (fun a => a.1 = kindFrontEnd) = some (kindFrontEnd, 6)) ∧
    ((resetState [(kindWhole, 7)] id).fwc.wholeBusy = none ∧ (resetState [(kindWhole, 7)] id).pwr.state = .run ∧
      (resetState [(kindWhole, 7)] id).fwc.asked.find? (fun a => a.1 = kindWhole) = some (kindWhole, 7) ∧ (kindWhole, 0x0A) ∉ (resetState [(kindWhole, 7)] id).fwc.asked) ∧
    (resetState [(kindOos, 12)] id).fwc.asked.find? (fun a => a.1 = kindOos) = some (kindOos, 12) := by
  refine ⟨inv_of_check (by decide +kernel), ?_⟩
  and_intros <;> decide +kernel

/-- The block with its pins as `f` says, tokens in its queue, and the fault network enabled. -/
def pinState (f : Pins → Pins) : State :=
  let s := mbxState 0 0 0
  { s with pins := f s.pins, fe := { s.fe with fnEnable := true, chipNum := 3, txq := [5] } }
/-- A token that is taken and one that is not, test mode and not, each reset level, a clock change that is allowed and one not. -/
theorem test_wit_pins : (pinState id).Inv ∧ (pinState id).rxReady = true ∧ (pinState id).pins.readyToScan ∧ (pinState (fun p => { p with trst := true })).pins.trst = true ∧ (pinState id).tokenBad 0 = true ∧ (pinState id).tokenBad 0x0000000100010000 = false ∧
    (pinState (fun p => { p with fRst := true })).rxReady = false ∧ (pinState id).fe.txq = [5] ∧ (pinState id).inRun = true ∧ (pinState id).pins.testMode = false ∧
    ((pinState (fun p => { p with testMode := true })).anyReset = false ∧ (pinState (fun p => { p with testMode := true })).pins.bistRun = false ∧ bit (1 : W32) 0 = true ∧
      bits (1 : W32) 31 28 ≤ 6 ∧ 6 < bits (0x70000001 : W32) 31 28) ∧
    ((pinState id).build.hasDomain .f = true ∧ (pinState id).pins.held .f = false ∧ (pinState (fun p => { p with fRst := true })).pins.held .f = true ∧
      ({ pinState id with pins := setReset (pinState (fun p => { p with fRst := true })).pins false .f } : State).anyReset = false) ∧
    ((pinState (fun p => { p with aoRst := true, fRst := true, dRst := true, hRst := true, mRst := BitVec.allOnes 8, cRst := BitVec.allOnes 64 })).allButAo = true) ∧
    (pinState id).clockAllowed .ao .changes = true ∧ (pinState id).clockAllowed .f .changes = false := by
  refine ⟨inv_of_check (by decide +kernel), ?_⟩
  and_intros <;> decide +kernel

/-! ## Commands that WellFormed refuses -/

/-- A Deck access with no request waiting. -/
theorem test_wf_deck_without_requests : (Instr.deckRowAccess 0 [] .clean).wf = false := by decide
/-- More corrected words than the rows read hold, none, and a write that names no row (R394, R401). -/
theorem test_wf_ecc_words : (Instr.scrubRead (.corrected 65)).wf = false ∧ (Instr.scrubRead (.corrected 0)).wf = false ∧
    (Instr.scrubRead (.corrected 64)).wf = true ∧ (Instr.scrubRead (.uncorrectable 0 449 none)).wf = false ∧
    (Instr.deckRowAccess 0 [⟨.wide, 0, 0, .write 0 true⟩] .clean).wf = false := by decide
/-- A credit return of no pool and a DONE beat of no lane. -/
theorem test_wf_empty_beats : (Instr.creditReturn 0 0).wf = false ∧ (Instr.doneToken 0 0 0 0).wf = false := by decide
/-- A processor above 66, and a failure cause out of 1 to 4 (R467, R475). -/
theorem test_wf_processors : (Instr.firmwareClaim 67).wf = false ∧ (Instr.firmwareComplete 67 0).wf = false ∧ (Instr.fwWatchdogExpiry 67 0).wf = false ∧
    (Instr.processorRestart 67).wf = false ∧ (Instr.restartTimeout 67).wf = false ∧ (Instr.processorFailure 67 1).wf = false ∧
    (Instr.processorFailure 3 0).wf = false ∧ (Instr.processorFailure 3 5).wf = false ∧ (Instr.processorFailure 66 4).wf = true := by decide
/-- A Landing entry out of 131,072 (R398). -/
theorem test_wf_entries : (Instr.entryReady 131072).wf = false ∧ (Instr.retirement 131072).wf = false ∧ (Instr.loaderRun 131072).wf = false ∧
    (Instr.graphNodeAdmission 131072).wf = false ∧ (Instr.nop (.execute 131072)).wf = false ∧ (Instr.selfTestDeck (.execute 131072)).wf = false ∧
    (Instr.selfTestDeck (.leave 131072)).wf = false ∧ (Instr.selfTestDeck (.finish 131072 true)).wf = false ∧ (Instr.nop (.execute 131071)).wf = true := by decide
/-- A power domain out of 90 (R64). -/
theorem test_wf_domains : (Instr.pdPwrAck 90 true).wf = false ∧ (Instr.pdPwrAck 89 true).wf = true := by decide

/-! ## Single commands, with results taken from the spec -/

/-- The state that a command leads to. -/
def after (i : Instr) (s : State) : State :=
  match exec i s with
  | .next t => t
  | _ => s

/-- ADD wraps modulo 2^64 (R200): T3 ← T1 + T2 with T1 = 2^64 − 1 and T2 = 5. -/
theorem test_uop_add_wraps : (after (.uopAdd 3) (wordState 0x0461100000 0xFFFFFFFFFFFFFFFF)).uReg 3 3 = 4 := by decide +kernel
/-- SUB below zero wraps (R200): T3 ← T1 − T2 with T1 = 1. -/
theorem test_uop_sub_wraps : (after (.uopSub 3) (wordState 0x0861100000 1)).uReg 3 3 = 0xFFFFFFFFFFFFFFFC := by decide +kernel
/-- SHLI by 65 shifts by one (R200). -/
theorem test_uop_shli_mod_64 : (after (.uopShli 3) (wordState 0x2861000041 3)).uReg 3 3 = 6 := by decide +kernel
/-- A write to T0 is ignored (R198). -/
theorem test_uop_t0 : (after (.uopMovi 3) (wordState 0x2C00000009 1)).uReg 3 0 = 0 := by decide +kernel
/-- BR with COND NEG on 2^63 goes to TARGET 0x123 (R199). -/
theorem test_uop_br_neg : ((after (.uopBr 3) (wordState 0x6001300123 0x8000000000000000)).thread 3).upc = 0x123 := by decide +kernel
/-- BR with COND NEZ on zero goes on (R199). -/
theorem test_uop_br_not_taken : ((after (.uopBr 3) (wordState 0x6001200123 0)).thread 3).upc = 8 := by decide +kernel
/-- An unassigned COND sets RUNAWAY (R199, R208). -/
theorem test_uop_br_bad_cond : (after (.uopBr 3) (wordState 0x6001700123 0)).uc.runaway = true := by decide +kernel
/-- An ADMIT of a NOP consumes the serial and makes one Landing entry (R203). -/
theorem test_uop_admit : ((after (.uopAdmit 3) (admitState 0xC000000000 id)).queue 5).expSerial = 1 ∧
    (after (.uopAdmit 3) (admitState 0xC000000000 id)).lnd.entries.length = 1 := by decide +kernel
/-- A REJ with MALFORMED tears the USER queue's context down (R155). -/
theorem test_uop_rej : ((after (.uopRej 3) (admitState 0xC400040000 id)).ctx 1).state = .faulted := by decide +kernel
/-- Scalar operations (R315): arithmetic right shift, signed minimum, high product, signed comparison. -/
theorem test_scalar : scalarRR 0x07 0x80000000 4 = 0xF8000000 ∧ scalarRR 0x0A 0xFFFFFFFF 1 = 0xFFFFFFFF ∧ scalarRR 0x0D 0xFFFFFFFF 0xFFFFFFFF = 0xFFFFFFFE ∧
    scalarRR 0x08 0xFFFFFFFF 0 = 1 ∧ scalarRR 0x09 0xFFFFFFFF 0 = 0 := by decide +kernel
/-- The Deck grants a begun access of a held stripe first and no new write there, a wide request of 8 dclk before a narrow one, and an
old scrub never before them (R394, R395). -/
theorem test_deck_order :
    (heldDeck.dck.grant 0 [{ kind := .narrow, age := 9, row := 1, op := .read }, { kind := .begun, age := 0, row := 3, op := .read }]).map (·.row) = some 3 ∧
    heldDeck.dck.grant 0 [{ kind := .wide, age := 9, row := 3, op := .write 1 true }] = none ∧
    (deckState.dck.grant 0 [{ kind := .narrow, age := 9, row := 1, op := .read }, { kind := .wide, age := 8, row := 2, op := .read }]).map (·.row) = some 2 ∧
    (deckState.dck.grant 0 [{ kind := .narrow, age := 0, row := 1, op := .read }, { kind := .wide, age := 7, row := 2, op := .read }]).map (·.row) = some 1 ∧
    (deckState.dck.grant 0 [{ kind := .scrub, age := 65536, row := 1, op := .read }, { kind := .wide, age := 0, row := 2, op := .read }]).map (·.row) = some 2 := by decide +kernel
/-- What accesses cost (R394): a read, a write of one row, of three rows and of seven, in a sound bank. -/
theorem test_deck_cost : let c := fun op => deckState.dck.cost 0 { kind := .wide, age := 0, row := 0, op } .clean
    [c .read, c (.write 1 true), c (.write 7 true), c (.write 0x7F true)] = [1, 4, 8, 8] := by decide +kernel
/-- CONTEXT_CREATE makes context 3 ACTIVE, and ends BUSY_REFUSED on context 1, which is (R185). -/
theorem test_context_create : ((after (.contextCreate (.execute 8)) (readyState 0x20 3)).ctx 3).state = .active ∧
    ((after (.contextCreate (.execute 8)) (readyState 0x20 1)).entry 8).map (·.report) = some (some (0x02, false)) := by decide +kernel
/-- QUEUE_BIND on the OPEN queue 5 ends BUSY_REFUSED (R187). -/
theorem test_queue_bind_busy : ((after (.queueBind (.execute 8)) (readyState 0x22 5)).entry 8).map (·.report) = some (some (0x02, false)) := by decide +kernel
/-- CONTEXT_DESTROY of the kernel context is MALFORMED (R186). -/
theorem test_destroy_kernel : ((after (.contextDestroy (.execute 8)) (readyState 0x21 0)).entry 8).map (·.report) = some (some (0x04, false)) := by decide +kernel
/-- An INT8 result clamps with OVERFLOW (R385): 200 gives 127, and −200 gives −128. -/
theorem test_int8_clamps : intEncode 0x0D (.fin false 200 0) false = { code := 127, ovf := true } ∧
    intEncode 0x0D (.fin true 200 0) false = { code := 128, ovf := true } := by decide +kernel
/-- E4M3 (R376): the code 0x7E is 448, 0x7F is NaN, and a tie rounds to even (R377): 17 becomes 16. -/
theorem test_e4m3 : fE4M3.decode 0x7E = (.fin false 14 5, false) ∧ (fE4M3.decode 0x7F).1 = .nan ∧
    (fE4M3.encode (.fin false 17 0) false false false).code = 0x58 := by decide +kernel
/-- A wake: a falling WAKE_N latches one (R66). -/
theorem test_wake : (after (.wakeN false) (powerState id)).pwr.wake = true := by decide +kernel
/-- IDCODE ends in 1 and is 32 bits long (R69). -/
theorem test_idcode : (after .idcode (pinState id)).pins.drLen = 32 := by decide +kernel
/-- One cycle of an idle block advances FE_CYCLES by one (R21). -/
theorem test_tick : (match step State.reset with | .next t => t.fe.cycles | _ => 0) = State.reset.fe.cycles + 1 := by decide +kernel
/-- The command at the front of the queue is taken (one command, then the queue is empty). -/
theorem test_step_takes_one : (match step { State.reset with pending := [.wakeN false] } with | .next t => t.pending | _ => [.irqSync]) = [] := by decide +kernel
end

namespace Sys2Proof.Machine

/-! ## One microword of the thread that runs (R194, R197, R208) -/

/-- A thread whose word runs and has the UOP asked for: the word is counted, and then has its effect. -/
theorem State.uop_eq_of_runsWord {s : State} {t : BitVec 4} {u : Nat} (f : State → BitVec 40 → State) (h : s.runsWord t)
    (hu : uOp (s.microword t) = u) : s.uop t u f = f (s.updThread t (fun x => { x with count := x.count + 1 })) (s.microword t) := by
  obtain ⟨hfe, hchosen, hcount, hform⟩ := h
  simp [State.uop, hfe, hchosen, hform, hu, Nat.not_le.mpr hcount]

/-- Counting a word leaves the micro-registers alone. -/
theorem State.uReg_counted {s : State} (t : BitVec 4) (i : Nat) (hI : s.Inv) :
    (s.updThread t (fun x => { x with count := x.count + 1 })).uReg t i = s.uReg t i := by
  simp [State.uReg, State.updThread_same _ _ _ hI.threads]

/-- The micro-PC of a word counted moves on. -/
theorem State.uNext_counted {s : State} (t : BitVec 4) (hI : s.Inv) :
    (s.updThread t (fun x => { x with count := x.count + 1 })).uNext t =
      s.updThread t (fun x => { x with count := x.count + 1, upc := x.upc + 1 }) :=
  State.updThread_twice s t _ _ hI.threads

/-! ## Conditions (R199) -/

/-- The assigned COND values with what they say of TA. -/
def condMeanings (v : W64) : List (Nat × Prop) := [(0, True), (1, v = 0), (2, v ≠ 0), (3, v.toInt < 0), (4, 0 ≤ v.toInt)]

/-- What a microword with a COND comes to: a fault for an unassigned COND, else whether the condition holds. -/
def byCond (c : Option Bool) (fault taken on : State) : State :=
  match c with
  | none => fault
  | some true => taken
  | some false => on

theorem ucCond_of_mem {v : W64} {p : Nat × Prop} (hp : p ∈ condMeanings v) :
    (p.2 → ucCond p.1 v = some true) ∧ (¬p.2 → ucCond p.1 v = some false) := by
  simp only [condMeanings, List.mem_cons, List.not_mem_nil, or_false] at hp
  obtain rfl | rfl | rfl | rfl | rfl := hp <;> simp [ucCond, BitVec.msb_eq_toInt]

theorem ucCond_unassigned {c : Nat} (v : W64) (h : 4 < c) : ucCond c v = none := by
  obtain ⟨k, rfl⟩ := Nat.exists_eq_add_of_le' h
  rfl

/-- The cases of R199 for an outcome that goes by COND `c` of the value `v`. -/
theorem outcomes_of_byCond {out : Host.Outcome State Fault Refusal} {c : Nat} {v : W64} {fault taken on : State}
    (e : out = .next (byCond (ucCond c v) fault taken on)) :
    (∀ p ∈ condMeanings v, c = p.1 → (p.2 → out = .next taken) ∧ (¬p.2 → out = .next on)) ∧ (4 < c → out = .next fault) := by
  subst e
  refine ⟨fun p hp hc => ⟨fun hy => ?_, fun hn => ?_⟩, fun hc => ?_⟩
  · rw [hc, (ucCond_of_mem hp).1 hy, byCond]
  · rw [hc, (ucCond_of_mem hp).2 hn, byCond]
  · rw [ucCond_unassigned v hc, byCond]

/-! ## Fields of a microword (R197) -/

theorem ofNat_uArg8 (w : BitVec 40) : BitVec.ofNat 8 (uArg8 w) = w.extractLsb' 16 8 := by
  apply BitVec.eq_of_toNat_eq
  simp [uArg8, bits, BitVec.extractLsb'_toNat]

theorem uArg16_mod_16 (w : BitVec 40) : uArg16 w % 16 = bits w 3 0 := by
  simp [uArg16, bits]

/-! ## Threads through teardowns (R109) -/

theorem State.each_uc {α : Type} (s : State) (l : List α) (f : State → α → State) (hf : ∀ s a, (f s a).uc = s.uc) :
    (s.each l f).uc = s.uc := by
  unfold State.each
  induction l generalizing s with
  | nil => rfl
  | cons a l ih => exact (ih (f s a)).trans (hf s a)

@[simp] theorem State.recordError_uc (s : State) (n : BitVec 16) (old new : BlazeRun) : (s.recordError n old new).uc = s.uc := by
  unfold State.recordError
  dsimp only
  split
  · exact State.raise_uc _ _
  · split <;> rfl

@[simp] theorem State.applyUpdates_uc (s : State) (n : BitVec 16) (v : W64) (late : Bool) (old new : BlazeRun) :
    (s.applyUpdates n v late old new).uc = s.uc := by
  unfold State.applyUpdates
  cases late <;> split <;> rfl

@[simp] theorem State.blazeUpdate_uc (s : State) (n : BitVec 16) (u : BlazeUp) : (s.blazeUpdate n u).uc = s.uc := by
  unfold State.blazeUpdate
  dsimp only
  rw [State.recordError_uc]
  split
  · rfl
  · exact State.applyUpdates_uc _ _ _ _ _ _

@[simp] theorem State.report_uc (s : State) (e : Nat) (status : BitVec 8) (prop : Bool) : (s.report e status prop).uc = s.uc := rfl

/-- The same report on several entries. -/
theorem State.reports_uc (s : State) (l : List Nat) (status : BitVec 8) (prop : Bool) :
    (s.each l fun s e => s.report e status prop).uc = s.uc :=
  State.each_uc _ _ _ fun s e => State.report_uc s e status prop

@[simp] theorem State.writeCpl_uc (s : State) (q : BitVec 14) (serial : W32) (status opcode : BitVec 8) (discard : Bool)
    (start fin : Nat) : (s.writeCpl q serial status opcode discard start fin).uc = s.uc :=
  State.issueTxn_uc _ _

@[simp] theorem State.optionalCpl_uc (s : State) (q : BitVec 14) (serial : W32) (status opcode : BitVec 8) (fc : Nat) :
    (s.optionalCpl q serial status opcode fc).uc = s.uc := by
  unfold State.optionalCpl
  dsimp only
  split
  · rfl
  · split <;> simp

@[simp] theorem State.passRejection_uc (s : State) (q : BitVec 14) (r : Rejection) : (s.passRejection q r).uc = s.uc := by
  unfold State.passRejection
  cases r.blaze
  all_goals
    dsimp only
    split_ifs <;> simp

@[simp] theorem State.clearQueue_uc (s : State) (q : BitVec 14) : (s.clearQueue q).uc = s.uc := rfl

@[simp] theorem State.drainQueue_uc (s : State) (q : BitVec 14) : (s.drainQueue q).uc = s.uc := by
  unfold State.drainQueue
  dsimp only
  split
  · exact (State.clearQueue_uc _ _).trans ((State.reports_uc _ _ _ _).trans
      (State.each_uc _ _ _ fun s r => State.passRejection_uc s q r))
  · rfl

@[simp] theorem State.drainCtx_uc (s : State) (c : BitVec 20) : (s.drainCtx c).uc = s.uc := by
  unfold State.drainCtx
  dsimp only
  split
  · rfl
  · exact State.reports_uc _ _ _ _

@[simp] theorem State.settle_uc (s : State) (c : BitVec 20) : (s.settle c).uc = s.uc := by
  rw [State.settle, State.drainCtx_uc]
  exact State.each_uc _ _ _ fun s q => State.drainQueue_uc s q

/-- The word of HAU_ERR_LOG is kept abstract here: compared field by field, its products would be unfolded. -/
@[simp] theorem State.hauLog_uc (s : State) (key : Nat) (x : Stream) (status : BitVec 8) : (s.hauLog key x status).uc = s.uc := by
  have kept (h : Hau) : ({ s with hau := h } : State).uc = s.uc := rfl
  exact kept _

@[simp] theorem State.stopStreams_uc (s : State) (c : BitVec 20) (status : BitVec 8) (killed : Bool) :
    (s.stopStreams c status killed).uc = s.uc := by
  unfold State.stopStreams
  dsimp only
  rw [State.each_uc, State.each_uc, State.each_uc]
  pick_goal 3
  · intro s p
    split
    · exact State.reports_uc _ _ _ _
    · rfl
  all_goals
    intro s p
    split
    · split
      · rw [State.hauLog_uc]
      · rw [State.reports_uc, State.hauLog_uc]
    · rw [State.report_uc, State.hauLog_uc]

@[simp] theorem State.stopClusters_uc (s : State) (c : BitVec 20) (status : BitVec 8) : (s.stopClusters c status).uc = s.uc := by
  unfold State.stopClusters
  dsimp only
  split <;> exact (State.reports_uc _ _ _ _).trans (State.each_uc _ _ _ fun s p => State.report_uc s p.1 status true)

@[simp] theorem State.stopOthers_uc (s : State) (c : BitVec 20) (status : BitVec 8) : (s.stopOthers c status).uc = s.uc :=
  State.each_uc _ _ _ fun s p => State.report_uc s p.1 status true

@[simp] theorem State.tearContext_uc (s : State) (c : BitVec 20) (status : BitVec 8) (token : Bool) :
    (s.tearContext c status token).uc = s.uc := by
  unfold State.tearContext
  dsimp only
  split <;> exact State.each_uc _ _ _ fun _ _ => rfl

@[simp] theorem State.teardown_uc (s : State) (c : BitVec 20) (status : BitVec 8) : (s.teardown c status).uc = s.uc := by
  unfold State.teardown State.teardownWith
  split <;> simp

/-! ## Threads through patches (R211) -/

@[simp] theorem State.fwRecord_uc (s : State) (proc level event : Nat) (args : List Nat) :
    (s.fwRecord proc level event args).uc = s.uc := by
  unfold State.fwRecord
  dsimp only
  split
  · split <;> rfl
  · refine (State.issueTxn_uc _ _).trans ?_
    split <;> rfl

@[simp] theorem State.trace_uc (s : State) (cls proc event : Nat) (args : List Nat) : (s.trace cls proc event args).uc = s.uc := by
  unfold State.trace
  split <;> simp

@[simp] theorem State.mbxDone_uc (s : State) (page : BitVec 8) (status : BitVec 8) (resp : W512) : (s.mbxDone page status resp).uc = s.uc := by
  unfold State.mbxDone
  dsimp only
  split <;> simp

theorem State.patchStep_threads (fuel : Nat) (s : State) : (State.patchStep fuel s).uc.threads = s.uc.threads := by
  induction fuel generalizing s with
  | zero => rfl
  | succ fuel ih =>
    unfold State.patchStep
    dsimp only
    split
    · split
      · rw [ih, State.endPatch]
        split <;> simp
      · rfl
    · split
      · rfl
      · rw [ih]
        split
        · rfl
        · simp

@[simp] theorem State.patchOn_threads (s : State) : (State.patchOn s).uc.threads = s.uc.threads := State.patchStep_threads _ s

/-! ## What ends and parks of packets leave of the threads -/

/-- Every thread that holds a packet in `s'` held one in `s`, with the same micro-registers. -/
def State.KeepsRegs (s s' : State) : Prop :=
  ∀ j, (s'.thread j).busy = true → (s.thread j).busy = true ∧ (s'.thread j).regs = (s.thread j).regs

theorem State.KeepsRegs.of_threads {s a b : State} (h : s.KeepsRegs a) (e : b.uc.threads = a.uc.threads) : s.KeepsRegs b := by
  simpa [State.KeepsRegs, State.thread, e] using h

/-- An update of one thread that leaves its micro-registers alone wherever it leaves the thread a packet. -/
theorem State.keepsRegs_updThread {s : State} (t : BitVec 4) (f : Thread → Thread) (hw : tblWf {} s.uc.threads = true)
    (hf : ∀ x, (f x).busy = true → x.busy = true ∧ (f x).regs = x.regs) : s.KeepsRegs (s.updThread t f) := by
  intro j
  by_cases hj : j = t
  · subst hj
    rw [State.updThread_same _ _ _ hw]
    exact hf _
  · rw [State.updThread_other _ _ hj]
    exact fun h => ⟨h, rfl⟩

theorem State.keepsRegs_freeThread {s : State} (t : BitVec 4) (hw : tblWf {} s.uc.threads = true) : s.KeepsRegs (s.freeThread t) :=
  (State.keepsRegs_updThread t (fun _ => {}) hw (fun _ h => nomatch h)).of_threads (State.patchOn_threads _)

theorem State.keepsRegs_park {s : State} (t : BitVec 4) (c : Trap) (hw : tblWf {} s.uc.threads = true) : s.KeepsRegs (s.park t c) := by
  refine (State.keepsRegs_updThread t
    (fun x => { x with trap := some c, count := if c.retries then x.count - 1 else x.count }) hw (fun _ h => ⟨h, rfl⟩)).of_threads ?_
  cases c <;> rfl

theorem State.keepsRegs_rejectNow {s : State} (t : BitVec 4) (status : BitVec 8) (hw : tblWf {} s.uc.threads = true) :
    s.KeepsRegs (s.rejectNow t status) := by
  refine (State.keepsRegs_freeThread t hw).of_threads ?_
  simp [State.rejectNow, State.freeThread]

/-- However a rejection goes, the thread parks with its micro-registers or is freed, and no other thread takes a packet. -/
theorem State.keepsRegs_reject {s : State} (t : BitVec 4) (status : BitVec 8) (hw : tblWf {} s.uc.threads = true) :
    s.KeepsRegs (s.reject t status) := by
  unfold State.reject
  dsimp only
  split
  · exact State.keepsRegs_park t .header hw
  · split
    · exact State.keepsRegs_park t .order hw
    · split
      · exact (State.keepsRegs_freeThread t hw).of_threads (by simp [State.discard, State.freeThread])
      · exact State.keepsRegs_rejectNow t _ hw

/-- The state in which thread `k` holds the packet handed to it, before a rejection of the header checks (R195). -/
def State.holding (s : State) (k : Nat) (th : Thread) : State :=
  { s with uc := { s.uc with threads := tset {} s.uc.threads k th, seq := s.uc.seq + 1 } }

/-- The thread that holds a packet only once it has been handed over is the one that took it. -/
theorem State.holding_thread_of_busy {s : State} {k : Nat} {th : Thread} {t : BitVec 4} (hw : tblWf {} s.uc.threads = true)
    (hfree : (s.thread t).busy = false) (hbusy : ((s.holding k th).thread t).busy = true) : (s.holding k th).thread t = th := by
  have hk : t.toNat = k := by
    by_contra hne
    have same : (s.holding k th).thread t = s.thread t := tget_tset_ne ({} : Thread) k _ th hne s.uc.threads
    rw [same, hfree] at hbusy
    exact nomatch hbusy
  subst hk
  exact tget_tset_same ({} : Thread) _ th _ 0 ((tblWf_iff _ _).mp hw).1

/-- A thread that takes a packet at the hand-over has the registers that the header checker loads (R198), whether the packet
passes the checks or waits for its rejection. -/
theorem State.handOver_regs {s : State} (q : BitVec 14) (p : Packet) (n : Nat) (t : BitVec 4) (hw : tblWf {} s.uc.threads = true)
    (hfree : (s.thread t).busy = false) :
    ((s.handOver q p n).thread t).busy = true → ((s.handOver q p n).thread t).regs = s.startRegs q p := by
  have taken (k : Nat) (hb : ((s.holding k (s.newThread q p n)).thread t).busy = true) :
      ((s.holding k (s.newThread q p n)).thread t).regs = s.startRegs q p := by
    rw [State.holding_thread_of_busy hw hfree hb]
    rfl
  unfold State.handOver
  split
  next => exact fun hb => by rw [hfree] at hb; exact nomatch hb
  next k _ =>
    dsimp only
    split
    next st _ =>
      intro hbusy
      obtain ⟨hb, hr⟩ := State.keepsRegs_reject (s := s.holding k (s.newThread q p n)) _ st (tset_wf ({} : Thread) _ _ _ hw) t hbusy
      exact hr.trans (taken k hb)
    next => exact taken k

/-! ## The micro-registers (R198) -/

theorem State.startRegs_toList (s : State) (q : BitVec 14) (p : Packet) :
    (s.startRegs q p).toList = List.replicate 24 0 ++
      [(s.queue q).ctx.setWidth 64, q.setWidth 64, (pktSerial p).setWidth 64,
       BitVec.ofNat 64 (b2n (s.queue q).kernel + 2 * b2n (s.queue q).retire + 4 * (s.queue q).cls.toNat),
       BitVec.ofNat 64 (pktLen p), BitVec.ofNat 64 (s.quotaOf (s.queue q).ctx), 0, 0] := rfl

/-- The default of QUOTA is taken for the value 0 (R104). -/
theorem State.quotaOf_eq (s : State) (c : BitVec 20) :
    s.quotaOf c = if (s.ctx c).quota = 0 then 16384 else min (s.ctx c).quota.toNat s.build.landingEntries := by
  simp only [State.quotaOf, BitVec.toNat_eq]
  rfl

/-- A register read after a register write (R198). -/
theorem State.uReg_uSet {s : State} (t : BitVec 4) (td : Nat) (v : W64) (i : Nat) (hI : s.Inv) :
    (s.uSet t td v).uReg t i = if i = td ∧ 0 < i ∧ i < 24 then v else s.uReg t i := by
  rw [State.uReg, State.uReg, State.uSet, State.updThread_same _ _ _ hI.threads]
  by_cases hw : 0 < td ∧ td < 24
  · by_cases hi : i = td
    · subst hi
      have : i < 32 := by omega
      simp [hw, this, Nat.ne_of_gt hw.1]
    · simp [hw, hi, Ne.symm hi]
  · have : ¬(i = td ∧ 0 < i ∧ i < 24) := by omega
    simp [hw, this]

theorem State.uReg_uNext {s : State} (t : BitVec 4) (i : Nat) (hI : s.Inv) : (s.uNext t).uReg t i = s.uReg t i := by
  simp [State.uReg, State.uNext, State.updThread_same _ _ _ hI.threads]

/-- What UOP_MOVI leaves in each micro-register of its thread (R198, R200). -/
theorem State.uReg_movi {s : State} (t : BitVec 4) (i : Nat) (hI : s.Inv) (h : s.runsWord t) (hu : uOp (s.microword t) = 0x0B) :
    (s.uImm1 t 0x0B (fun _ v => v)).uReg t i =
      if i = uTd (s.microword t) ∧ 0 < i ∧ i < 24 then BitVec.ofNat 64 (bits (s.microword t) 23 0) else s.uReg t i := by
  have hc := State.updThread_inv t (fun x => { x with count := x.count + 1 }) hI
  rw [State.uImm1, State.uop_eq_of_runsWord _ h hu, State.uReg_uNext t i (State.uSet_inv t _ _ hc), State.uReg_uSet _ _ _ _ hc,
    State.uReg_counted t i hI, uImm]

/-! ## UOP_BR and UOP_REJIF by what their condition says of TA (R199, R200) -/

section
variable {s : State} {t : BitVec 4} (hI : s.Inv) (h : s.runsWord t)
include hI h

theorem execUopBr_eq (hu : uOp (s.microword t) = 0x18) : execUopBr t s = .next
    (byCond (ucCond (bits (s.microword t) 23 20) (s.uReg t (uTa (s.microword t))))
      ((s.updThread t (fun x => { x with count := x.count + 1 })).ucFault t)
      (s.updThread t (fun x => { x with count := x.count + 1, upc := (s.microword t).extractLsb' 0 14 }))
      (s.updThread t (fun x => { x with count := x.count + 1, upc := x.upc + 1 }))) := by
  rw [execUopBr, State.uop_eq_of_runsWord _ h hu, State.uReg_counted _ _ hI, State.uNext_counted t hI,
    State.updThread_twice _ _ _ _ hI.threads]
  rfl

theorem execUopRejif_eq (hu : uOp (s.microword t) = 0x32) : execUopRejif t s = .next
    (byCond (ucCond (bits (s.microword t) 3 0) (s.uReg t (uTa (s.microword t))))
      ((s.updThread t (fun x => { x with count := x.count + 1 })).ucFault t)
      ((s.updThread t (fun x => { x with count := x.count + 1 })).reject t ((s.microword t).extractLsb' 16 8))
      (s.updThread t (fun x => { x with count := x.count + 1, upc := x.upc + 1 }))) := by
  rw [execUopRejif, State.uop_eq_of_runsWord _ h hu, State.uReg_counted _ _ hI, State.uNext_counted t hI, uArg16_mod_16, ofNat_uArg8]
  rfl

end

end Sys2Proof.Machine

section
open Sys2Proof Sys2Proof.Machine

/-- Settles O37: the start registers are listed once, a hand-over gives them to the thread that takes the packet, and a register
write reaches T1 to T23 only. -/
theorem microRegistersAreAsTheRuleSays : Obligations.MicroRegistersAreAsTheRuleSays := by
  unfold Obligations.MicroRegistersAreAsTheRuleSays
  intro s hI
  refine ⟨fun q p => ?_, fun t => rfl, fun t h hu => ⟨_, rfl, fun i _ => State.uReg_movi t i hI h hu⟩⟩
  dsimp only
  rw [State.startRegs_toList]
  refine ⟨fun i hi => ?_, rfl, rfl, rfl, rfl, rfl, ?_, rfl, rfl, fun n t => State.handOver_regs q p n t hI.threads⟩
  · rw [List.getElem?_append_left (by simpa using hi), List.getElem?_replicate_of_lt hi]
  · exact congrArg (fun n => some (BitVec.ofNat 64 n)) (s.quotaOf_eq _)

/-- Settles O39: each assigned COND says of TA what R199 says, and the two microwords act on it. -/
theorem conditionsOfBranchAndReject : Obligations.ConditionsOfBranchAndReject := by
  unfold Obligations.ConditionsOfBranchAndReject
  intro s t hI h
  exact ⟨fun hu => outcomes_of_byCond (execUopBr_eq hI h hu), fun hu => outcomes_of_byCond (execUopRejif_eq hI h hu)⟩
end

namespace Sys2Proof.Machine

/-! ## Writes of the slash ring's registers (R439, R441, R442) -/

/-- A write of XLT_FLT_RING is open: HELD is 0, and no record write is outstanding or awaits its retry (R439; DEDUCED, notes/assumptions/37 and 49). -/
def Xlt.ringFree (x : Xlt) : Prop := (∀ r ∈ x.held, r.unposted = false) ∧ x.posting = none

/-- The values that LOG2 of XLT_FLT_RING may take: no ring, or 2^7 to 2^16 records (R441). -/
def ringLog2Allowed (n : Nat) : Prop := n = 0 ∨ (7 ≤ n ∧ n ≤ 16)

/-- The model's test of a write of XLT_FLT_RING is the rule's. -/
theorem Xlt.ringWriteRefused_iff (x : Xlt) (n : Nat) :
    (x.held.any (fun r => r.unposted) || x.posting.isSome || !(n = 0 || (7 ≤ n && n ≤ 16))) = true ↔
      ¬(x.ringFree ∧ ringLog2Allowed n) := by
  rw [← Bool.not_eq_false, not_iff_not]
  simp [Xlt.ringFree, ringLog2Allowed, or_iff_not_imp_left]

theorem State.faultRingWrite_accepted {s : State} {v : W64} (hfree : s.xlt.ringFree) (hlog2 : ringLog2Allowed (bits v 4 0)) :
    s.faultRingWrite v = State.postNext { s with xlt := { s.xlt with
      ringPfn := v.extractLsb' 24 40, ringLog2 := v.extractLsb' 0 5, wp := 0, rp := 0 } } :=
  if_neg fun hrefused => (s.xlt.ringWriteRefused_iff _).mp hrefused ⟨hfree, hlog2⟩

theorem State.faultRingWrite_recorded {s : State} {v : W64} (h : ¬(s.xlt.ringFree ∧ ringLog2Allowed (bits v 4 0))) :
    s.faultRingWrite v = s.logHw 0x0009 0x00 none none v.toNat :=
  if_pos ((s.xlt.ringWriteRefused_iff _).mpr h)

theorem State.faultRpWrite_accepted {s : State} {v : W64}
    (h : (s.xlt.wp - v.extractLsb' 32 32).toNat ≤ 2 ^ s.xlt.ringLog2.toNat) :
    s.faultRpWrite v = State.postNext { s with xlt := { s.xlt with rp := v.extractLsb' 32 32 } } :=
  if_neg (Nat.not_lt.mpr h)

theorem State.faultRpWrite_recorded {s : State} {v : W64}
    (h : 2 ^ s.xlt.ringLog2.toNat < (s.xlt.wp - v.extractLsb' 32 32).toNat) :
    s.faultRpWrite v = s.logHw 0x0009 0x00 none none v.toNat :=
  if_pos h

/-- Served at once, a write of XLT_FLT_RING acts on the state taken and receives OKAY. -/
theorem exec_xltFltRingWrite_served {s : State} (h : s.takesWrite) (v : W64) :
    exec (.xltFltRingWrite v) s = .next ((s.taken.faultRingWrite v).respond .okay 0) :=
  congrArg Host.Outcome.next (State.host_wr h _ _ _ _)

/-- Served at once, a write of XLT_FLT_PTRS acts on the state taken and receives OKAY. -/
theorem exec_xltFltRpWrite_served {s : State} (h : s.takesWrite) (v : W64) :
    exec (.xltFltRpWrite v) s = .next ((s.taken.faultRpWrite v).respond .okay 0) :=
  congrArg Host.Outcome.next (State.host_wr h _ _ _ _)

end Sys2Proof.Machine

section
open Sys2Proof Sys2Proof.Machine

/-- Settles O12: serving an access leaves the slash ring alone, so each write is judged by the ring as it stood. -/
theorem slashRingRegistersTakeWritesInTheirRange : Obligations.SlashRingRegistersTakeWritesInTheirRange := by
  unfold Obligations.SlashRingRegistersTakeWritesInTheirRange
  intro s v hserved
  dsimp only
  rw [exec_xltFltRingWrite_served hserved, exec_xltFltRpWrite_served hserved, ← s.taken_xlt]
  refine ⟨fun hfree hlog2 => ?_, fun hheld => ?_, fun hlog2 => ?_, fun hroom => ?_, fun hover => ?_⟩
  · rw [State.faultRingWrite_accepted hfree hlog2]
  · rw [State.faultRingWrite_recorded fun h => hheld h.1]
  · rw [State.faultRingWrite_recorded fun h => hlog2 h.2]
  · rw [State.faultRpWrite_accepted hroom]
  · rw [State.faultRpWrite_recorded hover]
end

namespace Sys2Proof.Machine

/-! ## Every command, in every state (R562, R565, R71, R563) -/

/-- A command that answers a next state that meets the invariant answers no other. -/
theorem next_inv {o : Host.Outcome State Fault Refusal} {t : State} (h : ∃ out, o = .next out ∧ out.Inv) (e : o = .next t) : t.Inv := by
  obtain ⟨out, rfl, hout⟩ := h
  cases e
  exact hout

/-- Each command keeps the invariant: the law of its meaning, by the arms of the dispatch. -/
theorem exec_inv {s t : State} (hI : s.Inv) : ∀ c : Instr, exec c s = .next t → t.Inv
  | .inlineDoorbell q unit => next_inv (execInlineDoorbell_inv q unit hI)
  | .writePointerDoorbell q wp => next_inv (execWritePointerDoorbell_inv q wp hI)
  | .completionReadPointerDoorbell q rp => next_inv (execCompletionReadPointerDoorbell_inv q rp hI)
  | .sleepHostAccess a => next_inv (execSleepHostAccess_inv a hI)
  | .hostSignal n v => next_inv (execHostSignal_inv n v hI)
  | .irqClaim v => next_inv (execIrqClaim_inv v hI)
  | .irqComplete v value => next_inv (execIrqComplete_inv v value hI)
  | .irqSync => next_inv (execIrqSync_inv hI)
  | .irqPendingWrite k value events => next_inv (execIrqPendingWrite_inv k value events hI)
  | .irqEnableWrite k value => next_inv (execIrqEnableWrite_inv k value hI)
  | .xltFltRingWrite value => next_inv (execXltFltRingWrite_inv value hI)
  | .xltFltRpWrite value => next_inv (execXltFltRpWrite_inv value hI)
  | .fwcLogRingWrite value => next_inv (execFwcLogRingWrite_inv value hI)
  | .fwcLogRpWrite value => next_inv (execFwcLogRpWrite_inv value hI)
  | .lndProgBackingWrite value => next_inv (execLndProgBackingWrite_inv value hI)
  | .dckSwrCfgWrite r value => next_inv (execDckSwrCfgWrite_inv r value hI)
  | .deckRegionZeroed r => next_inv (execDeckRegionZeroed_inv r hI)
  | .start value => next_inv (execStart_inv value hI)
  | .fwcResetWhole => next_inv (execFwcResetWhole_inv hI)
  | .fwcResetFrontEnd => next_inv (execFwcResetFrontEnd_inv hI)
  | .registerWrite w => next_inv (execRegisterWrite_inv w hI)
  | .mailboxAccessTimeout page => next_inv (execMailboxAccessTimeout_inv page hI)
  | .hello page v => next_inv (execHello_inv page v hI)
  | .rtTableLoad page v image => next_inv (execRtTableLoad_inv page v image hI)
  | .tableActivation => next_inv (execTableActivation_inv hI)
  | .shareCfg page v => next_inv (execShareCfg_inv page v hI)
  | .sgCfg page v => next_inv (execSgCfg_inv page v hI)
  | .partAssign page v => next_inv (execPartAssign_inv page v hI)
  | .partitionJoin c => next_inv (execPartitionJoin_inv c hI)
  | .partRegulate page v => next_inv (execPartRegulate_inv page v hI)
  | .progQuery page v => next_inv (execProgQuery_inv page v hI)
  | .ucodePatch page v image => next_inv (execUcodePatch_inv page v image hI)
  | .ledgerRestore page v => next_inv (execLedgerRestore_inv page v hI)
  | .ledgerFlush page v => next_inv (execLedgerFlush_inv page v hI)
  | .wallclock page v => next_inv (execWallclock_inv page v hI)
  | .dumpArea page v => next_inv (execDumpArea_inv page v hI)
  | .powerPolicy page v => next_inv (execPowerPolicy_inv page v hI)
  | .fetchTurn => next_inv (execFetchTurn_inv hI)
  | .threadDispatch q => next_inv (execThreadDispatch_inv q hI)
  | .uopNop t => next_inv (execUopNop_inv t hI)
  | .uopAdd t => next_inv (execUopAdd_inv t hI)
  | .uopSub t => next_inv (execUopSub_inv t hI)
  | .uopAnd t => next_inv (execUopAnd_inv t hI)
  | .uopOr t => next_inv (execUopOr_inv t hI)
  | .uopXor t => next_inv (execUopXor_inv t hI)
  | .uopShl t => next_inv (execUopShl_inv t hI)
  | .uopShr t => next_inv (execUopShr_inv t hI)
  | .uopAddi t => next_inv (execUopAddi_inv t hI)
  | .uopAndi t => next_inv (execUopAndi_inv t hI)
  | .uopShli t => next_inv (execUopShli_inv t hI)
  | .uopMovi t => next_inv (execUopMovi_inv t hI)
  | .uopFld t => next_inv (execUopFld_inv t hI)
  | .uopBr t => next_inv (execUopBr_inv t hI)
  | .uopDrd t => next_inv (execUopDrd_inv t hI)
  | .uopObj t => next_inv (execUopObj_inv t hI)
  | .uopBlz t => next_inv (execUopBlz_inv t hI)
  | .uopSte t => next_inv (execUopSte_inv t hI)
  | .uopAdmit t => next_inv (execUopAdmit_inv t hI)
  | .uopRej t => next_inv (execUopRej_inv t hI)
  | .uopRejif t => next_inv (execUopRejif_inv t hI)
  | .deckWait t => next_inv (execDeckWait_inv t hI)
  | .xltMiss t => next_inv (execXltMiss_inv t hI)
  | .order t => next_inv (execOrder_inv t hI)
  | .header t => next_inv (execHeader_inv t hI)
  | .lock t => next_inv (execLock_inv t hI)
  | .runaway t uncorr => next_inv (execRunaway_inv t uncorr hI)
  | .rejectionPassage q => next_inv (execRejectionPassage_inv q hI)
  | .entryReady e => next_inv (execEntryReady_inv e hI)
  | .retirement e => next_inv (execRetirement_inv e hI)
  | .mirrorWrite n => next_inv (execMirrorWrite_inv n hI)
  | .nop st => next_inv (execNop_inv st hI)
  | .launch st => next_inv (execLaunch_inv st hI)
  | .haul st => next_inv (execHaul_inv st hI)
  | .signal st => next_inv (execSignal_inv st hI)
  | .wait st => next_inv (execWait_inv st hI)
  | .programLoad st => next_inv (execProgramLoad_inv st hI)
  | .graphLoad st => next_inv (execGraphLoad_inv st hI)
  | .graphLaunch st => next_inv (execGraphLaunch_inv st hI)
  | .graphNodeAdmission e => next_inv (execGraphNodeAdmission_inv e hI)
  | .graphPatch st => next_inv (execGraphPatch_inv st hI)
  | .graphRelease st => next_inv (execGraphRelease_inv st hI)
  | .contextCreate st => next_inv (execContextCreate_inv st hI)
  | .contextDestroy st => next_inv (execContextDestroy_inv st hI)
  | .queueBind st => next_inv (execQueueBind_inv st hI)
  | .queueUnbind st => next_inv (execQueueUnbind_inv st hI)
  | .objectFree st => next_inv (execObjectFree_inv st hI)
  | .tlbInvalidate st => next_inv (execTlbInvalidate_inv st hI)
  | .faultResume st => next_inv (execFaultResume_inv st hI)
  | .contextKill st => next_inv (execContextKill_inv st hI)
  | .blazeConfig st => next_inv (execBlazeConfig_inv st hI)
  | .selfTestCluster st => next_inv (execSelfTestCluster_inv st hI)
  | .selfTestFrontEnd st => next_inv (execSelfTestFrontEnd_inv st hI)
  | .selfTestDeck st => next_inv (execSelfTestDeck_inv st hI)
  | .microcodeDefinedOpcode t => next_inv (execMicrocodeDefinedOpcode_inv t hI)
  | .haulTake => next_inv (execHaulTake_inv hI)
  | .chunkStart engine slot => next_inv (execChunkStart_inv engine slot hI)
  | .lineLockAcquire engine slot => next_inv (execLineLockAcquire_inv engine slot hI)
  | .slashRingRetry => next_inv (execSlashRingRetry_inv hI)
  | .managerReadResponse ifc id resp poison data => next_inv (execManagerReadResponse_inv ifc id resp poison data hI)
  | .managerWriteResponse ifc id resp => next_inv (execManagerWriteResponse_inv ifc id resp hI)
  | .portTimeout => next_inv (execPortTimeout_inv hI)
  | .drainTimeout => next_inv (execDrainTimeout_inv hI)
  | .loaderRun e => next_inv (execLoaderRun_inv e hI)
  | .sharePlacement c => next_inv (execSharePlacement_inv c hI)
  | .bestEffortDispatch => next_inv (execBestEffortDispatch_inv hI)
  | .dequeTake c => next_inv (execDequeTake_inv c hI)
  | .steal c => next_inv (execSteal_inv c hI)
  | .residencyLoad ctx => next_inv (execResidencyLoad_inv ctx hI)
  | .reservationWindowOpen idx m => next_inv (execReservationWindowOpen_inv idx m hI)
  | .rtRelease idx => next_inv (execRtRelease_inv idx hI)
  | .windowClose idx => next_inv (execWindowClose_inv idx hI)
  | .majorFrame => next_inv (execMajorFrame_inv hI)
  | .accountingTick => next_inv (execAccountingTick_inv hI)
  | .queueTimerFire q => next_inv (execQueueTimerFire_inv q hI)
  | .waitGraphProbe => next_inv (execWaitGraphProbe_inv hI)
  | .launchStart c => next_inv (execLaunchStart_inv c hI)
  | .bundleIssue c stream cclk => next_inv (execBundleIssue_inv c stream cclk hI)
  | .launchComplete c => next_inv (execLaunchComplete_inv c hI)
  | .chainedLaunchStart c => next_inv (execChainedLaunchStart_inv c hI)
  | .preemptStop c => next_inv (execPreemptStop_inv c hI)
  | .switchOut c => next_inv (execSwitchOut_inv c hI)
  | .switchIn c => next_inv (execSwitchIn_inv c hI)
  | .doneToken c valid data epoch => next_inv (execDoneToken_inv c valid data epoch hI)
  | .creditReturn c pools => next_inv (execCreditReturn_inv c pools hI)
  | .flushed c msg => next_inv (execFlushed_inv c msg hI)
  | .yielded c msg => next_inv (execYielded_inv c msg hI)
  | .syncError c msg => next_inv (execSyncError_inv c msg hI)
  | .ctrlResponse c data err => next_inv (execCtrlResponse_inv c data err hI)
  | .saveBeat c data last => next_inv (execSaveBeat_inv c data last hI)
  | .restoreBeat c => next_inv (execRestoreBeat_inv c hI)
  | .engineReady c => next_inv (execEngineReady_inv c hI)
  | .engineReadyFall c => next_inv (execEngineReadyFall_inv c hI)
  | .readyTimeout c elapsed => next_inv (execReadyTimeout_inv c elapsed hI)
  | .ctrlTimeout c elapsed => next_inv (execCtrlTimeout_inv c elapsed hI)
  | .deckRowAccess bank reqs ecc => next_inv (execDeckRowAccess_inv bank reqs ecc hI)
  | .scrubRead ecc => next_inv (execScrubRead_inv ecc hI)
  | .lateWrite group gen src => next_inv (execLateWrite_inv group gen src hI)
  | .vectorMessage v => next_inv (execVectorMessage_inv v hI)
  | .irqMessageResend v => next_inv (execIrqMessageResend_inv v hI)
  | .firmwareClaim p => next_inv (execFirmwareClaim_inv p hI)
  | .firmwareComplete p source => next_inv (execFirmwareComplete_inv p source hI)
  | .bundleCheck bundle => next_inv (execBundleCheck_inv bundle hI)
  | .processorFailure p cause => next_inv (execProcessorFailure_inv p cause hI)
  | .fwWatchdogExpiry p elapsed => next_inv (execFwWatchdogExpiry_inv p elapsed hI)
  | .processorRestart p => next_inv (execProcessorRestart_inv p hI)
  | .restartTimeout p => next_inv (execRestartTimeout_inv p hI)
  | .idleEntry => next_inv (execIdleEntry_inv hI)
  | .idleExit => next_inv (execIdleExit_inv hI)
  | .autoPowerEntry => next_inv (execAutoPowerEntry_inv hI)
  | .powerPoll => next_inv (execPowerPoll_inv hI)
  | .pollTimeout => next_inv (execPollTimeout_inv hI)
  | .powerEntry => next_inv (execPowerEntry_inv hI)
  | .pwrAck ack deny => next_inv (execPwrAck_inv ack deny hI)
  | .pdPwrAck k good => next_inv (execPdPwrAck_inv k good hI)
  | .wakeN level => next_inv (execWakeN_inv level hI)
  | .wakeConsume => next_inv (execWakeConsume_inv hI)
  | .powerExit => next_inv (execPowerExit_inv hI)
  | .clusterWatchdogExpiry c elapsed => next_inv (execClusterWatchdogExpiry_inv c elapsed hI)
  | .suspectReplay c => next_inv (execSuspectReplay_inv c hI)
  | .frontEndReset => next_inv (execFrontEndReset_inv hI)
  | .wholeBlockReset => next_inv (execWholeBlockReset_inv hI)
  | .outOfService => next_inv (execOutOfService_inv hI)
  | .tokenReceive data => next_inv (execTokenReceive_inv data hI)
  | .tokenSend => next_inv (execTokenSend_inv hI)
  | .idcode => next_inv (execIdcode_inv hI)
  | .bypass ir => next_inv (execBypass_inv ir hI)
  | .mbistCtrl value => next_inv (execMbistCtrl_inv value hI)
  | .mbistStatus => next_inv (execMbistStatus_inv hI)
  | .mbistRunEnd result => next_inv (execMbistRunEnd_inv result hI)
  | .resetAssert dom => next_inv (execResetAssert_inv dom hI)
  | .resetRelease dom => next_inv (execResetRelease_inv dom hI)
  | .testModeChange level => execTestModeChange_inv level hI
  | .clockChange dom ev => execClockChange_inv dom ev hI
  | .regulatorBucketRefill p => next_inv (execRegulatorBucketRefill_inv p hI)
  | .messageAwaitTimeout v => next_inv (execMessageAwaitTimeout_inv v hI)
  | .syncRequestTaken c => next_inv (execSyncRequestTaken_inv c hI)
  | .mbxGoReservedCode page v => next_inv (execMbxGoReservedCode_inv page v hI)

/-- TEST_MODE_CHANGE answers a next state, or stops where R71 leaves the block's state undefined. -/
theorem execTestModeChange_outcome (level : Bool) (s : State) : (∃ t, execTestModeChange level s = .next t) ∨
    (execTestModeChange level s = .fault .stateUndefined ∧ level ≠ s.pins.testMode ∧ ¬(s.pins.aoRst = true ∧ s.allButAo = true)) := by
  unfold execTestModeChange
  split
  · exact .inl ⟨_, rfl⟩
  · split
    · exact .inl ⟨_, rfl⟩
    · exact .inr ⟨rfl, by simp_all⟩

/-- CLOCK_CHANGE answers a next state, or stops where R73 and R563 leave the block's state undefined. -/
theorem execClockChange_outcome (dom : Domain) (ev : ClockEvent) (s : State) : (∃ t, execClockChange dom ev s = .next t) ∨
    (execClockChange dom ev s = .fault .stateUndefined ∧ s.build.hasDomain dom = true ∧ s.clockAllowed dom ev = false) := by
  unfold execClockChange
  split
  · exact .inl ⟨_, rfl⟩
  · exact .inr ⟨rfl, by simp_all⟩

end Sys2Proof.Machine

section
open Sys2Proof Sys2Proof.Machine

/-- Settles O4: on an empty queue the tick keeps the invariant, and else the command at the front does. -/
theorem everyStepKeepsTheInvariant : Obligations.EveryStepKeepsTheInvariant := by
  unfold Obligations.EveryStepKeepsTheInvariant step
  intro s t hI h
  split at h
  · cases h
    exact State.tick_inv hI
  · exact exec_inv (Inv.frame hI) _ h

/-- Settles O5: every meaning but two is a next state on all of its paths. -/
theorem onlyTestModeAndClocksStop : Obligations.OnlyTestModeAndClocksStop := by
  unfold Obligations.OnlyTestModeAndClocksStop
  intro c s
  cases c with
  | testModeChange level =>
    exact (execTestModeChange_outcome level s).imp id fun ⟨stops, why⟩ => ⟨stops, .inl ⟨level, rfl, why⟩⟩
  | clockChange dom ev =>
    exact (execClockChange_outcome dom ev s).imp id fun ⟨stops, why⟩ => ⟨stops, .inr ⟨dom, ev, rfl, why⟩⟩
  | _ => exact .inl ⟨_, rfl⟩
end

namespace Sys2Proof.Machine

/-! ## Updates of one record by what they make of it -/

/-- An update of a queue goes by what it makes of that queue. -/
theorem State.updQueue_congr {s : State} {q : BitVec 14} {f g : Queue → Queue} (h : f (s.queue q) = g (s.queue q)) :
    s.updQueue q f = s.updQueue q g := by
  unfold State.updQueue tupd
  exact congrArg (fun x => { s with queues := tset {} s.queues q.toNat x }) h

/-! ## What admission and the fetcher read of a state taken (R152 to R154, R517) -/

@[simp] theorem State.taken_inFlight (s : State) (q : BitVec 14) : s.taken.inFlight q = s.inFlight q := by
  simp [State.inFlight, State.queueThreads]
@[simp] theorem State.taken_nextSerial (s : State) (q : BitVec 14) : s.taken.nextSerial q = s.nextSerial q := by
  simp [State.nextSerial]
@[simp] theorem State.taken_cplPeriod (s : State) : s.taken.cplPeriod = s.cplPeriod := s.leaveIdle_cplPeriod
@[simp] theorem State.taken_admits (s : State) : s.taken.admits = s.admits := s.leaveIdle_admits
@[simp] theorem State.taken_cplDue (s : State) (q : BitVec 14) : s.taken.cplDue q = s.cplDue q := by simp [State.cplDue]
@[simp] theorem State.taken_cplMayGo (s : State) (q : BitVec 14) : s.taken.cplMayGo q = s.cplMayGo q := by
  simp [State.cplMayGo, State.cplFree]
@[simp] theorem State.taken_check1 (s : State) (q : BitVec 14) (p : Packet) : s.taken.check1 q p = s.check1 q p := by
  simp [State.check1]
@[simp] theorem State.taken_threadFree (s : State) (q : BitVec 14) : s.taken.threadFree q = s.threadFree q := by
  simp [State.threadFree]
@[simp] theorem State.taken_tmoArmed (s : State) (q : BitVec 14) : s.taken.tmoArmed q = s.tmoArmed q := by
  simp [State.tmoArmed, State.queueEntries]

@[simp] theorem State.respond_queue (s : State) (r : Resp) (d : W512) (q : BitVec 14) : (s.respond r d).queue q = s.queue q := rfl

/-! ## Doorbells by their queue (R116, R138, R398) -/

theorem State.atOpenQueue_open {s : State} {q : BitVec 14} (off : Nat) (f : State → State) (h : s.queueOpen q) :
    s.atOpenQueue q off f = f s := by
  obtain ⟨hin, hopen, hslot⟩ := h
  simp [State.atOpenQueue, hin, hopen, hslot]

theorem State.atOpenQueue_other {s : State} {q : BitVec 14} (off : Nat) (f : State → State) (hin : s.fwc.state ≠ .outOfService)
    (h : ¬((s.queue q).state = .open_ ∧ q.toNat < s.build.queueSlots)) :
    s.atOpenQueue q off f = s.logHw 0x0003 0x00 none (some q) (doorbellOffset q off) := by
  simp [State.atOpenQueue, hin, h]

theorem State.taken_queueOpen {s : State} {q : BitVec 14} (h : s.queueOpen q) : s.taken.queueOpen q := by
  simpa [State.queueOpen] using h

/-- Served at once, an inline doorbell acts on the queue of the state taken and receives OKAY. -/
theorem exec_inlineDoorbell_served {s : State} (h : s.takesWrite) (q : BitVec 14) (u : W512) : exec (.inlineDoorbell q u) s =
    .next ((s.taken.atOpenQueue q 0 (fun s => s.inlinePacket q u)).respond .okay 0) :=
  congrArg Host.Outcome.next (State.host_wr h _ _ _ _)

theorem exec_writePointerDoorbell_served {s : State} (h : s.takesWrite) (q : BitVec 14) (wp : W32) :
    exec (.writePointerDoorbell q wp) s = .next ((s.taken.atOpenQueue q 0x40 (fun s => s.wpDoorbell q wp)).respond .okay 0) := by
  have hwp : (wp.setWidth 512).extractLsb' 0 32 = wp := by ext i hi; simp [hi]; omega
  refine congrArg Host.Outcome.next ((State.host_wr h _ _ _ _).trans ?_)
  simp only [State.doorbellWrite, hwp]
  rfl

theorem exec_completionReadPointerDoorbell_served {s : State} (h : s.takesWrite) (q : BitVec 14) (rp : W32) :
    exec (.completionReadPointerDoorbell q rp) s =
      .next ((s.taken.atOpenQueue q 0x80 (fun s => s.cplRpDoorbell q rp)).respond .okay 0) := by
  have hrp : (rp.setWidth 512).extractLsb' 0 32 = rp := by ext i hi; simp [hi]; omega
  refine congrArg Host.Outcome.next ((State.host_wr h _ _ _ _).trans ?_)
  simp only [State.doorbellWrite, hrp]
  rfl

/-! ## Inline packets (R140, R141, R152, R153) -/

/-- The inline cell holds the packet of a serial. -/
def Queue.cellHolds (x : Queue) (ser : W32) : Prop := ∃ c, x.cell = some c ∧ c.extractLsb' 32 32 = ser

section
variable {s : State} {q : BitVec 14} {u : W512}

theorem State.duplicate_counted {ser : W32} {op : BitVec 8} (hI : s.Inv) (hdue : s.cplDue q = false) :
    s.duplicate q ser op = s.updQueue q (fun x => { x with dupCnt := x.dupCnt + 1 }) := by
  have hkept : (s.updQueue q (fun x => { x with dupCnt := x.dupCnt + 1 })).cplDue q = s.cplDue q := by
    unfold State.cplDue
    rw [State.updQueue_same _ _ _ hI.queues]
    rfl
  simp only [State.duplicate, hkept, hdue]
  rfl

theorem State.inlinePacket_duplicate (hI : s.Inv) (hdue : s.cplDue q = false)
    (h : sdiff32 (u.extractLsb' 32 32) (s.nextSerial q) < 0 ∨ (s.queue q).cellHolds (u.extractLsb' 32 32)) :
    s.inlinePacket q u = s.updQueue q (fun x => { x with dupCnt := x.dupCnt + 1 }) := by
  rw [← State.duplicate_counted (ser := u.extractLsb' 32 32) (op := u.extractLsb' 0 8) hI hdue]
  refine if_pos ?_
  obtain hbehind | ⟨c, hc, hser⟩ := h
  · simp [hbehind]
  · simp [hc, hser]

theorem State.inlinePacket_fullCell
    (h : ¬(sdiff32 (u.extractLsb' 32 32) (s.nextSerial q) < 0 ∨ (s.queue q).cellHolds (u.extractLsb' 32 32)))
    (hfull : (s.queue q).cell ≠ none) :
    s.inlinePacket q u = s.updQueue q (fun x => { x with inlRefused := x.inlRefused + 1 }) := by
  obtain ⟨c, hc⟩ := Option.ne_none_iff_exists'.mp hfull
  simp only [Queue.cellHolds, hc, Option.some.injEq, exists_eq_left', not_or] at h
  obtain ⟨hahead, hser⟩ := h
  simp [State.inlinePacket, hc, hahead, hser]

theorem State.inlinePacket_ahead (hcell : (s.queue q).cell = none) (h : 0 < sdiff32 (u.extractLsb' 32 32) (s.nextSerial q)) :
    s.inlinePacket q u = s.fillCell q u := by
  have hbehind : ¬sdiff32 (u.extractLsb' 32 32) (s.nextSerial q) < 0 := by omega
  have hnext : ¬sdiff32 (u.extractLsb' 32 32) (s.nextSerial q) = 0 := by omega
  simp [State.inlinePacket, hcell, hbehind, hnext]

theorem State.inlinePacket_sentOn (hcell : (s.queue q).cell = none) (h : sdiff32 (u.extractLsb' 32 32) (s.nextSerial q) = 0)
    (hcheck : s.check1 q (unitPkt u) = true) (hthread : s.threadFree q = true) (hcpl : s.cplMayGo q = true)
    (hadmits : s.admits = true) (hloaded : s.uc.loaded = true) (hblocked : (s.queue q).fstate ≠ .blocked) :
    s.inlinePacket q u = s.updQueue q (fun x => { x with inl := x.inl ++ [u] }) := by
  simp [State.inlinePacket, hcell, h, hcheck, hthread, hcpl, hadmits, hloaded, hblocked]

/-- A packet enters the empty cell; the timer's instant is noted only where it was not armed before (R153, R159). -/
theorem State.fillCell_eq (hI : s.Inv) : ∃ fc, s.fillCell q u = s.updQueue q (fun x => { x with cell := some u, timerFc := fc }) ∧
    (s.tmoArmed q = true → fc = (s.queue q).timerFc) := by
  unfold State.fillCell State.startTimer
  split
  case isTrue hnew =>
    refine ⟨s.fc, State.updQueue_twice _ _ _ _ hI.queues, fun hwas => ?_⟩
    simp [hwas] at hnew
  case isFalse => exact ⟨(s.queue q).timerFc, State.updQueue_congr rfl, fun _ => rfl⟩

end

/-! ## Write-pointer and completion doorbells (R139, R148, R161) -/

/-- A queue after a write-pointer doorbell that is no overrun, `d` being how far the value is ahead of WP. -/
def Queue.rung (x : Queue) (wp : W32) (d : Int) : Queue :=
  let y : Queue := { x with dbSeen := true, fstate := if x.fstate = .parked then .woken else x.fstate }
  if d < 0 then { y with staleWp := x.staleWp + 1 } else if d = 0 then y else { y with wp }

theorem State.wpDoorbell_eq {s : State} {q : BitVec 14} {wp : W32} (hI : s.Inv) (hring : (s.queue q).ringLog2 ≠ 0)
    (h : sdiff32 wp (s.queue q).wp ≤ 0 ∨ (wp - (s.queue q).rp).toNat ≤ 2 ^ (s.queue q).ringLog2.toNat) :
    s.wpDoorbell q wp = s.updQueue q (fun x => x.rung wp (sdiff32 wp x.wp)) := by
  unfold State.wpDoorbell
  dsimp only
  rw [if_neg hring]
  by_cases hold : sdiff32 wp (s.queue q).wp < 0
  · rw [if_pos hold, State.updQueue_twice _ _ _ _ hI.queues]
    exact State.updQueue_congr (by simp [Queue.rung, hold])
  · rw [if_neg hold]
    by_cases hsame : sdiff32 wp (s.queue q).wp = 0
    · rw [if_pos hsame]
      exact State.updQueue_congr (by simp [Queue.rung, hsame])
    · have hroom : ¬2 ^ (s.queue q).ringLog2.toNat < (wp - (s.queue q).rp).toNat := by omega
      rw [if_neg hsame, if_neg hroom, State.updQueue_twice _ _ _ _ hI.queues]
      exact State.updQueue_congr (by simp [Queue.rung, hold, hsame])

theorem State.cplRpDoorbell_accepted {s : State} {q : BitVec 14} {rp : W32}
    (h : 0 ≤ sdiff32 (s.queue q).cplWp rp ∧ sdiff32 (s.queue q).cplWp rp ≤ 2 ^ (s.queue q).cplLog2.toNat) :
    s.cplRpDoorbell q rp = s.updQueue q (fun x => { x with cplRp := rp }) :=
  if_neg (by simpa using h)

theorem State.cplRpDoorbell_recorded {s : State} {q : BitVec 14} {rp : W32}
    (h : ¬(0 ≤ sdiff32 (s.queue q).cplWp rp ∧ sdiff32 (s.queue q).cplWp rp ≤ 2 ^ (s.queue q).cplLog2.toNat)) :
    s.cplRpDoorbell q rp = s.logHw 0x0004 0x00 (some (s.queue q).ctx) (some q) rp.toNat :=
  if_pos (by rw [not_and_or] at h; simpa using h)

theorem State.taken_inv {s : State} (hI : s.Inv) : s.taken.Inv := Inv.frame (State.leaveIdle_inv hI)

end Sys2Proof.Machine

section
open Sys2Proof Sys2Proof.Machine

/-- Settles O1: the queue's front is what the step takes. -/
theorem stepRunsTheFrontCommand : Obligations.StepRunsTheFrontCommand := by
  unfold Obligations.StepRunsTheFrontCommand
  exact fun _ _ => rfl

/-- Settles O2: the tick counts FE_CYCLES where fclk runs and notes the start of a quiet time, and is no step elsewhere. -/
theorem emptyQueueCountsOneCycle : Obligations.EmptyQueueCountsOneCycle := by
  unfold Obligations.EmptyQueueCountsOneCycle
  intro s hq
  have hcounts : s.counts = true ↔ (s.pwr.state = .run ∨ s.pwr.state = .idle) ∧ s.pins.fRst = false ∧ s.pins.aoRst = false := by
    simp [State.counts, and_assoc]
  refine ⟨s.tick, by simp [step, hq], ?_⟩
  rw [← hcounts]
  unfold State.tick
  split
  case isTrue h =>
    refine ⟨?_, fun _ => ?_, fun hn => absurd h hn⟩
    · dsimp only; split <;> rfl
    · dsimp only; split <;> rfl
  case isFalse h => exact ⟨rfl, fun hc => absurd hc h, fun _ => rfl⟩

/-- Settles O3: State.reset is plain data, whose tables but the processors' and the masks' are empty. -/
theorem resetMeetsTheInvariant : Obligations.ResetMeetsTheInvariant := by
  unfold Obligations.ResetMeetsTheInvariant
  exact ⟨test_wit_inv, rfl, rfl, rfl, fun _ => rfl, fun _ => rfl, fun _ => ⟨rfl, rfl⟩, fun _ => rfl, rfl, rfl, rfl, rfl⟩

/-- Settles O6: the packet's serial, the cell and what admission allows choose among the five ends of R140. -/
theorem inlineDoorbellGoesOnStaysOrIsRefused : Obligations.InlineDoorbellGoesOnStaysOrIsRefused := by
  unfold Obligations.InlineDoorbellGoesOnStaysOrIsRefused
  intro s q u
  dsimp only
  intro hI hserved hopen
  have hIt := State.taken_inv hI
  rw [exec_inlineDoorbell_served hserved, State.atOpenQueue_open _ _ (State.taken_queueOpen hopen), ← s.taken_nextSerial,
    ← s.taken_queue]
  refine ⟨fun hdup hdue => ?_, fun hdup hfull => ?_, fun hcell hahead => ?_, fun hcell hnext hcheck hthread hcpl hadm hload hblk => ?_⟩
  · rw [State.inlinePacket_duplicate hIt (by simpa using hdue) hdup]
  · rw [State.inlinePacket_fullCell hdup hfull]
  · obtain ⟨fc, hfill, harmed⟩ := State.fillCell_eq (q := q) (u := u) hIt
    rw [State.inlinePacket_ahead hcell hahead, hfill]
    exact ⟨fc, rfl, by simpa using harmed⟩
  · rw [State.inlinePacket_sentOn hcell hnext (by simpa using hcheck) (by simpa using hthread) (by simpa using hcpl)
      (by simpa using hadm) (by simpa using hload) hblk]

/-- Settles O7: the doorbell is one update of its queue. -/
theorem writePointerDoorbellAdvancesTheRing : Obligations.WritePointerDoorbellAdvancesTheRing := by
  unfold Obligations.WritePointerDoorbellAdvancesTheRing
  intro s q wp
  dsimp only
  intro hI hserved hopen hring hroom
  have hIt := State.taken_inv hI
  rw [exec_writePointerDoorbell_served hserved, State.atOpenQueue_open _ _ (State.taken_queueOpen hopen)]
  rw [← s.taken_queue] at hring hroom
  rw [State.wpDoorbell_eq hIt hring hroom]
  refine ⟨_, rfl, rfl, fun p hp => ?_, ?_⟩
  · rw [State.respond_queue, State.updQueue_other _ _ hp, s.taken_queue]
  · rw [State.respond_queue, State.updQueue_same _ _ _ hIt.queues, s.taken_queue]
    rfl

/-- Settles O8: the value is judged by the completion ring of the queue as it stood. -/
theorem completionDoorbellMovesCplRp : Obligations.CompletionDoorbellMovesCplRp := by
  unfold Obligations.CompletionDoorbellMovesCplRp
  intro s q rp
  dsimp only
  intro hserved hopen
  rw [exec_completionReadPointerDoorbell_served hserved, State.atOpenQueue_open _ _ (State.taken_queueOpen hopen), ← s.taken_queue]
  exact ⟨fun h => by rw [State.cplRpDoorbell_accepted h], fun h => by rw [State.cplRpDoorbell_recorded h]⟩

/-- Settles O9: the three doorbells share the test of their queue. -/
theorem doorbellAtAnotherQueueIsOnlyRecorded : Obligations.DoorbellAtAnotherQueueIsOnlyRecorded := by
  unfold Obligations.DoorbellAtAnotherQueueIsOnlyRecorded
  intro s q hserved hin hother
  have other (off : Nat) (f : State → State) :
      s.taken.atOpenQueue q off f = s.taken.logHw 0x0003 0x00 none (some q) (0x4000000 + 0x1000 * q.toNat + off) := by
    rw [State.atOpenQueue_other off f (by simpa using hin) (by simpa using hother), doorbellOffset, Nat.mul_comm q.toNat]
  refine ⟨fun u => ?_, fun wp => ?_, fun rp => ?_⟩
  · rw [exec_inlineDoorbell_served hserved, other]
  · rw [exec_writePointerDoorbell_served hserved, other]
  · rw [exec_completionReadPointerDoorbell_served hserved, other]
end

namespace Sys2Proof.Machine

/-! ## Register writes that the port serves at once (R28, R555, R556) -/

theorem exec_registerWrite_served {s : State} (h : s.takesWrite) (w : HostWrite) :
    exec (.registerWrite w) s = .next ((s.takenAs w.id).hostWrite w) :=
  congrArg Host.Outcome.next (State.host_write h w _)

theorem State.hostWrite_badForm (s : State) {w : HostWrite} (h : writeForm w = false) : s.hostWrite w = s.respond .slverr 0 := by
  simp [State.hostWrite, h]

/-- An 8-byte write of the global window writes its register and receives OKAY. -/
theorem State.hostWrite_register (s : State) {w : HostWrite} (hform : writeForm w = true) (hsize : w.size = .b8)
    (haddr : w.addr.toNat < 0x100000) :
    s.hostWrite w = (s.regWrite w.addr.toNat (w.data.extractLsb' 0 64)).respond .okay 0 := by
  simp [State.hostWrite, hform, haddr, State.globalWrite, hsize]

/-- Past the ledger's block no offset of the global window names a register (R554, R556). -/
theorem State.regWrite_unassigned (s : State) {off : Nat} (v : W64) (hc : s.build.legal) (h : 0xE0000 ≤ off) : s.regWrite off v = s := by
  have hcls : ¬off < 0xB0000 + 0x400 * s.build.clusters := by
    obtain ⟨h16 | h32 | h64, -⟩ := hc <;> omega
  have hregion : ¬off < 0x40300 := by omega
  have hirq : ¬off < 0x70000 := by omega
  unfold State.regWrite
  split
  any_goals omega
  simp [hcls, hregion, hirq]

/-- FWC_CTRL with START 1 in IDLE (R471): the security core runs, and VERIFYING begins. -/
theorem State.startFirmware_idle {s : State} {v : W64} (hidle : s.fwc.state = .idle) (hstart : bit v 0 = true) :
    s.startFirmware v = State.raise { s with fwc := { s.fwc with
      drvIf := v.extractLsb' 16 16, startBit := true, state := .verifying
      procs := tupd {} s.fwc.procs 0 (fun p => { p with state := .running }) } } 0x005 := by
  have hnew : ¬s.fwc.state = .verifying := by rw [hidle]; decide
  have hbit : (s.fwc.startBit || bit v 0) = true := by rw [hstart, Bool.or_true]
  refine (if_neg (not_not.mpr hidle)).trans ((if_pos hstart).trans ((if_neg hnew).trans ?_))
  rw [hbit]
  rfl

end Sys2Proof.Machine

section
open Sys2Proof Sys2Proof.Machine

/-- Settles O10: an access held is a wake event, unless the exit already runs. -/
theorem accessInSleepIsHeldAndWakes : Obligations.AccessInSleepIsHeldAndWakes := by
  unfold Obligations.AccessInSleepIsHeldAndWakes
  intro s a
  refine ⟨fun hholds => ⟨s.holdAccess a, by simp [exec, execSleepHostAccess, hholds], ?_⟩, fun hserves => ?_⟩
  · unfold State.holdAccess
    dsimp only
    split
    case isTrue hexit => exact ⟨rfl, fun hn => absurd hexit hn, rfl⟩
    case isFalse => exact ⟨rfl, fun _ => rfl, rfl⟩
  · simp [exec, execSleepHostAccess, hserves]

/-- Settles O13: each write acts on the state taken, whose firmware fields are those of the state. -/
theorem logRingRegistersTakeWritesInTheirRange : Obligations.LogRingRegistersTakeWritesInTheirRange := by
  unfold Obligations.LogRingRegistersTakeWritesInTheirRange
  intro s v hserved
  have hring : exec (.fwcLogRingWrite v) s = .next ((s.taken.logRingWrite v).respond .okay 0) :=
    congrArg Host.Outcome.next (State.host_wr hserved _ _ _ _)
  have hrp : exec (.fwcLogRpWrite v) s = .next ((s.taken.logRpWrite v).respond .okay 0) :=
    congrArg Host.Outcome.next (State.host_wr hserved _ _ _ _)
  dsimp only
  rw [hring, hrp, ← s.taken_fwc]
  refine ⟨rfl, fun hroom => ?_, fun hover => ?_⟩
  · rw [State.logRpWrite, if_neg (Nat.not_lt.mpr hroom)]
  · rw [State.logRpWrite, if_pos hover]

/-- Settles O15: the start and the requests for a reset act on the state taken. -/
theorem firmwareStartAndResetRequests : Obligations.FirmwareStartAndResetRequests := by
  unfold Obligations.FirmwareStartAndResetRequests
  intro s hserved
  have hstart (v : W64) : exec (.start v) s = .next ((s.taken.startFirmware v).respond .okay 0) :=
    congrArg Host.Outcome.next (State.host_wr hserved _ _ _ _)
  have hwhole : exec .fwcResetWhole s = .next (s.taken.askWhole.respond .okay 0) :=
    congrArg Host.Outcome.next (State.host_wr hserved _ _ _ _)
  have hfront : exec .fwcResetFrontEnd s = .next (s.taken.askFrontEnd.respond .okay 0) :=
    congrArg Host.Outcome.next (State.host_wr hserved _ _ _ _)
  dsimp only
  rw [hwhole, hfront, ← s.taken_fwc]
  refine ⟨fun v hidle hbit => ?_, fun v hbusy => ?_, rfl, fun hready => ?_, fun hother => ?_⟩
  · rw [hstart, State.startFirmware_idle hidle hbit]
  · rw [hstart, State.startFirmware, if_pos hbusy]
  · rw [State.askFrontEnd, if_pos hready]
  · rw [State.askFrontEnd, if_neg hother]

/-- Settles O16: the form is tested first, then the window, then the register. -/
theorem registerWritesChangeOnlyTheirFields : Obligations.RegisterWritesChangeOnlyTheirFields := by
  unfold Obligations.RegisterWritesChangeOnlyTheirFields
  intro s w hI hserved
  dsimp only
  rw [exec_registerWrite_served hserved]
  refine ⟨fun hform => by rw [State.hostWrite_badForm _ hform], fun hform hsize => ?_⟩
  have register (haddr : w.addr.toNat < 0x100000) := (s.takenAs w.id).hostWrite_register hform hsize haddr
  refine ⟨fun ha => ?_, fun ha => ?_, fun ha => ?_, fun ha => ?_, fun hlow hhigh => ?_⟩
  · rw [register (by rw [ha]; decide), ha]; rfl
  · rw [register (by rw [ha]; decide), ha, ← s.takenAs_mp w.id]; rfl
  · rw [register (by rw [ha]; decide), ha, ← s.takenAs_dck w.id]; rfl
  · rw [register (by rw [ha]; decide), ha, ← s.takenAs_fwc w.id]; rfl
  · rw [register hhigh, State.regWrite_unassigned _ _ (by rw [State.takenAs_build]; exact hI.build) hlow]

/-- Settles O17: nothing waits behind the only access. -/
theorem mailboxAccessTimesOut : Obligations.MailboxAccessTimesOut := by
  unfold Obligations.MailboxAccessTimesOut
  intro s page a fc hwait hmailbox hpage hlate
  have hfind : s.fwc.mbxWait.find? (fun x => isMailbox x.1 && accessPage x.1 = page.toNat && decide (x.2 + 16384 ≤ s.fc)) =
      some (a, fc) := by simp [hwait, hmailbox, hpage, hlate]
  have hlast : s.fwc.mbxWait.erase (a, fc) = [] := by simp [hwait]
  simp only [exec, execMailboxAccessTimeout, hfind, hlast]
  rfl
end

namespace Sys2Proof.Machine

/-! ## The lowest key of a table with a property (R498) -/

section
variable {α : Type} (d : α) (p : Nat × α → Bool) (hd : ∀ k, p (k, d) = false)
include hd

/-- The first listed record with a property that the default has not is that of the lowest key with the property. -/
theorem find_lowest {n : Nat} : ∀ (t : Tbl α) (b : Nat), risesFrom b t → lowest (fun k => p (k, tget d t k) = true) n →
    (t.find? p).map (·.1) = some n
  | [], _, _, ⟨h, _⟩ => by simp [tget, hd] at h
  | (j, w) :: r, b, ⟨_, hr⟩, ⟨h, hlow⟩ => by
    have hnj : ¬n < j := fun hlt => by
      dsimp only at h
      rw [tget_below d n j ((j, w) :: r) hlt ⟨le_refl j, hr⟩, hd] at h
      cases h
    by_cases hj : p (j, w) = true
    · have hle : ¬j < n := fun hlt => hlow j hlt (by simpa [tget] using hj)
      simp [hj, Nat.le_antisymm (Nat.not_lt.mp hle) (Nat.not_lt.mp hnj)]
    · have hne : j ≠ n := by
        rintro rfl
        exact hj (by simpa [tget] using h)
      have ih := find_lowest r (j + 1) hr (n := n) ⟨by simpa [tget, hne] using h, fun m hm hp => ?_⟩
      · simpa [hj] using ih
      · by_cases hmj : m = j
        · rw [hmj, tget_below d j (j + 1) r (by omega) hr, hd] at hp
          cases hp
        · exact hlow m hm (by simpa [tget, Ne.symm hmj] using hp)

/-- With no key that has the property no record is found. -/
theorem find_none_of_lowest : ∀ (t : Tbl α) (b : Nat), risesFrom b t → (∀ k, ¬p (k, tget d t k) = true) → t.find? p = none
  | [], _, _, _ => rfl
  | (j, w) :: r, b, ⟨_, hr⟩, h => by
    have hj : ¬p (j, w) = true := by simpa [tget] using h j
    have ih := find_none_of_lowest r (j + 1) hr fun k hp => ?_
    · simpa [hj] using ih
    · by_cases hk : k = j
      · rw [hk, tget_below d j (j + 1) r (by omega) hr, hd] at hp
        cases hp
      · exact h k (by simpa [tget, Ne.symm hk] using hp)

end

/-! ## Eligibility (R498, R501, R504) -/

/-- With no enable changing the enable bit of a source is what it reads. -/
theorem State.hostEnabled_settled {s : State} (h : s.irq.grace = []) (n : Nat) : s.hostEnabled n = s.irq.enable.getLsbD n := by
  simp [State.hostEnabled, State.inGrace, h]

/-- The test of a route by a claim of a host vector. -/
def State.hostTest (s : State) (v : BitVec 3) (p : Nat × Route) : Bool :=
  decide (p.1 < 0x3FF) && p.2.host.getLsbD v.toNat && s.irq.live p.1 && s.hostEnabled p.1

/-- The test of a route by a claim of a firmware processor. -/
def State.procTest (s : State) (p : Nat) (r : Nat × Route) : Bool :=
  decide (r.1 < 0x3FF) && r.2.names p && s.irq.live r.1 && (s.proc p).enable.getLsbD r.1

theorem State.hostTest_iff {s : State} (h : s.irq.grace = []) (v : BitVec 3) (n : Nat) :
    s.hostTest v (n, tget {} s.irq.routes n) = true ↔ s.eligibleFor v n := by
  simp only [State.hostTest, State.eligibleFor, s.hostEnabled_settled h, Irq.live, Bool.and_eq_true, decide_eq_true_eq,
    Bool.not_eq_true']
  tauto

theorem State.procTest_iff {s : State} (p n : Nat) : s.procTest p (n, tget {} s.irq.routes n) = true ↔ s.eligibleForProc p n := by
  simp only [State.procTest, State.eligibleForProc, Irq.live, Bool.and_eq_true, decide_eq_true_eq, Bool.not_eq_true']
  tauto

theorem State.hostTest_default (s : State) (v : BitVec 3) (n : Nat) : s.hostTest v (n, {}) = false := by simp [State.hostTest]

theorem State.procTest_default (s : State) (p n : Nat) : s.procTest p (n, {}) = false := by simp [State.procTest, Route.names]

theorem State.hostEligible_eq (s : State) (v : BitVec 3) : s.hostEligible v = (s.irq.routes.find? (s.hostTest v)).map (·.1) := rfl

theorem State.fwEligible_eq (s : State) (p : Nat) : s.fwEligible p = (s.irq.routes.find? (s.procTest p)).map (·.1) := rfl

theorem routes_rise {s : State} (hI : s.Inv) : risesFrom 0 s.irq.routes := ((tblWf_iff _ _).mp hI.routes).1

theorem State.hostEligible_lowest {s : State} (hI : s.Inv) (hg : s.irq.grace = []) {v : BitVec 3} {n : Nat}
    (h : lowest (s.eligibleFor v) n) : s.hostEligible v = some n := by
  rw [State.hostEligible_eq]
  refine find_lowest {} _ (s.hostTest_default v) _ 0 (routes_rise hI) ?_
  simpa only [lowest, s.hostTest_iff hg] using h

theorem State.hostEligible_none {s : State} (hI : s.Inv) (hg : s.irq.grace = []) {v : BitVec 3} (h : ∀ n, ¬s.eligibleFor v n) :
    s.hostEligible v = none := by
  rw [State.hostEligible_eq, find_none_of_lowest {} _ (s.hostTest_default v) _ 0 (routes_rise hI)]
  · rfl
  · simpa only [s.hostTest_iff hg] using h

theorem State.fwEligible_lowest {s : State} (hI : s.Inv) {p n : Nat} (h : lowest (s.eligibleForProc p) n) :
    s.fwEligible p = some n := by
  rw [State.fwEligible_eq]
  refine find_lowest {} _ (s.procTest_default p) _ 0 (routes_rise hI) ?_
  simpa only [lowest, s.procTest_iff] using h

theorem State.fwEligible_none {s : State} (hI : s.Inv) {p : Nat} (h : ∀ n, ¬s.eligibleForProc p n) : s.fwEligible p = none := by
  rw [State.fwEligible_eq, find_none_of_lowest {} _ (s.procTest_default p) _ 0 (routes_rise hI)]
  · rfl
  · simpa only [s.procTest_iff] using h

/-! ## Claims (R499, R502) -/

/-- A source taken is no longer pending, and in service. -/
theorem State.takeSource_bits (s : State) {n : Nat} (hn : n < 0x3FF) :
    (∀ m, (s.takeSource n).irq.pending.getLsbD m = (s.irq.pending.getLsbD m && decide (m ≠ n))) ∧
    (∀ m, (s.takeSource n).irq.inService.getLsbD m = (s.irq.inService.getLsbD m || decide (m = n))) := by
  have hbit (m : Nat) : (BitVec.twoPow 1024 n).getLsbD m = decide (m = n) := by
    rw [BitVec.getLsbD_twoPow]
    by_cases h : m = n
    · simp [h]; omega
    · simp [h, Ne.symm h]
  refine ⟨fun m => ?_, fun m => ?_⟩
  · rw [State.takeSource, BitVec.getLsbD_and, BitVec.getLsbD_not, hbit]
    by_cases hm : m < 1024
    · simp [hm]
    · simp [BitVec.getLsbD_of_ge _ _ (Nat.not_lt.mp hm)]
  · rw [State.takeSource, BitVec.getLsbD_or, hbit]

theorem State.updVec_congr {s : State} {v : BitVec 3} {f g : Vec → Vec} (h : f (s.vec v) = g (s.vec v)) : s.updVec v f = s.updVec v g := by
  unfold State.updVec
  exact congrArg (fun x => { s with irq := { s.irq with vecs := s.irq.vecs.set v.toFin x } }) h

/-- Two updates of a host vector are one. -/
theorem State.updVec_twice (s : State) (v : BitVec 3) (f g : Vec → Vec) : (s.updVec v f).updVec v g = s.updVec v (fun x => g (f x)) := by
  have hread : (s.irq.vecs.set v.toFin (f (s.irq.vecs.get v.toFin))).get v.toFin = f (s.irq.vecs.get v.toFin) :=
    Vector.getElem_set_self _
  simp only [State.updVec, hread, Vector.set_set]

section
variable {s : State} {v : BitVec 3}

theorem State.spendGrace_settled (h : s.irq.grace = []) : s.spendGrace = s := by simp [State.spendGrace, h]

theorem State.claim_serving (h : (s.vec v).state = .serving) : s.claim v = (s, 0x3FF) := if_pos h

theorem State.claim_none (h : (s.vec v).state ≠ .serving) (hg : s.irq.grace = []) (hn : s.hostEligible v = none) :
    s.claim v = (if (s.vec v).state = .sent then s.updVec v (fun x => { x with state := .idle }) else s, 0x3FF) := by
  simp only [State.claim, h, hn, State.spendGrace_settled hg]
  rfl

theorem State.claim_some {n : Nat} (h : (s.vec v).state ≠ .serving) (hg : s.irq.grace = []) (hn : s.hostEligible v = some n)
    (hen : s.irq.enable.getLsbD n = true) :
    s.claim v = ((s.takeSource n).updVec v (fun x => { x with state := .serving, held := some (BitVec.ofNat 10 n) }), n) := by
  have hdel : (s.takeSource n).delivered n = s.takeSource n := if_pos hen
  simp only [State.claim, h, hn, State.spendGrace_settled hg, hdel]
  rfl

end

/-- Serving an access leaves eligibility alone. -/
theorem State.taken_eligibleFor (s : State) (v : BitVec 3) : s.taken.eligibleFor v = s.eligibleFor v := by
  funext n
  simp [State.eligibleFor]

theorem exec_irqClaim_served {s : State} (h : s.takesRead) (v : BitVec 3) : exec (.irqClaim v) s = .next (s.taken.claimRead v) :=
  congrArg Host.Outcome.next (State.host_rd h _ _)

/-! ## Words of the pending and enable bits (R503, R504, R508) -/

/-- A field written into a word: its own bits, and every other bit as before. -/
theorem getLsbD_putBits {w : Nat} (x : BitVec w) {hi lo : Nat} (v : Nat) {i : Nat} (hi' : i < w) :
    (putBits x hi lo v).getLsbD i = if lo ≤ i ∧ i < hi + 1 then v.testBit (i - lo) else x.getLsbD i := by
  simp only [putBits, BitVec.getLsbD_ofNat, hi', decide_true, Bool.true_and, Nat.testBit_or, Nat.testBit_xor, Nat.testBit_shiftLeft,
    Nat.testBit_two_pow_sub_one, Nat.testBit_mod_two_pow, BitVec.testBit_toNat]
  by_cases hlo : lo ≤ i
  · by_cases hhi : i < hi + 1
    · have : i - lo < hi + 1 - lo := by omega
      simp [hlo, hhi, this]
    · have : ¬i - lo < hi + 1 - lo := by omega
      simp [hlo, hhi, this]
  · simp [hlo]

/-- Word `k` of a register replaced, source 0x3FF apart. -/
theorem getLsbD_newWord (x : BitVec 1024) (k : BitVec 4) (v : W64) {m : Nat} (hm : m < 1024) (h0 : x.getLsbD 0x3FF = false) :
    (noSpurious (putWord x k.toNat v)).getLsbD m = if m / 64 = k.toNat ∧ m ≠ 0x3FF then v.getLsbD (m % 64) else x.getLsbD m := by
  have hmask : (~~~(BitVec.twoPow 1024 0x3FF)).getLsbD m = decide (m ≠ 0x3FF) := by
    rw [BitVec.getLsbD_not, BitVec.getLsbD_twoPow]
    by_cases h : m = 0x3FF
    · simp [h]
    · simp [h, Ne.symm h, hm]
  rw [noSpurious, BitVec.getLsbD_and, hmask, putWord, getLsbD_putBits _ _ hm, BitVec.testBit_toNat]
  by_cases h3 : m = 0x3FF
  · subst h3
    rw [BitVec.getLsbD_eq_getElem (by decide)] at h0
    simp [h0]
  · by_cases hw : m / 64 = k.toNat
    · have hin : 64 * k.toNat ≤ m ∧ m < 64 * k.toNat + 63 + 1 := by omega
      have hsub : m - 64 * k.toNat = m % 64 := by omega
      rw [if_pos hin, if_pos ⟨hw, h3⟩, hsub]
      simp [h3]
    · have hout : ¬(64 * k.toNat ≤ m ∧ m < 64 * k.toNat + 63 + 1) := by omega
      rw [if_neg hout, if_neg fun h => hw h.1]
      simp [h3]

/-- Raising sources one after another. -/
theorem State.raises_bits (l : List Nat) : ∀ (s : State), (∀ i ∈ l, i < 0x3FF) → ∀ m,
    (s.each l (fun s i => s.raise i)).irq.pending.getLsbD m = (s.irq.pending.getLsbD m || decide (m ∈ l)) := by
  induction l with
  | nil => simp [State.each]
  | cons i l ih =>
    intro s hl m
    have hi := hl i (List.mem_cons_self ..)
    refine (ih (s.raise i) (fun j hj => hl j (List.mem_cons_of_mem _ hj)) m).trans ?_
    rw [s.raise_sets i m hi]
    simp [Bool.or_assoc]

/-- Sources raised change only the pending bits and the wake latch. -/
theorem State.raises_frame (l : List Nat) : ∀ (s : State), s.each l (fun s i => s.raise i) =
    { s with irq := { s.irq with pending := (s.each l (fun s i => s.raise i)).irq.pending }, pwr := (s.each l (fun s i => s.raise i)).pwr } := by
  induction l with
  | nil => exact fun _ => rfl
  | cons i l ih =>
    intro s
    have e : s.each (i :: l) (fun s i => s.raise i) = (s.raise i).each l (fun s i => s.raise i) := rfl
    rw [e, ih (s.raise i), s.raise_frame i]

/-- The sources of word `k` that have an event in the cycle of a write of it. -/
def wordEvents (clusters : Nat) (k : BitVec 4) (events : W64) : List Nat :=
  ((List.range 64).filter (fun i => events.getLsbD i && raisable clusters (64 * k.toNat + i))).map (fun i => 64 * k.toNat + i)

theorem mem_wordEvents {clusters : Nat} {k : BitVec 4} {events : W64} {m : Nat} :
    m ∈ wordEvents clusters k events ↔ m / 64 = k.toNat ∧ events.getLsbD (m % 64) = true ∧ raisable clusters m = true := by
  simp only [wordEvents, List.mem_map, List.mem_filter, List.mem_range, Bool.and_eq_true]
  constructor
  · rintro ⟨i, ⟨hi, hev, hr⟩, rfl⟩
    have hdiv : (64 * k.toNat + i) / 64 = k.toNat := by omega
    have hmod : (64 * k.toNat + i) % 64 = i := by omega
    rw [hdiv, hmod]
    exact ⟨rfl, hev, hr⟩
  · rintro ⟨hk, hev, hr⟩
    have hm : 64 * k.toNat + m % 64 = m := by omega
    exact ⟨m % 64, ⟨by omega, hev, by rwa [hm]⟩, hm⟩

theorem raisable_lt {clusters n : Nat} (hc : clusters ≤ 64) (h : raisable clusters n = true) : n < 0x3FF := by
  simp only [raisable, Bool.or_eq_true, Bool.and_eq_true, decide_eq_true_eq] at h
  omega

theorem State.pendingWrite_eq (s : State) (k : BitVec 4) (value events : W64) : s.pendingWrite k value events =
    State.each { s.irqWritten with irq := { s.irqWritten.irq with pending := noSpurious (putWord s.irq.pending k.toNat value) } }
      (wordEvents s.build.clusters k events) (fun s i => s.raise i) := by
  unfold State.pendingWrite State.each wordEvents
  rw [List.foldl_map]
  rfl

/-! ## Messages (R52, R54, R502) -/

/-- The message of host vector `v` with number `n` (R52). -/
def State.messageOf (s : State) (v : BitVec 3) (n : Nat) : Txn :=
  { write := true, ifc := 0, epoch := s.mp.epoch, source := srcIrq, slot := 0, pa := 4 * (s.vec v).addr.toNat, len := 4, prot := 3,
    cache := 0, qos := 0xF, retries := 0, data := toBytes 4 n, purpose := .irqMessage v.toNat, fc := s.fc }

/-- The vector whose message with number `n` has gone out at `fc`. -/
def Vec.sentAt (x : Vec) (n : BitVec 10) (fc : Nat) : Vec := { x with msgOut := true, msgSource := n, msgFc := fc, failedFc := none }

theorem State.sendMessage_eq (s : State) (v : BitVec 3) (n : BitVec 10) :
    s.sendMessage v n = State.issueTxn (s.updVec v (fun x => x.sentAt n s.fc)) (s.messageOf v n.toNat) := by
  unfold State.sendMessage State.messageOf
  rfl

end Sys2Proof.Machine

section
open Sys2Proof Sys2Proof.Machine

/-- Settles O18: the routes are listed by rising number, so the first that passes the claim's test is the lowest. -/
theorem hostClaimTakesTheLowestEligibleSource : Obligations.HostClaimTakesTheLowestEligibleSource := by
  unfold Obligations.HostClaimTakesTheLowestEligibleSource
  intro s v hI hserved
  dsimp only
  have hIt := State.taken_inv hI
  rw [exec_irqClaim_served hserved, State.claimRead, ← s.taken_vec v, ← s.taken_irq, ← s.taken_eligibleFor v]
  refine ⟨fun hserving => by rw [State.claim_serving hserving],
    fun hfree hg => ⟨fun n hn => ?_, fun hnone hsent => ?_, fun hnone hidle => ?_⟩⟩
  · obtain ⟨hlt, -, hen, -⟩ := hn.1
    rw [State.claim_some hfree hg (State.hostEligible_lowest hIt hg hn) hen]
    obtain ⟨hpending, hservice⟩ := s.taken.takeSource_bits hlt
    exact ⟨_, rfl, hpending, hservice, rfl⟩
  · rw [State.claim_none hfree hg (State.hostEligible_none hIt hg hnone), if_pos hsent]
  · rw [State.claim_none hfree hg (State.hostEligible_none hIt hg hnone), if_neg (by rw [hidle]; decide)]

/-- Settles O19: a target completes the source it holds, and nothing else. -/
theorem completionEndsServiceOfTheHeldSource : Obligations.CompletionEndsServiceOfTheHeldSource := by
  unfold Obligations.CompletionEndsServiceOfTheHeldSource
  intro s
  refine ⟨fun v value hserved => ?_, fun p n hrun => ?_⟩
  · have hwrite : exec (.irqComplete v value) s = .next ((s.taken.completeWrite v value).respond .okay 0) :=
      congrArg Host.Outcome.next (State.host_wr hserved _ _ _ _)
    dsimp only
    rw [hwrite, ← s.taken_vec v, ← s.taken_irq]
    have test : (decide ((s.taken.irqWritten.vec v).state = .serving) &&
        decide ((s.taken.irqWritten.vec v).held = some (value.extractLsb' 0 10))) = true ↔
        (s.taken.vec v).state = .serving ∧ (s.taken.vec v).held = some (value.extractLsb' 0 10) := by
      rw [Bool.and_eq_true, decide_eq_true_eq, decide_eq_true_eq]
      rfl
    refine ⟨fun hheld => ?_, fun hother => ?_⟩
    · exact congrArg (fun t : State => Host.Outcome.next (t.respond .okay 0)) (if_pos (test.mpr hheld))
    · exact congrArg (fun t : State => Host.Outcome.next (t.respond .okay 0)) (if_neg fun h => hother (test.mp h))
  · refine ⟨fun hheld => ?_, fun hother => ?_⟩
    · exact congrArg Host.Outcome.next ((if_neg (by simp [hrun])).trans (if_pos hheld))
    · exact congrArg Host.Outcome.next ((if_neg (by simp [hrun])).trans (if_neg hother))

/-- Settles O20: a word is replaced bit by bit, and the events of the cycle are raised after it. -/
theorem pendingAndEnableWordsAreReplacedWhole : Obligations.PendingAndEnableWordsAreReplacedWhole := by
  unfold Obligations.PendingAndEnableWordsAreReplacedWhole
  intro s k value events hI hserved
  obtain ⟨hpending, henable, -⟩ := hI.irq
  have hclusters : s.build.clusters ≤ 64 := by
    obtain ⟨h16 | h32 | h64, -⟩ := hI.build <;> omega
  have hraised (i : Nat) (hi : i ∈ wordEvents s.build.clusters k events) : i < 0x3FF :=
    raisable_lt hclusters (mem_wordEvents.mp hi).2.2
  refine ⟨⟨_, congrArg Host.Outcome.next (State.host_wr hserved _ _ _ _), fun m hm => ?_, ?_⟩,
    ⟨_, congrArg Host.Outcome.next (State.host_wr hserved _ _ _ _), fun m hm => ?_, ?_⟩⟩
  · rw [State.respond_irq, State.pendingWrite_eq, State.taken_build, State.raises_bits _ _ hraised, s.taken_irq]
    refine (congrArg (· || _) (getLsbD_newWord s.irq.pending k value hm hpending)).trans ?_
    by_cases hin : m / 64 = k.toNat ∧ m ≠ 0x3FF
    · rw [if_pos hin, if_pos hin]
      simp only [mem_wordEvents, hin.1, true_and, ← Bool.and_eq_true, Bool.decide_eq_true]
    · have hno : m ∉ wordEvents s.build.clusters k events := fun h => hin ⟨(mem_wordEvents.mp h).1, Nat.ne_of_lt (hraised m h)⟩
      simp only [if_neg hin, hno, decide_false, Bool.or_false]
  · rw [State.pendingWrite_eq, State.raises_frame]
    simp only [State.irqWritten, State.taken_irq, State.taken_fc]
    rfl
  · rw [State.respond_irq]
    simp only [State.enableWrite, State.taken_irq]
    exact getLsbD_newWord s.irq.enable k value hm henable
  · simp only [State.enableWrite, State.irqWritten, State.taken_irq, State.taken_fc]
    rfl

/-- Settles O21: the response of IRQ_SYNC waits for the later of the two instants. -/
theorem syncReadWaitsForTheIrqWrites : Obligations.SyncReadWaitsForTheIrqWrites := by
  unfold Obligations.SyncReadWaitsForTheIrqWrites
  intro s hserved
  refine ⟨_, congrArg Host.Outcome.next (State.host_rd hserved _ _), rfl, rfl, le_max_left .., fun f hf => ?_, rfl⟩
  have hlast : s.taken.irq.writeFc = some f := by rw [s.taken_irq, hf]
  simp only [State.syncRead, hlast]
  exact le_max_right ..

/-- Settles O22: a message that goes out is one write, whose vector notes it. -/
theorem hostVectorsSendOneMessage : Obligations.HostVectorsSendOneMessage := by
  unfold Obligations.HostVectorsSendOneMessage
  intro s v hI hsends
  obtain ⟨hfe, hwhole, hfrst, haorst, hpower⟩ := hsends
  refine ⟨fun hen hidle hout hg n hn => ?_, fun f hf hlate => ?_⟩
  · obtain ⟨hlt, -, henable, -⟩ := hn.1
    have hnum : (BitVec.ofNat 10 n).toNat = n := by simp; omega
    have hdel : s.delivered n = s := if_pos henable
    have hrun : exec (.vectorMessage v) s = .next (State.sendMessage (s.updVec v (fun x => { x with state := .sent })) v (BitVec.ofNat 10 n)) := by
      simp only [exec, execVectorMessage, State.hostEligible_lowest hI hg hn, State.spendGrace_settled hg, hdel]
      refine congrArg Host.Outcome.next (if_neg ?_)
      simp [hen, hidle, hout, hfe, hwhole, hfrst, haorst]
      tauto
    rw [hrun, State.sendMessage_eq, State.updVec_twice, State.messageOf, State.updVec_same, hnum]
    rfl
  · have hrun : exec (.irqMessageResend v) s = .next (s.sendMessage v (s.vec v).msgSource) := by
      simp only [exec, execIrqMessageResend, hf]
      exact congrArg Host.Outcome.next (if_pos (by simp [hlate, hfe, hwhole]))
    rw [hrun, State.sendMessage_eq, State.messageOf]
    refine congrArg (fun u : State => Host.Outcome.next (u.issueTxn _)) (State.updVec_congr ?_)
    simp [Vec.sentAt]

/-- Settles O23: a processor's claim takes a source as a host vector's does. -/
theorem firmwareClaimTakesTheLowestEligibleSource : Obligations.FirmwareClaimTakesTheLowestEligibleSource := by
  unfold Obligations.FirmwareClaimTakesTheLowestEligibleSource
  intro s p hI hrun hheld
  have hclaims : ¬(s.proc p.toNat).state ≠ .running := by simp [hrun]
  refine ⟨fun n hn => ?_, fun hnone => ?_⟩
  · obtain ⟨hpending, hservice⟩ := s.takeSource_bits hn.1.1
    refine ⟨(s.takeSource n).updProc p.toNat (fun x => { x with held := some (BitVec.ofNat 10 n) }), ?_, hpending, hservice, rfl⟩
    simp only [exec, execFirmwareClaim, hrun, hheld, State.fwEligible_lowest hI hn]
    rfl
  · simp [exec, execFirmwareClaim, State.fwEligible_none hI hnone]
end

namespace Sys2Proof.Machine

/-! ## What a record of the firmware log leaves alone (R486, R488, R489) -/

/-- A burst of no partition draws on no bucket: issuing it changes the manager ports only. -/
theorem State.issueTxn_unregulated (s : State) {t : Txn} (h : t.part = none) : s.issueTxn t = { s with mp := (s.issueTxn t).mp } := by
  have hdraw (u : State) : u.drawBucket t = u := by simp [State.drawBucket, h]
  unfold State.issueTxn
  split
  · rw [State.sendTxn, hdraw]
  · rfl

theorem State.mpRead_unregulated (s : State) (source : BitVec 6) (pa len : Nat) (prot : BitVec 3) (cache qos : BitVec 4) (p : Purpose) :
    s.mpRead none source pa len prot cache qos p = { s with mp := (s.mpRead none source pa len prot cache qos p).mp } :=
  s.issueTxn_unregulated rfl

theorem State.ringWrite_unregulated (s : State) (source : BitVec 6) (pa : Nat) (data : List Byte) (p : Purpose) :
    s.ringWrite none source pa data p = { s with mp := (s.ringWrite none source pa data p).mp } := s.issueTxn_unregulated rfl

/-- A record below level ERROR moves the log's pointer or a count of lost records, and may issue its write. -/
theorem State.fwRecord_frame (s : State) (proc event : Nat) {level : Nat} (h : level ≠ 0) (args : List Nat) :
    s.fwRecord proc level event args = { s with
      fwc := { s.fwc with
        logWp := (s.fwRecord proc level event args).fwc.logWp
        lostError := (s.fwRecord proc level event args).fwc.lostError
        lostOther := (s.fwRecord proc level event args).fwc.lostOther }
      mp := (s.fwRecord proc level event args).mp } := by
  unfold State.fwRecord
  dsimp only
  rw [if_neg h]
  split
  · split <;> rfl
  · rw [State.ringWrite_unregulated]

/-- A trace point changes only the log's pointer, its count of lost records and the manager ports. -/
theorem State.trace_frame (s : State) (cls proc event : Nat) (args : List Nat) :
    s.trace cls proc event args = { s with
      fwc := { s.fwc with
        logWp := (s.trace cls proc event args).fwc.logWp
        lostError := (s.trace cls proc event args).fwc.lostError
        lostOther := (s.trace cls proc event args).fwc.lostOther }
      mp := (s.trace cls proc event args).mp } := by
  unfold State.trace
  split
  · exact s.fwRecord_frame proc event (by decide) args
  · rfl

section
variable (s : State) (cls proc event : Nat) (args : List Nat)

@[simp] theorem State.trace_build : (s.trace cls proc event args).build = s.build := by rw [State.trace_frame]
@[simp] theorem State.trace_ctxs : (s.trace cls proc event args).ctxs = s.ctxs := by rw [State.trace_frame]
@[simp] theorem State.trace_queues : (s.trace cls proc event args).queues = s.queues := by rw [State.trace_frame]
@[simp] theorem State.trace_fe : (s.trace cls proc event args).fe = s.fe := by rw [State.trace_frame]
@[simp] theorem State.trace_lnd : (s.trace cls proc event args).lnd = s.lnd := by rw [State.trace_frame]
@[simp] theorem State.trace_yrd : (s.trace cls proc event args).yrd = s.yrd := by rw [State.trace_frame]
@[simp] theorem State.trace_res : (s.trace cls proc event args).res = s.res := by rw [State.trace_frame]
@[simp] theorem State.trace_hau : (s.trace cls proc event args).hau = s.hau := by rw [State.trace_frame]
@[simp] theorem State.trace_dck : (s.trace cls proc event args).dck = s.dck := by rw [State.trace_frame]
@[simp] theorem State.trace_xlt : (s.trace cls proc event args).xlt = s.xlt := by rw [State.trace_frame]
@[simp] theorem State.trace_irq : (s.trace cls proc event args).irq = s.irq := by rw [State.trace_frame]
@[simp] theorem State.trace_pwr : (s.trace cls proc event args).pwr = s.pwr := by rw [State.trace_frame]
@[simp] theorem State.trace_lgr : (s.trace cls proc event args).lgr = s.lgr := by rw [State.trace_frame]
@[simp] theorem State.trace_clusters : (s.trace cls proc event args).clusters = s.clusters := by rw [State.trace_frame]
@[simp] theorem State.trace_crzGen : (s.trace cls proc event args).crzGen = s.crzGen := by rw [State.trace_frame]
@[simp] theorem State.trace_pins : (s.trace cls proc event args).pins = s.pins := by rw [State.trace_frame]
@[simp] theorem State.trace_free : (s.trace cls proc event args).free = s.free := by rw [State.trace_frame]
@[simp] theorem State.trace_mbx (p : BitVec 8) : (s.trace cls proc event args).mbx p = s.mbx p := by
  rw [State.trace_frame]
  rfl
@[simp] theorem State.trace_proc (p : Nat) : (s.trace cls proc event args).proc p = s.proc p := by
  rw [State.trace_frame]
  rfl
@[simp] theorem State.trace_cluster (c : BitVec 6) : (s.trace cls proc event args).cluster c = s.cluster c := by
  rw [State.trace_frame]
  rfl
@[simp] theorem State.trace_inRun : (s.trace cls proc event args).inRun = s.inRun := by
  rw [State.trace_frame]
  rfl

end

/-! ## A write of MBX_GO (R480, R482) -/

/-- The word that a write of MBX_GO of a page carries, and where it goes. -/
theorem mbxGo_access (page : BitVec 8) (v : W64) : ∃ w : HostWrite, hostWr (mbxOffset page.toNat 0x40) 8 v.toNat = .write w ∧
    BitVec.ofNat 8 (w.addr.toNat / 0x1000) = page ∧ w.addr.toNat % 0x1000 = 0x40 ∧ w.data.extractLsb' 0 32 = v.extractLsb' 0 32 := by
  have haddr : (BitVec.ofNat 27 (0x200000 + 0x1000 * page.toNat + 0x40)).toNat = 0x200000 + 0x1000 * page.toNat + 0x40 := by
    rw [BitVec.toNat_ofNat]
    omega
  have hquot : (0x200000 + 0x1000 * page.toNat + 0x40) / 0x1000 = page.toNat + 256 * 2 := by omega
  refine ⟨_, rfl, ?_, ?_, ?_⟩
  · simp only [mbxOffset]
    rw [haddr, hquot]
    apply BitVec.eq_of_toNat_eq
    rw [BitVec.toNat_ofNat]
    omega
  · simp only [mbxOffset]
    rw [haddr]
    omega
  · apply BitVec.eq_of_toNat_eq
    simp only [BitVec.extractLsb'_toNat, BitVec.toNat_ofNat, Nat.shiftRight_zero]
    omega

section
variable {s : State} {page : BitVec 8} {v : W64}

/-- Served at once by the scheduler core, the write receives OKAY and asks for the request. -/
theorem State.mbxRow_served {mine : W512 → Bool} (hserved : s.takesWrite) (hsched : (s.proc procSched).state = .running)
    (hfe : s.fwc.feBusy = false) (hmine : mine (s.mbx page).req = true) :
    s.mbxRow page v mine = (s.taken.respond .okay 0).mbxGo page (v.extractLsb' 0 32) := by
  have hserves : s.taken.servesMbx = true := by simp [State.servesMbx, hsched, hfe]
  obtain ⟨w, hw, hpage, hoff, hdata⟩ := mbxGo_access page v
  refine (if_neg (by simp [hmine])).trans ((State.host_wr hserved _ _ _ _).trans ((if_pos hserves).trans ?_))
  rw [hw, State.mbxServeOne, hpage, hoff, State.mbxWrite, if_neg (by decide), if_pos rfl, hdata]

/-- A request that starts, before it is carried out: the page is BUSY, and the trace point is passed. -/
def State.going (s : State) (page : BitVec 8) (v : W64) : State :=
  State.trace (State.updMbx (s.taken.respond .okay 0) page (fun m => { m with state := .busy, seq := v.extractLsb' 0 32 }))
    0 procSched 0x0002 [page.toNat, bits (s.mbx page).req 7 0, (v.extractLsb' 0 32 : W32).toNat, 0]

theorem State.updMbx_congr {f g : Mbx → Mbx} (h : f (s.mbx page) = g (s.mbx page)) : s.updMbx page f = s.updMbx page g := by
  unfold State.updMbx tupd
  exact congrArg (fun x => { s with fwc := { s.fwc with mbx := tset {} s.fwc.mbx page.toNat x } }) h

theorem State.started_eq : s.started page v = (s.going page v).updMbx page (fun m => { m with awaiting := false }) := rfl

theorem State.going_inv (hI : s.Inv) : (s.going page v).Inv := State.trace_inv _ _ _ _ (State.updMbx_inv _ _ (Inv.frame (State.taken_inv hI)))

theorem State.going_mbx (hI : s.Inv) : (s.going page v).mbx page = { s.mbx page with state := .busy, seq := v.extractLsb' 0 32 } := by
  have hm : (s.taken.respond .okay 0).mbx page = s.mbx page := s.taken_mbx page
  have hI' : (s.taken.respond .okay 0).Inv := Inv.frame (State.taken_inv hI)
  rw [State.going, State.trace_mbx, State.updMbx_same _ _ _ hI'.mbx, hm]

theorem State.respond_mbx (s : State) (r : Resp) (d : W512) (p : BitVec 8) : (s.respond r d).mbx p = s.mbx p := rfl

/-- A write of MBX_GO that starts nothing because it repeats the last SEQ. -/
theorem State.mbxGo_repeated {q : W32} (h : q = (s.mbx page).seq ∧ (s.mbx page).state ≠ .idle) : s.mbxGo page q = s :=
  if_pos (by simpa using h)

theorem State.mbxGo_ignored {q : W32} (hnew : ¬(q = (s.mbx page).seq ∧ (s.mbx page).state ≠ .idle))
    (h : (s.mbx page).state = .busy ∨ q ≠ (s.mbx page).req.extractLsb' 32 32) : s.mbxGo page q = s.goIgnored page q :=
  (if_neg (by simpa using hnew)).trans (if_pos (by simpa using h))

/-- A write that starts a request: its image is asked for, or it is carried out. -/
theorem State.mbxGo_started (hbusy : (s.mbx page).state ≠ .busy)
    (hnew : (s.mbx page).state = .idle ∨ v.extractLsb' 0 32 ≠ (s.mbx page).seq)
    (hseq : v.extractLsb' 0 32 = (s.mbx page).req.extractLsb' 32 32) :
    (s.taken.respond .okay 0).mbxGo page (v.extractLsb' 0 32) =
      if requestImage (bits (s.mbx page).req 7 0) && requestForm (s.mbx page).req then
        ((s.going page v).updMbx page (fun m => { m with awaiting := true })).readImage page
      else (s.going page v).carryOut page none := by
  have hm : (s.taken.respond .okay 0).mbx page = s.mbx page := s.taken_mbx page
  have hnew' : ¬(v.extractLsb' 0 32 = (s.mbx page).seq ∧ (s.mbx page).state ≠ .idle) := fun h => hnew.elim h.2 (· h.1)
  unfold State.mbxGo State.going
  dsimp only
  rw [hm, if_neg (by simpa using hnew'), if_neg (by simpa using And.intro hbusy hseq)]

/-- The write of a request that names no image carries it out. -/
theorem State.mbxRow_carriedOut {code : Nat} (h : s.startsRequest page v code) (himage : requestImage code = false) :
    s.mbxRow page v (fun r => bits r 7 0 = code) = (s.going page v).carryOut page none := by
  obtain ⟨hserved, hsched, hfe, hbusy, -, hnew, hseq, hcode, -⟩ := h
  rw [State.mbxRow_served hserved hsched hfe (by simpa using hcode), State.mbxGo_started hbusy hnew hseq, hcode, himage]
  rfl

end

/-! ## What each request does (R484) -/

/-- The page has left the wait for its image. -/
def State.arrived (s : State) (page : BitVec 8) : State := s.updMbx page (fun m => { m with awaiting := false })

section
variable {s : State} {page : BitVec 8} {image : Option (List Byte)} (hform : requestForm (s.mbx page).req = true)
include hform

theorem State.carryOut_hello (hcode : bits (s.mbx page).req 7 0 = 0x01) :
    s.carryOut page image = (s.arrived page).mbxDone page 0x00 (s.arrived page).helloResp := by
  simp only [State.carryOut, hcode, hform]
  rfl
theorem State.carryOut_rtTableLoad (hcode : bits (s.mbx page).req 7 0 = 0x02) :
    s.carryOut page image = ((s.arrived page).loadTable page image).dropRead (some page) := by
  simp only [State.carryOut, hcode, hform]
  rfl
theorem State.carryOut_shareCfg (hcode : bits (s.mbx page).req 7 0 = 0x03) :
    s.carryOut page image = State.mbxDone { s.arrived page with yrd := { (s.arrived page).yrd with
      capFc := ((reqWord (s.mbx page).req 1).extractLsb' 32 31).setWidth 32
      quantumFc := (reqWord (s.mbx page).req 1).extractLsb' 0 32 } } page 0x00 0 := by
  simp only [State.carryOut, hcode, hform]
  rfl
theorem State.carryOut_sgCfg (hcode : bits (s.mbx page).req 7 0 = 0x04) :
    s.carryOut page image = (s.arrived page).groupConfig page (reqWord (s.mbx page).req 1) := by
  simp only [State.carryOut, hcode, hform]
  rfl
theorem State.carryOut_partAssign (hcode : bits (s.mbx page).req 7 0 = 0x05) :
    s.carryOut page image = (s.arrived page).assignPart page (reqWord (s.mbx page).req 1) (reqWord (s.mbx page).req 2) := by
  simp only [State.carryOut, hcode, hform]
  rfl
theorem State.carryOut_partRegulate (hcode : bits (s.mbx page).req 7 0 = 0x06) :
    s.carryOut page image = (s.arrived page).regulatePart page (reqWord (s.mbx page).req 1) := by
  simp only [State.carryOut, hcode, hform]
  rfl
theorem State.carryOut_progQuery (hcode : bits (s.mbx page).req 7 0 = 0x07) :
    s.carryOut page image =
      (s.arrived page).mbxDone page 0x00 (((s.arrived page).progQuery (reqWord (s.mbx page).req 1)).setWidth 512) := by
  simp only [State.carryOut, hcode, hform]
  rfl
theorem State.carryOut_ucodePatch (hcode : bits (s.mbx page).req 7 0 = 0x08) :
    s.carryOut page image = ((s.arrived page).patchRequest page (reqWord (s.mbx page).req 2) image).dropRead (some page) := by
  simp only [State.carryOut, hcode, hform]
  rfl
theorem State.carryOut_ledgerRestore (hcode : bits (s.mbx page).req 7 0 = 0x09) :
    s.carryOut page image = (s.arrived page).ledgerAdd page (reqWord (s.mbx page).req 1) (reqWord (s.mbx page).req 2) := by
  simp only [State.carryOut, hcode, hform]
  rfl
theorem State.carryOut_ledgerFlush (hcode : bits (s.mbx page).req 7 0 = 0x0A) :
    s.carryOut page image = (s.arrived page).ledgerCopy page := by
  simp only [State.carryOut, hcode, hform]
  rfl
theorem State.carryOut_wallclock (hcode : bits (s.mbx page).req 7 0 = 0x0B) :
    s.carryOut page image = State.mbxDone { s.arrived page with lgr := { (s.arrived page).lgr with
      wallclock := reqWord (s.mbx page).req 1, wallclockFc := (s.arrived page).fe.cycles } } page 0x00 0 := by
  simp only [State.carryOut, hcode, hform]
  rfl
theorem State.carryOut_dumpArea (hcode : bits (s.mbx page).req 7 0 = 0x0C) :
    s.carryOut page image = (s.arrived page).dumpRequest page (reqWord (s.mbx page).req 1) (reqWord (s.mbx page).req 2) := by
  simp only [State.carryOut, hcode, hform]
  rfl
theorem State.carryOut_powerPolicy (hcode : bits (s.mbx page).req 7 0 = 0x0D) :
    s.carryOut page image = (s.arrived page).powerRequest page (reqWord (s.mbx page).req 1) := by
  simp only [State.carryOut, hcode, hform]
  rfl

end

/-- A request with a reserved code or a reserved bit set is malformed (R483). -/
theorem State.carryOut_malformed {s : State} {page : BitVec 8} {image : Option (List Byte)}
    (h : requestAssigned (bits (s.mbx page).req 7 0) = false ∨ requestForm (s.mbx page).req = false) :
    s.carryOut page image = (s.arrived page).mbxDone page 0x04 0 :=
  if_pos (by simpa using h)

/-! ## The end of a request (R481, R483) -/

section
variable (s : State) (page : BitVec 8) (status : BitVec 8) (resp : W512)

/-- The page that has ended, before its source is raised. -/
def State.ended (s : State) (page : BitVec 8) (status : BitVec 8) (resp : W512) : State :=
  (s.trace 0 procSched 0x0002 [page.toNat, bits (s.mbx page).req 7 0, (s.mbx page).seq.toNat, status.toNat]).updMbx page
    (fun m => { m with state := .done, status, resp })

theorem State.mbxDone_eq : s.mbxDone page status resp =
    if bit (s.mbx page).req 8 then (s.ended page status resp).raise (0x100 + page.toNat) else s.ended page status resp := rfl

theorem State.mbxDone_mbx (p : BitVec 8) : (s.mbxDone page status resp).mbx p = (s.ended page status resp).mbx p := by
  rw [State.mbxDone_eq]
  split
  · rw [State.raise_frame]
    rfl
  · rfl

end

end Sys2Proof.Machine

section
open Sys2Proof Sys2Proof.Machine

/-- Settles O24: every such request shares the write of MBX_GO, which tests the SEQ first. -/
theorem mailboxGoWritesThatStartNothing : Obligations.MailboxGoWritesThatStartNothing := by
  unfold Obligations.MailboxGoWritesThatStartNothing
  intro s page v code c hc hI hserved hsched hfe hcode
  have hexec : exec c s = .next ((s.taken.respond .okay 0).mbxGo page (v.extractLsb' 0 32)) := by
    rw [← State.mbxRow_served (mine := fun r => bits r 7 0 = code) hserved hsched hfe (by simpa using hcode)]
    simp only [plainRequests, List.mem_cons, Prod.mk.injEq, List.not_mem_nil, or_false] at hc
    obtain ⟨rfl, rfl⟩ | ⟨rfl, rfl⟩ | ⟨rfl, rfl⟩ | ⟨rfl, rfl⟩ | ⟨rfl, rfl⟩ | ⟨rfl, rfl⟩ | ⟨rfl, rfl⟩ | ⟨rfl, rfl⟩ | ⟨rfl, rfl⟩ |
      ⟨rfl, rfl⟩ | ⟨rfl, rfl⟩ := hc <;> rfl
  have hm : (s.taken.respond .okay 0).mbx page = s.mbx page := s.taken_mbx page
  rw [hexec]
  refine ⟨fun hrepeat => ?_, fun hnew hno => ?_⟩
  · rw [State.mbxGo_repeated (by rwa [hm])]
  · rw [State.mbxGo_ignored (by rwa [hm]) (by rwa [hm]), State.goIgnored]

/-- Settles O25: such a request is carried out at once, since it names no image that could be read. -/
theorem reservedRequestsAreMalformed : Obligations.ReservedRequestsAreMalformed := by
  unfold Obligations.ReservedRequestsAreMalformed
  intro s page v hI hserved hsched hfe hidle _ hseq hbad
  have himage : ¬(requestImage (bits (s.mbx page).req 7 0) && requestForm (s.mbx page).req) = true := by
    rw [Bool.and_eq_true]
    rintro ⟨hnames, hform⟩
    obtain hcode | hbits := hbad
    · simp only [requestImage, Bool.or_eq_true, decide_eq_true_eq] at hnames
      obtain h | h := hnames <;> simp [h, requestAssigned] at hcode
    · rw [hbits] at hform
      cases hform
  refine congrArg Host.Outcome.next ?_
  rw [State.mbxRow_served hserved hsched hfe (by simpa using hbad),
    State.mbxGo_started (by rw [hidle]; decide) (.inl hidle) hseq, if_neg himage, State.carryOut_malformed]
  · rfl
  · rw [State.going_mbx hI]
    exact hbad

/-- Settles O26: the trace point and the source raised leave the pages alone. -/
theorem requestCompletionIsVisibleToTheDriver : Obligations.RequestCompletionIsVisibleToTheDriver := by
  unfold Obligations.RequestCompletionIsVisibleToTheDriver
  intro s page status resp hI
  dsimp only
  have htrace (c p e : Nat) (a : List Nat) : (s.trace c p e a).Inv := State.trace_inv _ _ _ _ hI
  refine ⟨?_, fun p hp => ?_, fun hnotify => ?_, ?_⟩
  · rw [State.mbxDone_mbx, State.ended, State.updMbx_same _ _ _ (htrace ..).mbx, State.trace_mbx]
  · rw [State.mbxDone_mbx, State.ended, State.updMbx_other _ _ hp, State.trace_mbx]
  · rw [State.mbxDone_eq, if_pos hnotify, State.raise_sets _ _ _ (by omega)]
    simp
  · have hirq : (s.ended page status resp).irq.enable = s.irq.enable := congrArg Irq.enable (s.trace_irq ..)
    rw [State.mbxDone_eq]
    split
    · rw [State.raise_frame]
      exact hirq
    · exact hirq
end

namespace Sys2Proof.Machine

/-! ## A request that has started (R482) -/

section
variable {s : State} {page : BitVec 8} {v : W64}

theorem State.arrived_going : (s.going page v).arrived page = s.started page v := rfl

/-- A request's start changes its page, and the log and the ports by its trace point. -/
theorem State.started_frame (s : State) (page : BitVec 8) (v : W64) : s.started page v = { s.taken.respond .okay 0 with
    fwc := { s.fwc with
      mbx := (s.started page v).fwc.mbx
      logWp := (s.started page v).fwc.logWp
      lostError := (s.started page v).fwc.lostError
      lostOther := (s.started page v).fwc.lostOther }
    mp := (s.started page v).mp } := by
  rw [← s.taken_fwc, State.started_eq, State.going, State.trace_frame]
  rfl

@[simp] theorem State.started_build : (s.started page v).build = s.build := by rw [State.started_frame]; exact s.taken_build
@[simp] theorem State.started_ctxs : (s.started page v).ctxs = s.ctxs := by rw [State.started_frame]; exact s.taken_ctxs
@[simp] theorem State.started_fc : (s.started page v).fc = s.fc := by rw [State.started_frame]; rfl
@[simp] theorem State.started_cycles : (s.started page v).fe.cycles = s.fe.cycles := by rw [State.started_frame]; rfl
@[simp] theorem State.started_lnd : (s.started page v).lnd = s.lnd := by rw [State.started_frame]; exact s.taken_lnd
@[simp] theorem State.started_yrd : (s.started page v).yrd = s.yrd := by rw [State.started_frame]; exact s.taken_yrd
@[simp] theorem State.started_lgr : (s.started page v).lgr = s.lgr := by rw [State.started_frame]; exact s.taken_lgr
@[simp] theorem State.started_pwr : (s.started page v).pwr = s.taken.pwr := by rw [State.started_frame]; rfl
@[simp] theorem State.started_clusters : (s.started page v).clusters = s.clusters := by
  rw [State.started_frame]; exact s.taken_clusters
@[simp] theorem State.started_cluster (c : BitVec 6) : (s.started page v).cluster c = s.cluster c := by
  simp [State.cluster]
@[simp] theorem State.started_part (p : BitVec 3) : (s.started page v).part p = s.part p := by simp [State.part]
@[simp] theorem State.started_uc : (s.started page v).uc = s.uc := by rw [State.started_frame]; exact s.taken_uc
@[simp] theorem State.started_inRun : (s.started page v).inRun = s.inRun := by
  have h : s.taken.inRun = s.inRun := s.leaveIdle_inRun
  rw [State.started_frame, ← h, ← s.taken_fwc]
  rfl
@[simp] theorem State.started_proc (p : Nat) : (s.started page v).proc p = s.proc p := by rw [State.started_frame]; rfl

theorem State.going_req (hI : s.Inv) : ((s.going page v).mbx page).req = (s.mbx page).req := by rw [State.going_mbx hI]

/-- What the write of MBX_GO has tested of the request that it starts. -/
theorem State.going_tested {code : Nat} (hI : s.Inv) (h : s.startsRequest page v code) :
    requestForm ((s.going page v).mbx page).req = true ∧ bits ((s.going page v).mbx page).req 7 0 = code := by
  obtain ⟨-, -, -, -, -, -, -, hcode, hform⟩ := h
  rw [State.going_req hI]
  exact ⟨hform, hcode⟩

/-- A started request that names no image has the effect of its code. -/
theorem State.exec_effect {c : Instr} {code : Nat} {t : State} (hI : s.Inv) (h : s.startsRequest page v code)
    (hrow : exec c s = .next (s.mbxRow page v (fun r => bits r 7 0 = code))) (himage : requestImage code = false)
    (hdo : requestForm ((s.going page v).mbx page).req = true → bits ((s.going page v).mbx page).req 7 0 = code →
      (s.going page v).carryOut page none = t) : exec c s = .next t := by
  obtain ⟨hform, hcode⟩ := State.going_tested hI h
  rw [hrow, State.mbxRow_carriedOut h himage, hdo hform hcode]

theorem State.started_inv (hI : s.Inv) : (s.started page v).Inv := State.updMbx_inv _ _ (State.going_inv hI)

theorem State.leaveIdle_pwr (s : State) : s.leaveIdle.pwr =
    { s.pwr with state := s.leaveIdle.pwr.state, quietFc := s.leaveIdle.pwr.quietFc } := by
  unfold State.leaveIdle
  split <;> rfl

theorem State.started_later : (s.started page v).pwr.later = s.pwr.later := by
  rw [State.started_pwr, State.taken_pwr, State.leaveIdle_pwr]

theorem State.started_mayPoll : (s.started page v).mayPoll = s.mayPoll := by
  unfold State.mayPoll
  rw [State.started_inRun, State.started_proc, State.started_pwr, State.taken_pwr, State.leaveIdle_pwr]

/-! ## Shares and program queries (R270, R271, R485) -/

theorem State.groupConfig_done {w : W64}
    (h : ¬((tget {} s.yrd.groups (bits w 7 0)).partition ≠ w.extractLsb' 8 3 ∧
      ∃ x ∈ s.ctxs, x.2.state = .active ∧ x.2.shareGroup.toNat = bits w 7 0)) :
    s.groupConfig page w = State.mbxDone { s with yrd := { s.yrd with
      groups := tupd {} s.yrd.groups (bits w 7 0) (fun x => { x with weight := w.extractLsb' 16 16, partition := w.extractLsb' 8 3 }) } }
      page 0x00 0 :=
  if_neg (by simpa using h)

theorem State.groupConfig_refused {w : W64}
    (h : (tget {} s.yrd.groups (bits w 7 0)).partition ≠ w.extractLsb' 8 3 ∧
      ∃ x ∈ s.ctxs, x.2.state = .active ∧ x.2.shareGroup.toNat = bits w 7 0) :
    s.groupConfig page w = s.mbxDone page 0x02 0 :=
  if_pos (by simpa using h)

theorem State.progQuery_unbound {w : W64}
    (h : tget 0 s.lnd.current (65536 * (w.extractLsb' 0 20 : BitVec 20).toNat + (w.extractLsb' 32 16 : BitVec 16).toNat) = 0) :
    s.progQuery w = 0 := if_pos h

theorem State.progQuery_bound {w : W64} {x : Binding}
    (h : tget 0 s.lnd.current (65536 * (w.extractLsb' 0 20 : BitVec 20).toNat + (w.extractLsb' 32 16 : BitVec 16).toNat) ≠ 0)
    (hx : s.binding (w.extractLsb' 0 20) (w.extractLsb' 32 16) = some x) :
    s.progQuery w = BitVec.ofNat 64 ((tget 0 s.lnd.current
        (65536 * (w.extractLsb' 0 20 : BitVec 20).toNat + (w.extractLsb' 32 16 : BitVec 16).toNat)).toNat +
      (match x.state with | .loading => 1 | .ready => 2 | .failed => 3) * 2 ^ 16 + x.status.toNat * 2 ^ 24 + x.code.toNat * 2 ^ 32 +
      x.record.toNat * 2 ^ 40) := by
  unfold State.progQuery
  dsimp only
  rw [if_neg h, hx] <;> rfl

theorem ofNat_bits_high (w : W64) : (w.extractLsb' 32 31).setWidth 32 = BitVec.ofNat 32 (bits w 62 32) := by
  apply BitVec.eq_of_toNat_eq
  simp [bits, BitVec.extractLsb'_toNat]

theorem ofNat_bits_low (w : W64) : w.extractLsb' 0 32 = BitVec.ofNat 32 (bits w 31 0) := by
  apply BitVec.eq_of_toNat_eq
  simp [bits, BitVec.extractLsb'_toNat]

/-! ## Partition requests (R274, R276, R485) -/

/-- The clusters of a set that are not in a partition yet. -/
def State.moving (s : State) (m : W64) (p : BitVec 3) : List Nat :=
  (List.range s.build.clusters).filter (fun c => m.getLsbD c && decide ((s.cluster (BitVec.ofNat 6 c)).partition ≠ p))

/-- Clusters drain towards a partition. -/
def State.drainAll (s : State) (l : List Nat) (p : BitVec 3) : State :=
  s.each l (fun s c => s.updCluster (BitVec.ofNat 6 c) (fun x => { x with moveTo := some p }))

/-- A set with absent clusters. -/
theorem State.assignPart_malformed {w m : W64} (h : s.assignBad w m = true) : s.assignPart page w m = s.mbxDone page 0x04 0 := if_pos h

theorem State.assignPart_tabled {w m : W64} (hbad : s.assignBad w m = false)
    (h : ∃ c ∈ s.moving m (w.extractLsb' 0 3), s.tableNames c = true) : s.assignPart page w m = s.mbxDone page 0x02 0 := by
  have hnamed : (s.moving m (w.extractLsb' 0 3)).any s.tableNames = true := List.any_eq_true.mpr h
  refine (if_neg (by simp [hbad])).trans (if_pos ?_)
  rw [Bool.or_eq_true]
  exact .inl hnamed

/-- A request ends unless clusters still have to join, and waits for those. -/
def State.awaitMoves (s : State) (page : BitVec 8) (l : List Nat) : State :=
  if l.isEmpty then s.mbxDone page 0x00 0 else { s with yrd := { s.yrd with moves := s.yrd.moves ++ [(page, l)] } }

/-- Where no cluster moves at once, the request ends if none has to drain, and waits else. -/
theorem State.assignPart_drains {w m : W64} (hbad : s.assignBad w m = false) (h16 : s.build.clusters ≠ 16)
    (hfree : ∀ c ∈ s.moving m (w.extractLsb' 0 3), s.tableNames c = false ∧ (s.cluster (BitVec.ofNat 6 c)).inService = true) :
    s.assignPart page w m = (s.drainAll (s.moving m (w.extractLsb' 0 3)) (w.extractLsb' 0 3)).awaitMoves page
      (s.moving m (w.extractLsb' 0 3)) := by
  have hnamed : (s.moving m (w.extractLsb' 0 3)).any s.tableNames = false := by
    rw [List.any_eq_false]
    exact fun c hc => by simp [(hfree c hc).1]
  have hnow : (s.moving m (w.extractLsb' 0 3)).filter (fun c => !(s.cluster (BitVec.ofNat 6 c)).inService) = [] := by
    rw [List.filter_eq_nil_iff]
    exact fun c hc => by simp [(hfree c hc).2]
  have hlater : (s.moving m (w.extractLsb' 0 3)).filter (fun c => (s.cluster (BitVec.ofNat 6 c)).inService) =
      s.moving m (w.extractLsb' 0 3) := List.filter_eq_self.mpr fun c hc => (hfree c hc).2
  have hbad' : ¬s.assignBad w m = true := by simp [hbad]
  unfold State.moving at *
  unfold State.assignPart
  dsimp only
  rw [if_neg hbad', if_neg (by simp only [hnamed, h16, decide_false, Bool.false_and, Bool.or_self]; decide), if_neg h16, hnow, hlater]
  rfl

/-- Clusters of the build are numbered below 64. -/
theorem Build.clusters_le {b : Build} (h : b.legal) : b.clusters ≤ 64 := by
  obtain ⟨h16 | h32 | h64, -⟩ := h <;> omega

theorem State.mem_moving {m : W64} {p : BitVec 3} {c : Nat} (hI : s.Inv) (h : c ∈ s.moving m p) : c < 64 := by
  have := Build.clusters_le hI.build
  have := List.mem_range.mp (List.mem_filter.mp h).1
  omega

theorem State.drainAll_frame (l : List Nat) (p : BitVec 3) : ∀ s : State, s.drainAll l p = { s with clusters := (s.drainAll l p).clusters } := by
  induction l with
  | nil => exact fun _ => rfl
  | cons c l ih => exact fun s => ih _

theorem State.drainAll_cluster (p : BitVec 3) (c : BitVec 6) : ∀ (l : List Nat) (s : State), s.Inv → (∀ n ∈ l, n < 64) →
    (s.drainAll l p).cluster c = if c.toNat ∈ l then { s.cluster c with moveTo := some p } else s.cluster c
  | [], _, _, _ => by simp [State.drainAll, State.each]
  | n :: l, s, hI, hl => by
    have hn : (BitVec.ofNat 6 n).toNat = n := by
      have := hl n (List.mem_cons_self ..)
      simp; omega
    refine (State.drainAll_cluster p c l _ (State.updCluster_inv _ _ hI) fun k hk => hl k (List.mem_cons_of_mem _ hk)).trans ?_
    by_cases hc : c = BitVec.ofNat 6 n
    · subst hc
      rw [State.updCluster_same _ _ _ hI.clusters, hn]
      simp
    · have hne : c.toNat ≠ n := fun h => hc (BitVec.eq_of_toNat_eq (h.trans hn.symm))
      rw [State.updCluster_other _ _ hc]
      simp [hne]

theorem State.regulatePart_refused {w : W64}
    (h : ¬(s.shareSum (w.extractLsb' 0 3) false (bits w 39 32) ≤ 256 ∧ s.shareSum (w.extractLsb' 0 3) true (bits w 31 24) ≤ 256)) :
    s.regulatePart page w = s.mbxDone page 0x04 0 :=
  if_pos (by rw [not_and_or, Nat.not_le, Nat.not_le] at h; simpa using h)

theorem State.updPart_twice (s : State) (p : BitVec 3) (f g : Partition → Partition) :
    (s.updPart p f).updPart p g = s.updPart p (fun x => g (f x)) := by
  have hread : (s.yrd.parts.set p.toFin (f (s.yrd.parts.get p.toFin))).get p.toFin = f (s.yrd.parts.get p.toFin) :=
    Vector.getElem_set_self _
  simp only [State.updPart, hread, Vector.set_set]

theorem State.regulatePart_done {w : W64}
    (h : s.shareSum (w.extractLsb' 0 3) false (bits w 39 32) ≤ 256 ∧ s.shareSum (w.extractLsb' 0 3) true (bits w 31 24) ≤ 256) :
    s.regulatePart page w = State.promoteAll (State.mbxDone (s.updPart (w.extractLsb' 0 3) (fun x => { x with
      refillFc := s.fc
      rdBucket := refill x.rdBucket x.rdShare x.burst s.build.memPorts (s.fc - x.refillFc)
      wrBucket := refill x.wrBucket x.wrShare x.burst s.build.memPorts (s.fc - x.refillFc)
      rdShare := w.extractLsb' 32 8, wrShare := w.extractLsb' 24 8, burst := w.extractLsb' 16 8, borrow := bit w 8 })) page 0x00 0) := by
  obtain ⟨hread, hwrite⟩ := h
  refine (if_neg (by simp [Nat.not_lt.mpr hread, Nat.not_lt.mpr hwrite])).trans ?_
  rw [State.updPart_twice]

/-! ## Ledger, dump and power requests (R519, R551) -/

theorem State.ledgerAdd_done {w x : W64} (hi : s.ledgerIndex (bits w 6 0) = true) (h : s.lgr.restored.getLsbD (bits w 6 0) = false) :
    s.ledgerAdd page w x = State.mbxDone { s with lgr := { s.lgr with
      restored := s.lgr.restored ||| BitVec.twoPow 128 (bits w 6 0)
      counts := tupd 0 s.lgr.counts (bits w 6 0) (fun n => BitVec.ofNat 64 (min (n.toNat + x.toNat) (2 ^ 64 - 1))) } } page 0x00 1 :=
  (if_neg (by simp [hi])).trans (if_neg (by simp [h]))

theorem State.ledgerAdd_restored {w x : W64} (hi : s.ledgerIndex (bits w 6 0) = true)
    (h : s.lgr.restored.getLsbD (bits w 6 0) = true) : s.ledgerAdd page w x = s.mbxDone page 0x00 0 :=
  (if_neg (by simp [hi])).trans (if_pos h)

/-- A flush takes a value of POWERED that has not fallen (R550). -/
theorem State.ledgerCopy_eq (s : State) (page : BitVec 8) : ∃ (p : W64) (n : Nat), (tget 0 s.lgr.counts 0).toNat ≤ p.toNat ∧
    s.ledgerCopy page = State.mbxDone { s with
      free := n
      lgr := { s.lgr with counts := tset 0 s.lgr.counts 0 p, snaps := tset 0 s.lgr.counts 0 p } } page 0x00 (s.fe.cycles.setWidth 512) := by
  refine ⟨BitVec.ofNat 64 (min ((tget 0 s.lgr.counts 0).toNat + s.freshWord.1.toNat) (2 ^ 64 - 1)), s.free + 1, ?_, rfl⟩
  have hmax : min ((tget 0 s.lgr.counts 0).toNat + s.freshWord.1.toNat) (2 ^ 64 - 1) < 2 ^ 64 := by omega
  rw [BitVec.toNat_ofNat, Nat.mod_eq_of_lt hmax]
  have := (tget 0 s.lgr.counts 0).isLt
  omega

theorem State.dumpRequest_done {w x : W64} (h : bits x 14 0 ≤ 16384) : s.dumpRequest page w x = State.mbxDone { s with fwc := { s.fwc with
    dumpPfn := w.extractLsb' 12 40, dumpPages := x.extractLsb' 0 15, armed := decide (bits x 14 0 ≠ 0) } } page 0x00 0 :=
  if_neg (Nat.not_lt.mpr h)

/-- The fields of a POWER_POLICY but ENTER are legal (R519). -/
def policyLegal (w : W64) : Prop := bits w 5 4 ≠ 3 ∧ 20 ≤ bits w 23 16 ∧ bits w 23 16 ≤ bits w 31 24 ∧ bits w 31 24 ≤ 40

/-- The automatic policy that a POWER_POLICY writes. -/
def Pwr.withPolicy (p : Pwr) (w : W64) : Pwr :=
  { p with auto := w.extractLsb' 4 2, sleepLog2 := w.extractLsb' 16 8, deepLog2 := w.extractLsb' 24 8 }

theorem State.powerRequest_policy {w : W64} (h : policyLegal w) (henter : bits w 2 0 = 0) :
    s.powerRequest page w = State.mbxDone { s with pwr := s.pwr.withPolicy w } page 0x00 0 := by
  obtain ⟨hauto, hlow, hsd, hdeep⟩ := h
  have hnone : enterState (bits w 2 0) = none := by rw [henter]; rfl
  refine (if_neg ?_).trans ?_
  · simp [henter, hauto, Nat.not_lt.mpr hlow, Nat.not_lt.mpr hsd, Nat.not_lt.mpr hdeep, Nat.not_lt.mpr (hsd.trans hdeep)]
  · rw [hnone]
    rfl

theorem State.powerRequest_enter {w : W64} {t : PState} (h : policyLegal w) (ht : enterState (bits w 2 0) = some t)
    (hlater : s.pwr.later = []) (hpoll : s.mayPoll = true) :
    s.powerRequest page w = State.trace { s with
      pwr := { s.pwr.withPolicy w with request := some (t, some page), phase := .polling, pollFc := s.fc } } 6 procPower 0x0009 [t.code, 0, 0] := by
  obtain ⟨hauto, hlow, hsd, hdeep⟩ := h
  refine (if_neg ?_).trans ?_
  · simp [ht, hauto, Nat.not_lt.mpr hlow, Nat.not_lt.mpr hsd, Nat.not_lt.mpr hdeep, Nat.not_lt.mpr (hsd.trans hdeep)]
  · rw [ht, hlater]
    refine (if_pos hpoll).trans ?_
    simp only [State.beginPoll, Pwr.withPolicy, hlater]
    rfl

end

end Sys2Proof.Machine

section
open Sys2Proof Sys2Proof.Machine

/-- Settles O27: each request has the effect of its code on the state in which it has started. -/
theorem helloSharesAndProgramQueries : Obligations.HelloSharesAndProgramQueries := by
  unfold Obligations.HelloSharesAndProgramQueries
  intro s page v hI
  dsimp only
  have hw : reqWord ((s.going page v).mbx page).req 1 = s.param page 1 := congrArg (reqWord · 1) (State.going_req hI)
  refine ⟨fun h => ?_, fun h => ?_, fun h hstay => ?_, fun h hmoves => ?_, fun h hb => ?_, fun x h hb hx => ?_⟩
  · rw [State.exec_effect hI h rfl rfl State.carryOut_hello, State.arrived_going, State.helloResp]
    rw [State.started_frame]
  · rw [State.exec_effect hI h rfl rfl State.carryOut_shareCfg, hw, State.arrived_going, State.started_yrd, ofNat_bits_high, ofNat_bits_low]
  · rw [State.exec_effect hI h rfl rfl State.carryOut_sgCfg, hw, State.arrived_going, State.groupConfig_done, State.started_yrd]
    simpa using hstay
  · rw [State.exec_effect hI h rfl rfl State.carryOut_sgCfg, hw, State.arrived_going, State.groupConfig_refused]
    simpa using hmoves
  · rw [State.exec_effect hI h rfl rfl State.carryOut_progQuery, hw, State.arrived_going, State.progQuery_unbound]
    · exact congrArg (fun w => Host.Outcome.next ((s.started page v).mbxDone page 0 w)) (BitVec.setWidth_zero 512 64)
    · rwa [State.started_lnd]
  · have hx' : (s.started page v).binding ((s.param page 1).extractLsb' 0 20) ((s.param page 1).extractLsb' 32 16) = some x := by
      rw [← hx]
      simp only [State.binding, State.started_lnd]
    have hb' : tget 0 (s.started page v).lnd.current (65536 * ((s.param page 1).extractLsb' 0 20).toNat +
        ((s.param page 1).extractLsb' 32 16).toNat) ≠ 0 := by rwa [State.started_lnd]
    rw [State.exec_effect hI h rfl rfl State.carryOut_progQuery, hw, State.arrived_going, State.progQuery_bound hb' hx', State.started_lnd] <;> rfl

/-- Settles O28: what a request tests of partitions and tables its start has not changed. -/
theorem partitionRequests : Obligations.PartitionRequests := by
  unfold Obligations.PartitionRequests
  intro s page v hI
  dsimp only
  have hw : reqWord ((s.going page v).mbx page).req 1 = s.param page 1 := congrArg (reqWord · 1) (State.going_req hI)
  have hm : reqWord ((s.going page v).mbx page).req 2 = s.param page 2 := congrArg (reqWord · 2) (State.going_req hI)
  have hassign (h : s.startsRequest page v 0x05) : exec (.partAssign page v) s =
      .next ((s.started page v).assignPart page (s.param page 1) (s.param page 2)) :=
    State.exec_effect hI h rfl rfl fun hf hc => by rw [State.carryOut_partAssign hf hc, hw, hm, State.arrived_going]
  have hregulate (h : s.startsRequest page v 0x06) : exec (.partRegulate page v) s =
      .next ((s.started page v).regulatePart page (s.param page 1)) :=
    State.exec_effect hI h rfl rfl fun hf hc => by rw [State.carryOut_partRegulate hf hc, hw, State.arrived_going]
  have hbad : (s.started page v).assignBad (s.param page 1) (s.param page 2) = s.assignBad (s.param page 1) (s.param page 2) := by
    simp [State.assignBad]
  have hmoving (m : W64) (p : BitVec 3) : (s.started page v).moving m p = s.moving m p := by simp [State.moving]
  have hnames (c : Nat) : (s.started page v).tableNames c = s.tableNames c := by simp [State.tableNames]
  have hsum (write : Bool) (share : Nat) (p : BitVec 3) : (s.started page v).shareSum p write share = s.shareSum p write share := by
    simp [State.shareSum]
  refine ⟨fun h hb => ?_, fun h h16 hb hnil => ?_, fun h h16 hb htabled => ?_, fun h h16 hb hsome hfree => ?_, fun h hsums => ?_,
    fun h hsums => ?_⟩
  · rw [hassign h, State.assignPart_malformed (hbad.trans hb)]
  · have hnil' : (s.started page v).moving (s.param page 2) ((s.param page 1).extractLsb' 0 3) = [] := (hmoving _ _).trans hnil
    rw [hassign h, State.assignPart_drains (hbad.trans hb) (by rwa [State.started_build]) (by simp [hnil']), hnil']
    rfl
  · rw [hassign h, State.assignPart_tabled (hbad.trans hb)]
    simp only [hmoving, hnames]
    exact htabled
  · have hwaits : (s.moving (s.param page 2) ((s.param page 1).extractLsb' 0 3)).isEmpty = false := List.isEmpty_eq_false_iff.mpr hsome
    rw [hassign h, State.assignPart_drains (hbad.trans hb) (by rwa [State.started_build])
      (by simp only [hmoving, hnames, State.started_cluster]; exact hfree), hmoving, State.awaitMoves, hwaits]
    refine ⟨_, rfl, fun c => ?_, ?_⟩
    · refine (State.drainAll_cluster _ c _ _ (State.started_inv hI) fun n hn => State.mem_moving hI hn).trans ?_
      rw [State.started_cluster]
      rfl
    · dsimp only
      rw [State.drainAll_frame, State.started_yrd]
      rfl
  · rw [hregulate h, State.regulatePart_done, State.started_fc, State.started_build]
    simpa only [hsum] using hsums
  · rw [hregulate h, State.regulatePart_refused]
    simpa only [hsum] using hsums

/-- Settles O29: the requests on the ledger, the dump area and the power policy. -/
theorem ledgerDumpAndPowerRequests : Obligations.LedgerDumpAndPowerRequests := by
  unfold Obligations.LedgerDumpAndPowerRequests
  intro s page v hI
  dsimp only
  have hw : reqWord ((s.going page v).mbx page).req 1 = s.param page 1 := congrArg (reqWord · 1) (State.going_req hI)
  have hx : reqWord ((s.going page v).mbx page).req 2 = s.param page 2 := congrArg (reqWord · 2) (State.going_req hI)
  have hrestore (h : s.startsRequest page v 0x09) : exec (.ledgerRestore page v) s =
      .next ((s.started page v).ledgerAdd page (s.param page 1) (s.param page 2)) :=
    State.exec_effect hI h rfl rfl fun hf hc => by rw [State.carryOut_ledgerRestore hf hc, hw, hx, State.arrived_going]
  have hpower (h : s.startsRequest page v 0x0D) : exec (.powerPolicy page v) s =
      .next ((s.started page v).powerRequest page (s.param page 1)) :=
    State.exec_effect hI h rfl rfl fun hf hc => by rw [State.carryOut_powerPolicy hf hc, hw, State.arrived_going]
  have hindex (i : Nat) : (s.started page v).ledgerIndex i = s.ledgerIndex i := by simp [State.ledgerIndex]
  refine ⟨fun h hi hnew => ?_, fun h hi hold => ?_, fun h => ?_, fun h => ?_, fun h hpages => ?_, fun h hlegal henter => ?_,
    fun t h hlegal ht hlater hpoll => ?_⟩
  · rw [hrestore h, State.ledgerAdd_done ((hindex _).trans hi) (by rwa [State.started_lgr]), State.started_lgr]
  · rw [hrestore h, State.ledgerAdd_restored ((hindex _).trans hi) (by rwa [State.started_lgr])]
  · obtain ⟨p, n, hp, hflush⟩ := (s.started page v).ledgerCopy_eq page
    rw [State.started_lgr] at hp
    refine ⟨p, n, hp, ?_⟩
    rw [State.exec_effect hI h rfl rfl State.carryOut_ledgerFlush, State.arrived_going, hflush, State.started_lgr, State.started_cycles]
  · rw [State.exec_effect hI h rfl rfl State.carryOut_wallclock, hw, State.arrived_going, State.started_cycles]
  · rw [State.exec_effect hI h rfl rfl State.carryOut_dumpArea, hw, hx, State.arrived_going, State.dumpRequest_done hpages]
  · rw [hpower h, State.powerRequest_policy hlegal henter, State.started_pwr]
    rfl
  · rw [hpower h, State.powerRequest_enter hlegal ht (State.started_later.trans hlater) (State.started_mayPoll.trans hpoll), State.started_pwr, State.started_fc]
    rfl
end

namespace Sys2Proof.Machine

/-! ## Microwords that write a register (R197, R198, R200) -/

/-- Of two UOPs of a thread's word at most one is the word's, and none runs for a thread that is not the one chosen. -/
theorem State.uop_eq_of_idle {s : State} {t : BitVec 4} {u : Nat} (f : State → BitVec 40 → State)
    (h : s.chosen ≠ some t.toNat ∨ uOp (s.microword t) ≠ u) : s.uop t u f = s := by
  refine if_pos ?_
  rcases h with h | h <;> simp [h]

/-- A result written to TD and the micro-PC moved on, after the word was counted. -/
theorem State.uSet_counted {s : State} (t : BitVec 4) (td : Nat) (v : W64) (hI : s.Inv) :
    ((s.updThread t (fun x => { x with count := x.count + 1 })).uSet t td v).uNext t = s.updThread t (fun x => x.wrote td v) := by
  rw [State.uSet, State.uNext, State.updThread_twice _ _ _ _ hI.threads, State.updThread_twice _ _ _ _ hI.threads]
  simp [Thread.wrote]

/-- A microword of the Reg form writes its function of TA and TB to TD. -/
theorem State.uReg2_eq {s : State} {t : BitVec 4} {u : Nat} (f : W64 → W64 → W64) (hI : s.Inv) (h : s.runsWord t)
    (hu : uOp (s.microword t) = u) : s.uReg2 t u f = s.updThread t (fun x => x.wrote (uTd (s.microword t))
      (f (s.uReg t (uTa (s.microword t))) (s.uReg t (uTb (s.microword t))))) := by
  rw [State.uReg2, State.uop_eq_of_runsWord _ h hu, State.uReg_counted _ _ hI, State.uReg_counted _ _ hI, State.uSet_counted _ _ _ hI]

/-- A microword of the Imm form writes its function of TA and the immediate to TD. -/
theorem State.uImm1_eq {s : State} {t : BitVec 4} {u : Nat} (f : W64 → W64 → W64) (hI : s.Inv) (h : s.runsWord t)
    (hu : uOp (s.microword t) = u) : s.uImm1 t u f = s.updThread t (fun x => x.wrote (uTd (s.microword t))
      (f (s.uReg t (uTa (s.microword t))) (uImm (s.microword t)))) := by
  rw [State.uImm1, State.uop_eq_of_runsWord _ h hu, State.uReg_counted _ _ hI, State.uSet_counted _ _ _ hI]

/-- The thread whose word was counted, and what of it stays. -/
theorem State.thread_counted {s : State} (t : BitVec 4) (hI : s.Inv) :
    (s.updThread t (fun x => { x with count := x.count + 1 })).thread t = { s.thread t with count := (s.thread t).count + 1 } :=
  State.updThread_same _ _ _ hI.threads

/-- The thread whose word was counted and whose micro-PC has moved on. -/
theorem State.thread_moved {s : State} (t : BitVec 4) (hI : s.Inv) :
    (s.updThread t (fun x => { x with count := x.count + 1, upc := x.upc + 1 })).thread t =
      { s.thread t with count := (s.thread t).count + 1, upc := (s.thread t).upc + 1 } :=
  State.updThread_same _ _ _ hI.threads

/-- OBJ of a handle that resolves, or is known not to. -/
theorem State.objInto_known {s : State} {t : BitVec 4} {h : W32} {o : Option ObjEntry} (i td : Nat)
    (hr : s.resolve (s.queue (s.thread t).queue).ctx h = some o) :
    s.objInto t h i td = (s.objPut t (s.queue (s.thread t).queue).ctx h i td o).park t .deckWait := by
  simp only [State.objInto, hr]

/-- OBJ of a handle whose table entry has to be read. -/
theorem State.objInto_missing {s : State} {t : BitVec 4} {h : W32} (i td : Nat)
    (hr : s.resolve (s.queue (s.thread t).queue).ctx h = none) :
    s.objInto t h i td = s.objMiss t (s.queue (s.thread t).queue).ctx h i td := by
  simp only [State.objInto, hr]

/-- What DRD of a region that has records does to its thread before the thread parks (R201). -/
def drdMarked (s : State) (t : BitVec 4) (w : BitVec 40) (x : Thread) : Thread :=
  let region := uArg8 w
  let key := s.uReg t (uTa w)
  let c := (s.queue (s.thread t).queue).ctx
  let k := if region = 2 then 65536 * c.toNat + bits key 15 0 else 4096 * c.toNat + bits key 11 0
  { x with
    upc := x.upc + 1, drd := some (uTd w, s.drdWord t region key (uArg16 w))
    reads := if region = 2 || region = 3 then x.reads ++ [(region, k, s.lnd.commits)] else x.reads }

/-- DRD of a region that has records (R201). -/
def State.drdRead (s : State) (t : BitVec 4) (w : BitVec 40) : State :=
  State.park (State.updThread { s with free := s.free + 1 } t (drdMarked s t w)) t .deckWait

/-- What parking does to its thread (R206, R208). -/
def Thread.parked (x : Thread) (c : Trap) : Thread := { x with trap := some c, count := if c.retries then x.count - 1 else x.count }

theorem State.park_threads (s : State) (t : BitVec 4) (c : Trap) :
    (s.park t c).uc.threads = (s.updThread t (fun x => x.parked c)).uc.threads := by
  cases c <;> rfl

theorem State.park_thread_same {s : State} (t : BitVec 4) (c : Trap) (hw : tblWf {} s.uc.threads = true) :
    (s.park t c).thread t = (s.thread t).parked c :=
  (congrArg (tget ({} : Thread) · t.toNat) (s.park_threads t c)).trans (State.updThread_same _ _ _ hw)

theorem State.park_thread_other (s : State) {t k : BitVec 4} (c : Trap) (hk : k ≠ t) : (s.park t c).thread k = s.thread k :=
  (congrArg (tget ({} : Thread) · k.toNat) (s.park_threads t c)).trans (State.updThread_other _ _ hk)

section
variable {s : State} {t : BitVec 4} (hI : s.Inv) (h : s.runsWord t)
include hI h

theorem execUopFld_eq (hu : uOp (s.microword t) = 0x10) : execUopFld t s = .next
    (let w := s.microword t
     if 2047 < bits w 28 18 + bits w 17 12 then (s.updThread t (fun x => { x with count := x.count + 1 })).ucFault t
     else s.updThread t (fun x => x.wrote (uTd w) (BitVec.ofNat 64 (pf (s.thread t).pkt (bits w 28 18 + bits w 17 12) (bits w 28 18))))) := by
  rw [execUopFld, State.uop_eq_of_runsWord _ h hu]
  dsimp only
  rw [State.thread_counted t hI, State.uSet_counted _ _ _ hI]

omit hI in
theorem execUopDrd_unassigned (hu : uOp (s.microword t) = 0x20) (hr : uArg8 (s.microword t) = 0 ∨ 5 < uArg8 (s.microword t)) :
    execUopDrd t s = .next ((s.updThread t (fun x => { x with count := x.count + 1 })).ucFault t) :=
  congrArg Host.Outcome.next ((State.uop_eq_of_runsWord _ h hu).trans (if_pos (by simpa using hr)))

omit hI in
theorem execUopDrd_read (hu : uOp (s.microword t) = 0x20) (hr : ¬(uArg8 (s.microword t) = 0 ∨ 5 < uArg8 (s.microword t))) :
    execUopDrd t s = .next ((s.updThread t (fun x => { x with count := x.count + 1 })).drdRead t (s.microword t)) :=
  congrArg Host.Outcome.next ((State.uop_eq_of_runsWord _ h hu).trans (if_neg (by simpa using hr)))

theorem execUopObj_eq (hu : uOp (s.microword t) = 0x21) : execUopObj t s = .next
    ((s.updThread t (fun x => { x with count := x.count + 1, upc := x.upc + 1 })).objInto t
      ((s.uReg t (uTa (s.microword t))).extractLsb' 0 32) (uArg8 (s.microword t) % 8) (uTd (s.microword t))) := by
  rw [execUopObj, State.uop_eq_of_runsWord _ h hu, State.uReg_counted _ _ hI, State.uNext_counted t hI]

theorem execUopSte_eq (hu : uOp (s.microword t) = 0x28) : execUopSte t s = .next (s.updThread t (fun x =>
    { x with count := x.count + 1, upc := x.upc + 1, img := imgSet x.img (uArg8 (s.microword t) % 8) (s.uReg t (uTa (s.microword t))) })) := by
  rw [execUopSte, State.uop_eq_of_runsWord _ h hu, State.uReg_counted _ _ hI, State.uNext, State.updThread_twice _ _ _ _ hI.threads,
    State.updThread_twice _ _ _ _ hI.threads]

theorem execUopBlz_eq (hu : uOp (s.microword t) = 0x22) : execUopBlz t s = .next
    (let n : BitVec 16 := (s.uReg t (uTa (s.microword t))).extractLsb' 0 16
     let c := (s.queue (s.thread t).queue).ctx
     (s.updThread t (fun x => { x with
        count := x.count + 1, upc := x.upc + 1
        reject := if s.build.blazes ≤ n.toNat then some 0x04 else if s.blazeAdmits n c then none else some 0x03 })).park t .deckWait) := by
  rw [execUopBlz, State.uop_eq_of_runsWord _ h hu]
  dsimp only
  rw [State.uReg_counted _ _ hI, State.thread_counted t hI, State.uNext_counted t hI, State.updThread_twice _ _ _ _ hI.threads]
  rfl

end

/-- What DRD of a region that has records leaves: the thread waits for the Deck with the word for TD. -/
theorem State.drdRead_spec {s : State} (t : BitVec 4) (w : BitVec 40) (hI : s.Inv) :
    let u := s.drdRead t w
    (u.thread t).trap = some .deckWait ∧ (u.thread t).upc = (s.thread t).upc + 1 ∧
    (u.thread t).drd = some (uTd w, s.drdWord t (uArg8 w) (s.uReg t (uTa w)) (uArg16 w)) ∧ (u.thread t).regs = (s.thread t).regs ∧
    u.uc.trapDeck = s.uc.trapDeck + 1 ∧ (∀ k, k ≠ t → u.thread k = s.thread k) ∧ u = { s with uc := u.uc, free := s.free + 1 } := by
  intro u
  have hread : ((State.updThread { s with free := s.free + 1 } t (drdMarked s t w)).thread t) = drdMarked s t w (s.thread t) :=
    State.updThread_same _ _ _ hI.threads
  have hu : u.thread t = (drdMarked s t w (s.thread t)).parked .deckWait := by
    rw [← hread]
    exact State.park_thread_same t .deckWait (tupd_wf _ _ _ _ hI.threads)
  rw [hu]
  refine ⟨rfl, rfl, rfl, rfl, rfl, fun k hk => ?_, rfl⟩
  exact (State.park_thread_other _ _ hk).trans (State.updThread_other { s with free := s.free + 1 } _ hk)

end Sys2Proof.Machine

section
open Sys2Proof Sys2Proof.Machine

/-- Settles O38: each UOP is a function of its operands whose result goes to TD. -/
theorem arithmeticMicrowords : Obligations.ArithmeticMicrowords := by
  unfold Obligations.ArithmeticMicrowords
  intro s t hI
  dsimp only
  have reg (f : W64 → W64 → W64) {u : Nat} {c : Instr} (hc : exec c s = .next (s.uReg2 t u f)) :
      (s.runsWord t → uOp (s.microword t) = u → exec c s = .next (s.updThread t (fun x => x.wrote (uTd (s.microword t))
        (f (s.uReg t (uTa (s.microword t))) (s.uReg t (uTb (s.microword t))))))) ∧
      (s.chosen ≠ some t.toNat ∨ uOp (s.microword t) ≠ u → exec c s = .next s) :=
    ⟨fun h hu => hc.trans (congrArg Host.Outcome.next (State.uReg2_eq f hI h hu)),
      fun h => hc.trans (congrArg Host.Outcome.next (State.uop_eq_of_idle _ h))⟩
  have imm (f : W64 → W64 → W64) {u : Nat} {c : Instr} (hc : exec c s = .next (s.uImm1 t u f)) :
      (s.runsWord t → uOp (s.microword t) = u → exec c s = .next (s.updThread t (fun x => x.wrote (uTd (s.microword t))
        (f (s.uReg t (uTa (s.microword t))) (uImm (s.microword t)))))) ∧
      (s.chosen ≠ some t.toNat ∨ uOp (s.microword t) ≠ u → exec c s = .next s) :=
    ⟨fun h hu => hc.trans (congrArg Host.Outcome.next (State.uImm1_eq f hI h hu)),
      fun h => hc.trans (congrArg Host.Outcome.next (State.uop_eq_of_idle _ h))⟩
  refine ⟨fun h hu => ?_, fun p hp => ?_⟩
  · exact congrArg Host.Outcome.next ((State.uop_eq_of_runsWord _ h hu).trans (State.uNext_counted t hI))
  · simp only [List.mem_cons, List.not_mem_nil, or_false] at hp
    obtain rfl | rfl | rfl | rfl | rfl | rfl | rfl | rfl | rfl | rfl | rfl := hp
    exacts [reg (· + ·) rfl, reg (· - ·) rfl, reg (· &&& ·) rfl, reg (· ||| ·) rfl, reg (· ^^^ ·) rfl, reg (fun a b => a <<< (b.toNat % 64)) rfl,
      reg (fun a b => a >>> (b.toNat % 64)) rfl, imm (· + ·) rfl, imm (· &&& ·) rfl, imm (fun a i => a <<< (i.toNat % 64)) rfl, imm (fun _ i => i) rfl]

/-- Settles O40: each of these words acts on its thread as counted, and where it waits, it parks the thread. -/
theorem fieldImageAndDeckMicrowords : Obligations.FieldImageAndDeckMicrowords := by
  unfold Obligations.FieldImageAndDeckMicrowords
  intro s t hI h
  dsimp only
  have hmoved := congrArg Thread.queue (State.thread_moved t hI)
  refine ⟨fun hu hin => ?_, fun hu hout => ?_, fun hu => execUopSte_eq hI h hu, fun hu hlo hhi => ?_, fun hu hr => execUopDrd_unassigned h hu hr,
    fun hu o hr => ?_, fun hu hr => ?_, fun hu => execUopBlz_eq hI h hu⟩
  · exact (execUopFld_eq hI h hu).trans (congrArg Host.Outcome.next (if_neg (Nat.not_lt.mpr hin)))
  · exact (execUopFld_eq hI h hu).trans (congrArg Host.Outcome.next (if_pos hout))
  · obtain ⟨htrap, hupc, hdrd, hregs, hcount, hother, hframe⟩ :=
      State.drdRead_spec t (s.microword t) (State.updThread_inv t (fun x => { x with count := x.count + 1 }) hI)
    rw [State.thread_counted t hI] at hupc hregs
    have hrun := execUopDrd_read h hu (by omega)
    revert htrap hupc hdrd hregs hcount hother hframe hrun
    generalize (s.updThread t (fun x => { x with count := x.count + 1 })).drdRead t (s.microword t) = u
    intro htrap hupc hdrd hregs hcount hother hframe hrun
    refine ⟨u, hrun, htrap, hupc, ?_, hregs, hcount, fun k hk => (hother k hk).trans (State.updThread_other _ _ hk), ?_⟩
    · rw [hdrd, State.uReg_counted t _ hI, State.drdWord, State.thread_counted t hI]
      rfl
    · exact hframe
  · refine (execUopObj_eq hI h hu).trans (congrArg Host.Outcome.next ?_)
    rw [State.objInto_known, hmoved]
    · rfl
    · rw [hmoved]
      exact hr
  · refine (execUopObj_eq hI h hu).trans (congrArg Host.Outcome.next ?_)
    rw [State.objInto_missing, hmoved]
    · rfl
    · rw [hmoved]
      exact hr
end

namespace Sys2Proof.Machine

/-! ## Resumption from traps (R206) -/

/-- A request for a reset of a kind not asked for yet, the block in service, joins those asked for (R523). -/
theorem State.ask_new {s : State} (kind : BitVec 4) (cause : BitVec 8) (hserv : s.fwc.state ≠ .outOfService)
    (hnew : ∀ a ∈ s.fwc.asked, a.1 ≠ kind) :
    s.ask kind cause = { s with fwc := { s.fwc with asked := s.fwc.asked ++ [(kind, cause)] } } := by
  have hasked : s.fwc.asked.any (fun a => a.1 = kind && leavesOos a == leavesOos (kind, cause)) = false := by
    simp only [List.any_eq_false]
    intro a ha
    simp [hnew a ha]
  refine (if_neg (by simp [hasked])).trans (if_neg ?_)
  simp [hserv]

/-- The uncorrectable microword, found for the first time, in a block in service. -/
theorem State.ucUncorr_first {s : State} (hu : s.uc.csUncorr = false) (hserv : s.fwc.state ≠ .outOfService)
    (hnew : ∀ a ∈ s.fwc.asked, a.1 ≠ kindFrontEnd) :
    let r := State.raise { s with uc := { s.uc with csUncorr := true } } 0x00D
    let t := r.noteFlag .csUncorr
    s.ucUncorr = { t with fwc := { t.fwc with asked := t.fwc.asked ++ [(kindFrontEnd, 0x04)] } } := by
  intro r t
  have ht : s.ucUncorr = t.ask kindFrontEnd 0x04 := by
    rw [State.ucUncorr, hu]
    rfl
  have hf : t.fwc = s.fwc := by
    show r.fwc = s.fwc
    exact State.raise_fwc _ _
  rw [ht]
  exact State.ask_new _ _ (hf ▸ hserv) (hf ▸ hnew)

/-! ## What a commit leaves of its queue and its thread (R203) -/

theorem State.each_queues {α : Type} (s : State) (l : List α) (f : State → α → State) (hf : ∀ s a, (f s a).queues = s.queues) :
    (s.each l f).queues = s.queues := by
  unfold State.each
  induction l generalizing s with
  | nil => rfl
  | cons a l ih => exact (ih (f s a)).trans (hf s a)

theorem State.mbxDone_queues (s : State) (page status : BitVec 8) (resp : W512) : (s.mbxDone page status resp).queues = s.queues := by
  unfold State.mbxDone
  dsimp only
  split <;> simp

theorem State.patchStep_queues (fuel : Nat) (s : State) : (State.patchStep fuel s).queues = s.queues := by
  induction fuel generalizing s with
  | zero => rfl
  | succ fuel ih =>
    unfold State.patchStep
    dsimp only
    split
    · split
      · rw [ih, State.endPatch]
        split <;> simp [State.mbxDone_queues]
      · rfl
    · split
      · rfl
      · rw [ih]
        split
        · rfl
        · simp [State.mbxDone_queues]

theorem State.freeThread_queues (s : State) (t : BitVec 4) : (s.freeThread t).queues = s.queues := State.patchStep_queues _ _

theorem State.takeRef_queues (s : State) (c : BitVec 20) (r : Resolved) (kernel : Bool) : (s.takeRef c r kernel).1.queues = s.queues := by
  unfold State.takeRef
  split <;> rfl

theorem State.takeRefs_queues (s : State) (c : BitVec 20) (l : List Resolved) (kernel : Bool) : (s.takeRefs c l kernel).1.queues = s.queues := by
  have go (a : State × List (W32 × Nat)) : (l.foldl (fun (a : State × List (W32 × Nat)) r =>
      let p := a.1.takeRef c r kernel
      (p.1, a.2 ++ [(r.handle, p.2)])) a).1.queues = a.1.queues := by
    induction l generalizing a with
    | nil => rfl
    | cons r l ih => exact (ih _).trans (a.1.takeRef_queues c r kernel)
  exact go _

theorem State.putMore_queues (s : State) (ent : Entry) (kind n first : Nat) (late : List Nat) : (s.putMore ent kind n first late).queues = s.queues := by
  unfold State.putMore
  split
  · exact State.each_queues _ _ _ fun _ _ => rfl
  · split <;> rfl

theorem State.retireObject_queues (s : State) (c : BitVec 20) (h : W32) (e : Nat) : (s.retireObject c h e).queues = s.queues := by
  unfold State.retireObject
  dsimp only
  split
  · rfl
  · split <;> rfl

theorem State.commitActs_queues (s : State) (c : BitVec 20) (acts : Nat) (ta : W64) (first : Nat) : (s.commitActs c acts ta first).queues = s.queues := by
  have claimed : (if acts / 2 % 2 = 1 then s.claimGraph c (ta.extractLsb' 0 12) else s).queues = s.queues := by split <;> rfl
  unfold State.commitActs
  dsimp only
  generalize (if acts / 2 % 2 = 1 then s.claimGraph c (ta.extractLsb' 0 12) else s) = a at claimed
  have released : (if acts / 4 % 2 = 1 then a.markReleasing c (ta.extractLsb' 0 12) first else a).queues = a.queues := by
    split
    · unfold State.markReleasing
      dsimp only
      split <;> rfl
    · rfl
  generalize (if acts / 4 % 2 = 1 then a.markReleasing c (ta.extractLsb' 0 12) first else a) = b at released
  rw [← claimed, ← released]
  split
  · exact State.retireObject_queues _ _ _ _
  · rfl

theorem State.commitEntries_queues (s : State) (ent : Entry) (kind n acts : Nat) (ta : W64) (late : List Nat) :
    (s.commitEntries ent kind n acts ta late).queues = s.queues :=
  (State.commitActs_queues _ _ _ _ _).trans (State.putMore_queues _ ent kind n _ late)

theorem State.freeThread_thread {s : State} (t : BitVec 4) (hw : tblWf {} s.uc.threads = true) : (s.freeThread t).thread t = {} :=
  (congrArg (tget ({} : Thread) · t.toNat) (State.patchOn_threads _)).trans (tget_tset_same _ _ _ _ 0 ((tblWf_iff _ _).mp hw).1)

/-- What a commit does to its packet's queue, from a state `r` in which the entries, references and actions are in place. -/
theorem State.commit_ends {s : State} (t : BitVec 4) (kind n acts : Nat) (ta : W64) (hI : s.Inv) :
    let th := s.thread t
    let due := s.cplDue th.queue
    ∃ (r : State) (ord : Nat), r.Inv ∧ r.queues = s.queues ∧
      s.commit t kind n acts ta = ((r.updQueue th.queue (fun x => { x with
        expSerial := x.expSerial + 1, rp := x.rp + BitVec.ofNat 32 th.ringUnits, lastOrd := ord
        cplReserved := if due then x.cplReserved + 1 else x.cplReserved })).restartTimer th.queue).freeThread t := by
  have hcount : State.Inv { s with lnd := { s.lnd with commits := s.lnd.commits + 1 } } := Inv.frame hI
  refine ⟨_, _, ?_, ?_, rfl⟩
  · apply State.commitEntries_inv
    split
    · exact State.bindProgram_inv _ _ (State.takeRefs_inv _ _ _ hcount)
    · exact State.takeRefs_inv _ _ _ hcount
  · refine (State.commitEntries_queues _ _ _ _ _ _ _).trans ?_
    split
    · exact State.takeRefs_queues _ _ _ _
    · exact State.takeRefs_queues _ _ _ _

/-- A queue whose timer starts afresh (R159). -/
def Queue.timed (x : Queue) (fc : Nat) : Queue := { x with timerFc := fc, fired := false }

theorem State.restartTimer_queue {s : State} (q : BitVec 14) (hw : tblWf {} s.queues = true) :
    (s.restartTimer q).queue q = (s.queue q).timed s.fc :=
  State.updQueue_same s q (fun x => x.timed s.fc) hw

/-- A commit frees its thread, consumes its serial and moves RP past its units. -/
theorem State.commit_consumes {s : State} (t : BitVec 4) (kind n acts : Nat) (ta : W64) (hI : s.Inv) :
    let q := (s.thread t).queue
    ((s.commit t kind n acts ta).queue q).expSerial = (s.queue q).expSerial + 1 ∧
    ((s.commit t kind n acts ta).queue q).rp = (s.queue q).rp + BitVec.ofNat 32 (s.thread t).ringUnits ∧
    (s.commit t kind n acts ta).thread t = {} := by
  obtain ⟨r, ord, hr, hq, e⟩ := State.commit_ends t kind n acts ta hI
  intro q
  have hrq : r.queue q = s.queue q := congrArg (tget ({} : Queue) · q.toNat) hq
  rw [e]
  have hqueue (x : State) : (x.freeThread t).queue q = x.queue q := congrArg (tget ({} : Queue) · q.toNat) (x.freeThread_queues t)
  rw [hqueue, State.restartTimer_queue q (State.updQueue_inv q _ hr).queues, State.updQueue_same _ _ _ hr.queues, hrq]
  exact ⟨rfl, rfl, State.freeThread_thread t (State.restartTimer_inv _ (State.updQueue_inv _ _ hr)).threads⟩

end Sys2Proof.Machine

namespace Sys2Proof.Machine

/-! ## ADMIT by its conditions (R202, R203, R205) -/

section
variable {s : State} {t : BitVec 4} {kind n acts : Nat} {ta : W64}

/-- Another thread holds the commit lock (R205). -/
def State.lockedOut (s : State) (t : BitVec 4) : Prop := s.uc.lockHolder.isSome = true ∧ s.uc.lockHolder ≠ some t.toNat

theorem State.admitTrap_header (h : (s.thread t).headerDone = false) : s.admitTrap t = some .header := if_pos (by simp [h])

theorem State.admitTrap_lock (h : (s.thread t).headerDone = true) (hl : s.lockedOut t) : s.admitTrap t = some .lock :=
  (if_neg (by simp [h])).trans (if_pos (by simpa [State.lockedOut] using hl))

theorem State.admitTrap_order (h : (s.thread t).headerDone = true) (hl : ¬s.lockedOut t) (he : s.earlierHeld t = true) :
    s.admitTrap t = some .order :=
  (if_neg (by simp [h])).trans ((if_neg (by simpa [State.lockedOut] using hl)).trans (if_pos he))

theorem State.admitTrap_none (h : (s.thread t).headerDone = true) (hl : ¬s.lockedOut t) (he : s.earlierHeld t = false) :
    s.admitTrap t = none :=
  (if_neg (by simp [h])).trans ((if_neg (by simpa [State.lockedOut] using hl)).trans (if_neg (by simp [he])))

theorem State.admitPacket_parks {c : Trap} (h : s.admitTrap t = some c) : s.admitPacket t kind n acts ta = s.park t c := by
  simp only [State.admitPacket, h]

theorem State.admitPacket_discards (h : s.admitTrap t = none) (h1 : s.check1 (s.thread t).queue (s.thread t).pkt = false) :
    s.admitPacket t kind n acts ta = s.discard t := by
  rw [State.admitPacket, h]
  exact if_pos (by simp [h1])

theorem State.admitPacket_restarts (h : s.admitTrap t = none) (h1 : s.check1 (s.thread t).queue (s.thread t).pkt = true) (hc : s.conflict t = true) :
    s.admitPacket t kind n acts ta = s.restart t := by
  rw [State.admitPacket, h]
  exact (if_neg (by simp [h1])).trans (if_pos hc)

/-- The thread has nothing to wait for, its packet stands as it was admitted, and what it read is unchanged (R203). -/
structure State.HasTurn (s : State) (t : BitVec 4) : Prop where
  free : s.admitTrap t = none
  open_ : s.check1 (s.thread t).queue (s.thread t).pkt = true
  steady : s.conflict t = false

/-- More entries than the quota of a USER queue's context (R203 condition 5). -/
def State.overQuota (s : State) (t : BitVec 4) (n : Nat) : Prop :=
  (s.queue (s.thread t).queue).kernel = false ∧ s.quotaOf (s.queue (s.thread t).queue).ctx < n

/-- A claim of a graph that is claimed (R203 condition 6). -/
def State.claimsClaimed (s : State) (t : BitVec 4) (acts : Nat) (ta : W64) : Prop :=
  acts / 2 % 2 = 1 ∧ (s.graph (s.queue (s.thread t).queue).ctx (ta.extractLsb' 0 12)).claimed = true

theorem State.admitFails_header {st : BitVec 8} (h : (s.thread t).headerFail = some st) : s.admitFails t kind n acts ta = some st :=
  (if_pos (by simp [h])).trans h

theorem State.admitFails_stale (h : (s.thread t).headerFail = none) (hs : (s.thread t).stale = true) :
    s.admitFails t kind n acts ta = some 0x0A :=
  (if_neg (by simp [h])).trans (if_pos hs)

section
variable (h : (s.thread t).headerFail = none) (hs : (s.thread t).stale = false)
include h hs

theorem State.admitFails_quota (hq : s.overQuota t n) : s.admitFails t kind n acts ta = some 0x0D :=
  (if_neg (by simp [h])).trans ((if_neg (by simp [hs])).trans (if_pos (by simpa [State.overQuota] using hq)))

variable (hq : ¬s.overQuota t n)
include hq

/-- Conditions 4 and 5 passed, the claim and the kind decide. -/
theorem State.admitFails_late : s.admitFails t kind n acts ta =
    if acts / 2 % 2 = 1 && (s.graph (s.queue (s.thread t).queue).ctx (ta.extractLsb' 0 12)).claimed then some 0x04
    else if !admitKind kind (s.queue (s.thread t).queue).kernel then some 0x04 else none :=
  (if_neg (by simp [h])).trans ((if_neg (by simp [hs])).trans (if_neg (by simpa [State.overQuota] using hq)))

theorem State.admitFails_malformed (hc : s.claimsClaimed t acts ta ∨ admitKind kind (s.queue (s.thread t).queue).kernel = false) :
    s.admitFails t kind n acts ta = some 0x04 := by
  rw [State.admitFails_late h hs hq]
  by_cases hclaim : s.claimsClaimed t acts ta
  · exact if_pos (by simpa [State.claimsClaimed] using hclaim)
  · exact (if_neg (by simpa [State.claimsClaimed] using hclaim)).trans (if_pos (by simpa using hc.resolve_left hclaim))

theorem State.admitFails_none (hc : ¬s.claimsClaimed t acts ta) (hk : admitKind kind (s.queue (s.thread t).queue).kernel = true) :
    s.admitFails t kind n acts ta = none := by
  rw [State.admitFails_late h hs hq]
  exact (if_neg (by simpa [State.claimsClaimed] using hc)).trans (if_neg (by simp [hk]))

end

/-- The conditions that stand after the turn, and the commit (R203). -/
theorem State.admitPacket_turn (h : s.HasTurn t) : s.admitPacket t kind n acts ta =
    match s.admitFails t kind n acts ta with
    | some st => s.rejectNow t st
    | none =>
      match s.bound (s.thread t).queue n ((s.thread t).objects.map (·.handle)) with
      | some why => s.abandon t why n ((s.thread t).objects.map (·.handle))
      | none => s.commit t kind n acts ta := by
  rw [State.admitPacket, h.free]
  exact (if_neg (by simp [h.open_])).trans (if_neg (by simp [h.steady]))

theorem State.admitPacket_rejects {st : BitVec 8} (h : s.HasTurn t) (hf : s.admitFails t kind n acts ta = some st) :
    s.admitPacket t kind n acts ta = s.rejectNow t st := by
  rw [State.admitPacket_turn h, hf]

theorem State.admitPacket_abandons {why : BlockWhy} (h : s.HasTurn t) (hf : s.admitFails t kind n acts ta = none)
    (hb : s.bound (s.thread t).queue n ((s.thread t).objects.map (·.handle)) = some why) :
    s.admitPacket t kind n acts ta = s.abandon t why n ((s.thread t).objects.map (·.handle)) := by
  rw [State.admitPacket_turn h, hf, hb]

theorem State.admitPacket_commits (h : s.HasTurn t) (hf : s.admitFails t kind n acts ta = none)
    (hb : s.bound (s.thread t).queue n ((s.thread t).objects.map (·.handle)) = none) :
    s.admitPacket t kind n acts ta = s.commit t kind n acts ta := by
  rw [State.admitPacket_turn h, hf, hb]

end

end Sys2Proof.Machine

section
open Sys2Proof Sys2Proof.Machine

/-- Settles O41: ADMIT's tests stand in this order, and a rejection has the same turn. -/
theorem admitAndRejectTestInOrder : Obligations.AdmitAndRejectTestInOrder := by
  unfold Obligations.AdmitAndRejectTestInOrder
  intro s t hI h
  dsimp only
  have hc := State.updThread_inv t (fun x => { x with count := x.count + 1 }) hI
  have hadmit (hu : uOp (s.microword t) = 0x30) : exec (.uopAdmit t) s = .next ((s.updThread t (fun x => { x with count := x.count + 1 })).admitPacket t
      (uArg16 (s.microword t) % 256) (uArg8 (s.microword t) % 4 + 1) (uArg8 (s.microword t) / 16) (s.uReg t (uTa (s.microword t)))) := by
    refine congrArg Host.Outcome.next ((State.uop_eq_of_runsWord _ h hu).trans ?_)
    rw [State.uReg_counted t _ hI]
  have hrej (hu : uOp (s.microword t) = 0x31) : exec (.uopRej t) s = .next ((s.updThread t (fun x => { x with count := x.count + 1 })).reject t
      ((s.microword t).extractLsb' 16 8)) := by
    refine congrArg Host.Outcome.next ((State.uop_eq_of_runsWord _ h hu).trans ?_)
    rw [ofNat_uArg8]
  revert hc hadmit hrej
  generalize s.updThread t (fun x => { x with count := x.count + 1 }) = c
  intro hc hadmit hrej
  refine ⟨fun hu => ?_, fun hu => ?_⟩
  · have ran {a : State} (e : c.admitPacket t _ _ _ _ = a) : exec (.uopAdmit t) s = .next a := (hadmit hu).trans (congrArg Host.Outcome.next e)
    have fails {st : BitVec 8} (ht : c.HasTurn t) (e : c.admitFails t _ _ _ _ = some st) : exec (.uopAdmit t) s = .next (c.rejectNow t st) :=
      ran (State.admitPacket_rejects ht e)
    refine ⟨fun hd => ran (State.admitPacket_parks (State.admitTrap_header hd)), fun hd hl => ran (State.admitPacket_parks (State.admitTrap_lock hd hl)),
      fun hd hl he => ran (State.admitPacket_parks (State.admitTrap_order hd hl he)),
      fun hd hl he h1 => ran (State.admitPacket_discards (State.admitTrap_none hd hl he) h1),
      fun hd hl he h1 hk => ran (State.admitPacket_restarts (State.admitTrap_none hd hl he) h1 hk), ?_⟩
    have turn (h : (c.thread t).headerDone = true ∧ ¬c.lockedOut t ∧ c.earlierHeld t = false ∧
        c.check1 (c.thread t).queue (c.thread t).pkt = true ∧ c.conflict t = false) : c.HasTurn t :=
      have ⟨hd, hl, he, h1, hk⟩ := h
      ⟨State.admitTrap_none hd hl he, h1, hk⟩
    refine ⟨fun ht st hf => fails (turn ht) (State.admitFails_header hf), fun ht hf hs => fails (turn ht) (State.admitFails_stale hf hs),
      fun ht hf hs hq => fails (turn ht) (State.admitFails_quota hf hs hq),
      fun ht hf hs hq hm => fails (turn ht) (State.admitFails_malformed hf hs hq hm), fun ⟨ht, hf, hs, hq, hm, hk⟩ why hb => ?_,
      fun ⟨ht, hf, hs, hq, hm, hk⟩ hb => ?_⟩
    · exact ran (State.admitPacket_abandons (turn ht) (State.admitFails_none hf hs hq hm hk) hb)
    · exact ⟨ran (State.admitPacket_commits (turn ht) (State.admitFails_none hf hs hq hm hk) hb), State.commit_consumes t _ _ _ _ hc⟩
  · have ran {a : State} (e : c.reject t ((s.microword t).extractLsb' 16 8) = a) : exec (.uopRej t) s = .next a :=
      (hrej hu).trans (congrArg Host.Outcome.next e)
    refine ⟨fun he hd => ran (if_pos (by simp [he, hd])), fun hd hh => ran ((if_neg (by simp [hd])).trans (if_pos hh)),
      fun hd hh h1 => ran ((if_neg (by simp [hd])).trans ((if_neg (by simp [hh])).trans (if_pos (by simp [h1])))), fun hd hh h1 he => ran ?_⟩
    refine (if_neg (by simp [hd])).trans ((if_neg (by simp [hh])).trans ((if_neg (by simp [h1])).trans ?_))
    rw [if_neg (by simp [he])]
end

namespace Sys2Proof.Machine

/-! ## Scans of the test access port (R68, R69)

A shift register of length `L` that holds `d`, with `v` shifted in behind it, is a window of the number `2 ^ L * v + d`: after
`k` shifts it holds the `L` bits from bit `k` on, and the `k` bits below it have come out. -/

/-- The window of length `L` on a number, `k` bits up. -/
def window (w L D k : Nat) : BitVec w := BitVec.ofNat w (D / 2 ^ k % 2 ^ L)

theorem getLsbD_window {w L : Nat} (D k j : Nat) (hL : L ≤ w) : (window w L D k).getLsbD j = (decide (j < L) && D.testBit (k + j)) := by
  simp only [window, BitVec.getLsbD_ofNat, Nat.testBit_mod_two_pow, Nat.testBit_div_two_pow]
  by_cases hj : j < L
  · simp [hj, show j < w by omega, Nat.add_comm j k]
  · simp [hj]

/-- The bits of a number with `v` above its low `L` bits. -/
theorem testBit_above {L d v : Nat} (hd : d < 2 ^ L) (k : Nat) : (2 ^ L * v + d).testBit (k + L) = v.testBit k := by
  rw [Nat.testBit_two_pow_mul_add _ hd, if_neg (by omega), Nat.add_sub_cancel]

/-- One shift moves the window up one bit. -/
theorem window_shift {w L d v : Nat} (k : Nat) (hpos : 0 < L) (hL : L ≤ w) (hd : d < 2 ^ L) :
    (window w L (2 ^ L * v + d) k >>> 1) ||| (if v.testBit k then BitVec.twoPow w (L - 1) else 0) = window w L (2 ^ L * v + d) (k + 1) := by
  apply BitVec.eq_of_getLsbD_eq
  intro j hj
  have hin : (if v.testBit k then BitVec.twoPow w (L - 1) else 0).getLsbD j = (decide (j = L - 1) && v.testBit k) := by
    cases v.testBit k
    · simp
    · simp [BitVec.getLsbD_twoPow, show L - 1 < w by omega, eq_comm]
  rw [BitVec.getLsbD_or, BitVec.getLsbD_ushiftRight, getLsbD_window _ _ _ hL, getLsbD_window _ _ _ hL, hin]
  by_cases htop : j = L - 1
  · have hsum : k + 1 + j = k + L := by omega
    have hout : ¬(1 + j < L) := by omega
    rw [hsum, testBit_above hd]
    simp only [hout, decide_false, Bool.false_and, Bool.false_or]
    simp [htop, hpos]
  · have hin : 1 + j < L ↔ j < L := by omega
    simp [htop, hin, Nat.add_assoc]

/-- The bit that comes out is the lowest one of the window. -/
theorem getLsbD_window_zero {w L : Nat} (D k : Nat) (hpos : 0 < L) (hL : L ≤ w) : (window w L D k).getLsbD 0 = D.testBit k := by
  rw [getLsbD_window _ _ _ hL]
  simp [hpos]

theorem lowBits_succ (D k : Nat) : lowBits D (k + 1) = lowBits D k ++ [D.testBit k] := by
  simp [lowBits, List.range_succ]

/-- The shift cycles before the last one. -/
def shiftHead (v k : Nat) : List (Bool × Bool) := (List.range k).map (fun i => (false, v.testBit i))

theorem shiftHead_succ (v k : Nat) : shiftHead v (k + 1) = shiftHead v k ++ [(false, v.testBit k)] := by
  simp [shiftHead, List.range_succ]

theorem shiftBits_succ (v n : Nat) : shiftBits v (n + 1) = shiftHead v n ++ [(true, v.testBit n)] := by
  rw [shiftBits, List.range_succ, List.map_append]
  congr 1
  · refine List.map_congr_left fun i hi => ?_
    have : i ≠ n := Nat.ne_of_lt (List.mem_range.mp hi)
    simp [this, Nat.testBit_eq_decide_div_mod_eq]
  · simp [Nat.testBit_eq_decide_div_mod_eq]

/-- A register that holds a value that fits it. -/
theorem window_zero {w L : Nat} {x : BitVec w} (v : Nat) (hx : x.toNat < 2 ^ L) : window w L (2 ^ L * v + x.toNat) 0 = x := by
  simp [window, Nat.mod_eq_of_lt hx]

/-- The instruction register after `k` shifts of `v`. -/
def Pins.irShifted (p : Pins) (v k : Nat) : Pins :=
  { p with irShift := window 8 8 (2 ^ 8 * v + p.irShift.toNat) k, tdo := p.tdo ++ lowBits (2 ^ 8 * v + p.irShift.toNat) k }

/-- One shift of the instruction register. -/
theorem Pins.irShifted_tck {held : Bool} {p : Pins} (v k : Nat) (tms : Bool) (ht : p.trst = false) (hs : p.tap = .shiftIr) :
    (p.irShifted v k).tck held tms (v.testBit k) = { p.irShifted v (k + 1) with tap := TapState.shiftIr.next tms } := by
  have hshift := window_shift (w := 8) (v := v) k (by decide) (le_refl 8) p.irShift.isLt
  have hout := getLsbD_window_zero (w := 8) (2 ^ 8 * v + p.irShift.toNat) k (by decide) (le_refl 8)
  simp only [Pins.tck, Pins.irShifted, ht, hs, Bool.false_eq_true, if_false, hout, lowBits_succ, ← hshift, List.append_assoc]
  rfl

theorem Pins.shiftIr_head {held : Bool} {p : Pins} (v k : Nat) (ht : p.trst = false) (hs : p.tap = .shiftIr) :
    (shiftHead v k).foldl (fun p b => p.tck held b.1 b.2) p = p.irShifted v k := by
  induction k with
  | zero => 
    rw [Pins.irShifted, window_zero v p.irShift.isLt]
    simp [shiftHead, lowBits]
  | succ k ih =>
    rw [shiftHead_succ, List.foldl_append, ih]
    refine (Pins.irShifted_tck v k false ht hs).trans ?_
    rw [show TapState.shiftIr.next false = p.tap from hs.symm]
    rfl

/-- A whole value shifted into the instruction register. -/
theorem Pins.shiftIr_all {held : Bool} {p : Pins} (v : Nat) (ht : p.trst = false) (hs : p.tap = .shiftIr) :
    (shiftBits v 8).foldl (fun p b => p.tck held b.1 b.2) p = { p.irShifted v 8 with tap := .exit1Ir } := by
  rw [shiftBits_succ, List.foldl_append, Pins.shiftIr_head v 7 ht hs]
  exact Pins.irShifted_tck v 7 true ht hs

/-- The data register after `k` shifts of `v`. -/
def Pins.drShifted (p : Pins) (v k : Nat) : Pins :=
  { p with dr := window 64 p.drLen (2 ^ p.drLen * v + p.dr.toNat) k, tdo := p.tdo ++ lowBits (2 ^ p.drLen * v + p.dr.toNat) k }

/-- The data register holds a value that fits its length. -/
structure Pins.DrFits (p : Pins) : Prop where
  pos : 0 < p.drLen
  le : p.drLen ≤ 64
  lt : p.dr.toNat < 2 ^ p.drLen

theorem Pins.drShifted_tck {held : Bool} {p : Pins} (v k : Nat) (tms : Bool) (hf : p.DrFits) (ht : p.trst = false) (hs : p.tap = .shiftDr) :
    (p.drShifted v k).tck held tms (v.testBit k) = { p.drShifted v (k + 1) with tap := TapState.shiftDr.next tms } := by
  have hshift := window_shift (w := 64) (v := v) k hf.pos hf.le hf.lt
  have hout := getLsbD_window_zero (w := 64) (2 ^ p.drLen * v + p.dr.toNat) k hf.pos hf.le
  simp only [Pins.tck, Pins.drShifted, ht, hs, Bool.false_eq_true, if_false, hout, lowBits_succ, ← hshift, List.append_assoc]

theorem Pins.shiftDr_head {held : Bool} {p : Pins} (v k : Nat) (hf : p.DrFits) (ht : p.trst = false) (hs : p.tap = .shiftDr) :
    (shiftHead v k).foldl (fun p b => p.tck held b.1 b.2) p = p.drShifted v k := by
  induction k with
  | zero =>
    rw [Pins.drShifted, window_zero v hf.lt]
    simp [shiftHead, lowBits]
  | succ k ih =>
    rw [shiftHead_succ, List.foldl_append, ih]
    refine (Pins.drShifted_tck v k false hf ht hs).trans ?_
    rw [show TapState.shiftDr.next false = p.tap from hs.symm]
    rfl

/-- A whole value shifted through the data register. -/
theorem Pins.shiftDr_all {held : Bool} {p : Pins} (v n : Nat) (hf : p.DrFits) (ht : p.trst = false) (hs : p.tap = .shiftDr) :
    (shiftBits v (n + 1)).foldl (fun p b => p.tck held b.1 b.2) p = { p.drShifted v (n + 1) with tap := .exit1Dr } := by
  rw [shiftBits_succ, List.foldl_append, Pins.shiftDr_head v n hf ht hs]
  exact Pins.drShifted_tck v n true hf ht hs

/-- The TAP once `ir` is its instruction and its data register has captured (R68, R69). -/
def Pins.captured (p : Pins) (ir : BitVec 8) : Pins :=
  { p with tap := .shiftDr, ir, irShift := ir, dr := (p.register ir).1, drLen := (p.register ir).2, tdo := [] }

/-- The TAP in Shift-IR, its instruction register captured. -/
def Pins.shiftingIr (p : Pins) (i : BitVec 8) : Pins := { p with tap := .shiftIr, ir := i, irShift := 0x01, tdo := [] }

/-- From where a scan begins, the way to Shift-IR. -/
theorem Pins.toShiftIr {held : Bool} {p : Pins} (h : p.readyToScan) :
    ∃ i, [(false, false), (true, false), (true, false), (false, false), (false, false)].foldl (fun p b => p.tck held b.1 b.2) p =
      p.shiftingIr i := by
  obtain ⟨ht, hs | hs⟩ := h
  · refine ⟨0x01, ?_⟩
    simp [Pins.tck, TapState.next, Pins.shiftingIr, ht, hs]
  · refine ⟨p.ir, ?_⟩
    simp [Pins.tck, TapState.next, Pins.shiftingIr, ht, hs]

/-- All of `ir` shifted in replaces what the instruction register held. -/
theorem window_ir (ir x : BitVec 8) : window 8 8 (2 ^ 8 * ir.toNat + x.toNat) 8 = ir := by
  apply BitVec.eq_of_toNat_eq
  have := x.isLt
  have := ir.isLt
  simp only [window, BitVec.toNat_ofNat]
  omega

theorem Pins.scan_captures {held : Bool} {p : Pins} (ir : BitVec 8) (h : p.readyToScan) :
    ([(false, false), (true, false), (true, false), (false, false), (false, false)] ++ shiftBits ir.toNat 8 ++
      [(true, false), (true, false), (false, false), (false, false)]).foldl (fun p b => p.tck held b.1 b.2) p = p.captured ir := by
  obtain ⟨i, hi⟩ := Pins.toShiftIr (held := held) h
  rw [List.foldl_append, List.foldl_append, hi, Pins.shiftIr_all (p := p.shiftingIr i) ir.toNat h.1 rfl]
  simp only [Pins.irShifted, Pins.shiftingIr, window_ir]
  simp [Pins.tck, TapState.next, Pins.captured, Pins.register, Pins.bypassed, h.1]

/-- A scan of `n + 1` bits: the data register's bits come out, and it is updated with what has been shifted in. -/
theorem Pins.scan_eq {held : Bool} {p : Pins} (ir : BitVec 8) (v n : Nat) (h : p.readyToScan) (hf : (p.captured ir).DrFits) :
    (scanBits ir v (n + 1)).foldl (fun p b => p.tck held b.1 b.2) p =
      { Pins.updateDr { (p.captured ir).drShifted v (n + 1) with tap := .updateDr } held with tap := .runTestIdle } := by
  have ht : p.trst = false := h.1
  rw [scanBits, List.foldl_append, List.foldl_append, Pins.scan_captures ir h, Pins.shiftDr_all (p := p.captured ir) v n hf ht rfl]
  simp [Pins.tck, TapState.next, ht, Pins.drShifted, Pins.captured]

/-- A TAP held by TRST_N does nothing (R68). -/
theorem State.scan_held {s : State} (ir : BitVec 8) (v n : Nat) (h : s.pins.trst = true) : s.scan ir v n = s := by
  have go (l : List (Bool × Bool)) : l.foldl (fun p b => p.tck s.anyReset b.1 b.2) s.pins = s.pins := by
    induction l with
    | nil => rfl
    | cons b l ih => 
      rw [List.foldl_cons, show s.pins.tck s.anyReset b.1 b.2 = s.pins from if_pos h]
      exact ih
  rw [State.scan, go]

/-- The bits below `v` come out first. -/
theorem lowBits_above {L d : Nat} (v n : Nat) (hd : d < 2 ^ L) (hn : n ≤ L) : lowBits (2 ^ L * v + d) n = lowBits d n := by
  refine List.map_congr_left fun i hi => ?_
  have hi : i < n := List.mem_range.mp hi
  rw [Nat.testBit_two_pow_mul_add _ hd, if_pos (by omega)]

/-- Through the bypass register the bits come out one cycle late, after a zero. -/
theorem lowBits_double (v n : Nat) : lowBits (2 * v) (n + 1) = false :: lowBits v n := by
  simp [lowBits, List.range_succ_eq_map, Nat.testBit_succ, Function.comp_def]

section
variable {p : Pins} {held : Bool} {ir : BitVec 8} {d : W64} {L : Nat}

theorem Pins.drFits_captured (hreg : p.register ir = (d, L)) (hpos : 0 < L) (hle : L ≤ 64) (hd : d.toNat < 2 ^ L) : (p.captured ir).DrFits := by
  refine ⟨?_, ?_, ?_⟩ <;> simpa [Pins.captured, hreg]

/-- A scan of an instruction whose data register has no update. -/
theorem Pins.scan_plain (v n : Nat) (h : p.readyToScan) (hreg : p.register ir = (d, L)) (hpos : 0 < L) (hle : L ≤ 64) (hd : d.toNat < 2 ^ L)
    (hup : ir ≠ 0x10 ∨ p.bypassed ir = true) : (scanBits ir v (n + 1)).foldl (fun p b => p.tck held b.1 b.2) p =
      p.scanned ir (window 64 L (2 ^ L * v + d.toNat) (n + 1)) L (lowBits (2 ^ L * v + d.toNat) (n + 1)) := by
  have hbyp : (Pins.bypassed { (p.captured ir).drShifted v (n + 1) with tap := .updateDr } ir) = p.bypassed ir := rfl
  rw [Pins.scan_eq ir v n h (Pins.drFits_captured hreg hpos hle hd), Pins.updateDr, if_pos]
  · simp [Pins.drShifted, Pins.captured, Pins.scanned, hreg]
  · exact (Bool.or_eq_true _ _).mpr (hup.imp (fun hne => decide_eq_true hne) id)

/-- A scan of MBIST_CTRL in test mode (R568, R570). -/
theorem Pins.scan_ctrl (v : W32) (h : p.readyToScan) (hm : p.testMode = true) :
    let q : Pins := { p.scanned 0x10 (v.setWidth 64) 32 (lowBits p.mbistCtrl.toNat 32) with mbistCtrl := v &&& 0xFFFC0000 }
    (scanBits 0x10 v.toNat 32).foldl (fun p b => p.tck held b.1 b.2) p = if bit v 0 && !p.bistRun && !held then startBist q v else q := by
  intro q
  have hbyp : p.bypassed 0x10 = false := by simp [Pins.bypassed, hm]
  have hreg : p.register 0x10 = (p.mbistCtrl.setWidth 64, 32) := by simp [Pins.register, Pins.bypassed, hm]
  have hctrl : (p.mbistCtrl.setWidth 64).toNat = p.mbistCtrl.toNat := BitVec.toNat_setWidth_of_le (by decide)
  have hlt : (p.mbistCtrl.setWidth 64).toNat < 2 ^ 32 := hctrl ▸ p.mbistCtrl.isLt
  have hdr : window 64 32 (2 ^ 32 * v.toNat + p.mbistCtrl.toNat) 32 = v.setWidth 64 := by
    have := v.isLt
    have := p.mbistCtrl.isLt
    apply BitVec.eq_of_toNat_eq
    simp only [window, BitVec.toNat_ofNat, BitVec.toNat_setWidth]
    omega
  have hv : ((v.setWidth 64 : W64).setWidth 32 : W32) = v := by simp
  rw [Pins.scan_eq 0x10 v.toNat 31 h (Pins.drFits_captured hreg (by decide) (by decide) hlt), Pins.updateDr, if_neg]
  · simp only [Pins.drShifted, Pins.captured, hreg, hctrl, hdr, hv, lowBits_above _ _ p.mbistCtrl.isLt (le_refl 32)]
    cases (bit v 0 && !p.bistRun && !held)
    · rfl
    · simp only [if_true, startBist]
      split <;> rfl
  · exact Bool.eq_false_iff.mp hbyp

end

/-- A scan of the TAP's state of the block. -/
theorem State.scan_pins {s : State} {ir : BitVec 8} {v n : Nat} {p : Pins}
    (h : (scanBits ir v n).foldl (fun p b => p.tck s.anyReset b.1 b.2) s.pins = p) : s.scan ir v n = { s with pins := p } := by
  rw [State.scan, h]

/-- What is left of a register that fits below bit `k` once `k` bits are out. -/
theorem window_empty {w L D k : Nat} (h : D < 2 ^ k) : window w L D k = 0 := by
  simp [window, Nat.div_eq_of_lt h]

section
variable {s : State} (h : s.pins.readyToScan)
include h

/-- A scan of an instruction without update, with zeros shifted in, empties its data register. -/
theorem State.scan_out {ir : BitVec 8} {d : W64} {L : Nat} (hreg : s.pins.register ir = (d, L)) (hpos : 0 < L) (hle : L ≤ 64) (hd : d.toNat < 2 ^ L)
    (hup : ir ≠ 0x10 ∨ s.pins.bypassed ir = true) : s.scan ir 0 L = { s with pins := s.pins.scanned ir 0 L (lowBits d.toNat L) } := by
  obtain ⟨n, rfl⟩ := Nat.exists_eq_succ_of_ne_zero (Nat.ne_of_gt hpos)
  refine State.scan_pins ((Pins.scan_plain 0 n h hreg hpos hle hd hup).trans ?_)
  rw [Nat.mul_zero, Nat.zero_add, window_empty hd]

/-- The bypass register is one zero bit (R69, R70). -/
theorem State.scan_bypassed {ir : BitVec 8} (v n : Nat) (hb : s.pins.bypassed ir = true) :
    s.scan ir v (n + 1) = { s with pins := s.pins.scanned ir (BitVec.ofNat 64 (v / 2 ^ n % 2)) 1 (false :: lowBits v n) } := by
  have hreg : s.pins.register ir = (0, 1) := by
    have hne : ir ≠ 0x01 := fun e => by simp [Pins.bypassed, e] at hb
    exact (if_neg hne).trans (if_pos hb)
  refine State.scan_pins ((Pins.scan_plain v n h hreg (by decide) (by decide) (by decide) (.inr hb)).trans ?_)
  have hwin : window 64 1 (2 ^ 1 * v + (0 : W64).toNat) (n + 1) = BitVec.ofNat 64 (v / 2 ^ n % 2) := by
    have hdiv : 2 ^ 1 * v / 2 ^ (n + 1) = v / 2 ^ n := by
      rw [pow_one, pow_succ']
      exact Nat.mul_div_mul_left v (2 ^ n) two_pos
    exact congrArg (fun x => BitVec.ofNat 64 (x % 2)) hdiv
  rw [hwin]
  exact congrArg _ (lowBits_double v n)

end

theorem idcode_toNat : ∃ m < 2048, idcode.toNat = 2 * 2 ^ 28 + 0x7404 * 2 ^ 12 + m * 2 + 1 := by
  have hm : Config.idManufacturer.toNat < 2 ^ 11 := Config.idManufacturer.isLt
  refine ⟨Config.idManufacturer.toNat, hm, ?_⟩
  rw [idcode, BitVec.toNat_append, BitVec.toNat_append, ← Nat.shiftLeft_add_eq_or_of_lt hm, ← Nat.shiftLeft_add_eq_or_of_lt (by decide)]
  have hhead : (2#4 ++ 0x7404#16).toNat = 2 * 2 ^ 16 + 0x7404 := by decide
  rw [hhead, Nat.shiftLeft_eq, Nat.shiftLeft_eq]
  have hone : (1#1).toNat = 1 := rfl
  omega

theorem State.scan_idcode {s : State} (h : s.pins.readyToScan) :
    s.scan 0x01 0 32 = { s with pins := s.pins.scanned 0x01 0 32 (lowBits idcode.toNat 32) } := by
  have hid : (idcode.setWidth 64).toNat = idcode.toNat := BitVec.toNat_setWidth_of_le (by decide)
  rw [State.scan_out (d := idcode.setWidth 64) h rfl (by decide) (by decide) (hid ▸ idcode.isLt) (.inl (by decide)), hid]

theorem State.scan_ctrl {s : State} (v : W32) (h : s.pins.readyToScan) (hm : s.pins.testMode = true) :
    let q : Pins := { s.pins.scanned 0x10 (v.setWidth 64) 32 (lowBits s.pins.mbistCtrl.toNat 32) with mbistCtrl := v &&& 0xFFFC0000 }
    s.scan 0x10 v.toNat 32 = { s with pins := if bit v 0 && !s.pins.bistRun && !s.anyReset then startBist q v else q } :=
  State.scan_pins (Pins.scan_ctrl v h hm)

/-- The bit that stands in the bypass register after a value of 32 bits. -/
theorem ofNat_top_bit (v : W32) : BitVec.ofNat 64 (v.toNat / 2 ^ 31 % 2) = if v.getLsbD 31 then 1 else 0 := by
  rw [BitVec.getLsbD, Nat.testBit_eq_decide_div_mod_eq]
  rcases Nat.mod_two_eq_zero_or_one (v.toNat / 2 ^ 31) with h | h <;> rw [h] <;> rfl

/-- The state once a token that keeps its rules is taken (R58). -/
def State.tookToken (s : State) : State :=
  { (State.leaveIdle { s with fe := { s.fe with rxFc := some s.fc } }) with
    fe := { s.fe with rxFc := some s.fc, rxAccepted := s.fe.rxAccepted + 1 } }

theorem State.tookToken_fwc (s : State) : s.tookToken.fwc = s.fwc := State.leaveIdle_fwc _

theorem execTokenReceive_good {s : State} {t : W64} (hr : s.rxReady = true) (hb : s.tokenBad t = false) : execTokenReceive t s =
    .next (if s.fwc.feBusy then { s.tookToken with fe := { s.tookToken.fe with rxHeld := s.fe.rxHeld ++ [t] } } else s.tookToken.applyToken t) := by
  have hnot : ¬(s.tokenBad t = true) := by simp [hb]
  refine congrArg Host.Outcome.next ((if_neg (by simp [hr])).trans ((if_neg hnot).trans ?_))
  show (if s.tookToken.fwc.feBusy then { s.tookToken with fe := { s.tookToken.fe with rxHeld := s.fe.rxHeld ++ [t] } }
    else s.tookToken.applyToken t) = _
  rw [State.tookToken_fwc]

end Sys2Proof.Machine

section
open Sys2Proof Sys2Proof.Machine

/-- Settles O59: a scan is the shift of its two registers, and the other commands are their tests. -/
theorem pinsTokensAndTestAccess : Obligations.PinsTokensAndTestAccess := by
  unfold Obligations.PinsTokensAndTestAccess
  intro s hI
  dsimp only
  refine ⟨fun t => ⟨fun hr => ?_, fun hr hb => ?_, fun hr hb hf => ?_, fun hr hb hf => ?_⟩, fun t rest hq hrun => ?_, fun hq => ?_, fun hready => ?_, fun ht => ?_, ?_,
    fun r hr => ?_, fun dom hdom => ?_, fun level hl => ⟨fun hao hall => ?_, fun h => ?_⟩, fun dom ev => ⟨fun h => ?_, fun hdom hnot => ?_⟩⟩
  · exact congrArg Host.Outcome.next (if_pos (by simp [hr]))
  · exact congrArg Host.Outcome.next ((if_neg (by simp [hr])).trans (if_pos hb))
  · exact (execTokenReceive_good hr hb).trans (congrArg Host.Outcome.next (if_pos hf))
  · exact (execTokenReceive_good hr hb).trans (congrArg Host.Outcome.next (if_neg (by simp [hf])))
  · refine congrArg Host.Outcome.next ?_
    rw [hq]
    exact if_pos hrun
  · refine congrArg Host.Outcome.next ?_
    rw [hq]
  · refine ⟨?_, fun ir hir hbyp => ?_, fun v => ⟨fun hm => ?_, fun hm hno => ?_, fun hm hgo hrun hheld hcls => ?_, fun hm hgo hrun hheld hcls => ?_⟩, ?_⟩
    · exact congrArg Host.Outcome.next (State.scan_idcode hready)
    · have hb : s.pins.bypassed ir = true := by simpa [Pins.bypassed] using ⟨by simpa using hir, by simpa using hbyp⟩
      exact congrArg Host.Outcome.next ((if_pos hb).trans (State.scan_bypassed hready 0 0 hb))
    · have hb : s.pins.bypassed 0x10 = true := by simp [Pins.bypassed, hm]
      rw [← ofNat_top_bit]
      exact congrArg Host.Outcome.next (State.scan_bypassed hready v.toNat 31 hb)
    · refine congrArg Host.Outcome.next ((State.scan_ctrl v hready hm).trans ?_)
      rw [if_neg]
      rcases hno with h | h | h <;> simp [h]
    · refine congrArg Host.Outcome.next ((State.scan_ctrl v hready hm).trans ?_)
      rw [if_pos (by simp [hgo, hrun, hheld]), startBist, if_pos hcls]
    · refine congrArg Host.Outcome.next ((State.scan_ctrl v hready hm).trans ?_)
      rw [if_pos (by simp [hgo, hrun, hheld]), startBist, if_neg (Nat.not_le.mpr hcls)]
    · cases hm : s.pins.testMode with
      | true =>
        have hreg : s.pins.register 0x11 = (s.pins.mbistStatus, 64) := by simp [Pins.register, Pins.bypassed, hm]
        exact congrArg Host.Outcome.next (State.scan_out hready hreg (by decide) (by decide) s.pins.mbistStatus.isLt (.inl (by decide)))
      | false =>
        have hb : s.pins.bypassed 0x11 = true := by simp [Pins.bypassed, hm]
        refine congrArg Host.Outcome.next ((State.scan_bypassed hready 0 63 hb).trans ?_)
        rfl
  · refine ⟨congrArg Host.Outcome.next (State.scan_held _ _ _ ht), congrArg Host.Outcome.next (State.scan_held _ _ _ ht),
      fun v => congrArg Host.Outcome.next (State.scan_held _ _ _ ht), fun ir => congrArg Host.Outcome.next ?_⟩
    rw [State.scan_held _ _ _ ht, ite_self]
  · obtain ⟨m, hm, hid⟩ := idcode_toNat
    refine ⟨?_, ?_, ?_⟩
    · rw [BitVec.getLsbD, hid, Nat.testBit_zero]
      simp
      omega
    · apply BitVec.eq_of_toNat_eq
      rw [BitVec.extractLsb'_toNat, hid, Nat.shiftRight_eq_div_pow]
      simp
      omega
    · apply BitVec.eq_of_toNat_eq
      rw [BitVec.extractLsb'_toNat, hid, Nat.shiftRight_eq_div_pow]
      simp
      omega
  · exact congrArg Host.Outcome.next (if_pos hr)
  · refine ⟨fun hh => ?_, fun hh => ?_, fun hh => ?_, fun hh hdt => ?_, fun hh hao hdt => ⟨fun hany => ?_, fun hany => ?_⟩⟩
    · exact congrArg Host.Outcome.next (if_neg (by simp [hdom, hh]))
    · exact congrArg Host.Outcome.next (if_pos (by simp [hh]))
    · exact congrArg Host.Outcome.next (if_pos (by simp [hh]))
    · subst hdt
      exact congrArg Host.Outcome.next ((if_neg (by simp [hdom, hh])).trans (if_pos (by simp)))
    · refine congrArg Host.Outcome.next ((if_neg (by simp [hdom, hh])).trans ?_)
      dsimp only
      rw [if_neg hao]
      exact if_pos (by simp [hany])
    · refine congrArg Host.Outcome.next ((if_neg (by simp [hdom, hh])).trans ?_)
      dsimp only
      rw [if_neg hao]
      exact if_neg (by simp [hany, hdt])
  · exact (if_neg hl).trans (if_pos (by simp [hao, hall]))
  · exact (if_neg hl).trans (if_neg (by rcases h with h | h <;> simp [h]))
  · exact if_pos (by rcases h with h | h <;> simp [h])
  · exact if_neg (by simp [hdom, hnot])
end

namespace Sys2Proof.Machine

/-! ## The power entry (R515) -/

section
variable {s : State} {t : PState} {page : Option (BitVec 8)} (hreq : s.pwr.request = some (t, page)) (hphase : s.pwr.phase = .carrying)
  (hrun : s.inRun = true) (hproc : (s.proc procPower).state = .running)
include hreq hphase hrun hproc

/-- The step of an entry that is being carried out. -/
theorem execPowerEntry_carrying : execPowerEntry s = .next (if s.pwr.hostHeld then s.handshake t
    else
      let l := s.lowerClusters
      if !l.lowering.isEmpty || !l.mp.out.isEmpty || !l.mp.waiting.isEmpty || l.pwr.pwrAck then l
      else if l.closeGroups.pwr.wake then l.closeGroups.giveUp 7
      else State.handshake { l.closeGroups with pwr := { l.closeGroups.pwr with hostHeld := true } } t) := by
  rw [execPowerEntry, hreq]
  exact congrArg Host.Outcome.next (if_neg (by simp [hphase, hrun, hproc]))

theorem execPowerEntry_held (h : s.pwr.hostHeld = true) : execPowerEntry s = .next (s.handshake t) :=
  (execPowerEntry_carrying hreq hphase hrun hproc).trans (congrArg Host.Outcome.next (if_pos h))

theorem execPowerEntry_lowers (h : s.pwr.hostHeld = false) (hl : s.lowerClusters.lowering ≠ []) : execPowerEntry s = .next s.lowerClusters := by
  refine (execPowerEntry_carrying hreq hphase hrun hproc).trans (congrArg Host.Outcome.next ((if_neg (by simp [h])).trans (if_pos ?_)))
  simp [hl]

/-- With every cluster lowered and nothing outstanding the Deck's groups close. -/
theorem execPowerEntry_closes (h : s.pwr.hostHeld = false) (hl : s.lowering = []) (hout : s.mp.out = []) (hwait : s.mp.waiting = [])
    (hack : s.pwr.pwrAck = false) : execPowerEntry s = .next (if s.pwr.wake then s.closeGroups.giveUp 7
      else State.handshake { s.closeGroups with pwr := { s.pwr with hostHeld := true } } t) := by
  have hsame : s.lowerClusters = s := by rw [State.lowerClusters, hl]; rfl
  refine (execPowerEntry_carrying hreq hphase hrun hproc).trans (congrArg Host.Outcome.next ((if_neg (by simp [h])).trans ?_))
  rw [hsame]
  exact if_neg (by simp [hl, hout, hwait, hack])

end

theorem execPowerEntry_agreed {s : State} (hreq : s.pwr.request = none) : execPowerEntry s = .next s.powerDownStep := by
  rw [execPowerEntry, hreq]

theorem State.handshake_asks {s : State} {t : PState} (h : t = .sleep ∨ s.fwc.mbxWait = []) (hack : s.pwr.pwrAck = false) : s.handshake t =
    { s with pwr := { s.pwr with pwrState := BitVec.ofNat 3 t.code, pwrReq := true, phase := .handshake } } :=
  if_pos (by simpa [hack] using h)

theorem State.handshake_waits {s : State} {t : PState} (ht : t ≠ .sleep) (h : s.fwc.mbxWait ≠ []) : s.handshake t = s :=
  if_neg (by simp [ht, h])

/-! ## The poll, the controller's acknowledge and the exit (R514, R63, R518) -/

theorem execPowerPoll_polling {s : State} {t : PState} {page : Option (BitVec 8)} (hreq : s.pwr.request = some (t, page))
    (hphase : s.pwr.phase = .polling) (hproc : (s.proc procPower).state = .running) : execPowerPoll s = .next
    (match s.refusal t with
      | some r => (s.abandonEntry r).nextPoll
      | none =>
        if s.delays then s
        else State.trace { s with pwr := { s.pwr with phase := .carrying, admitClosed := true } } 6 procPower 0x0009 [t.code, 0, 0]) := by
  rw [execPowerPoll, hreq]
  exact congrArg Host.Outcome.next (if_neg (by simp [hphase, hproc]))

/-- The exit once its handshake has ended and every domain is supplied. -/
theorem execPowerExit_supplied {s : State} (hup : s.pins.aoRst = false) (hpr : s.pwr.pwrReq = false) (hack : s.pwr.pwrAck = false)
    (hph : s.pwr.phase = .exiting) (hu : s.pwr.undoing = false) (hreq : s.pwr.pdReq = s.build.domains)
    (hpd : s.build.domains &&& ~~~s.pwr.pdAck = 0) : execPowerExit s = .next (if s.pwr.pdStep = 4 then s.finishExit else s.powerUpStep) :=
  congrArg Host.Outcome.next ((if_neg (by simp [hup, hpr, hack])).trans ((if_neg (by simp [hph, hu])).trans (if_pos (by simp [hph, hreq, hpd]))))

/-- The state in which the acknowledge has fallen. -/
def State.ackFell (s : State) : State := { s with pwr := { s.pwr with pwrAck := false } }

section
variable {s : State} (deny : Bool) (hup : s.pins.aoRst = false) (h : s.pwr.pwrAck = true)
include hup h

theorem execPwrAck_falls : execPwrAck false deny s = .next (match s.pwr.phase, s.pwr.request with
      | .handshake, some (t, page) => if s.pwr.pwrReq then s.ackFell else if s.pwr.denied then s.ackFell.giveUp 9 else s.ackFell.powerDown t page
      | .exiting, _ => if s.pwr.pwrReq || s.pwr.undoing then s.ackFell else { s.ackFell with pwr := { s.ackFell.pwr with pdReq := s.build.domains } }
      | _, _ => s.ackFell) := by
  refine congrArg Host.Outcome.next ((if_neg (by simp [hup])).trans ((if_neg (by simp [h])).trans ((if_neg (by simp)).trans ?_)))
  rfl

variable (hpr : s.pwr.pwrReq = false)
include hpr

theorem execPwrAck_ends {t : PState} {page : Option (BitVec 8)} (hph : s.pwr.phase = .handshake) (hreq : s.pwr.request = some (t, page)) :
    execPwrAck false deny s = .next (if s.pwr.denied then s.ackFell.giveUp 9 else s.ackFell.powerDown t page) := by
  rw [execPwrAck_falls deny hup h, hph, hreq]
  exact congrArg Host.Outcome.next (if_neg (by simp [hpr]))

theorem execPwrAck_supplies (hph : s.pwr.phase = .exiting) (hu : s.pwr.undoing = false) :
    execPwrAck false deny s = .next { s.ackFell with pwr := { s.ackFell.pwr with pdReq := s.build.domains } } := by
  rw [execPwrAck_falls deny hup h, hph]
  exact congrArg Host.Outcome.next (if_neg (by simp [hpr, hu]))

end

end Sys2Proof.Machine

section
open Sys2Proof Sys2Proof.Machine

/-- Settles O57: each command's tests are those of its step of R513 to R518. -/
theorem powerStatesAreEnteredAndLeft : Obligations.PowerStatesAreEnteredAndLeft := by
  unfold Obligations.PowerStatesAreEnteredAndLeft
  intro s hI
  dsimp only
  have ran {e : Host.Outcome State Fault Refusal} {c : Bool} {a b : State} (he : e = .next (if c then a else b)) (hc : c = true) : e = .next a :=
    he.trans (congrArg Host.Outcome.next (if_pos hc))
  have idle {e : Host.Outcome State Fault Refusal} {c : Bool} {a b : State} (he : e = .next (if c then a else b)) (hc : c = false) : e = .next b :=
    he.trans (congrArg Host.Outcome.next (if_neg (by simp [hc])))
  refine ⟨fun hrun hst hph hq hfc => ran rfl (by simp [hrun, hst, hph, hq, hfc]), fun hq => idle rfl (by simp [hq]),
    fun h => congrArg Host.Outcome.next (if_pos h), fun h => congrArg Host.Outcome.next (if_neg h), fun hst hpoll => ⟨fun ha hd => ?_, fun ha hd hs => ?_⟩,
    fun t page hreq hph hproc => ⟨fun r hr => ?_, fun hr hd => ?_, fun hr hd => ?_⟩, fun hph => ⟨fun h => ran rfl (by simpa [hph] using h),
      fun h => idle rfl (by simpa [hph] using h), fun v hm hfc => ran rfl (by simp [hph, hm, hfc]), fun v hm => idle rfl (by simp [hm])⟩,
    fun t page hreq hph hrun hproc => ⟨fun hh _ hl => execPowerEntry_lowers hreq hph hrun hproc hh hl,
      fun hh hl htx hab hwt hack => ?_, fun hh hack h => ?_, fun hh ht hm => ?_⟩, fun hup => ?_, fun hreq hph => ⟨fun h => ?_, fun h => ?_⟩,
    fun hrun hph hproc => ran rfl (by simp [hrun, hph, hproc])⟩
  · exact congrArg Host.Outcome.next ((if_neg (by simp [hst, hpoll])).trans (if_pos (by simp [ha, hd])))
  · refine congrArg Host.Outcome.next ((if_neg (by simp [hst, hpoll])).trans ((if_neg ?_).trans (if_pos (by simpa [hs] using ha))))
    simpa using hd
  · refine (execPowerPoll_polling hreq hph hproc).trans (congrArg Host.Outcome.next ?_)
    rw [hr]
  · refine (execPowerPoll_polling hreq hph hproc).trans (congrArg Host.Outcome.next ?_)
    rw [hr]
    exact if_pos hd
  · refine (execPowerPoll_polling hreq hph hproc).trans (congrArg Host.Outcome.next ?_)
    rw [hr]
    exact if_neg (by simp [hd])
  · have hclosed := execPowerEntry_closes hreq hph hrun hproc hh hl (by simp [Mp.out, htx, hab]) hwt hack
    refine ⟨fun hw => hclosed.trans (congrArg Host.Outcome.next (if_pos hw)), fun hw hm => ?_, fun hw ht hm => ?_⟩
    · exact hclosed.trans (congrArg Host.Outcome.next ((if_neg (by simp [hw])).trans (State.handshake_asks hm hack)))
    · exact hclosed.trans (congrArg Host.Outcome.next ((if_neg (by simp [hw])).trans (State.handshake_waits ht hm)))
  · exact (execPowerEntry_held hreq hph hrun hproc hh).trans (congrArg Host.Outcome.next (State.handshake_asks h hack))
  · exact (execPowerEntry_held hreq hph hrun hproc hh).trans (congrArg Host.Outcome.next (State.handshake_waits ht hm))
  · refine ⟨fun ack deny h => ?_, fun deny hack hpr => ?_, fun deny t page hack hph hreq hpr => ⟨fun hd => ?_, fun hd => ?_⟩, fun deny hack hph hpr hu => ?_,
      fun k good => ⟨fun hph => ?_, fun hph hreq hst hdown => ?_⟩, fun hw => ran rfl (by simp [hw, hup]), idle rfl (by simp),
      fun hpr hack hph hw hr hi => ?_, fun hpr hack hph hu hreq hpd => ⟨fun hst => ?_, fun hst => ?_⟩⟩
    · exact congrArg Host.Outcome.next ((if_neg (by simp [hup])).trans (if_pos h))
    · refine congrArg Host.Outcome.next ((if_neg (by simp [hup])).trans ((if_neg (by simp [hack])).trans ((if_pos rfl).trans ?_)))
      rw [if_pos hpr]
    · exact (execPwrAck_ends deny hup hack hpr hph hreq).trans (congrArg Host.Outcome.next (if_pos hd))
    · exact (execPwrAck_ends deny hup hack hpr hph hreq).trans (congrArg Host.Outcome.next (if_neg (by simp [hd])))
    · exact execPwrAck_supplies deny hup hack hpr hph hu
    · exact congrArg Host.Outcome.next ((if_neg (by simp [hup])).trans (if_neg (by simp [hph])))
    · exact congrArg Host.Outcome.next ((if_neg (by simp [hup])).trans (if_pos (by simpa [hph, hreq, hst] using hdown)))
    · exact congrArg Host.Outcome.next ((if_neg (by simp [hup, hpr, hack])).trans (if_pos (by simp [hph, hw, hr, hi])))
    · exact (execPowerExit_supplied hup hpr hack hph hu hreq hpd).trans (congrArg Host.Outcome.next (if_neg hst))
    · exact (execPowerExit_supplied hup hpr hack hph hu hreq hpd).trans (congrArg Host.Outcome.next (if_pos hst))
  · exact (execPowerEntry_agreed hreq).trans (congrArg Host.Outcome.next ((if_neg (by simp [hph])).trans (if_pos h)))
  · exact (execPowerEntry_agreed hreq).trans (congrArg Host.Outcome.next ((if_neg (by simp [hph])).trans ((if_neg (by simp [h])).trans (if_pos h))))
end

namespace Sys2Proof.Machine

/-! ## Resets asked for (R523, R535) -/

theorem find_kind_none {l : List (BitVec 4 × BitVec 8)} {k : BitVec 4} (h : ∀ a ∈ l, a.1 ≠ k) : l.find? (fun a => a.1 = k) = none := by
  rw [List.find?_eq_none]
  intro a ha
  simp [h a ha]

theorem State.wholeAsked_driver {s : State} (h : (kindWhole, 0x0A) ∈ s.fwc.asked) : s.wholeAsked = some 0x0A :=
  if_pos (by simpa using h)

theorem State.wholeAsked_first {s : State} {cause : BitVec 8} (hno : (kindWhole, 0x0A) ∉ s.fwc.asked)
    (h : s.fwc.asked.find? (fun a => a.1 = kindWhole) = some (kindWhole, cause)) : s.wholeAsked = some cause := by
  refine (if_neg ?_).trans ?_
  · simpa using hno
  · rw [List.head?_map, List.head?_filter, h]
    rfl

theorem State.wholeAsked_none {s : State} (h : ∀ a ∈ s.fwc.asked, a.1 ≠ kindWhole) : s.wholeAsked = none := by
  have hnil : s.fwc.asked.filter (fun a => a.1 = kindWhole) = [] := by
    rw [List.filter_eq_nil_iff]
    intro a ha
    simp [h a ha]
  rw [State.wholeAsked, hnil]
  rfl

section
variable {s : State} (hst : s.pwr.state = .run ∨ s.pwr.state = .idle) (hf : s.pins.fRst = false) (hao : s.pins.aoRst = false)
  (hd : s.fwc.dumping = none) (hhs : s.pwr.phase ≠ .handshake) (hex : s.pwr.phase ≠ .exiting)
include hst hf hao hd hhs hex

/-- In a block that no reset input and no power-down holds, and whose dump is written, the whole-block reset acts. -/
theorem execWholeBlockReset_live : execWholeBlockReset s = .next (match s.fwc.wholeBusy with
      | some _ => if s.mp.previous.isEmpty then s.finishWhole else s
      | none =>
        match s.wholeAsked with
        | none => s
        | some cause =>
          if cause = 0x0A then s.stopBlock cause
          else State.counted { s with fwc := { s.fwc with asked := s.fwc.asked.filter leavesOos } } (fun s => s.stopBlock cause)) := by
  refine congrArg Host.Outcome.next ((if_neg ?_).trans ?_)
  · simpa [hf, hao, hd, hhs, hex] using hst.resolve_left
  · rfl

end

theorem Mp.previous_isEmpty (m : Mp) : m.previous.isEmpty = true ↔ ∀ t ∈ m.abandoned, t.epoch = m.epoch := by
  simp [Mp.previous]

/-! ## Recovery of a cluster (R525, R529, R530) -/

theorem clamp_eq (lo hi n : Nat) (h : lo ≤ hi) : clamp lo hi n = max lo (min hi n) := by
  unfold clamp
  split
  · omega
  · split <;> omega

/-- The next suspect of a recovery, or its end (R529). -/
def State.replayNext (s : State) (c : BitVec 6) (r : Recovery) : State :=
  match r.todo with
  | [] => s.finishRecovery c
  | (p, e) :: rest =>
    match s.entry e with
    | none => s.updCluster c (fun x => { x with recovery := some { r with todo := rest } })
    | some y =>
      let l := y.launch
      if y.report.isSome then s.updCluster c (fun x => { x with recovery := some { r with todo := rest } })
      else if !l.noCopy && !s.copyHeld y.ctx l then s.obtainCopy e y
      else
        let s := match s.sliceIn y.ctx .empty with | some i => s.takeSlice c y.ctx i | none => s
        let b := s.buildLaunch e y false (decide (y.cls ≠ 2))
        let s := s.updEntry e (fun y => { y with
          place := .shadow c, state := .issued, phase := if y.kind = kChained then 1 else y.phase })
        (s.updCluster c (fun x => Cluster.sendCtrl ctEnable 0 { x with
          ctx := some y.ctx, shadow := some { b with suspect := true }
          recovery := some { r with now := some (p, e), todo := rest } })).fetchPages b

theorem execSuspectReplay_replays {s : State} {c : BitVec 6} {r : Recovery} (hr : (s.cluster c).recovery = some r) (hl : (s.cluster c).link = .held)
    (hc : (s.cluster c).ctrl = none) (hcl : r.cleared = true) (hn : r.now = none) (hf : s.fwc.feBusy = false)
    (hcore : (s.proc (3 + c.toNat)).state = .running) (hsched : (s.proc procSched).state = .running) :
    execSuspectReplay c s = .next (State.windowsGo (s.replayNext c r).evictions) := by
  unfold execSuspectReplay
  dsimp only
  rw [hr]
  exact congrArg (fun x => Host.Outcome.next (State.windowsGo (State.evictions x)))
    (if_neg (by simp [hl, hc, hcl, hn, hf, hcore, hsched]))

section
variable {s : State} {c : BitVec 6} {r : Recovery} {p : Position} {e : Nat} {rest : List (Position × Nat)}

theorem State.replayNext_ends (h : r.todo = []) : s.replayNext c r = s.finishRecovery c := by
  rw [State.replayNext, h]

theorem State.replayNext_gone (h : r.todo = (p, e) :: rest) (he : s.entry e = none) :
    s.replayNext c r = s.updCluster c (fun x => { x with recovery := some { r with todo := rest } }) := by
  simp only [State.replayNext, h, he]

variable {y : Entry} (h : r.todo = (p, e) :: rest) (he : s.entry e = some y)
include h he

theorem State.replayNext_ended (hy : y.report ≠ none) :
    s.replayNext c r = s.updCluster c (fun x => { x with recovery := some { r with todo := rest } }) := by
  simp only [State.replayNext, h, he]
  exact if_pos (Option.isSome_iff_ne_none.mpr hy)

variable (hy : y.report = none)
include hy

theorem State.replayNext_copies (hn : y.launch.noCopy = false) (hc : s.copyHeld y.ctx y.launch = false) : s.replayNext c r = s.obtainCopy e y := by
  simp only [State.replayNext, h, he]
  exact (if_neg (by simp [hy])).trans (if_pos (by simp [hn, hc]))

theorem State.replayNext_places (hc : y.launch.noCopy = true ∨ s.copyHeld y.ctx y.launch = true) : s.replayNext c r =
    (let t := match s.sliceIn y.ctx .empty with | some i => s.takeSlice c y.ctx i | none => s
     let b := t.buildLaunch e y false (decide (y.cls ≠ 2))
     State.fetchPages ((t.updEntry e (fun y => { y with place := .shadow c, state := .issued, phase := if y.kind = kChained then 1 else y.phase })).updCluster c
       (fun x => Cluster.sendCtrl ctEnable 0 { x with
         ctx := some y.ctx, shadow := some { b with suspect := true }, recovery := some { r with now := some (p, e), todo := rest } })) b) := by
  simp only [State.replayNext, h, he]
  exact (if_neg (by simp [hy])).trans (if_neg (by rcases hc with hc | hc <;> simp [hc]))

end

end Sys2Proof.Machine

section
open Sys2Proof Sys2Proof.Machine

/-- Settles O58: each reset and recovery goes by what has been asked for, in the order of R523. -/
theorem recoveriesAndResets : Obligations.RecoveriesAndResets := by
  unfold Obligations.RecoveriesAndResets
  intro s hI
  refine ⟨fun c elapsed => ?_, fun c r hr hl hc hcl hn hf hcore hsched => ?_, fun hrun hd hsec => ?_, fun hst hf hao hd hhs hex => ?_,
    fun cause hfind hrun => ?_, fun h => ?_⟩
  · dsimp only
    have hlate : clamp 0x10 0x20 (s.cluster c).wdogLog2.toNat = max 16 (min 32 (s.cluster c).wdogLog2.toNat) := clamp_eq _ _ _ (by decide)
    have htest : ((s.cluster c).active.isSome || (s.cluster c).switch.isSome || (s.cluster c).ctrl.isSome) && decide ((s.cluster c).wdogLog2 ≠ 0) &&
        decide (2 ^ clamp 0x10 0x20 (s.cluster c).wdogLog2.toNat ≤ elapsed) ↔
        ((s.cluster c).active ≠ none ∨ (s.cluster c).switch ≠ none ∨ (s.cluster c).ctrl ≠ none) ∧
          (s.cluster c).wdogLog2 ≠ 0 ∧ 2 ^ (max 16 (min 32 (s.cluster c).wdogLog2.toNat)) ≤ elapsed := by
      rw [hlate]
      simp only [Bool.and_eq_true, Bool.or_eq_true, decide_eq_true_eq, Option.isSome_iff_ne_none, or_assoc, and_assoc]
    exact ⟨fun hw hl ht => congrArg Host.Outcome.next ((if_pos (htest.mpr ⟨hw, hl⟩)).trans (if_neg (by simp [ht]))),
      fun hw hl ht => congrArg Host.Outcome.next ((if_pos (htest.mpr ⟨hw, hl⟩)).trans (if_pos ht)),
      fun hno => congrArg Host.Outcome.next (if_neg fun h => hno (htest.mp h))⟩
  · have hreplay := execSuspectReplay_replays hr hl hc hcl hn hf hcore hsched
    have on {t : State} (ht : s.replayNext c r = t) : exec (.suspectReplay c) s = .next (State.windowsGo t.evictions) :=
      hreplay.trans (congrArg (fun x => Host.Outcome.next (State.windowsGo (State.evictions x))) ht)
    exact ⟨fun h => on (State.replayNext_ends h), fun p e rest h => ⟨fun he => on (State.replayNext_gone h he),
      fun y he hy => on (State.replayNext_ended h he hy), fun y he hy hc => on (State.replayNext_places h he hy hc),
      fun y he hy hn hc => on (State.replayNext_copies h he hy hn hc)⟩⟩
  · have hready : ¬((!(s.inRun && s.fwc.dumping.isNone && decide ((s.proc procSec).state ≠ .restarting))) = true) := by simp [hrun, hd, hsec]
    have begins (hbusy : s.fwc.feBusy = false) : execFrontEndReset s = .next (match s.fwc.asked.find? (fun a => a.1 = kindFrontEnd) with
        | none => s
        | some a => State.counted { s with fwc := { s.fwc with resetFe := false, asked := s.fwc.asked.filter (fun b => b.1 ≠ kindFrontEnd) } }
            (fun s => s.beginFrontEnd a.2)) :=
      congrArg Host.Outcome.next ((if_neg hready).trans (if_neg (by simp [hbusy])))
    have goes (hbusy : s.fwc.feBusy = true) : execFrontEndReset s = .next (if s.mp.invertDue then s
        else if (s.proc procSched).imageLost && (s.proc procSched).state = .restarting then s.ask kindWhole 0x09 else s.endFrontEnd) :=
      congrArg Host.Outcome.next ((if_neg hready).trans (if_pos hbusy))
    refine ⟨fun cause hb hfind => (begins hb).trans ?_, fun hb hno => (begins hb).trans ?_, fun hb hi => (goes hb).trans (congrArg Host.Outcome.next (if_pos hi)),
      fun hb hi hlost hst => (goes hb).trans (congrArg Host.Outcome.next ((if_neg (by simp [hi])).trans (if_pos (by simp [hlost, hst])))),
      fun hb hi hlost => (goes hb).trans (congrArg Host.Outcome.next ((if_neg (by simp [hi])).trans (if_neg (by simp [hlost]))))⟩
    · rw [hfind]
    · rw [find_kind_none hno]
  · have hlive := execWholeBlockReset_live hst hf hao hd hhs hex
    refine ⟨fun hw hno => hlive.trans ?_, fun hw hdrv => hlive.trans ?_, fun cause hw hno hfind => hlive.trans ?_, fun w hw hold => hlive.trans ?_,
      fun w hw hnew => hlive.trans ?_⟩
    · rw [hw, State.wholeAsked_none hno]
    · rw [hw, State.wholeAsked_driver hdrv]
      rfl
    · have hne : cause ≠ 0x0A := fun e => hno (e ▸ List.mem_of_find?_eq_some hfind)
      rw [hw, State.wholeAsked_first hno hfind]
      exact congrArg Host.Outcome.next (if_neg hne)
    · rw [hw]
      refine congrArg Host.Outcome.next (if_neg fun h => ?_)
      obtain ⟨t, ht, hne⟩ := hold
      exact hne ((Mp.previous_isEmpty _).mp h t ht)
    · rw [hw]
      exact congrArg Host.Outcome.next (if_pos ((Mp.previous_isEmpty _).mpr hnew))
  · refine congrArg Host.Outcome.next ?_
    rw [hfind]
    exact if_pos hrun
  · refine congrArg Host.Outcome.next ?_
    rw [find_kind_none h]
end

namespace Sys2Proof.Machine

/-! ## Loops over the state -/

/-- What every step of a loop leaves alone the loop leaves alone. -/
theorem State.each_keeps {α β : Type} (g : State → β) (s : State) (l : List α) (f : State → α → State) (hf : ∀ s a, g (f s a) = g s) :
    g (s.each l f) = g s := by
  unfold State.each
  induction l generalizing s with
  | nil => rfl
  | cons a l ih => exact (ih (f s a)).trans (hf s a)

theorem State.each_nil {α : Type} (s : State) (f : State → α → State) : s.each [] f = s := rfl

theorem State.each_cons {α : Type} (s : State) (a : α) (l : List α) (f : State → α → State) : s.each (a :: l) f = (f s a).each l f := rfl

/-! ## What the end of a request leaves alone (R481) -/

/-- The end of a request reaches its page, the trace, and the source it raises. -/
theorem State.mbxDone_frame (s : State) (page status : BitVec 8) (resp : W512) : s.mbxDone page status resp =
    { s with mp := (s.mbxDone page status resp).mp, irq := (s.mbxDone page status resp).irq, pwr := (s.mbxDone page status resp).pwr
             fwc := (s.mbxDone page status resp).fwc } := by
  have hended : s.ended page status resp = { s with mp := (s.ended page status resp).mp, fwc := (s.ended page status resp).fwc } := by
    rw [State.ended, State.trace_frame]
    rfl
  rw [State.mbxDone_eq]
  split
  · rw [State.raise_frame, hended]
  · rw [hended]

section
variable (s : State) (page status : BitVec 8) (resp : W512)

@[simp] theorem State.mbxDone_clusters : (s.mbxDone page status resp).clusters = s.clusters := by rw [State.mbxDone_frame]
@[simp] theorem State.mbxDone_crzGen : (s.mbxDone page status resp).crzGen = s.crzGen := by rw [State.mbxDone_frame]
@[simp] theorem State.mbxDone_yrd : (s.mbxDone page status resp).yrd = s.yrd := by rw [State.mbxDone_frame]
@[simp] theorem State.mbxDone_ctxs : (s.mbxDone page status resp).ctxs = s.ctxs := by rw [State.mbxDone_frame]
@[simp] theorem State.mbxDone_lnd : (s.mbxDone page status resp).lnd = s.lnd := by rw [State.mbxDone_frame]
end

/-! ## Queue timers (R159) -/

/-- A queue waits for capacity: it is BLOCKED, or its cell holds the next serial. -/
def State.waitsForRoom (s : State) (q : BitVec 14) : Prop :=
  (s.queue q).fstate = .blocked ∨ ∃ u, (s.queue q).cell = some u ∧ u.extractLsb' 32 32 = s.nextSerial q

section
variable {s : State} {q : BitVec 14} (harm : s.tmoArmed q = true) (hfired : (s.queue q).fired = false) (hbusy : s.fwc.feBusy = false)
  (hserv : s.fwc.state ≠ .outOfService) (hlate : (s.queue q).timerFc + 2 ^ (max 20 (min 40 (s.queue q).tmoLog2.toNat)) ≤ s.fc)
include harm hfired hbusy hserv hlate

/-- The test of a timer that has run out. -/
theorem queueTimer_runsOut : ¬((!s.tmoArmed q || (s.queue q).fired || decide (s.fc < (s.queue q).timerFc + 2 ^ tmoLog (s.queue q).tmoLog2.toNat) ||
    s.fwc.feBusy || s.fwc.state = .outOfService) = true) := by
  have hlog : tmoLog (s.queue q).tmoLog2.toNat = max 20 (min 40 (s.queue q).tmoLog2.toNat) := clamp_eq _ _ _ (by decide)
  rw [hlog]
  simp [harm, hfired, hbusy, hserv, hlate]

theorem execQueueTimerFire_probes (he : s.queueEntries q ≠ []) : execQueueTimerFire q s = .next
    (let t := s.updQueue q (fun x => { x with fired := true })
     ({ t with lnd := { t.lnd with fired := t.lnd.fired ++ [q] } } : State)) :=
  congrArg Host.Outcome.next ((if_neg (queueTimer_runsOut harm hfired hbusy hserv hlate)).trans (if_pos (by simp [he])))

theorem execQueueTimerFire_waits (he : s.queueEntries q = []) (hw : s.waitsForRoom q) :
    execQueueTimerFire q s = .next (s.updQueue q (fun x => { x with timerFc := s.fc })) := by
  refine congrArg Host.Outcome.next ((if_neg (queueTimer_runsOut harm hfired hbusy hserv hlate)).trans ((if_neg (by simp [he])).trans (if_pos ?_)))
  obtain hb | ⟨u, hc, hn⟩ := hw
  · simp [hb]
  · simp [hc, hn]

theorem execQueueTimerFire_rejects (he : s.queueEntries q = []) (hw : ¬s.waitsForRoom q) :
    execQueueTimerFire q s = .next (s.packetlessRejection q 0x04 true) := by
  refine congrArg Host.Outcome.next ((if_neg (queueTimer_runsOut harm hfired hbusy hserv hlate)).trans ((if_neg (by simp [he])).trans (if_neg ?_)))
  obtain ⟨hb, hc⟩ := not_or.mp hw
  cases hcell : (s.queue q).cell with
  | none => simp [hb]
  | some u => 
    have hn : u.extractLsb' 32 32 ≠ s.nextSerial q := fun e => hc ⟨u, hcell, e⟩
    simp [hb, hn]

end

end Sys2Proof.Machine

section
open Sys2Proof Sys2Proof.Machine

/-- Settles O36: a timer that runs out goes by the queue's entries, and then by what the queue waits for. -/
theorem queueTimerFiresByWhatTheQueueWaitsFor : Obligations.QueueTimerFiresByWhatTheQueueWaitsFor := by
  unfold Obligations.QueueTimerFiresByWhatTheQueueWaitsFor
  intro s q hI harm hfired hbusy hserv hlate
  dsimp only
  refine ⟨fun he => ⟨_, execQueueTimerFire_probes harm hfired hbusy hserv hlate he, ?_, rfl, fun p hp => ?_, rfl⟩,
    fun he hw => execQueueTimerFire_waits harm hfired hbusy hserv hlate he hw, fun he hw hk hc => ?_, fun he hw hk hc => ?_⟩
  · exact State.updQueue_same s q (fun x => { x with fired := true }) hI.queues
  · exact State.updQueue_other s (fun x => { x with fired := true }) hp
  · refine (execQueueTimerFire_rejects harm hfired hbusy hserv hlate he hw).trans (congrArg Host.Outcome.next ?_)
    rw [State.packetlessRejection]
    simp only [hk, hc]
    rfl
  · refine (execQueueTimerFire_rejects harm hfired hbusy hserv hlate he hw).trans (congrArg Host.Outcome.next ?_)
    have hopt (serial : W32) (status opcode : BitVec 8) (fc : Nat) : s.optionalCpl q serial status opcode fc = s := if_pos hc
    simp only [State.packetlessRejection, hopt, ite_self]
    exact (if_pos hk).trans (if_pos trivial)
end

namespace Sys2Proof.Machine

/-! ## Clusters that join their partition (R274) and buckets that refill (R276) -/

/-- A cluster with an empty deque joins by its record alone. -/
theorem State.join_frame {s : State} {c : BitVec 6} (p : BitVec 3) (hd : (s.cluster c).deque = []) :
    (s.join c p).clusters = (s.updCluster c (fun x => { x with partition := p, moveTo := none, deque := [] })).clusters ∧
    (s.join c p).crzGen = s.crzGen + 1 := by
  unfold State.join
  rw [hd]
  exact ⟨State.each_keeps (·.clusters) _ _ _ fun s m => s.mbxDone_clusters _ _ _,
    State.each_keeps (·.crzGen) _ _ _ fun s m => s.mbxDone_crzGen _ _ _⟩

/-- An update of a partition is what it makes of the partition as it stands. -/
theorem State.updPart_congr {s : State} {p : BitVec 3} {f g : Partition → Partition} (h : f (s.part p) = g (s.part p)) : s.updPart p f = s.updPart p g :=
  congrArg (fun x => ({ s with yrd := { s.yrd with parts := s.yrd.parts.set p.toFin x } } : State)) h

/-! ## Accounting (R267) -/

/-- The engine time that group `g` is charged for cluster `c` now. -/
def State.engineTime (s : State) (g : Nat) (c : BitVec 6) : Nat :=
  match (s.cluster c).active with
  | some l => if l.startFc ≠ none ∧ l.halted = false ∧ (s.ctx l.ctx).shareGroup.toNat = g then s.fc - l.chargedFc else 0
  | none => 0

/-- A group charged with `dt` fc of a launch's engine time. -/
def ShareGroup.charged (x : ShareGroup) (dt : Nat) (share : Bool) : ShareGroup :=
  { x with
    time := x.time + BitVec.ofNat 64 dt
    deficit := if share && x.weight ≠ 0 then satDeficit (x.deficit - dt) else x.deficit }

/-- The charge of a running launch that no switch has stopped. -/
theorem State.charge_running {s : State} {c : BitVec 6} {l : Launch} (ha : (s.cluster c).active = some l) (hs : l.startFc ≠ none) (hh : l.halted = false) :
    s.charge c = State.updCluster { s with yrd := { s.yrd with
        groups := tupd {} s.yrd.groups (s.ctx l.ctx).shareGroup.toNat (fun x => x.charged (s.fc - l.chargedFc) l.share) } }
      c (fun x => { x with active := x.active.map (fun l => { l with chargedFc := s.fc }) }) := by
  rw [State.charge, ha]
  refine if_neg ?_
  rw [Option.isNone_iff_eq_none.not.mpr hs |> Bool.eq_false_iff.mpr, hh]
  exact Bool.false_ne_true

/-- A cluster with no launch that runs is charged nothing. -/
theorem State.charge_idle {s : State} {c : BitVec 6} (h : ∀ l, (s.cluster c).active = some l → ¬(l.startFc ≠ none ∧ l.halted = false)) :
    s.charge c = s ∧ ∀ g, s.engineTime g c = 0 := by
  unfold State.charge State.engineTime
  cases ha : (s.cluster c).active with
  | none => exact ⟨rfl, fun _ => rfl⟩
  | some l =>
    have hno := h l ha
    refine ⟨if_pos ?_, fun g => if_neg fun hx => hno ⟨hx.1, hx.2.1⟩⟩
    by_cases hs : l.startFc = none
    · simp [hs]
    · simpa [hs] using hno

theorem State.charge_frame (s : State) (c : BitVec 6) :
    s.charge c = { s with clusters := (s.charge c).clusters, yrd := { s.yrd with groups := (s.charge c).yrd.groups } } := by
  unfold State.charge
  cases (s.cluster c).active with
  | none => rfl
  | some l =>
    dsimp only
    split <;> rfl

theorem State.charge_other (s : State) {c d : BitVec 6} (h : d ≠ c) : (s.charge c).cluster d = s.cluster d := by
  unfold State.charge
  cases (s.cluster c).active with
  | none => rfl
  | some l =>
    dsimp only
    split
    · rfl
    · exact State.updCluster_other _ _ h

/-- The charge of one cluster in the time of its group. -/
theorem State.charge_time {s : State} (c : BitVec 6) (g : Nat) (hw : tblWf {} s.yrd.groups = true) :
    (tget {} (s.charge c).yrd.groups g).time = (tget {} s.yrd.groups g).time + BitVec.ofNat 64 (s.engineTime g c) := by
  by_cases h : ∃ l, (s.cluster c).active = some l ∧ l.startFc ≠ none ∧ l.halted = false
  · obtain ⟨l, ha, hs, hh⟩ := h
    rw [State.charge_running ha hs hh, State.engineTime, ha]
    by_cases hg : (s.ctx l.ctx).shareGroup.toNat = g
    · subst hg
      refine (congrArg ShareGroup.time (tget_tupd_same _ s.yrd.groups _ (fun x => x.charged (s.fc - l.chargedFc) l.share) hw)).trans ?_
      exact congrArg (fun n => _ + BitVec.ofNat 64 n) (if_pos ⟨hs, hh, rfl⟩).symm
    · have hno : ¬(l.startFc ≠ none ∧ l.halted = false ∧ (s.ctx l.ctx).shareGroup.toNat = g) := fun hx => hg hx.2.2
      refine (congrArg ShareGroup.time (tget_tupd_ne _ s.yrd.groups _ _ (fun x => x.charged (s.fc - l.chargedFc) l.share) (Ne.symm hg))).trans ?_
      dsimp only
      rw [if_neg hno]
      exact (BitVec.add_zero _).symm
  · obtain ⟨hsame, hzero⟩ := State.charge_idle (s := s) (c := c) fun l ha hx => h ⟨l, ha, hx⟩
    rw [hsame, hzero]
    simp

/-- What a cluster is charged does not hang on the charge of another. -/
theorem State.engineTime_charge (s : State) {c d : BitVec 6} (g : Nat) (h : d ≠ c) : (s.charge c).engineTime g d = s.engineTime g d := by
  unfold State.engineTime
  rw [s.charge_other h, s.charge_frame c]
  rfl

/-- The charges of several clusters. -/
theorem State.charges_time (l : List (BitVec 6)) (hl : l.Nodup) (g : Nat) (s : State) (hI : s.Inv) :
    (tget {} (s.each l fun s c => s.charge c).yrd.groups g).time =
      (tget {} s.yrd.groups g).time + BitVec.ofNat 64 ((l.map (s.engineTime g)).sum) := by
  induction l generalizing s with
  | nil => simp [State.each_nil]
  | cons c l ih =>
    obtain ⟨hc, hl⟩ := List.nodup_cons.mp hl
    have hsame : l.map ((s.charge c).engineTime g) = l.map (s.engineTime g) :=
      List.map_congr_left fun d hd => s.engineTime_charge g fun e => hc (e ▸ hd)
    rw [State.each_cons, ih hl _ (State.charge_inv c hI), State.charge_time c g hI.groups, hsame, List.map_cons, List.sum_cons, BitVec.ofNat_add,
      BitVec.add_assoc]

theorem State.allClusters_nodup {s : State} (hb : s.build.legal) : s.allClusters.Nodup := by
  obtain ⟨hn, -, -, -⟩ := hb
  refine List.Nodup.map_on (fun i hi j hj e => ?_) List.nodup_range
  have hi : i < s.build.clusters := List.mem_range.mp hi
  have hj : j < s.build.clusters := List.mem_range.mp hj
  have e := congrArg BitVec.toNat e
  simp only [BitVec.toNat_ofNat] at e
  omega

theorem State.charges_frame (s : State) (l : List (BitVec 6)) : (s.each l fun s c => s.charge c) =
    { s with clusters := (s.each l fun s c => s.charge c).clusters, yrd := { s.yrd with groups := (s.each l fun s c => s.charge c).yrd.groups } } := by
  induction l generalizing s with
  | nil => rfl
  | cons c l ih =>
    rw [State.each_cons, ih, s.charge_frame c]

end Sys2Proof.Machine

section
open Sys2Proof Sys2Proof.Machine

/-- Settles O33: a cluster that joins changes by one update of its record, and a bucket by one of its partition. -/
theorem drainedClustersJoinAndBucketsRefill : Obligations.DrainedClustersJoinAndBucketsRefill := by
  unfold Obligations.DrainedClustersJoinAndBucketsRefill
  intro s hI
  refine ⟨fun c p hm he hs hd => ⟨s.join c p, ?_, ?_, fun d hdc => ?_, (State.join_frame p hd).2⟩, fun c h => ?_, fun p hb => ?_⟩
  · refine congrArg Host.Outcome.next ?_
    rw [hm]
    exact if_pos (by simp [he, hs])
  · have hjoined : (s.join c p).cluster c = { s.cluster c with partition := p, moveTo := none, deque := [] } :=
      (congrArg (tget ({} : Cluster) · c.toNat) (State.join_frame p hd).1).trans (State.updCluster_same s c (fun x => { x with partition := p, moveTo := none, deque := [] }) hI.clusters)
    rw [hjoined, ← hd]
  · exact (congrArg (tget ({} : Cluster) · d.toNat) (State.join_frame p hd).1).trans (State.updCluster_other s (fun x => { x with partition := p, moveTo := none, deque := [] }) hdc)
  · refine congrArg Host.Outcome.next ?_
    cases hm : (s.cluster c).moveTo with
    | none => rfl
    | some p => 
      have he : (s.cluster c).empty = false := h.resolve_left (by simp [hm])
      exact if_neg (by simp [he])
  · refine congrArg Host.Outcome.next ((if_neg hb).trans (congrArg State.promoteAll (State.updPart_congr ?_)))
    rfl
end

section
open Sys2Proof Sys2Proof.Machine

/-- Settles O32: a major frame moves the base, and a tick charges each cluster once. -/
theorem majorFramesAndAccounting : Obligations.MajorFramesAndAccounting := by
  unfold Obligations.MajorFramesAndAccounting
  intro s
  refine ⟨fun o ho hpos hover => ?_, fun hI hfc => ?_⟩
  · refine congrArg Host.Outcome.next ?_
    rw [ho]
    exact if_pos (by simp [hpos, hover])
  · refine ⟨_, congrArg Host.Outcome.next (if_pos hfc), ?_, fun g => ?_, ?_⟩
    · rw [s.charges_frame s.allClusters]
      rfl
    · exact State.charges_time _ (State.allClusters_nodup hI.build) _ s hI
    · rw [s.charges_frame s.allClusters]
end

namespace Sys2Proof.Machine

/-! ## A map over a sparse table -/

/-- A read of a mapped table, where the map keeps the default. -/
theorem tget_tmap {α : Type} [DecidableEq α] (d : α) (f : Nat → α → α) (t : Tbl α) (k : Nat) (hd : f k d = d) (h : tblWf d t = true) :
    tget d (tmap d f t) k = f k (tget d t k) := by
  have go : ∀ (t : Tbl α) (n : Nat), risesFrom n t → tget d (tmap d f t) k = f k (tget d t k) := by
    intro t
    induction t with
    | nil => exact fun _ _ => hd.symm
    | cons p r ih =>
      obtain ⟨j, v⟩ := p
      intro n ⟨hn, hr⟩
      by_cases hj : j = k
      · subst hj
        by_cases hv : f j v = d
        · have hrest : tget d r j = d := tget_below d j (j + 1) r (Nat.lt_succ_self j) hr
          have := ih (j + 1) hr
          rw [hrest, hd] at this
          simpa [tmap, hv, tget] using this
        · simp [tmap, hv, tget]
      · have := ih (j + 1) hr
        by_cases hv : f j v = d
        · simpa [tmap, hv, tget, hj] using this
        · simpa [tmap, hv, tget, hj] using this
  exact go t 0 ((tblWf_iff d t).mp h).1

/-- The page of a request that has ended. -/
theorem State.mbxDone_same {s : State} (page status : BitVec 8) (resp : W512) (hw : tblWf {} s.fwc.mbx = true) :
    (s.mbxDone page status resp).mbx page = { s.mbx page with state := .done, status, resp } := by
  have htrace (c p e : Nat) (a : List Nat) : tblWf {} (s.trace c p e a).fwc.mbx = true := by
    rw [State.trace_frame]
    exact hw
  rw [State.mbxDone_mbx, State.ended, State.updMbx_same _ _ _ (htrace ..), State.trace_mbx]

/-! ## Windows of the old table (R255) -/

/-- The instant of the window is past without a release, and not yet counted. -/
def Window.missedBy (w : Window) (fc : Nat) : Bool := decide (w.instant < fc) && !w.released && !w.ended && !w.counted

/-- The window, counted if it was missed. -/
def Window.mark (w : Window) (fc : Nat) : Window := if w.missedBy fc then { w with counted := true } else w

/-- The missed windows of the list, counted from place to place. -/
def State.missLate (s : State) (fc : Nat) (l : List Nat) : State :=
  s.each l (fun s n => match s.yrd.windows[n]? with
    | some w => if w.missedBy fc then s.rtFault n false else s
    | none => s)

/-- What is counted of a list of windows, and where. -/
structure State.Missed (s t : State) (fc : Nat) (A B C : List Window) : Prop where
  windows : t.yrd.windows = A ++ B.map (fun w => w.mark fc) ++ C
  missed : t.yrd.missed = s.yrd.missed + BitVec.ofNat 32 (B.filter (fun w => w.missedBy fc)).length
  frame : t = { s with yrd := { s.yrd with windows := t.yrd.windows, missed := t.yrd.missed }, irq := t.irq, pwr := t.pwr }

/-- One window. -/
theorem State.missLate_one {s : State} {fc : Nat} {A C : List Window} {w : Window} (h : s.yrd.windows = A ++ w :: C) :
    s.Missed (s.missLate fc [A.length]) fc A [w] C := by
  have hw : s.yrd.windows[A.length]? = some w := by rw [h]; simp
  have hone : s.missLate fc [A.length] = if w.missedBy fc then s.rtFault A.length false else s := by
    show (match s.yrd.windows[A.length]? with
      | some w => if w.missedBy fc then s.rtFault A.length false else s
      | none => s) = _
    rw [hw]
  rw [hone]
  by_cases hm : w.missedBy fc = true
  · rw [if_pos hm]
    have hmod : (A ++ w :: C).modify A.length (fun w => { w with counted := true }) = A ++ { w with counted := true } :: C := by
      simp [List.modify_eq_set_getElem?]
    refine ⟨?_, ?_, ?_⟩
    · simp only [State.rtFault, State.raise_yrd, h]
      simpa [Window.mark, hm] using hmod
    · simp [State.rtFault, State.raise_yrd, hm]
    · unfold State.rtFault
      dsimp only
      rw [State.raise_frame]
      rfl
  · rw [if_neg hm]
    refine ⟨?_, ?_, rfl⟩
    · simpa [Window.mark, hm] using h
    · simp [hm]

theorem State.missLate_all (fc : Nat) (B : List Window) : ∀ (A : List Window) (s : State), s.yrd.windows = A ++ B →
    s.Missed (s.missLate fc (List.range' A.length B.length)) fc A B [] := by
  induction B with
  | nil =>
    intro A s hs
    refine ⟨?_, ?_, rfl⟩
    · simpa [State.missLate, State.each_nil] using hs
    · simp [State.missLate, State.each_nil]
  | cons w B ih =>
    intro A s hs
    have hone := State.missLate_one (fc := fc) hs
    have hrest := ih (A ++ [w.mark fc]) (s.missLate fc [A.length]) (by simpa using hone.windows)
    have hsplit : s.missLate fc (List.range' A.length (w :: B).length) =
        (s.missLate fc [A.length]).missLate fc (List.range' (A ++ [w.mark fc]).length B.length) := by
      rw [List.length_cons, List.range'_succ, List.length_append]
      rfl
    rw [hsplit]
    refine ⟨?_, ?_, ?_⟩
    · simpa using hrest.windows
    · rw [hrest.missed, hone.missed, BitVec.add_assoc, ← BitVec.ofNat_add]
      cases hm : w.missedBy fc <;> simp [hm, Nat.add_comm]
    · rw [hrest.frame, hone.frame]

/-- The preloaded launches of the windows are withdrawn. -/
def State.withdraw (s : State) (l : List Window) : State :=
  s.each l (fun s w => s.updCluster (BitVec.ofNat 6 w.cluster) (fun x => if x.shadowIs w.launch then { x with shadow := none } else x))

/-- A window of the list preloads the launch of cluster `c`. -/
def State.preloads (s : State) (l : List Window) (c : BitVec 6) : Prop :=
  ∃ w ∈ l, BitVec.ofNat 6 w.cluster = c ∧ (s.cluster c).shadowIs w.launch = true

/-- A withdrawal empties the shadow bank of the clusters with such a launch. -/
theorem State.withdraw_cluster (l : List Window) (c : BitVec 6) : ∀ (s : State), tblWf {} s.clusters = true →
    (s.preloads l c → (s.withdraw l).cluster c = { s.cluster c with shadow := none }) ∧ (¬s.preloads l c → (s.withdraw l).cluster c = s.cluster c) := by
  induction l with
  | nil => exact fun s _ => ⟨fun ⟨w, hw, _⟩ => (nomatch hw), fun _ => rfl⟩
  | cons w l ih =>
    intro s hw
    have hcons : s.withdraw (w :: l) = (s.withdraw [w]).withdraw l := rfl
    have hwf : tblWf {} (s.withdraw [w]).clusters = true := tupd_wf _ _ _ _ hw
    have hone : (s.withdraw [w]).cluster c =
        if BitVec.ofNat 6 w.cluster = c ∧ (s.cluster c).shadowIs w.launch = true then { s.cluster c with shadow := none } else s.cluster c := by
      by_cases hc : BitVec.ofNat 6 w.cluster = c
      · subst hc
        refine (State.updCluster_same s _ (fun x => if x.shadowIs w.launch then { x with shadow := none } else x) hw).trans ?_
        simp
      · rw [if_neg fun h => hc h.1]
        exact State.updCluster_other s _ (Ne.symm hc)
    obtain ⟨ihyes, ihno⟩ := ih (s.withdraw [w]) hwf
    rw [hcons]
    by_cases hfirst : BitVec.ofNat 6 w.cluster = c ∧ (s.cluster c).shadowIs w.launch = true
    · rw [if_pos hfirst] at hone
      have hgone : ¬(s.withdraw [w]).preloads l c := by
        rintro ⟨v, -, -, hv⟩
        rw [hone] at hv
        exact nomatch hv
      exact ⟨fun _ => (ihno hgone).trans hone, fun hno => absurd ⟨w, List.mem_cons_self, hfirst⟩ hno⟩
    · rw [if_neg hfirst] at hone
      have hsame : (s.withdraw [w]).preloads l c ↔ s.preloads (w :: l) c := by
        simp only [State.preloads, hone, List.mem_cons, exists_eq_or_imp, or_iff_right hfirst]
      rw [← hsame, ← hone]
      exact ⟨ihyes, ihno⟩

theorem State.withdraw_wf {s : State} (l : List Window) (hw : tblWf {} s.clusters = true) : tblWf {} (s.withdraw l).clusters = true := by
  induction l generalizing s with
  | nil => exact hw
  | cons w l ih => exact ih (s := s.withdraw [w]) (tupd_wf _ _ _ _ hw)

/-- The withdrawal reaches the clusters alone. -/
theorem State.withdraw_frame (s : State) (l : List Window) : s.withdraw l = { s with clusters := (s.withdraw l).clusters } := by
  induction l generalizing s with
  | nil => rfl
  | cons w l ih => exact (ih (s.withdraw [w])).trans rfl

/-! ## The activation of a table (R255) -/

/-- The pending table in place of the active one, before its request ends (R255). -/
def State.activated (s : State) (n : RtTable) : State :=
  let r := s.missLate s.fc (List.range s.yrd.windows.length)
  let u := r.withdraw (r.yrd.windows.filter (fun w => !w.released))
  { u with
    yrd := { u.yrd with
      table := some n, pendingTable := none, base := u.fe.cycles
      windows := (u.yrd.windows.filter (fun w => w.released)).map (fun w => { w with old := true }) }
    clusters := tmap {} (fun _ x => { x with hold := none }) u.clusters }

theorem execTableActivation_active {s : State} {n : RtTable} {page : BitVec 8} (hp : s.yrd.pendingTable = some (n, page))
    (hs : (s.proc procSched).state = .running) (hl : ∀ k ∈ s.tableContexts n, s.isResident k = true ∨ (s.ctx k).state ≠ .active)
    (hfc : n.startFc ≤ s.fc) (hb : ∀ o, s.yrd.table = some o → o.entries = [] ∨ (s.fc - s.yrd.base.toNat) % o.majorFc = 0) :
    execTableActivation s = .next ((s.activated n).mbxDone page 0x00 0) := by
  unfold execTableActivation
  rw [hp]
  refine congrArg Host.Outcome.next ((if_neg ?_).trans ?_)
  · have hloaded : (s.tableContexts n).all (fun k => s.isResident k || decide ((s.ctx k).state ≠ .active)) = true := by
      rw [List.all_eq_true]
      exact fun k hk => by simpa using hl k hk
    rw [hloaded]
    cases ht : s.yrd.table with
    | none => simp [hs, Nat.not_lt.mpr hfc]
    | some o => simpa [hs, Nat.not_lt.mpr hfc] using (hb o ht).resolve_left
  · rfl

/-- The activation withdraws from the state `r` in which the missed windows have been counted. -/
theorem State.activated_of {s r : State} (n : RtTable) (hr : s.missLate s.fc (List.range s.yrd.windows.length) = r) :
    let L := r.yrd.windows.filter (fun w => !w.released)
    s.activated n = { r with
      yrd := { r.yrd with
        table := some n, pendingTable := none, base := r.fe.cycles
        windows := (r.yrd.windows.filter (fun w => w.released)).map (fun w => { w with old := true }) }
      clusters := tmap {} (fun _ x => { x with hold := none }) (r.withdraw L).clusters } := by
  intro L
  subst hr
  unfold State.activated
  dsimp only
  rw [State.withdraw_frame]

/-- The windows that stay are those that have released, and marking leaves those alone. -/
theorem Window.mark_released (fc : Nat) (l : List Window) : (l.map (fun w => w.mark fc)).filter (fun w => w.released) = l.filter (fun w => w.released) := by
  have hkeep (w : Window) : (w.mark fc).released = w.released := by
    unfold Window.mark
    split <;> rfl
  have hsame (w : Window) (hr : w.released = true) : w.mark fc = w := if_neg (by simp [Window.missedBy, hr])
  have hcomp : ((fun w : Window => w.released) ∘ fun w : Window => w.mark fc) = fun w : Window => w.released := funext hkeep
  rw [List.filter_map, hcomp]
  exact (List.map_congr_left fun w hw => hsame w (List.mem_filter.mp hw).2).trans (List.map_id _)

/-- The preloads of the windows that go are those of the unreleased windows, marked or not. -/
theorem State.preloads_mark (s : State) (fc : Nat) (l : List Window) (c : BitVec 6) :
    s.preloads ((l.map (fun w => w.mark fc)).filter (fun w => !w.released)) c ↔
      ∃ w ∈ l, w.released = false ∧ BitVec.ofNat 6 w.cluster = c ∧ (s.cluster c).shadowIs w.launch = true := by
  have hkeep (w : Window) : (w.mark fc).released = w.released ∧ (w.mark fc).cluster = w.cluster ∧ (w.mark fc).launch = w.launch := by
    unfold Window.mark
    split <;> exact ⟨rfl, rfl, rfl⟩
  constructor
  · rintro ⟨v, hv, hc⟩
    obtain ⟨hv, hr⟩ := List.mem_filter.mp hv
    obtain ⟨w, hw, rfl⟩ := List.mem_map.mp hv
    obtain ⟨hrel, hcl, hla⟩ := hkeep w
    rw [hcl, hla] at hc
    exact ⟨w, hw, by simpa [hrel] using hr, hc⟩
  · rintro ⟨w, hw, hr, hc⟩
    obtain ⟨hrel, hcl, hla⟩ := hkeep w
    refine ⟨w.mark fc, List.mem_filter.mpr ⟨List.mem_map_of_mem hw, by simp [hrel, hr]⟩, ?_⟩
    rw [hcl, hla]
    exact hc

end Sys2Proof.Machine

section
open Sys2Proof Sys2Proof.Machine

/-- Settles O31: the missed windows are counted, the unreleased ones withdrawn, and the table takes its place. -/
theorem tableBecomesActiveAtItsBase : Obligations.TableBecomesActiveAtItsBase := by
  unfold Obligations.TableBecomesActiveAtItsBase
  intro s n page hI hp hs hl hfc hb
  dsimp only
  have hmiss : s.Missed (s.missLate s.fc (List.range s.yrd.windows.length)) s.fc [] s.yrd.windows [] := by
    rw [List.range_eq_range']
    exact State.missLate_all s.fc s.yrd.windows [] s rfl
  have hact := State.activated_of (s := s) n rfl
  revert hmiss hact
  generalize s.missLate s.fc (List.range s.yrd.windows.length) = r
  intro hmiss hact
  have hwindows : r.yrd.windows = s.yrd.windows.map (fun w => w.mark s.fc) := by simpa using hmiss.windows
  have hcl : r.clusters = s.clusters := by rw [hmiss.frame]
  have hrc (c : BitVec 6) : r.cluster c = s.cluster c := congrArg (tget ({} : Cluster) · c.toNat) hcl
  have hmbx : tblWf {} (s.activated n).fwc.mbx = true := by
    rw [hact, hmiss.frame]
    exact hI.mbx
  refine ⟨(s.activated n).mbxDone page 0x00 0, execTableActivation_active hp hs hl hfc hb, ?_, ?_, ?_, ?_, ?_, fun c => ?_, ?_, ?_, ?_, ?_, ?_⟩
  · rw [State.mbxDone_yrd, hact]
  · rw [State.mbxDone_yrd, hact]
  · rw [State.mbxDone_yrd, hact, hmiss.frame]
  · rw [State.mbxDone_yrd, hact]
    exact hmiss.missed
  · rw [State.mbxDone_yrd, hact]
    dsimp only
    rw [hwindows, Window.mark_released]
  · have hmap := tget_tmap ({} : Cluster) (fun _ x => { x with hold := none }) (r.withdraw (r.yrd.windows.filter (fun w => !w.released))).clusters c.toNat rfl
      (State.withdraw_wf _ (hcl ▸ hI.clusters))
    have hcluster : ((s.activated n).mbxDone page 0x00 0).cluster c =
        { (r.withdraw (r.yrd.windows.filter (fun w => !w.released))).cluster c with hold := none } := by
      rw [State.cluster, State.mbxDone_clusters, hact]
      exact hmap
    obtain ⟨hyes, hno⟩ := State.withdraw_cluster (r.yrd.windows.filter (fun w => !w.released)) c r (hcl ▸ hI.clusters)
    have hpre := State.preloads_mark r s.fc s.yrd.windows c
    rw [← hwindows, hrc] at hpre
    rw [hcluster]
    by_cases h : r.preloads (r.yrd.windows.filter (fun w => !w.released)) c
    · rw [hyes h, hrc, if_pos (hpre.mp h)]
    · rw [hno h, hrc, if_neg fun hx => h (hpre.mpr hx)]
  · rw [State.mbxDone_same _ _ _ hmbx]
  · rw [State.mbxDone_same _ _ _ hmbx]
  · rw [State.mbxDone_ctxs, hact, hmiss.frame]
  · rw [State.mbxDone_queues, hact, hmiss.frame]
  · rw [State.mbxDone_lnd, hact, hmiss.frame]
end

namespace Sys2Proof.Machine

/-! ## A set of a Blaze that no other update of the cycle has reached (R224, R225, R227) -/

/-- The Blaze as the first update of a cycle finds it. -/
def Blaze.before (b : Blaze) : BlazeRun :=
  { value := b.value, error := b.error, errStatus := b.errStatus, errContext := b.errContext, propagated := b.propagated }

/-- What a set makes of the Blaze. -/
def Blaze.after (b : Blaze) (v : W64) : BlazeRun := (BlazeOp.set v).run b.before

/-- A set in ERROR is dropped (R227). -/
theorem Blaze.after_error {b : Blaze} (v : W64) (h : b.error = true) : b.after v = { b.before with dropped := 1 } := if_pos h

/-- A set of the Blaze's own value has no effect (R224). -/
theorem Blaze.after_equal {b : Blaze} (h : b.error = false) : b.after b.value = b.before :=
  (if_neg (by simp [Blaze.before, h])).trans (if_pos rfl)

/-- A set of a value that the Blaze has passed is stale (R224). -/
theorem Blaze.after_stale {b : Blaze} {v : W64} (h : b.error = false) (hv : v ≠ b.value) (hr : reached b.value v = true) :
    b.after v = { b.before with stale := 1 } :=
  (if_neg (by simp [Blaze.before, h])).trans ((if_neg hv).trans (if_pos hr))

/-- A set of a value ahead becomes the value (R224). -/
theorem Blaze.after_ahead {b : Blaze} {v : W64} (h : b.error = false) (hr : reached b.value v = false) : b.after v = { b.before with value := v } := by
  have hv : v ≠ b.value := by
    rintro rfl
    simp [reached] at hr
  exact (if_neg (by simp [Blaze.before, h])).trans ((if_neg hv).trans (if_neg (by simp [Blaze.before, hr])))

/-- A set changes neither ERROR nor what it recorded. -/
theorem Blaze.after_keeps (b : Blaze) (v : W64) : (b.after v).error = b.error ∧ (b.after v).errStatus = b.errStatus ∧
    (b.after v).errContext = b.errContext ∧ (b.after v).propagated = b.propagated := by
  unfold Blaze.after BlazeOp.run
  dsimp only
  split_ifs <;> exact ⟨rfl, rfl, rfl, rfl⟩

/-- Updates that leave ERROR and what it recorded are not recorded. -/
theorem State.recordError_same (s : State) (n : BitVec 16) {old new : BlazeRun} (he : new.error = old.error) (hs : new.errStatus = old.errStatus)
    (hc : new.errContext = old.errContext) : s.recordError n old new = s :=
  (if_neg (by simp [he])).trans (if_neg (by simp [hs, hc]))

/-- The present cycle of a Blaze without updates yet. -/
def State.freshCycle (s : State) (n : BitVec 16) : BlazeCycle :=
  let b := s.blaze n
  { fc := s.fc, value := b.value, error := b.error, errStatus := b.errStatus, errContext := b.errContext, propagated := b.propagated
    staleLast := s.lnd.staleLast }

theorem State.blazeCycle_fresh {s : State} {n : BitVec 16} (h : ∀ y, (s.blaze n).cycle = some y → y.fc ≠ s.fc) : s.blazeCycle n = s.freshCycle n := by
  unfold State.blazeCycle
  dsimp only
  cases hc : (s.blaze n).cycle with
  | none => rfl
  | some y => exact if_neg (h y hc)

/-- The Blaze once a set with no other update in its cycle has made `a` of it. -/
def Blaze.setTo (a : BlazeRun) (z : BlazeCycle) (b : Blaze) : Blaze :=
  { b with value := a.value, mirrorDue := b.mirrorDue || (b.mirrorEn && decide (a.value ≠ b.value)), cycle := some z }

/-- The Blaze's record once a set has been applied, the counts of R244 and R246 with it. -/
def State.setTo (s : State) (n : BitVec 16) (a : BlazeRun) (z : BlazeCycle) : State :=
  State.updBlaze { s with lnd := { s.lnd with
      staleCount := s.lnd.staleCount + BitVec.ofNat 32 a.stale, staleLast := if 0 < a.stale then n else s.lnd.staleLast
      dropError := s.lnd.dropError + BitVec.ofNat 32 a.dropped } } n
    (Blaze.setTo a z)

/-- What a Blaze takes of the updates of a cycle. -/
def Blaze.applied (new old : BlazeRun) (b : Blaze) : Blaze :=
  { b with
    value := new.value, error := new.error, errStatus := new.errStatus, errContext := new.errContext
    propagated := new.propagated, mirrorDue := b.mirrorDue || (b.mirrorEn && decide (new.value ≠ old.value)) }

/-- A set with no other update in its cycle. -/
theorem State.blazeUpdate_set {s : State} {n : BitVec 16} (v : W64) (hw : tblWf {} s.lnd.blazes = true)
    (h : ∀ y, (s.blaze n).cycle = some y → y.fc ≠ s.fc) :
    let a := (s.blaze n).after v
    let u := s.setTo n a { s.freshCycle n with ups := [⟨4, 0, .set v⟩] }
    s.blazeUpdate n ⟨4, 0, .set v⟩ = if a.value = (s.blaze n).value then u else u.noteMet n := by
  intro a u
  obtain ⟨he, hs, hc, hp⟩ := Blaze.after_keeps (s.blaze n) v
  unfold State.blazeUpdate
  rw [State.blazeCycle_fresh h]
  refine (State.recordError_same _ n (old := (s.blaze n).before) (new := a) he hs hc).trans ?_
  refine (if_neg Bool.false_ne_true).trans ?_
  have hlate : decide (insertUp ⟨4, 0, .set v⟩ (s.freshCycle n).ups ≠ (s.freshCycle n).ups ++ [⟨4, 0, .set v⟩]) = false := by
    simp [State.freshCycle, insertUp]
  have hu : State.updBlaze (State.countUpdates (s.updBlaze n (fun b => { b with cycle := some { s.freshCycle n with ups := [⟨4, 0, .set v⟩] } })) n
      (s.freshCycle n) (s.blaze n).before a) n (Blaze.applied a (s.blaze n).before) = u := by
    have hrec : tupd {} s.lnd.blazes n.toNat (fun b => Blaze.applied a (s.blaze n).before { b with cycle := some { s.freshCycle n with ups := [⟨4, 0, .set v⟩] } }) =
        tupd {} s.lnd.blazes n.toNat (Blaze.setTo a { s.freshCycle n with ups := [⟨4, 0, .set v⟩] }) := by
      refine congrArg (tset {} s.lnd.blazes n.toNat) ?_
      have hb : tget {} s.lnd.blazes n.toNat = s.blaze n := rfl
      simp only [Blaze.applied, Blaze.setTo, hb, he, hs, hc, hp, a]
      rfl
    simp only [u, State.setTo, State.updBlaze, State.countUpdates, tupd_tupd _ _ _ _ _ hw, hrec]
    simp [Blaze.before]
  unfold State.applyUpdates
  rw [hlate]
  rw [← hu]
  rfl

/-- Noting what waits a Blaze has reached leaves the Blazes alone. -/
theorem State.noteMet_frame (s : State) (n : BitVec 16) : s.noteMet n = { s with lnd := { s.lnd with entries := (s.noteMet n).lnd.entries } } := rfl

/-- Which waits a Blaze meets hangs on the entries and its value alone. -/
theorem State.noteMet_congr {s t : State} {n : BitVec 16} (he : s.lnd.entries = t.lnd.entries) (hv : (s.blaze n).value = (t.blaze n).value) :
    (s.noteMet n).lnd.entries = (t.noteMet n).lnd.entries := by
  simp only [State.noteMet, State.waits, State.extEntries, he, hv]

/-- What a set with no other update in its cycle leaves. -/
theorem State.set_becomes {s : State} {n : BitVec 16} (v : W64) (hw : tblWf {} s.lnd.blazes = true)
    (h : ∀ y, (s.blaze n).cycle = some y → y.fc ≠ s.fc) :
    let b := s.blaze n
    let a := b.after v
    let t := s.blazeUpdate n ⟨4, 0, .set v⟩
    t = { s with lnd := { s.lnd with
      blazes := t.lnd.blazes, entries := t.lnd.entries, dropError := s.lnd.dropError + BitVec.ofNat 32 a.dropped
      staleCount := s.lnd.staleCount + BitVec.ofNat 32 a.stale, staleLast := if 0 < a.stale then n else s.lnd.staleLast } } ∧
    t.blaze n = { b with value := a.value, mirrorDue := b.mirrorDue || (b.mirrorEn && decide (a.value ≠ b.value)), cycle := (t.blaze n).cycle } ∧
    (∀ m, m ≠ n → t.blaze m = s.blaze m) ∧
    t.lnd.entries = if a.value = b.value then s.lnd.entries else ((s.updBlaze n (fun b => { b with value := a.value })).noteMet n).lnd.entries := by
  intro b a t
  have ht : t = _ := State.blazeUpdate_set v hw h
  dsimp only at ht
  revert ht
  have hsame (z : BlazeCycle) : (s.setTo n a z).blaze n = b.setTo a z :=
    tget_tupd_same _ _ _ (Blaze.setTo a z) hw
  have hother (z : BlazeCycle) (m : BitVec 16) (hm : m ≠ n) : (s.setTo n a z).blaze m = s.blaze m :=
    tget_tupd_ne _ _ _ _ (Blaze.setTo a z) fun e => hm (BitVec.eq_of_toNat_eq e)
  generalize ({ s.freshCycle n with ups := [⟨4, 0, .set v⟩] } : BlazeCycle) = z
  generalize t = t
  intro ht
  by_cases hv : a.value = b.value
  · rw [if_pos hv] at ht
    subst ht
    refine ⟨rfl, ?_, hother z, ?_⟩
    · rw [hsame]
      rfl
    · rw [if_pos hv]
      rfl
  · rw [if_neg hv] at ht
    subst ht
    refine ⟨rfl, ?_, hother z, ?_⟩
    · rw [show ((s.setTo n a z).noteMet n).blaze n = b.setTo a z from hsame z]
      rfl
    · rw [if_neg hv]
      refine State.noteMet_congr rfl ?_
      rw [hsame, State.updBlaze_same _ _ _ hw]
      rfl

end Sys2Proof.Machine

section
open Sys2Proof Sys2Proof.Machine

/-- Settles O11: a host signal is one set of its Blaze, and what a set makes of a Blaze goes by its value and ERROR. -/
theorem hostSignalSetsTheBlaze : Obligations.HostSignalSetsTheBlaze := by
  unfold Obligations.HostSignalSetsTheBlaze
  intro s n v
  dsimp only
  intro hI hport hserv hn hcyc
  have hbuild : ¬s.taken.build.blazes ≤ n.toNat := by rw [State.taken_build]; omega
  have hstate : s.taken.fwc.state ≠ .outOfService := by rw [State.taken_fwc]; exact hserv
  have hexec : exec (.hostSignal n v) s = .next ((if !(s.blaze n).configured then { s.taken with lnd := { s.taken.lnd with dropUnconf := s.taken.lnd.dropUnconf + 1 } }
      else s.taken.blazeUpdate n ⟨4, 0, .set v⟩).respond .okay 0) := by
    refine congrArg Host.Outcome.next ((State.host_wr hport _ _ _ _).trans (congrArg (fun u : State => u.respond .okay 0) ?_))
    refine (if_neg hstate).trans ((if_neg hbuild).trans ?_)
    rw [State.taken_blaze]
  obtain ⟨hframe, hblaze, hothers, hentries⟩ := State.set_becomes (s := s.taken) (n := n) v (by rw [State.taken_lnd]; exact hI.blazes)
    (by rw [State.taken_blaze, State.taken_fc]; exact hcyc)
  have hmet (value : W64) : ((s.taken.updBlaze n (fun b => { b with value })).noteMet n).lnd.entries =
      ((s.updBlaze n (fun b => { b with value })).noteMet n).lnd.entries := by
    refine State.noteMet_congr (by rw [State.updBlaze_lnd, State.updBlaze_lnd, State.taken_lnd]) ?_
    rw [State.updBlaze_same _ _ _ hI.blazes, State.updBlaze_same _ _ _ (by rw [State.taken_lnd]; exact hI.blazes)]
  rw [hmet] at hentries
  simp only [State.taken_lnd, State.taken_blaze] at hframe hblaze hothers hentries
  revert hexec hframe hblaze hothers hentries
  generalize s.taken.blazeUpdate n ⟨4, 0, .set v⟩ = t
  intro hexec hframe hblaze hothers hentries
  have becomes {value : W64} {drop stale : Nat} (hc : (s.blaze n).configured = true)
      (ha : (s.blaze n).after v = { (s.blaze n).before with value, stale, dropped := drop }) :
      ∃ t : State, exec (.hostSignal n v) s = .next (t.respond .okay 0) ∧
        t = { s.taken with lnd := { s.lnd with
          blazes := t.lnd.blazes, entries := t.lnd.entries, dropError := s.lnd.dropError + BitVec.ofNat 32 drop
          staleCount := s.lnd.staleCount + BitVec.ofNat 32 stale, staleLast := if 0 < stale then n else s.lnd.staleLast } } ∧
        t.blaze n = { s.blaze n with
          value, mirrorDue := (s.blaze n).mirrorDue || ((s.blaze n).mirrorEn && decide (value ≠ (s.blaze n).value)), cycle := (t.blaze n).cycle } ∧
        (∀ m, m ≠ n → t.blaze m = s.blaze m) ∧
        t.lnd.entries = if value = (s.blaze n).value then s.lnd.entries
          else ((s.updBlaze n (fun b => { b with value })).noteMet n).lnd.entries := by
    rw [ha] at hframe hblaze hentries
    refine ⟨t, hexec.trans ?_, hframe, hblaze, hothers, hentries⟩
    rw [if_neg (by simp [hc])]
  refine ⟨fun hc => hexec.trans ?_, fun hc he => ?_, fun hc he hv => ?_, fun hc he hv hr => ?_, fun hc he hr => ?_⟩
  · rw [if_pos (by simp [hc]), State.taken_lnd]
  · exact becomes hc (Blaze.after_error v he)
  · subst hv
    exact becomes hc (Blaze.after_equal he)
  · exact becomes hc (Blaze.after_stale he hv hr)
  · exact becomes hc (Blaze.after_ahead he hr)
end

namespace Sys2Proof.Machine

/-! ## The least of a list, and counts over a table -/

/-- What `leastBy` finds is of the list, and nothing of the list is below it. -/
theorem leastBy_spec {α : Type} (m : α → Nat) : ∀ (l : List α) (a : α), leastBy m l = some a → a ∈ l ∧ ∀ b ∈ l, m a ≤ m b := by
  intro l
  induction l with
  | nil => exact fun a h => nomatch h
  | cons x r ih =>
    intro a h
    unfold leastBy at h
    cases hr : leastBy m r with
    | none =>
      have hnil : r = [] := by
        cases r with
        | nil => rfl
        | cons y l =>
          unfold leastBy at hr
          cases hl : leastBy m l with
          | none => simp [hl] at hr
          | some z =>
            rw [hl] at hr
            dsimp only at hr
            split at hr <;> exact nomatch hr
      rw [hr] at h
      obtain rfl := Option.some.inj h
      simp [hnil]
    | some y =>
      rw [hr] at h
      dsimp only at h
      obtain ⟨hy, hmin⟩ := ih y hr
      split at h
      · next hle =>
        obtain rfl := Option.some.inj h
        refine ⟨List.mem_cons_self, fun b hb => ?_⟩
        obtain rfl | hb := List.mem_cons.mp hb
        · exact le_refl _
        · exact le_trans hle (hmin b hb)
      · next hgt =>
        obtain rfl := Option.some.inj h
        refine ⟨List.mem_cons_of_mem _ hy, fun b hb => ?_⟩
        obtain rfl | hb := List.mem_cons.mp hb
        · exact Nat.le_of_not_le hgt
        · exact hmin b hb

/-- A write that leaves a property of its key's value leaves the count of the property, where the default has it not. -/
theorem countP_tset {α : Type} [DecidableEq α] (d : α) (f : α → Bool) (hd : f d = false) (k : Nat) (v : α) : ∀ (t : Tbl α) (n : Nat), risesFrom n t →
    f v = f (tget d t k) → (tset d t k v).countP (fun p => f p.2) = t.countP (fun p => f p.2) := by
  intro t
  induction t with
  | nil =>
    intro n _ hv
    have hv : f v = false := hv.trans hd
    unfold tset
    split <;> simp [hv]
  | cons p r ih =>
    obtain ⟨j, w⟩ := p
    intro n hr hv
    obtain ⟨-, hr⟩ := hr
    unfold tset
    by_cases hj : j = k
    · have hvw : f v = f w := by simpa [tget, hj] using hv
      rw [if_pos hj]
      split
      · next hvd =>
        subst hvd
        rw [List.countP_cons_of_neg (by simp [← hvw, hd])]
      · rw [List.countP_cons, List.countP_cons, hvw]
    · rw [if_neg hj]
      have hv' : f v = f (tget d r k) := by simpa [tget, hj] using hv
      by_cases hk : k < j
      · rw [if_pos hk]
        have hv0 : f v = false := by rw [hv', tget_below d k (j + 1) r (by omega) hr, hd]
        split <;> simp [hv0]
      · rw [if_neg hk, List.countP_cons, List.countP_cons, ih (j + 1) hr hv']

/-! ## Fetch turns (R149, R150) -/

/-- A queue that the fetcher takes up is FETCHING (R150). -/
def Queue.turned (x : Queue) : Queue :=
  if x.fstate = .fetching then x else { x with fstate := .fetching, block := .none_, turn := 0, parking := false }

/-- The turn touches nothing that a ring read goes by. -/
theorem Queue.turned_keeps (x : Queue) : x.turned.units = x.units ∧ x.turned.reading = x.reading ∧ x.turned.rp = x.rp ∧ x.turned.wp = x.wp ∧
    x.turned.ringLog2 = x.ringLog2 ∧ x.turned.ringPfn = x.ringPfn ∧ x.turned.ringAttr = x.ringAttr := by
  unfold Queue.turned
  split <;> exact ⟨rfl, rfl, rfl, rfl, rfl, rfl, rfl⟩

/-- The state in which queue `q` has the fetcher's turn. -/
def State.turnMark (s : State) (q : BitVec 14) : State :=
  { s with fe := { s.fe with rrQueue := if (s.queue q).rank = 2 then q.toNat else s.fe.rrQueue } }

/-- Queue `q` taken up. -/
def State.turnTaken (s : State) (q : BitVec 14) : State := (s.turnMark q).updQueue q Queue.turned

theorem execFetchTurn_serves {s : State} {q : BitVec 14} (ha : s.admits = true) (hq : s.fetchChoice = some q) :
    execFetchTurn s = .next ((s.turnTaken q).fetchQueue q) := by
  unfold execFetchTurn
  rw [hq]
  exact congrArg Host.Outcome.next (if_neg (by simp [ha]))

/-- A class before another goes first. -/
theorem State.rank_of_fetchKey {s : State} {p q : BitVec 14} (h : s.fetchKey q ≤ s.fetchKey p) (hp : (s.queue p).fstate ≠ .blocked)
    (hq : (s.queue q).fstate ≠ .blocked) : (s.queue q).rank ≤ (s.queue p).rank := by
  have hrr (k : BitVec 14) : (if (s.queue k).rank < 2 then k.toNat else (k.toNat + 16384 - (s.fe.rrQueue + 1)) % 16384) < 2 ^ 64 := by
    have := k.isLt
    split <;> omega
  have hkey (k : BitVec 14) (hk : (s.queue k).fstate ≠ .blocked) : s.fetchKey k = (if (s.queue k).rank = 0 then 1 else (s.queue k).rank + 2) * 2 ^ 64 +
      (if (s.queue k).rank < 2 then k.toNat else (k.toNat + 16384 - (s.fe.rrQueue + 1)) % 16384) := if_neg hk
  rw [hkey p hp, hkey q hq] at h
  have h1 := hrr p
  have h2 := hrr q
  split_ifs at h h1 h2 <;> omega

section
variable {s : State} {q : BitVec 14} (hI : s.Inv)
include hI

theorem State.turnTaken_queue : (s.turnTaken q).queue q = (s.queue q).turned := State.updQueue_same _ _ _ hI.queues

theorem State.turnTaken_unread : (s.turnTaken q).unread q = s.unread q := by
  obtain ⟨hu, -, hrp, hwp, -⟩ := (s.queue q).turned_keeps
  unfold State.unread
  rw [State.turnTaken_queue hI]
  dsimp only
  rw [hu, hrp, hwp]
  rfl

/-- An update of the queue taken up, as one update of the queue. -/
theorem State.turnTaken_upd (f : Queue → Queue) : (s.turnTaken q).updQueue q f = (s.turnMark q).updQueue q (fun _ => f (s.queue q).turned) :=
  (State.updQueue_twice (s.turnMark q) q Queue.turned f hI.queues).trans (State.updQueue_congr (s := s.turnMark q) rfl)

theorem State.turnTaken_reads : (s.turnTaken q).queues.countP (fun p => p.2.reading) = s.queues.countP (fun p => p.2.reading) :=
  countP_tset ({} : Queue) (fun x : Queue => x.reading) rfl q.toNat (s.queue q).turned s.queues 0 ((tblWf_iff _ _).mp hI.queues).1 (s.queue q).turned_keeps.2.1

end

section
variable {s : State} {q : BitVec 14} (hu : (s.queue q).units = [])
include hu

/-- A fetch with nothing held, while the queue does not park, reads the ring if anything is unread. -/
theorem State.fetchQueue_reads (hp : (s.queue q).parking = false) (hr : (s.queue q).reading = false) (hun : 0 < s.unread q) :
    s.fetchQueue q = s.readRing q := by
  unfold State.fetchQueue
  dsimp only
  rw [hu]
  exact (if_neg (by simp [hp])).trans ((if_pos (by simp [headUnits, hun])).trans (if_neg (by simp [hr])))

/-- With nothing unread it parks. -/
theorem State.fetchQueue_parks (hp : (s.queue q).parking = false) (hr : (s.queue q).reading = false) (hun : s.unread q = 0) :
    s.fetchQueue q = s.updQueue q (fun x => { x with dbSeen := false, parking := true }) := by
  unfold State.fetchQueue
  dsimp only
  rw [hu]
  exact (if_neg (by simp [hp])).trans ((if_neg (by simp [hun])).trans ((if_neg (by simp [hr])).trans (if_pos (by simp [hp]))))

/-- The second step of the park rule reads WP again (R149). -/
theorem State.fetchQueue_parking (hp : (s.queue q).parking = true) : s.fetchQueue q =
    if 0 < s.unread q then s.updQueue q (fun x => { x with parking := false })
    else s.updQueue q (fun x => { x with fstate := .parked, parking := false }) := by
  unfold State.fetchQueue State.parkQueue
  dsimp only
  rw [hu]
  refine (if_pos hp).trans ((if_neg (by simp [hp])).trans ?_)
  simp [headUnits, Nat.one_le_iff_ne_zero, Nat.pos_iff_ne_zero]

/-- The ring read of the first unread units (R135, R150). -/
theorem State.readRing_eq (hc : s.queues.countP (fun p => p.2.reading) < 128) : s.readRing q =
    (let u := ((s.queue q).rp.toNat + s.threadUnits q) % 2 ^ (s.queue q).ringLog2.toNat
     let n := min (s.unread q) (min (64 - u % 64) (2 ^ (s.queue q).ringLog2.toNat - u))
     (s.updQueue q (fun x => { x with reading := true })).mpRead none srcRing (4096 * (s.queue q).ringPfn.toNat + 64 * u) (64 * n) 3
       (arCache (s.queue q).ringAttr) 8 (.ringRead q n)) := by
  unfold State.readRing
  dsimp only
  rw [if_pos hc, hu]
  rfl

end

end Sys2Proof.Machine

section
open Sys2Proof Sys2Proof.Machine

/-- Settles O34: the queue chosen is taken up, and then served once by what it holds and what is unread. -/
theorem fetchTurnServesOneQueue : Obligations.FetchTurnServesOneQueue := by
  unfold Obligations.FetchTurnServesOneQueue
  intro s q hI ha hq
  dsimp only
  have hserves := execFetchTurn_serves ha hq
  have hturned : (s.turnTaken q).queue q = (s.queue q).turned := State.turnTaken_queue hI
  obtain ⟨hku, hkr, hkrp, hkwp, hkl, hkp, hka⟩ := (s.queue q).turned_keeps
  have hfu (h : (s.queue q).units = []) : ((s.turnTaken q).queue q).units = [] := by rw [hturned, hku, h]
  have hfr (h : (s.queue q).reading = false) : ((s.turnTaken q).queue q).reading = false := by rw [hturned, hkr, h]
  have hfp {b : Bool} (h : (s.queue q).turned.parking = b) : ((s.turnTaken q).queue q).parking = b := by rw [hturned, h]
  have hun : (s.turnTaken q).unread q = s.unread q := State.turnTaken_unread hI
  refine ⟨?_, fun hu hr hp hpos hc => ?_, fun hu hr hp hz => ?_, fun hu hp hz => ?_, fun hu hp hpos => ?_⟩
  · obtain ⟨hmem, hmin⟩ := leastBy_spec s.fetchKey _ _ hq
    obtain ⟨-, hf⟩ := List.mem_filter.mp hmem
    refine ⟨hf, fun p hp hfp hpb hqb => State.rank_of_fetchKey (hmin p (List.mem_filter.mpr ⟨?_, hfp⟩)) hpb hqb⟩
    obtain ⟨e, he, hep⟩ := List.mem_map.mp hp
    exact List.mem_map.mpr ⟨e, he, by rw [hep]; simp⟩
  · refine hserves.trans (congrArg Host.Outcome.next ?_)
    rw [State.fetchQueue_reads (hfu hu) (hfp hp) (hfr hr) (hun ▸ hpos), State.readRing_eq (hfu hu) (by rw [State.turnTaken_reads hI]; exact hc),
      hturned, hkrp, hkl, hkp, hka, hun, State.turnTaken_upd hI]
    rfl
  · refine hserves.trans (congrArg Host.Outcome.next ?_)
    rw [State.fetchQueue_parks (hfu hu) (hfp hp) (hfr hr) (hun ▸ hz), State.turnTaken_upd hI]
    rfl
  · refine hserves.trans (congrArg Host.Outcome.next ?_)
    rw [State.fetchQueue_parking (hfu hu) (hfp hp), hun, if_neg (by omega), State.turnTaken_upd hI]
    rfl
  · refine hserves.trans (congrArg Host.Outcome.next ?_)
    rw [State.fetchQueue_parking (hfu hu) (hfp hp), hun, if_pos hpos, State.turnTaken_upd hI]
    rfl
end

namespace Sys2Proof.Machine

/-! ## Images that requests name (R211, R254, R484) -/

/-- The state in which a request that names an image waits for it. -/
def State.awaits (s : State) (page : BitVec 8) (v : W64) : State := (s.going page v).updMbx page (fun m => { m with awaiting := true })

section
variable {s : State} {page : BitVec 8} {v : W64}

/-- The wait for the image, as it is written of the started request. -/
theorem State.started_awaits (hI : s.Inv) : (s.started page v).updMbx page (fun m => { m with awaiting := true }) = s.awaits page v :=
  State.updMbx_twice _ _ _ _ (State.going_inv hI).mbx

/-- An image that is not needed any more is carried out on the started request. -/
theorem State.awaits_arrived (hI : s.Inv) : (s.awaits page v).arrived page = s.started page v :=
  State.updMbx_twice _ _ _ _ (State.going_inv hI).mbx

theorem State.awaits_mbx (hI : s.Inv) : (s.awaits page v).mbx page =
    { s.mbx page with state := .busy, seq := v.extractLsb' 0 32, awaiting := true } := by
  rw [State.awaits, State.updMbx_same _ _ _ (State.going_inv hI).mbx, State.going_mbx hI]

theorem State.trace_reads (s : State) (cls proc event : Nat) (args : List Nat) : (s.trace cls proc event args).fwc.reads = s.fwc.reads := by
  rw [State.trace_frame]

theorem State.trace_feBusy (s : State) (cls proc event : Nat) (args : List Nat) : (s.trace cls proc event args).fwc.feBusy = s.fwc.feBusy := by
  rw [State.trace_frame]

theorem State.awaits_reads : (s.awaits page v).fwc.reads = s.fwc.reads :=
  (State.trace_reads ..).trans (congrArg (fun f : Fwc => f.reads) s.taken_fwc :)

theorem State.awaits_uc : (s.awaits page v).uc = s.uc := State.started_uc

theorem State.awaits_servesMbx : (s.awaits page v).servesMbx = s.servesMbx := by
  have hbusy : (s.awaits page v).fwc.feBusy = s.fwc.feBusy := by
    show (s.going page v).fwc.feBusy = _
    rw [State.going, State.trace_feBusy]
    exact (congrArg (fun f : Fwc => f.feBusy) s.taken_fwc :)
  have hproc : (s.awaits page v).proc procSched = s.proc procSched := State.started_proc _
  rw [State.servesMbx, hbusy, hproc, State.servesMbx]

theorem State.awaits_inRun : (s.awaits page v).inRun = s.inRun := State.started_inRun

/-- A loop of reads of the firmware's port leaves its state alone. -/
theorem State.reads_fwc {α : Type} (l : List α) (f : State → α → State) (hf : ∀ s a, (f s a).fwc = s.fwc) (s : State) : (s.each l f).fwc = s.fwc :=
  State.each_keeps (fun s => s.fwc) s l f hf

/-- An image asked for is noted with its page, and its bursts wait for their responses. -/
theorem State.fwAsk_reads (s : State) (r : FwRead) (off n : Nat) (whole : Bool) (h : s.fwc.reads = []) :
    (s.fwAsk r off n whole).fwc.reads = [{ r with len := off + n, left := r.left + (burstsOf (r.pa + off) n).length, whole }] := by
  unfold State.fwAsk
  dsimp only
  rw [State.reads_fwc]
  · simp [h]
  · intro s a
    rw [State.mpRead_unregulated]

theorem burstsOf_ne_nil {pa n : Nat} (h : 0 < n) : burstsOf pa n ≠ [] := by
  unfold burstsOf
  rw [if_neg (Nat.ne_of_gt h)]
  simp

/-- A write of MBX_GO that starts a request of an image begins its read, and tests at once what has been read. -/
theorem State.mbxImageRow_read {code : Nat} (h : s.startsRequest page v code) (himage : requestImage code = true) :
    s.mbxImageRow page v code .read = ((s.awaits page v).readImage page).mbxImage page v code := by
  obtain ⟨hserved, hsched, hfe, hbusy, hawait, hnew, hseq, hcode, hform⟩ := h
  refine (if_neg (by simp [hawait])).trans ?_
  rw [State.mbxRow_served hserved hsched hfe (by simpa using hcode), State.mbxGo_started hbusy hnew hseq, hcode, himage, hform]
  rfl

/-- An image that is being read is left alone. -/
theorem State.mbxImage_reading {code : Nat} {r : FwRead} (hr : s.fwc.reads = [r]) (hp : r.page = some page) (hopen : r.left ≠ 0 ∨ r.whole = false) :
    s.mbxImage page v code = s := by
  have hof : s.fwc.readOf (some page) = some r := by simp [Fwc.readOf, hr, hp]
  have hnone : s.fwc.imageRead (some page) = none := by
    unfold Fwc.imageRead
    rw [hof]
    exact if_pos (by simpa using hopen)
  unfold State.mbxImage
  dsimp only
  rw [hnone, hof]
  exact if_neg (by simp)

/-- An image that has been read, or could not be, is carried out where no descriptor is wanted (R254). -/
theorem State.mbxImage_read {code : Nat} {image : Option (List Byte)} (h : s.imageRead page v code image)
    (hspan : code = 0x02 → s.spanWanted page image = none) : s.mbxImage page v code = s.carryOut page image := by
  obtain ⟨hawait, hcode, hseq, -, hserves, hrun, himage⟩ := h
  unfold State.mbxImage
  dsimp only
  rw [himage]
  refine (if_neg (by simp [hawait, hcode, hseq, hserves, hrun])).trans ?_
  by_cases h2 : code = 0x02
  · rw [if_pos h2, hspan h2]
  · rw [if_neg h2]

/-- A request whose image was never asked for is carried out without it. -/
theorem State.mbxImage_unread {code : Nat} (hreads : s.fwc.reads = []) (hawait : (s.mbx page).awaiting = true) (hcode : bits (s.mbx page).req 7 0 = code)
    (hseq : v.extractLsb' 0 32 = (s.mbx page).seq) (hserves : s.servesMbx = true) (hrun : s.inRun = true) :
    s.mbxImage page v code = s.carryOut page none := by
  have hof : s.fwc.readOf (some page) = none := by simp [Fwc.readOf, hreads]
  have hnone : s.fwc.imageRead (some page) = none := by rw [Fwc.imageRead, hof]
  unfold State.mbxImage
  dsimp only
  rw [hnone, hof]
  exact if_pos (by simp [hawait, hcode, hseq, hserves, hrun])

/-- Forgetting a read where there is none. -/
theorem State.dropRead_none {p : Option (BitVec 8)} (h : s.fwc.reads = []) : s.dropRead p = s := by
  have hnil : s.fwc.reads.filter (fun x => x.page ≠ p) = s.fwc.reads := by rw [h]; rfl
  rw [State.dropRead, hnil]

/-- The header of a table is asked for first, so its image is not whole yet (R254). -/
theorem State.readImage_table_open (hI : s.Inv) (hcode : bits (s.mbx page).req 7 0 = 0x02) (hr : s.fwc.reads = []) :
    ((s.awaits page v).readImage page).mbxImage page v 0x02 = (s.awaits page v).readImage page := by
  have hask : (s.awaits page v).readImage page = (s.awaits page v).fwAsk
      { page := some page, pa := (reqWord ((s.awaits page v).mbx page).req 1).toNat, len := 0 } 0 64 false :=
    if_pos (by rw [State.awaits_mbx hI]; exact hcode)
  rw [hask]
  exact State.mbxImage_reading (State.fwAsk_reads _ _ _ _ _ (State.awaits_reads.trans hr)) rfl (.inr rfl)

/-- The bursts of a patch have no response yet when they are issued (R211). -/
theorem State.readImage_patch_open (hI : s.Inv) (hcode : bits (s.mbx page).req 7 0 = 0x08) (hl : s.uc.loaded = true)
    (hn : 0 < bits (s.param page 2) 23 0) (hr : s.fwc.reads = []) :
    ((s.awaits page v).readImage page).mbxImage page v 0x08 = (s.awaits page v).readImage page := by
  have hm := State.awaits_mbx (s := s) (page := page) (v := v) hI
  have hask : (s.awaits page v).readImage page = (s.awaits page v).fwAsk
      { page := some page, pa := (reqWord (s.mbx page).req 1).toNat, len := 0 } 0 (bits (s.param page 2) 23 0) true := by
    unfold State.readImage
    dsimp only
    rw [hm, hcode, if_neg (by decide), State.awaits_uc, hl]
    rfl
  have hleft : 0 + (burstsOf ((reqWord (s.mbx page).req 1).toNat + 0) (bits (s.param page 2) 23 0)).length ≠ 0 := by
    have := List.length_pos_iff.mpr (burstsOf_ne_nil (pa := (reqWord (s.mbx page).req 1).toNat + 0) hn)
    omega
  rw [hask]
  exact State.mbxImage_reading (State.fwAsk_reads _ _ _ _ _ (State.awaits_reads.trans hr)) rfl (.inl hleft)

/-! ## The ends of the two requests -/

theorem State.loadTable_failed : s.loadTable page none = s.mbxDone page 0x08 0 := rfl

theorem State.loadTable_refused {b : List Byte} {n : Nat} (h : s.tableRefused page b = some n) : s.loadTable page (some b) =
    State.mbxDone { s with yrd := { s.yrd with refuse := BitVec.ofNat 4 n } } page 0x04 0 := by
  simp only [State.loadTable, h]

theorem State.loadTable_passes {b : List Byte} (h : s.tableRefused page b = none) : s.loadTable page (some b) =
    { s with yrd := { s.yrd with pendingTable := some (tableOf b, page) } } := by
  simp only [State.loadTable, h]

theorem State.patchRequest_unloaded {w : W64} {image : Option (List Byte)} (h : s.uc.loaded = false) :
    s.patchRequest page w image = s.mbxDone page 0x02 0 := if_pos (by simp [h])

theorem State.patchRequest_failed {w : W64} (h : s.uc.loaded = true) : s.patchRequest page w none = s.mbxDone page 0x09 0 := if_neg (by simp [h])

/-- A patch that waits alone is checked at its turn. -/
theorem State.patchStep_alone {fuel : Nat} {b : List Byte} (hwait : s.uc.patchWait = []) (hpage : s.uc.patchPage = none) :
    State.patchStep (fuel + 1) { s with uc := { s.uc with patchWait := [(page, b)] } } =
      State.patchStep fuel (if s.patchOk b then s.beginPatch page b else s.mbxDone page 0x09 0) := by
  have hback : ({ s with uc := { s.uc with patchWait := [] } } : State) = s := by rw [← hwait]
  show (if s.uc.patchPage.isSome then _ else _) = _
  rw [hpage]
  exact congrArg (fun t : State => State.patchStep fuel (if t.patchOk b then t.beginPatch page b else t.mbxDone page 0x09 0)) hback

theorem State.patchStep_idle {fuel : Nat} (hwait : s.uc.patchWait = []) (hpage : s.uc.patchPage = none) : State.patchStep fuel s = s := by
  cases fuel with
  | zero => rfl
  | succ n => simp [State.patchStep, hwait, hpage]

/-- With no patch waiting or in progress the patch is checked at once (R211). -/
theorem State.patchRequest_checked {w : W64} {b : List Byte} (h : s.uc.loaded = true) (hwait : s.uc.patchWait = []) (hpage : s.uc.patchPage = none) :
    s.patchRequest page w (some b) = State.patchStep 3 (if s.patchOk (slice b 0 (bits w 23 0)) then s.beginPatch page (slice b 0 (bits w 23 0))
      else s.mbxDone page 0x09 0) := by
  rw [← State.patchStep_alone hwait hpage]
  refine (if_neg (by simp [h])).trans ?_
  dsimp only [State.patchOn]
  rw [hwait]
  rfl

theorem State.mbxDone_reads (s : State) (page status : BitVec 8) (resp : W512) : (s.mbxDone page status resp).fwc.reads = s.fwc.reads := by
  rw [State.mbxDone_eq]
  split
  · rw [State.raise_frame]
    exact State.trace_reads ..
  · exact State.trace_reads ..

end

end Sys2Proof.Machine

section
open Sys2Proof Sys2Proof.Machine

/-- Settles O30: the write asks for the image and waits for it, and the check of what was read is each request's own. -/
theorem imageRequests : Obligations.ImageRequests := by
  intro s page v hI
  dsimp only
  rw [State.started_awaits hI]
  refine ⟨fun h hr => ?_, fun h hr hl hn => ?_, fun h hrun hr hl => ?_, fun b h hspan hok => ?_, fun b n h hspan hno => ?_, fun h => ?_, fun h hl => ?_,
    fun b h hl hwait hpage hno => ?_, fun b h hl hwait hpage hok => ?_⟩
  · refine congrArg Host.Outcome.next ((State.mbxImageRow_read h rfl).trans ?_)
    obtain ⟨-, -, -, -, -, -, -, hcode, -⟩ := h
    exact State.readImage_table_open hI hcode hr
  · refine congrArg Host.Outcome.next ((State.mbxImageRow_read h rfl).trans ?_)
    obtain ⟨-, -, -, -, -, -, -, hcode, -⟩ := h
    exact State.readImage_patch_open hI hcode hl hn hr
  · refine congrArg Host.Outcome.next ((State.mbxImageRow_read h rfl).trans ?_)
    obtain ⟨-, hsched, hfe, -, -, -, -, hcode, hform⟩ := h
    have hserves : s.servesMbx = true := by simp [State.servesMbx, hsched, hfe]
    have hm := State.awaits_mbx (s := s) (page := page) (v := v) hI
    have hno : (s.awaits page v).readImage page = s.awaits page v := by
      unfold State.readImage
      dsimp only
      rw [hm, hcode, if_neg (by decide), State.awaits_uc, hl]
      rfl
    have hnone : ((s.started page v).mbxDone page 0x02 0).fwc.reads = [] := by
      rw [State.mbxDone_reads]
      exact State.awaits_reads.trans hr
    rw [hno, State.mbxImage_unread (State.awaits_reads.trans hr) (by rw [hm]) (by rw [hm]; exact hcode) (by rw [hm])
      (State.awaits_servesMbx.trans hserves) (State.awaits_inRun.trans hrun),
      State.carryOut_ucodePatch (by rw [hm]; exact hform) (by rw [hm]; exact hcode), State.awaits_arrived hI,
      State.patchRequest_unloaded (by rw [State.started_uc]; exact hl), State.dropRead_none hnone]
  · obtain ⟨-, hcode, -, hform, -⟩ := id h
    have hpass : (s.arrived page).tableRefused page b = none := hok
    refine congrArg Host.Outcome.next ((State.mbxImage_read h fun _ => hspan).trans ?_)
    rw [State.carryOut_rtTableLoad hform hcode, State.loadTable_passes hpass]
    rfl
  · obtain ⟨-, hcode, -, hform, -⟩ := id h
    have hbad : (s.arrived page).tableRefused page b = some n := hno
    refine congrArg Host.Outcome.next ((State.mbxImage_read h fun _ => hspan).trans ?_)
    rw [State.carryOut_rtTableLoad hform hcode, State.loadTable_refused hbad]
    rfl
  · obtain ⟨-, hcode, -, hform, -⟩ := id h
    refine congrArg Host.Outcome.next ((State.mbxImage_read h fun _ => rfl).trans ?_)
    rw [State.carryOut_rtTableLoad hform hcode, State.loadTable_failed]
    rfl
  · obtain ⟨-, hcode, -, hform, -⟩ := id h
    have hl' : (s.arrived page).uc.loaded = true := hl
    refine congrArg Host.Outcome.next ((State.mbxImage_read h nofun).trans ?_)
    rw [State.carryOut_ucodePatch hform hcode, State.patchRequest_failed hl']
    rfl
  · obtain ⟨-, hcode, -, hform, -⟩ := id h
    have hl' : (s.arrived page).uc.loaded = true := hl
    have hbad : (s.arrived page).patchOk (slice b 0 (bits (reqWord (s.mbx page).req 2) 23 0)) = false := hno
    refine congrArg Host.Outcome.next ((State.mbxImage_read h nofun).trans ?_)
    have hidle : State.patchStep 3 ((s.arrived page).mbxDone page 0x09 0) = (s.arrived page).mbxDone page 0x09 0 :=
      State.patchStep_idle (by rw [State.mbxDone_uc]; exact hwait) (by rw [State.mbxDone_uc]; exact hpage)
    rw [State.carryOut_ucodePatch hform hcode, State.patchRequest_checked hl' hwait hpage, hbad, if_neg Bool.false_ne_true, hidle]
    rfl
  · obtain ⟨-, hcode, -, hform, -⟩ := id h
    have hl' : (s.arrived page).uc.loaded = true := hl
    have hgood : (s.arrived page).patchOk (slice b 0 (bits (reqWord (s.mbx page).req 2) 23 0)) = true := hok
    refine congrArg Host.Outcome.next ((State.mbxImage_read h nofun).trans ?_)
    rw [State.carryOut_ucodePatch hform hcode, State.patchRequest_checked hl' hwait hpage, hgood, if_pos rfl]
    rfl

end

namespace Sys2Proof.Machine

/-! ## The entries that the Landing holds

The numbers of the live entries, which only an admission adds to: no report, update of a Blaze, or end of an entry does. -/

def State.entryKeys (s : State) : List Nat := s.lnd.entries.map (·.1)

theorem lget_eq_none {α : Type} {k : Nat} : ∀ {t : List (Nat × α)}, k ∉ t.map (·.1) → lget t k = none
  | [], _ => rfl
  | (j, v) :: r, h => by
    simp only [List.map_cons, List.mem_cons, not_or] at h
    exact (if_neg (Ne.symm h.1)).trans (lget_eq_none h.2)

theorem State.entry_eq_none {s : State} {e : Nat} (h : e ∉ s.entryKeys) : s.entry e = none := lget_eq_none h

theorem lupd_keys {α : Type} (t : List (Nat × α)) (k : Nat) (f : α → α) : (lupd t k f).map (·.1) = t.map (·.1) := by
  unfold lupd
  rw [List.map_map]
  refine List.map_congr_left fun p _ => ?_
  simp only [Function.comp_apply]
  split <;> rfl

section
variable (s : State)

@[simp] theorem State.updEntry_keys (e : Nat) (f : Entry → Entry) : (s.updEntry e f).entryKeys = s.entryKeys := lupd_keys ..

@[simp] theorem State.report_keys (e : Nat) (st : BitVec 8) (p : Bool) : (s.report e st p).entryKeys = s.entryKeys :=
  State.updEntry_keys s e _

@[simp] theorem State.updQueue_keys (q : BitVec 14) (f : Queue → Queue) : (s.updQueue q f).entryKeys = s.entryKeys := rfl

@[simp] theorem State.updBlaze_keys (n : BitVec 16) (f : Blaze → Blaze) : (s.updBlaze n f).entryKeys = s.entryKeys := rfl

@[simp] theorem State.raise_keys (n : Nat) : (s.raise n).entryKeys = s.entryKeys := by rw [State.raise_frame]; rfl

theorem State.writeCpl_lnd (q : BitVec 14) (n : W32) (st op : BitVec 8) (d : Bool) (a b : Nat) : (s.writeCpl q n st op d a b).lnd = s.lnd :=
  State.issueTxn_lnd ..

@[simp] theorem State.writeCpl_keys (q : BitVec 14) (n : W32) (st op : BitVec 8) (d : Bool) (a b : Nat) :
    (s.writeCpl q n st op d a b).entryKeys = s.entryKeys := by
  rw [State.entryKeys, State.writeCpl_lnd, State.entryKeys]

@[simp] theorem State.startReclaim_keys (c : BitVec 20) (h : W32) : (s.startReclaim c h).entryKeys = s.entryKeys := by
  unfold State.startReclaim
  split
  · split
    · rfl
    · split
      · split
        · exact State.updEntry_keys s _ _
        · rfl
      · rfl
  · rfl

@[simp] theorem State.releaseRef_keys (i : Nat) : (s.releaseRef i).entryKeys = s.entryKeys := by
  unfold State.releaseRef
  dsimp only
  split
  · exact State.startReclaim_keys ..
  · rfl

@[simp] theorem State.drainCtx_keys (c : BitVec 20) : (s.drainCtx c).entryKeys = s.entryKeys := by
  unfold State.drainCtx
  dsimp only
  split
  · rfl
  · exact State.each_keeps State.entryKeys s _ _ fun _ _ => State.report_keys ..

/-! ## Updates of a Blaze -/

theorem State.unmeet_keys (n : BitVec 16) (v : W64) : (s.unmeet n v).entryKeys = s.entryKeys := by
  unfold State.unmeet State.entryKeys
  dsimp only
  rw [List.map_map]
  refine List.map_congr_left fun p _ => ?_
  simp only [Function.comp_apply]
  split <;> rfl

theorem State.noteMet_keys (n : BitVec 16) : (s.noteMet n).entryKeys = s.entryKeys := by
  unfold State.noteMet State.entryKeys
  dsimp only
  rw [List.map_map]
  rfl

theorem State.applyUpdates_keys (n : BitVec 16) (v : W64) (late : Bool) (a b : BlazeRun) : (s.applyUpdates n v late a b).entryKeys = s.entryKeys := by
  unfold State.applyUpdates
  dsimp only
  split
  · rfl
  · rw [State.noteMet_keys]
    split
    · exact State.unmeet_keys ..
    · rfl

theorem State.recordError_keys (n : BitVec 16) (a b : BlazeRun) : (s.recordError n a b).entryKeys = s.entryKeys := by
  unfold State.recordError
  dsimp only
  split
  · exact State.raise_keys ..
  · split <;> rfl

@[simp] theorem State.blazeUpdate_keys (n : BitVec 16) (u : BlazeUp) : (s.blazeUpdate n u).entryKeys = s.entryKeys := by
  unfold State.blazeUpdate
  dsimp only
  rw [State.recordError_keys]
  split
  · rfl
  · exact State.applyUpdates_keys ..

/-! ## Rejections and drained queues -/

@[simp] theorem State.optionalCpl_keys (q : BitVec 14) (n : W32) (st op : BitVec 8) (f : Nat) : (s.optionalCpl q n st op f).entryKeys = s.entryKeys := by
  unfold State.optionalCpl
  dsimp only
  split
  · rfl
  · split
    · exact State.writeCpl_keys ..
    · rfl

/-- What passes of a rejection once its Blaze has been told. -/
def State.passCpl (s : State) (q : BitVec 14) (c : BitVec 20) (r : Rejection) : State :=
  if r.cplReserved then s.writeCpl q r.serial r.status r.opcode true r.fc r.fc
  else if c = kernelCtx then s.optionalCpl q r.serial r.status r.opcode r.fc else s

/-- The Blaze of a rejection takes its failure (R236). -/
def State.passBlaze (s : State) (c : BitVec 20) (r : Rejection) : State :=
  match r.blaze with
  | none => s
  | some n => s.blazeUpdate n ⟨1, r.ord, .err r.status c false⟩

theorem State.passRejection_eq (q : BitVec 14) (r : Rejection) :
    s.passRejection q r = (s.passBlaze (s.queue q).ctx r).passCpl q (s.queue q).ctx r := rfl

@[simp] theorem State.passRejection_keys (q : BitVec 14) (r : Rejection) : (s.passRejection q r).entryKeys = s.entryKeys := by
  have hblaze (c : BitVec 20) : (s.passBlaze c r).entryKeys = s.entryKeys := by
    unfold State.passBlaze
    split
    · rfl
    · exact State.blazeUpdate_keys ..
  rw [State.passRejection_eq, State.passCpl]
  split
  · exact (State.writeCpl_keys ..).trans (hblaze _)
  · split
    · exact (State.optionalCpl_keys ..).trans (hblaze _)
    · exact hblaze _

@[simp] theorem State.drainQueue_keys (q : BitVec 14) : (s.drainQueue q).entryKeys = s.entryKeys := by
  unfold State.drainQueue
  dsimp only
  split
  · refine (State.each_keeps State.entryKeys _ _ _ fun _ _ => State.report_keys ..).trans ?_
    exact State.each_keeps State.entryKeys _ _ _ fun _ _ => State.passRejection_keys ..
  · rfl

theorem State.settle_keys (c : BitVec 20) : (s.settle c).entryKeys = s.entryKeys :=
  (State.drainCtx_keys ..).trans (State.each_keeps State.entryKeys _ _ _ fun _ _ => State.drainQueue_keys ..)

/-! ## What the end of each kind leaves behind -/

theorem State.settleGraph_keys (c : BitVec 20) (g : BitVec 12) : (s.settleGraph c g).entryKeys = s.entryKeys := by
  have hrefs (s : State) (l : List Nat) : (s.each l (fun s i => s.releaseRef i)).entryKeys = s.entryKeys :=
    State.each_keeps State.entryKeys _ _ _ fun _ _ => State.releaseRef_keys ..
  unfold State.settleGraph
  dsimp only
  split
  · refine (State.drainCtx_keys ..).trans ?_
    exact (State.each_keeps State.entryKeys _ _ _ fun _ _ => State.report_keys ..).trans (hrefs _ _)
  · exact hrefs _ _

theorem State.retireChain_keys (x : Entry) (st : BitVec 8) : (s.retireChain x st).entryKeys = s.entryKeys := by
  unfold State.retireChain
  split
  · rfl
  · exact State.updEntry_keys ..

theorem State.retireHaul_keys (x : Entry) : (s.retireHaul x).entryKeys = s.entryKeys := by
  unfold State.retireHaul
  split <;> rfl

theorem State.retireLaunch_keys (x : Entry) : (s.retireLaunch x).entryKeys = s.entryKeys := by
  unfold State.retireLaunch
  split <;> rfl

theorem State.retireLoad_keys (x : Entry) (st : BitVec 8) : (s.retireLoad x st).entryKeys = s.entryKeys := by
  unfold State.retireLoad
  split <;> rfl

theorem State.retireGraphLoad_keys (x : Entry) (st : BitVec 8) : (s.retireGraphLoad x st).entryKeys = s.entryKeys := by
  unfold State.retireGraphLoad
  split
  · exact (State.settleGraph_keys ..).trans (State.each_keeps State.entryKeys _ _ _ fun _ _ => State.updEntry_keys ..)
  · rfl

theorem State.retireGraph_keys (e : Nat) (x : Entry) : (s.retireGraph e x).entryKeys = s.entryKeys := by
  unfold State.retireGraph
  dsimp only
  split
  · exact State.settleGraph_keys ..
  · split
    · exact State.settleGraph_keys ..
    · split
      · exact State.settleGraph_keys ..
      · rfl

theorem State.retireNode_keys (x : Entry) (st : BitVec 8) (c : BitVec 20) : (s.retireNode x st c).entryKeys = s.entryKeys := by
  unfold State.retireNode
  split
  · rfl
  · exact State.updEntry_keys ..

theorem State.setFw_keys (x : FwState) : (s.setFw x).entryKeys = s.entryKeys := by
  unfold State.setFw
  split
  · rfl
  · exact State.raise_keys ..

theorem State.retireBoot_keys (x : Entry) (st : BitVec 8) : (s.retireBoot x st).entryKeys = s.entryKeys := by
  unfold State.retireBoot
  split
  · exact State.setFw_keys ..
  · rfl

theorem State.retireKind_keys (e : Nat) (x : Entry) (st : BitVec 8) (c : BitVec 20) : (s.retireKind e x st c).entryKeys = s.entryKeys := by
  rw [State.retireKind, State.retireBoot_keys, State.retireNode_keys, State.retireGraph_keys, State.retireGraphLoad_keys, State.retireLoad_keys,
    State.retireLaunch_keys, State.retireHaul_keys]
  exact State.retireChain_keys ..

theorem State.retireCpl_keys (x : Entry) (st : BitVec 8) : (s.retireCpl x st).entryKeys = s.entryKeys := by
  unfold State.retireCpl
  dsimp only
  split
  · rfl
  · split <;> exact State.writeCpl_keys ..

/-- An entry that retires is gone (R222). -/
theorem State.retire_gone (e : Nat) (x : Entry) (st : BitVec 8) (c : BitVec 20) (p : Bool) : (s.retire e x st c p).entry e = none := by
  have hkeys : (s.retire e x st c p).entryKeys = ((s.signalEnd x st c p).freeEntry e).entryKeys := by
    rw [State.retire, State.settle_keys, State.retireCpl_keys]
    refine (State.retireKind_keys ..).trans ?_
    exact State.each_keeps State.entryKeys _ _ _ fun _ _ => State.releaseRef_keys ..
  refine State.entry_eq_none ?_
  rw [hkeys]
  simp [State.entryKeys, State.freeEntry]

end

/-! ## What an update of a Blaze and a passing rejection leave alone -/

section
variable (s : State)

theorem State.recordError_queues (n : BitVec 16) (a b : BlazeRun) : (s.recordError n a b).queues = s.queues := by
  unfold State.recordError
  dsimp only
  split
  · rw [State.raise_frame]
  · split <;> rfl

theorem State.applyUpdates_queues (n : BitVec 16) (v : W64) (late : Bool) (a b : BlazeRun) : (s.applyUpdates n v late a b).queues = s.queues := by
  unfold State.applyUpdates
  dsimp only
  split
  · rfl
  · split <;> rfl

theorem State.blazeUpdate_queues (n : BitVec 16) (u : BlazeUp) : (s.blazeUpdate n u).queues = s.queues := by
  unfold State.blazeUpdate
  dsimp only
  rw [State.recordError_queues]
  split
  · rfl
  · exact State.applyUpdates_queues ..

theorem State.passBlaze_queues (c : BitVec 20) (r : Rejection) : (s.passBlaze c r).queues = s.queues := by
  unfold State.passBlaze
  split
  · rfl
  · exact State.blazeUpdate_queues ..

theorem State.writeCpl_queues (q : BitVec 14) (n : W32) (st op : BitVec 8) (d : Bool) (a b : Nat) : (s.writeCpl q n st op d a b).queues = s.queues :=
  State.issueTxn_queues ..

/-- A queue but for its completion ring's counts. -/
def Queue.sansCpl (x : Queue) : Queue := { x with cplReserved := 0, cplLost := false }

theorem State.optionalCpl_sansCpl {q : BitVec 14} (n : W32) (st op : BitVec 8) (f : Nat) (hw : tblWf {} s.queues = true) :
    ((s.optionalCpl q n st op f).queue q).sansCpl = (s.queue q).sansCpl := by
  have hup (f : Queue → Queue) (hf : ∀ x, (f x).sansCpl = x.sansCpl) : ((s.updQueue q f).queue q).sansCpl = (s.queue q).sansCpl := by
    rw [State.updQueue_same s q f hw]
    exact hf _
  unfold State.optionalCpl
  dsimp only
  split
  · rfl
  · split
    · rw [State.queue, State.writeCpl_queues]
      exact hup _ fun _ => rfl
    · exact hup _ fun _ => rfl

/-- A rejection that passes changes of its queue no more than the completion ring's counts (R236). -/
theorem State.passRejection_sansCpl {q : BitVec 14} (r : Rejection) (hw : tblWf {} s.queues = true) :
    ((s.passRejection q r).queue q).sansCpl = (s.queue q).sansCpl := by
  rw [State.passRejection_eq]
  have hb := s.passBlaze_queues (s.queue q).ctx r
  generalize s.passBlaze (s.queue q).ctx r = u at hb ⊢
  have hq : s.queue q = u.queue q := by rw [State.queue, State.queue, hb]
  rw [hq, State.passCpl]
  split
  · rw [State.queue, State.writeCpl_queues, State.queue]
  · split
    · exact State.optionalCpl_sansCpl _ _ _ _ _ (hb ▸ hw)
    · rfl

theorem State.drainQueue_open {q : BitVec 14} (h : (s.queue q).state = .open_) : s.drainQueue q = s :=
  if_neg (by simp [h])

/-! ## Mirror writes (R232) -/

/-- A transaction that is issued is outstanding, or waits for its turn. -/
theorem State.issueTxn_mem (t : Txn) : ∃ w ∈ (s.issueTxn t).mp.txns ++ (s.issueTxn t).mp.waiting,
    w.purpose = t.purpose ∧ w.write = t.write ∧ w.source = t.source := by
  unfold State.issueTxn
  split
  · next k _ _ =>
    refine ⟨{ t with slot := k, epoch := s.mp.epoch, fc := s.fc }, ?_, rfl, rfl, rfl⟩
    rw [State.sendTxn, State.drawBucket_mp]
    simp
  · exact ⟨t, by simp, rfl, rfl, rfl⟩

/-! ## Entries that become ready (R220) -/

theorem State.retires {s : State} {e : Nat} {x : Entry} {st : BitVec 8} {c : BitVec 20} {prop : Bool} (hx : s.entry e = some x) (hrun : s.inRun = true)
    (h : s.retireNow e x = some (st, c, prop)) : exec (.retirement e) s = .next (s.retire e x st c prop) := by
  refine congrArg Host.Outcome.next ?_
  rw [hx]
  dsimp only
  rw [h]
  exact if_pos hrun

theorem State.obtainCopy_frame (e : Nat) (x : Entry) : s.obtainCopy e x = { s with hau := (s.obtainCopy e x).hau } := by
  unfold State.obtainCopy
  dsimp only
  split
  · rfl
  · split <;> rfl

theorem State.obtainCopy_entry (e d : Nat) (x : Entry) : (s.obtainCopy e x).entry d = s.entry d := by rw [State.obtainCopy_frame]; rfl

theorem State.obtainCopy_other {s : State} {e : Nat} {x : Entry} (h : x.actKind ≠ kLaunch) : s.obtainCopy e x = s := if_pos h

theorem State.windowsGo_none {s : State} (h : s.yrd.windows = []) : s.windowsGo = s := by
  unfold State.windowsGo
  rw [h]
  split <;> rfl

end

end Sys2Proof.Machine

section
open Sys2Proof Sys2Proof.Machine

/-- Settles O44: each step acts as its condition allows, an entry that retires leaves the Landing, and what passes of a rejection keeps its queue OPEN. -/
theorem landingEntriesBecomeReadyAndRetire : Obligations.LandingEntriesBecomeReadyAndRetire := by
  intro s hI
  refine ⟨fun e x hx hrun => ⟨fun hready hwin => ?_, fun st prop hrep hext hgraph hchain => ?_, fun hrep hext hchain hissued htorn hctx => ?_,
    fun n hrep hext hchain hparent hpend htorn hwait => ?_⟩, fun q r rest hq hrun => ⟨fun hturn hopen => ?_, fun hturn => ?_⟩,
    fun n hfe hen herr hdue hout hcycle hcfg => ?_⟩
  · have hrun' : exec (.entryReady e) s = .next ((s.updEntry e (fun y => { y with state := .ready, readyAt := s.fc })).obtainCopy e x) := by
      refine congrArg Host.Outcome.next ?_
      rw [hx]
      dsimp only
      rw [if_pos (by simp [hready, hrun])]
      refine State.windowsGo_none ?_
      rw [State.obtainCopy_frame]
      exact hwin
    refine ⟨_, hrun', ?_, fun d hd => ?_, ?_, fun hkind => by rw [State.obtainCopy_other hkind]; rfl⟩
    · rw [State.obtainCopy_entry, State.updEntry_same, hx]
      rfl
    · rw [State.obtainCopy_entry, State.updEntry_other _ _ hd]
    · rw [State.obtainCopy_frame]
      rfl
  · have hover : ¬(x.kind = kGraphLaunch ∧ x.phase = 1) := fun h => hgraph h.1 h.2
    have hnow : s.retireNow e x = some (st, x.ctx, prop) := by
      simp only [State.retireNow, hext, hchain, hrep, ← Bool.decide_and, hover]
      simp
    exact ⟨_, State.retires hx hrun hnow, rfl, State.retire_gone ..⟩
  · exact ⟨_, State.retires hx hrun (by simp [State.retireNow, hext, hchain, hrep, hissued, htorn, hctx]), rfl, State.retire_gone ..⟩
  · exact ⟨_, State.retires hx hrun (by simp [State.retireNow, State.failedPred, hext, hchain, hparent, hrep, hpend, htorn, hwait]), rfl,
      State.retire_gone ..⟩
  · have hup := State.updQueue_same s q (fun x => { x with rejections := rest }) hI.queues
    have hcpl := State.passRejection_sansCpl (s.updQueue q (fun x => { x with rejections := rest })) (q := q) r (State.updQueue_inv q _ hI).queues
    rw [hup] at hcpl
    have hstate : ((s.updQueue q (fun x => { x with rejections := rest })).passRejection q r |>.queue q).state = .open_ :=
      (congrArg Queue.state hcpl).trans hopen
    refine ⟨_, congrArg Host.Outcome.next ?_, congrArg Queue.rejections hcpl, hstate, rfl⟩
    rw [hq]
    dsimp only
    rw [if_pos (by simp [hturn, hrun]), State.drainQueue_open _ hstate]
  · refine congrArg Host.Outcome.next ?_
    rw [hq]
    dsimp only
    rw [if_neg (by simp [hturn])]
  · have hsettled : s.blazeSettled (s.blaze n) = true := by
      unfold State.blazeSettled
      split
      · next y hy => simp [hcycle y hy]
      · rfl
    have hissue : s.mirrorIssue n = (s.updBlaze n (fun b => { b with mirrorDue := false, mirrorOut := true })).ringWrite none srcMirror
        (s.blaze n).mirrorPa.toNat (toBytes 8 (s.blaze n).value.toNat) (.mirror n) := by
      have hnone : (s.updBlaze n (fun b => { b with mirrorDue := false, mirrorOut := true })).configsAt n 1 = [] := hcfg
      unfold State.mirrorIssue
      dsimp only
      rw [hnone]
      rfl
    refine ⟨_, congrArg Host.Outcome.next ((if_pos (by simp [hfe, hen, herr, hdue, hout, hsettled])).trans hissue), ?_, fun m hm => ?_,
      State.issueTxn_mem .., rfl⟩
    · rw [State.ringWrite_unregulated]
      exact State.updBlaze_same s n (fun b => { b with mirrorDue := false, mirrorOut := true }) hI.blazes
    · rw [State.ringWrite_unregulated]
      exact State.updBlaze_other s (fun b => { b with mirrorDue := false, mirrorOut := true }) hm

end

namespace Sys2Proof.Machine

/-! ## What the open windows keep while they go on (R258)

A window that goes on is preloaded and switched to, but stays the window of its entry and instant, and is neither released, ended nor made inert. -/

/-- What of a window only its opening, release, end and close change. -/
def Window.key (w : Window) : Nat × Nat × Bool × Bool × Bool := (w.entry, w.instant, w.released, w.ended, w.inert)

def State.windowKeys (s : State) : List (Nat × Nat × Bool × Bool × Bool) := s.yrd.windows.map Window.key

section
variable (s : State)

@[simp] theorem State.updCluster_windowKeys (c : BitVec 6) (f : Cluster → Cluster) : (s.updCluster c f).windowKeys = s.windowKeys := rfl

@[simp] theorem State.updEntry_windowKeys (e : Nat) (f : Entry → Entry) : (s.updEntry e f).windowKeys = s.windowKeys := rfl

@[simp] theorem State.returnLaunch_windowKeys (e : Nat) : (s.returnLaunch e).windowKeys = s.windowKeys := by
  unfold State.returnLaunch
  split
  · rfl
  · split
    · split
      · split <;> rfl
      · rfl
    · rfl

@[simp] theorem State.withdrawShadow_windowKeys (c : BitVec 6) : (s.withdrawShadow c).windowKeys = s.windowKeys := by
  unfold State.withdrawShadow
  split
  · rfl
  · exact State.returnLaunch_windowKeys ..

@[simp] theorem State.beginSwitch_windowKeys (c : BitVec 6) (cause : SwCause) (into : Option (BitVec 20)) (e : Option Nat) :
    (s.beginSwitch c cause into e).windowKeys = s.windowKeys := by
  unfold State.beginSwitch
  dsimp only
  split
  · rfl
  · rw [State.updCluster_windowKeys, State.trace_frame]
    rfl

@[simp] theorem State.keepChain_windowKeys (c : BitVec 6) : (s.keepChain c).windowKeys = s.windowKeys := by
  unfold State.keepChain
  split <;> rfl

theorem map_key_modify {l : List Window} {n : Nat} {f : Window → Window} (hf : ∀ w, (f w).key = w.key) : (l.modify n f).map Window.key = l.map Window.key := by
  refine List.ext_getElem? fun i => ?_
  simp only [List.getElem?_map, List.getElem?_modify]
  cases l[i]? with
  | none => rfl
  | some w =>
    simp only [Option.map_some]
    split <;> simp [hf]

theorem modify_append_last {α : Type} (l : List α) (a : α) (f : α → α) : (l ++ [a]).modify l.length f = l ++ [f a] := by
  induction l with
  | nil => rfl
  | cons b l ih => exact congrArg (b :: ·) ih

theorem State.updWindow_keys (n : Nat) {f : Window → Window} (hf : ∀ w, (f w).key = w.key) : (s.updWindow n f).windowKeys = s.windowKeys :=
  map_key_modify hf

theorem State.issueTxn_windowKeys (t : Txn) : (s.issueTxn t).windowKeys = s.windowKeys := by
  have hdraw (u : State) : (u.drawBucket t).windowKeys = u.windowKeys := by
    unfold State.drawBucket
    split
    · rfl
    · split <;> rfl
  unfold State.issueTxn
  split
  · exact hdraw _
  · rfl

@[simp] theorem State.fetchPages_windowKeys (l : Launch) : (s.fetchPages l).windowKeys = s.windowKeys := by
  unfold State.fetchPages
  refine State.each_keeps State.windowKeys _ _ _ fun u p => ?_
  split
  · rfl
  · exact State.issueTxn_windowKeys ..

theorem State.windowLoad_windowKeys (n : Nat) (w : Window) (c : BitVec 6) (k : BitVec 20) : (s.windowLoad n w c k).windowKeys = s.windowKeys := by
  have hfin (b : Bool) : (s.updWindow n (fun v => { v with switched := v.switched || b })).windowKeys = s.windowKeys :=
    State.updWindow_keys _ _ fun _ => rfl
  unfold State.windowLoad
  dsimp only
  split
  · split
    · exact (State.updWindow_keys _ _ (by intro; rfl)).trans (hfin _)
    · exact hfin _
  · split
    · split
      · exact hfin _
      · refine (State.updWindow_keys _ _ (by intro; rfl)).trans ?_
        exact (State.fetchPages_windowKeys ..).trans (hfin _)
    · exact hfin _

theorem ite_windowKeys {p : Prop} [Decidable p] {a b : State} (ha : a.windowKeys = s.windowKeys) (hb : b.windowKeys = s.windowKeys) :
    (if p then a else b).windowKeys = s.windowKeys := by
  split
  · exact ha
  · exact hb

theorem State.windowGo_windowKeys (n : Nat) : (s.windowGo n).windowKeys = s.windowKeys := by
  unfold State.windowGo
  split
  · rfl
  · next w _ =>
    have hshadow : (if (s.cluster (BitVec.ofNat 6 w.cluster)).shadowUntabled then s.withdrawShadow (BitVec.ofNat 6 w.cluster) else s).windowKeys =
        s.windowKeys := ite_windowKeys s (State.withdrawShadow_windowKeys ..) rfl
    refine ite_windowKeys s rfl ?_
    split
    · exact ite_windowKeys s hshadow (ite_windowKeys s (State.withdrawShadow_windowKeys ..) rfl)
    · have hkeep := (State.keepChain_windowKeys _ (BitVec.ofNat 6 w.cluster)).trans hshadow
      refine ite_windowKeys s (ite_windowKeys s ((State.windowLoad_windowKeys ..).trans hshadow) hshadow) ?_
      refine ite_windowKeys s ((State.beginSwitch_windowKeys ..).trans hshadow) ?_
      exact ite_windowKeys s ((State.beginSwitch_windowKeys ..).trans hkeep) ((State.windowLoad_windowKeys ..).trans hkeep)

theorem State.windowsGo_windowKeys : s.windowsGo.windowKeys = s.windowKeys := by
  unfold State.windowsGo
  split
  · rfl
  · exact State.each_keeps State.windowKeys _ _ _ fun u n => State.windowGo_windowKeys u n

end

/-- A test of what windows keep that none of the windows passed is passed by none after they went on. -/
theorem State.windowsGo_findIdx_none {s : State} {p : Window → Bool} (g : Nat × Nat × Bool × Bool × Bool → Bool) (hp : ∀ w, p w = g w.key)
    (h : ∀ w ∈ s.yrd.windows, p w = false) : s.windowsGo.yrd.windows.findIdx? p = none := by
  rw [List.findIdx?_eq_none_iff]
  intro w hw
  have hmem : w.key ∈ s.windowKeys := by
    rw [← State.windowsGo_windowKeys]
    exact List.mem_map_of_mem hw
  obtain ⟨v, hv, hkey⟩ := List.mem_map.mp hmem
  rw [hp, ← hkey, ← hp]
  exact h v hv

/-! ## Missed and overrunning windows (R260, R261) -/

theorem State.rtFault_missed {s : State} (n : Nat) : ∃ t, s.rtFault n false = t ∧ t.yrd.missed = s.yrd.missed + 1 ∧ t.irq.pending.getLsbD 0x00C = true ∧
    t.yrd.windows = s.yrd.windows.modify n (fun w => { w with counted := true }) ∧ t = { s with yrd := t.yrd, irq := t.irq, pwr := t.pwr } := by
  refine ⟨_, rfl, ?_, ?_, ?_, ?_⟩
  · rw [State.rtFault, State.raise_frame]
    rfl
  · exact (State.raise_sets _ _ _ (by decide)).trans (by simp)
  · rw [State.rtFault, State.raise_frame]
    rfl
  · rw [State.rtFault, State.raise_frame]

theorem State.rtFault_overrun {s : State} (n : Nat) : ∃ t, s.rtFault n true = t ∧ t.yrd.overrun = s.yrd.overrun + 1 ∧ t.irq.pending.getLsbD 0x00C = true ∧
    t.yrd.windows = s.yrd.windows.modify n (fun w => { w with counted := true }) ∧ t = { s with yrd := t.yrd, irq := t.irq, pwr := t.pwr } := by
  refine ⟨_, rfl, ?_, ?_, ?_, ?_⟩
  · rw [State.rtFault, State.raise_frame]
    rfl
  · exact (State.raise_sets _ _ _ (by decide)).trans (by simp)
  · rw [State.rtFault, State.raise_frame]
    rfl
  · rw [State.rtFault, State.raise_frame]

/-! ## The release of a window's launch, and its close (R258, R260) -/

/-- What RT_RELEASE does of the window `n` that it finds. -/
def State.releaseAt (s : State) (n : Nat) (w : Window) : State :=
  if s.fc < w.instant then s
  else if !(s.cluster (BitVec.ofNat 6 w.cluster)).inService then (if w.counted then s else s.rtFault n false)
  else match w.launch with
    | none => s
    | some l =>
      if !s.releasable w || s.fwc.feBusy || s.yrd.releaseFc = some s.fc || s.yrd.windows.any (fun v => decide (v.entry < w.entry) && s.releasable v) then s
      else
        let s := (s.issue l).updEntry l (fun y => { y with place := .shadow (BitVec.ofNat 6 w.cluster) })
        { s with yrd := { s.yrd with
            released := s.yrd.released + 1, releaseFc := some s.fc
            windows := s.yrd.windows.modify n (fun w => { w with released := true }) } }

theorem State.releaseAt_releases {s : State} {n l : Nat} {w : Window} (hl : w.launch = some l) (hrel : s.releasable w = true) (hfe : s.fwc.feBusy = false)
    (hfc : s.yrd.releaseFc ≠ some s.fc) (hfirst : ∀ v ∈ s.yrd.windows, v.entry < w.entry → s.releasable v = false) :
    s.releaseAt n w = { (s.issue l).updEntry l (fun y => { y with place := .shadow (BitVec.ofNat 6 w.cluster) }) with
      yrd := { s.yrd with
        released := s.yrd.released + 1, releaseFc := some s.fc, windows := s.yrd.windows.modify n (fun w => { w with released := true }) } } := by
  have hany : s.yrd.windows.any (fun v => decide (v.entry < w.entry) && s.releasable v) = false := by
    rw [List.any_eq_false]
    intro v hv
    by_cases hlt : v.entry < w.entry
    · simp [hfirst v hv hlt]
    · simp [hlt]
  have hin := hrel
  simp only [State.releasable, Bool.and_eq_true, decide_eq_true_eq] at hin
  obtain ⟨⟨⟨⟨⟨⟨⟨⟨-, hdue⟩, hserves⟩, -⟩, -⟩, -⟩, -⟩, -⟩, -⟩ := hin
  refine (if_neg (Nat.not_lt.mpr hdue)).trans ((if_neg (by simp [hserves])).trans ?_)
  rw [hl]
  exact if_neg (by simp [hrel, hfe, hfc, hany])

/-- What WINDOW_CLOSE does of the window `n` that it finds. -/
def State.closeAt (s : State) (n : Nat) (w : Window) : State :=
  let c := BitVec.ofNat 6 w.cluster
  if w.released && !w.ended then (if w.counted then s else s.rtFault n true)
  else
    let s := if !w.released && !w.ended && !w.counted then s.rtFault n false else s
    let s := if w.inert || w.released || w.ended || w.launch.isNone then s
      else s.updCluster c (fun x => if x.shadowIs w.launch then { x with shadow := none } else x)
    let s := { s with yrd := { s.yrd with windows := s.yrd.windows.eraseIdx n } }
    match s.yrd.table with
    | none => s
    | some t =>
      let k := (s.queue (rtQueue w.row)).ctx
      let pos := if w.old then (s.fc - s.yrd.base.toNat) % t.majorFc
        else (w.instant + 2 * t.majorFc - s.yrd.base.toNat % t.majorFc - rtLead w.row) % t.majorFc
      if bit w.row 1 && !w.inert && !s.reserved c && s.nextIsSame t w.cluster pos k then
        s.updCluster c (fun x => { x with hold := some k })
      else s

theorem State.closeAt_ended {s : State} {n : Nat} {w : Window} (hend : w.ended = true) (hhold : bit w.row 1 = false) :
    s.closeAt n w = { s with yrd := { s.yrd with windows := s.yrd.windows.eraseIdx n } } := by
  have hhold' (b : Bool) (t u : State) : (if bit w.row 1 && b then t else u) = u := if_neg (by simp [hhold])
  have hover : ¬(w.released && !w.ended) = true := by simp [hend]
  have hmiss : ¬(!w.released && !w.ended && !w.counted) = true := by simp [hend]
  have hkeep : (w.inert || w.released || w.ended || w.launch.isNone) = true := by simp [hend]
  unfold State.closeAt
  dsimp only
  rw [if_neg hover, if_neg hmiss, if_pos hkeep]
  split
  · rfl
  · rw [Bool.and_assoc, Bool.and_assoc, hhold']

theorem State.closeAt_missed {s : State} {n : Nat} {w : Window} (hrel : w.released = false) (hend : w.ended = false) (hcount : w.counted = false)
    (hl : w.launch = none) (hhold : bit w.row 1 = false) :
    s.closeAt n w = { s.rtFault n false with yrd := { (s.rtFault n false).yrd with windows := (s.rtFault n false).yrd.windows.eraseIdx n } } := by
  have hhold' (b : Bool) (t u : State) : (if bit w.row 1 && b then t else u) = u := if_neg (by simp [hhold])
  have hover : ¬(w.released && !w.ended) = true := by simp [hrel]
  have hmiss : (!w.released && !w.ended && !w.counted) = true := by simp [hrel, hend, hcount]
  have hkeep : (w.inert || w.released || w.ended || w.launch.isNone) = true := by simp [hl]
  unfold State.closeAt
  dsimp only
  rw [if_neg hover, if_pos hmiss, if_pos hkeep]
  split
  · rfl
  · rw [Bool.and_assoc, Bool.and_assoc, hhold']

end Sys2Proof.Machine

section
open Sys2Proof Sys2Proof.Machine

/-- Settles O51: the windows that go on keep their entry, instant and marks; each end of a window is its branch of the model. -/
theorem reservationWindowsOpenReleaseAndClose : Obligations.ReservationWindowsOpenReleaseAndClose := by
  intro s i hI
  refine ⟨fun m t ht hlen hrun => ?_, ⟨fun hnone => ?_, fun w0 hw0 => ?_⟩, fun n w hn hw => ?_⟩
  · intro e q first at_ live w opened run
    refine ⟨fun hno => ?_, fun _ hearly => ?_, fun hfires hdue hnew => ?_⟩
    · refine congrArg Host.Outcome.next ?_
      rw [ht]
      refine if_pos ?_
      show (!rtFires e t.minors m.toNat || _ || _) = true
      rw [hno]
      rfl
    · refine congrArg Host.Outcome.next ?_
      rw [ht]
      refine (if_congr Iff.rfl rfl (if_pos ?_)).trans (ite_self _)
      exact Bool.or_eq_true_iff.mpr (.inl (decide_eq_true hearly))
    · have hrow : ¬(!rtFires e t.minors m.toNat || decide (t.entries.length ≤ i.toNat) || !s.inRun) = true := by
        simp [hfires, hrun, hlen]
      have hopens : ¬(decide (s.fc + rtLead e < at_) || s.yrd.windows.any (fun w => w.entry = i.toNat && w.instant = at_)) = true := by
        have hany : ¬s.yrd.windows.any (fun w => w.entry = i.toNat && w.instant = at_) = true := by
          simp only [List.any_eq_true, Bool.and_eq_true, decide_eq_true_eq]
          exact fun ⟨v, hv, h⟩ => hnew v hv h
        simp [hany, hdue]
      have hexec : run = .next (if decide (q.state ≠ .open_) || decide ((s.ctx q.ctx).state ≠ .active) || s.fwc.feBusy then
          (opened (decide (q.state ≠ .open_) || decide ((s.ctx q.ctx).state ≠ .active) || s.fwc.feBusy)).rtFault s.yrd.windows.length false
          else ((opened (decide (q.state ≠ .open_) || decide ((s.ctx q.ctx).state ≠ .active) || s.fwc.feBusy)).updCluster (BitVec.ofNat 6 (rtCluster e))
            (fun x => { x with hold := none })).windowsGo) := by
        refine congrArg Host.Outcome.next ?_
        rw [ht]
        exact (if_neg hrow).trans (if_neg hopens)
      rw [hexec]
      refine ⟨fun hlive => ?_, fun hdead => ?_⟩
      · obtain ⟨hq, hctx, hfe⟩ := hlive
        have hin : (decide (q.state ≠ .open_) || decide ((s.ctx q.ctx).state ≠ .active) || s.fwc.feBusy) = false := by simp [hq, hctx, hfe]
        rw [hin]
        refine ⟨_, rfl, rfl, ?_⟩
        have hkeys := congrArg (List.map fun k : Nat × Nat × Bool × Bool × Bool => (k.1, k.2.1, k.2.2.1, k.2.2.2.2))
          (State.windowsGo_windowKeys ((opened false).updCluster (BitVec.ofNat 6 (rtCluster e)) (fun x => { x with hold := none })))
        rw [State.windowKeys, List.map_map, State.updCluster_windowKeys, State.windowKeys, List.map_map] at hkeys
        exact hkeys.trans List.map_append
      · have hin : (decide (q.state ≠ .open_) || decide ((s.ctx q.ctx).state ≠ .active) || s.fwc.feBusy) = true := by
          by_contra hno
          simp only [Bool.not_eq_true, Bool.or_eq_false_iff, decide_eq_false_iff_not, not_not] at hno
          obtain ⟨⟨hq, hctx⟩, hfe⟩ := hno
          exact hdead ⟨hq, hctx, hfe⟩
        rw [hin]
        obtain ⟨r, hr, hmiss, hpend, hwin, hframe⟩ := State.rtFault_missed (s := opened true) s.yrd.windows.length
        exact ⟨r, congrArg Host.Outcome.next hr, hwin.trans (modify_append_last ..), hmiss, hpend, hframe⟩
  · have hfind : s.yrd.windows.find? (fun w => w.entry = i.toNat && !w.inert && !w.released && !w.ended) = none := by
      rw [List.find?_eq_none]
      exact fun w hw => Bool.eq_false_iff.mp (hnone w hw)
    have hidx : s.windowsGo.yrd.windows.findIdx? (fun w => w.entry = i.toNat && !w.inert && !w.released && !w.ended) = none :=
      State.windowsGo_findIdx_none (fun k => k.1 = i.toNat && !k.2.2.2.2 && !k.2.2.1 && !k.2.2.2.1) (fun _ => rfl) hnone
    refine congrArg Host.Outcome.next ?_
    dsimp only
    rw [hfind]
    dsimp only
    rw [hidx]
  · intro r n w hn hw
    have hexec : exec (.rtRelease i) s = .next (r.releaseAt n w) := by
      refine congrArg Host.Outcome.next ?_
      dsimp only
      rw [hw0]
      dsimp only
      rw [hn]
      dsimp only
      rw [hw]
      rfl
    rw [hexec]
    clear_value r
    refine ⟨fun hearly => congrArg Host.Outcome.next (if_pos hearly), fun hdue hout hcount => ?_, fun l y hl hy hrel hfe hfc hfirst => ?_⟩
    · have hfault : r.releaseAt n w = r.rtFault n false :=
        (if_neg (Nat.not_lt.mpr hdue)).trans ((if_pos (by simp [hout])).trans (if_neg (by simp [hcount])))
      obtain ⟨t, ht, hmiss, hpend, -⟩ := State.rtFault_missed (s := r) n
      exact ⟨t, congrArg Host.Outcome.next (hfault.trans ht), ht.symm, hmiss, hpend⟩
    · refine ⟨_, congrArg Host.Outcome.next (State.releaseAt_releases hl hrel hfe hfc hfirst), ?_, rfl, rfl⟩
      have hentry : ((r.issue l).updEntry l (fun y => { y with place := .shadow (BitVec.ofNat 6 w.cluster) })).entry l =
          some { y with state := .issued, startFc := r.fe.cycles, place := .shadow (BitVec.ofNat 6 w.cluster) } := by
        rw [State.updEntry_same, State.issue, State.updEntry_same, hy]
        rfl
      exact hentry
  · have hexec : exec (.windowClose i) s = .next (s.closeAt n w) := by
      refine congrArg Host.Outcome.next ?_
      rw [hn]
      dsimp only
      rw [hw]
      rfl
    dsimp only
    rw [hexec]
    refine ⟨fun hrel hend hcount => ?_, fun hrel hend hcount => ?_, fun hend hhold => ?_, fun hrel hend hcount hl hhold => ?_⟩
    · exact congrArg Host.Outcome.next ((if_pos (by simp [hrel, hend])).trans (if_pos hcount))
    · obtain ⟨t, ht, hover, hpend, hwin, hframe⟩ := State.rtFault_overrun (s := s) n
      exact ⟨t, congrArg Host.Outcome.next ((if_pos (by simp [hrel, hend])).trans ((if_neg (by simp [hcount])).trans ht)), hover, hpend, hwin, hframe⟩
    · rw [State.closeAt_ended hend hhold]
    · obtain ⟨t, ht, hmiss, hpend, hwin, hframe⟩ := State.rtFault_missed (s := s) n
      rw [State.closeAt_missed hrel hend hcount hl hhold, ht]
      refine ⟨_, rfl, hmiss, hpend, ?_, ?_⟩
      · show t.yrd.windows.eraseIdx n = _
        rw [hwin, List.eraseIdx_modify_of_eq]
      · rw [hframe]

end

namespace Sys2Proof.Machine

/-! ## Transactions that are promoted (R40) -/

section
variable (s : State)

theorem State.sendTxn_frame (t : Txn) (k : Nat) : s.sendTxn t k = { s with mp := (s.sendTxn t k).mp, yrd := (s.sendTxn t k).yrd } := by
  unfold State.sendTxn
  rw [State.drawBucket_frame]

theorem State.promoteTxn_frame (w : Bool) (i : Nat) : s.promoteTxn w i = { s with mp := (s.promoteTxn w i).mp, yrd := (s.promoteTxn w i).yrd } := by
  unfold State.promoteTxn
  split
  · rw [State.sendTxn_frame]
  · rfl

theorem State.each_mp_yrd {α : Type} (f : State → α → State) (hf : ∀ s a, f s a = { s with mp := (f s a).mp, yrd := (f s a).yrd }) (l : List α) :
    ∀ s : State, s.each l f = { s with mp := (s.each l f).mp, yrd := (s.each l f).yrd } := by
  induction l with
  | nil => exact fun _ => rfl
  | cons a l ih =>
    intro s
    rw [State.each_cons, ih (f s a), hf s a]

/-- Promotion reaches the manager ports and the regulators alone. -/
theorem State.promoteAll_frame : s.promoteAll = { s with mp := s.promoteAll.mp, yrd := s.promoteAll.yrd } :=
  State.each_mp_yrd _ (fun _ _ => State.promoteTxn_frame ..) _ s

/-- A transaction that is outstanding or waits, apart from what its issue gives it. -/
def State.pends (s : State) (t : Txn) : Prop :=
  ∃ w ∈ s.mp.txns ++ s.mp.waiting, w = { t with slot := w.slot, epoch := w.epoch, fc := w.fc }

theorem State.sendTxn_sent (t : Txn) (k : Nat) : (s.sendTxn t k).pends t := by
  refine ⟨{ t with slot := k, epoch := s.mp.epoch, fc := s.fc }, ?_, rfl⟩
  rw [State.sendTxn, State.drawBucket_mp]
  simp

variable {s}

theorem State.sendTxn_pends {t : Txn} (u : Txn) (k : Nat) (h : s.pends t) : (s.sendTxn u k).pends t := by
  obtain ⟨w, hw, ht⟩ := h
  refine ⟨w, ?_, ht⟩
  rw [State.sendTxn, State.drawBucket_mp]
  grind

theorem leastOf_mem (key : Txn → Nat) : ∀ {l : List (Txn × Nat)} {x : Txn × Nat}, leastOf key l = some x → x ∈ l
  | [], _, h => nomatch h
  | y :: r, x, h => by
    rw [leastOf] at h
    split at h
    · cases h
      exact List.mem_cons_self
    · next z hz =>
      split at h <;> cases h
      · exact List.mem_cons_of_mem _ (leastOf_mem key hz)
      · exact List.mem_cons_self

/-- The transaction that is promoted next stands at its place in the waiting list. -/
theorem State.nextTxn_waits {w : Bool} {i : Nat} {x : Txn × Nat} (h : s.nextTxn w i = some x) : s.mp.waiting[x.2]? = some x.1 := by
  have hmem {p : Txn × Nat → Bool} {y : Txn × Nat} (hy : y ∈ s.mp.waiting.zipIdx.filter p) : s.mp.waiting[y.2]? = some y.1 :=
    List.mem_zipIdx_iff_getElem?.mp (List.mem_filter.mp hy).1
  unfold State.nextTxn at h
  dsimp only at h
  split at h
  · cases h
  · next y hy =>
    split at h
    · cases h
      exact hmem (leastOf_mem _ hy)
    · exact hmem (List.mem_filter.mp (leastOf_mem _ h)).1

theorem State.promoteTxn_pends {t : Txn} (w : Bool) (i : Nat) (h : s.pends t) : (s.promoteTxn w i).pends t := by
  unfold State.promoteTxn
  split
  · next k x hk hx =>
    obtain ⟨v, hv, ht⟩ := h
    have hat := State.nextTxn_waits hx
    by_cases hmoved : v ∈ s.mp.txns ++ s.mp.waiting.eraseIdx x.2
    · exact State.sendTxn_pends (s := { s with mp := { s.mp with waiting := s.mp.waiting.eraseIdx x.2 } }) _ _ ⟨v, hmoved, ht⟩
    · have hvx : v = x.1 := by
        simp only [List.mem_append, not_or] at hv hmoved
        obtain ⟨hout, hrest⟩ := hmoved
        obtain ⟨n, hn⟩ := List.mem_iff_getElem?.mp (hv.resolve_left hout)
        by_cases hne : n = x.2
        · subst hne
          exact Option.some.inj (hn.symm.trans hat)
        · exact absurd (List.mem_eraseIdx_iff_getElem?.mpr ⟨n, hne, hn⟩) hrest
      obtain ⟨u, hu, hsent⟩ := State.sendTxn_sent { s with mp := { s.mp with waiting := s.mp.waiting.eraseIdx x.2 } } x.1 k
      refine ⟨u, hu, ?_⟩
      rw [← hvx, ht] at hsent
      exact hsent
  · exact h

theorem State.promoteAll_pends {t : Txn} (h : s.pends t) : s.promoteAll.pends t := by
  have hlist (l : List Txn) : ∀ u : State, u.pends t → (u.each l (fun s t => s.promoteTxn t.write t.ifc)).pends t := by
    induction l with
    | nil => exact fun _ h => h
    | cons a l ih => exact fun u h => ih _ (State.promoteTxn_pends _ _ h)
  exact hlist _ s h

theorem State.issueTxn_pends (t : Txn) : (s.issueTxn t).pends t := by
  unfold State.issueTxn
  split
  · next k _ _ =>
    exact State.sendTxn_sent s t k
  · exact ⟨t, by simp, rfl⟩

end

/-! ## What an answer leaves alone (R42, R47) -/

section
variable (s : State)

theorem State.portFail_frame (t : Txn) : s.portFail t = { s with lgr := (s.portFail t).lgr, irq := (s.portFail t).irq, pwr := (s.portFail t).pwr } := by
  unfold State.portFail
  split
  · rw [State.raise_frame]
    rfl
  · rfl

theorem State.tryInvert_frame : s.tryInvert = { s with mp := s.tryInvert.mp, yrd := s.tryInvert.yrd } := by
  unfold State.tryInvert
  split
  · rw [State.promoteAll_frame]
  · rfl

theorem State.drainOne_frame (p : Txn → Bool) : s.drainOne p = { s with mp := (s.drainOne p).mp, yrd := (s.drainOne p).yrd } := by
  unfold State.drainOne
  dsimp only
  rw [State.promoteAll_frame, State.tryInvert_frame]

/-- The counts of responses that no transaction explains. -/
def Mp.counts (m : Mp) : W32 × W32 := (m.late, m.stray)

theorem State.promoteTxn_counts (w : Bool) (i : Nat) : (s.promoteTxn w i).mp.counts = s.mp.counts := by
  unfold State.promoteTxn
  split
  · rw [State.sendTxn, State.drawBucket_mp]
    rfl
  · rfl

theorem State.promoteAll_counts : s.promoteAll.mp.counts = s.mp.counts :=
  State.each_keeps (fun s => s.mp.counts) _ _ _ fun _ _ => State.promoteTxn_counts ..

theorem State.drainOne_counts (p : Txn → Bool) : (s.drainOne p).mp.counts = s.mp.counts := by
  have hinvert (u : State) : u.tryInvert.mp.counts = u.mp.counts := by
    unfold State.tryInvert
    split
    · exact State.promoteAll_counts _
    · rfl
  exact (State.promoteAll_counts _).trans (hinvert _)

/-! ## Ports that stay HUNG (R48) -/

/-- Every transaction's port is marked, and no mark is taken away. -/
theorem hung_foldl (l : List Txn) : ∀ h : BitVec 8, (∀ j, h.getLsbD j = true →
      (l.foldl (fun h t => h ||| BitVec.ofNat 8 (2 ^ (t.ifc / 8))) h).getLsbD j = true) ∧
    ∀ t ∈ l, t.ifc < 64 → (l.foldl (fun h t => h ||| BitVec.ofNat 8 (2 ^ (t.ifc / 8))) h).getLsbD (t.ifc / 8) = true := by
  induction l with
  | nil => exact fun h => ⟨fun _ hj => hj, fun t ht => nomatch ht⟩
  | cons a l ih =>
    intro h
    obtain ⟨hkeep, hall⟩ := ih (h ||| BitVec.ofNat 8 (2 ^ (a.ifc / 8)))
    refine ⟨fun j hj => hkeep j (by simp [hj]), fun t ht hlt => ?_⟩
    rcases List.mem_cons.mp ht with rfl | ht
    · refine hkeep _ ?_
      have h8 : t.ifc / 8 < 8 := by omega
      rw [BitVec.getLsbD_or, BitVec.getLsbD_ofNat, Nat.testBit_two_pow_self]
      simp [h8]
    · exact hall t ht hlt

/-! ## Leaving service (R537) -/

/-- What the crash dump leaves alone: the HUNG ports, the drain, the state of the block, and the pending sources. -/
def State.dumpKept (s : State) : BitVec 8 × Option Int × FwState × Irq := (s.mp.hung, s.mp.drainFc, s.fwc.state, s.irq)

theorem State.dumpWrite_kept (k pa len : Nat) (data : List Byte) (p : List Bool) : (s.dumpWrite k pa len data p).dumpKept = s.dumpKept := by
  unfold State.dumpWrite State.issueTxn
  split
  · rw [State.sendTxn, State.drawBucket_frame]
    rfl
  · rfl

theorem State.dumpPage_kept (k off len p : Nat) : (s.dumpPage k off len p).dumpKept = s.dumpKept := by
  unfold State.dumpPage
  dsimp only
  split
  · rfl
  · rw [State.dumpWrite_kept]
    split <;> rfl

theorem State.dumpBody_kept : s.dumpBody.dumpKept = s.dumpKept :=
  State.each_keeps State.dumpKept _ _ _ fun _ _ => State.each_keeps State.dumpKept _ _ _ fun _ _ => State.dumpPage_kept ..

theorem State.dumpClose_kept : s.dumpClose.dumpKept = s.dumpKept := by
  unfold State.dumpClose
  split
  · rfl
  · split
    · rfl
    · exact State.dumpWrite_kept ..

theorem State.startDump_kept (c : BitVec 8) : (s.startDump c).dumpKept = s.dumpKept := by
  unfold State.startDump
  split
  · rfl
  · dsimp only
    split
    · exact (State.dumpClose_kept _).trans (State.dumpBody_kept _)
    · exact State.dumpWrite_kept ..

theorem State.raise_keeps {s : State} {n m : Nat} (h : s.irq.pending.getLsbD m = true) : (s.raise n).irq.pending.getLsbD m = true := by
  by_cases hn : n < 0x3FF
  · rw [State.raise_sets s n m hn, h]
    rfl
  · rw [State.raise, if_neg hn, h]

/-- Leaving service keeps the marks of the ports and every pending source. -/
theorem State.enterOos_leaves (c : BitVec 8) : (s.enterOos c).mp.hung = s.mp.hung ∧ (s.enterOos c).mp.drainFc = s.mp.drainFc ∧
    (s.enterOos c).fwc.state = .outOfService ∧ ∀ n, s.irq.pending.getLsbD n = true → (s.enterOos c).irq.pending.getLsbD n = true := by
  by_cases h : s.fwc.state = .outOfService
  · rw [State.enterOos, if_pos h]
    exact ⟨rfl, rfl, h, fun _ hn => hn⟩
  · have hset : s.setFw .outOfService = State.raise { s with fwc := { s.fwc with state := .outOfService } } 0x005 := if_neg h
    have hkept : (s.enterOos c).dumpKept = ((s.setFw .outOfService).raise 0x000).dumpKept := by
      unfold State.enterOos
      rw [if_neg h]
      refine (State.startDump_kept _ c).trans ?_
      generalize (s.setFw .outOfService).raise 0x000 = u
      rfl
    simp only [State.dumpKept, Prod.mk.injEq] at hkept
    obtain ⟨hhung, hdrain, hstate, hirq⟩ := hkept
    rw [hhung, hdrain, hstate, hirq, hset]
    refine ⟨?_, ?_, ?_, fun n hn => State.raise_keeps (State.raise_keeps hn)⟩ <;> rw [State.raise_frame, State.raise_frame]

end

/-! ## Masks and spans that are read (R453, R254) -/

theorem State.masksArrived_read {s : State} {k : BitVec 20} {r : Nat} {b : List Byte} (h : s.residentSlot k = some r)
    (hw : tblWf {} s.res.slots = true) : ((s.masksArrived k b).resSlot r).masksRead = true := by
  unfold State.masksArrived
  rw [h]
  exact congrArg ResSlot.masksRead (State.updRes_same s r _ hw)

theorem State.spanArrived_irq (s : State) (p : BitVec 8) (k : BitVec 20) (b : Option (List Byte)) : (s.spanArrived p k b).irq = s.irq := by
  unfold State.spanArrived
  split <;> rfl

theorem State.messageAnswered_ok (s : State) (v : Nat) : (s.messageAnswered v true).vec (BitVec.ofNat 3 v) =
    { s.vec (BitVec.ofNat 3 v) with msgOut := false, failedFc := none } :=
  State.updVec_same s _ (fun x => { x with msgOut := false, failedFc := none })

theorem State.messageAnswered_failed (s : State) (v : Nat) : (s.messageAnswered v false).vec (BitVec.ofNat 3 v) =
    { s.vec (BitVec.ofNat 3 v) with failedFc := some s.fc } :=
  State.updVec_same (s.logHw 0x0002 0x00 none none v) _ (fun x => { x with failedFc := some s.fc })

theorem State.portFail_raises {s : State} {t : Txn} (h : t.blockOwned = true) : (s.portFail t).irq.pending.getLsbD 1 = true := by
  rw [State.portFail, if_pos h, State.raise_sets _ _ _ (by decide)]
  simp

/-! ## Answers (R42, R54) -/

/-- The state in which the transaction has ended. -/
def State.sansTxn (s : State) (t : Txn) : State := { s with mp := { s.mp with txns := s.mp.txns.erase t } }

section
variable {s : State} {t : Txn} {resp : Resp} {poison : Bool} {accept fail : State → State} (hwhole : s.fwc.wholeBusy = none)
include hwhole

theorem State.answer_accepts (hacts : s.unitActs t.purpose = true) : s.answer t .okay false accept fail = (accept (s.sansTxn t)).promoteAll := by
  have hbusy : ¬((s.sansTxn t).fwc.wholeBusy.isSome && !t.purpose.isDump) = true := by simp [State.sansTxn, hwhole]
  exact congrArg State.promoteAll ((if_neg hbusy).trans (if_pos hacts))

theorem State.answer_reissues (hresp : resp = .slverr ∨ resp = .exokay) (hirq : t.source ≠ srcIrq) (hretry : t.retries < s.mp.retryLimit.toNat) :
    s.answer t resp false accept fail = ((s.sansTxn t).issueTxn { t with retries := t.retries + 1 }).promoteAll := by
  have hbusy : ¬((s.sansTxn t).fwc.wholeBusy.isSome && !t.purpose.isDump) = true := by simp [State.sansTxn, hwhole]
  refine congrArg State.promoteAll ((if_neg hbusy).trans ((if_neg ?_).trans (if_pos ?_)))
  · rcases hresp with rfl | rfl <;> simp
  · rcases hresp with rfl | rfl <;> simpa [hirq] using hretry

theorem State.answer_fails (hacts : s.unitActs t.purpose = true) (h : poison = true ∨ (resp ≠ .okay ∧
      ¬((resp = .slverr ∨ resp = .exokay) ∧ t.source ≠ srcIrq ∧ t.retries < s.mp.retryLimit.toNat))) :
    s.answer t resp poison accept fail = (fail ((s.sansTxn t).portFail t)).promoteAll := by
  have hbusy : ¬((s.sansTxn t).fwc.wholeBusy.isSome && !t.purpose.isDump) = true := by simp [State.sansTxn, hwhole]
  have hacts' : ((s.sansTxn t).portFail t).unitActs t.purpose = true := by
    rw [State.portFail_frame]
    exact hacts
  refine congrArg State.promoteAll ((if_neg hbusy).trans ((if_neg ?_).trans ((if_neg ?_).trans (if_pos hacts'))))
  · rcases h with rfl | ⟨h, -⟩ <;> simp [*]
  · rcases h with rfl | ⟨hok, h⟩
    · simp
    · have hlimit : (s.sansTxn t).mp.retryLimit = s.mp.retryLimit := rfl
      cases resp <;> simp_all

/-- A burst that goes out again is pending, and nothing else has changed (R42). -/
theorem State.reissued_pends (hresp : resp = .slverr ∨ resp = .exokay) (hirq : t.source ≠ srcIrq) (hretry : t.retries < s.mp.retryLimit.toNat) :
    ∃ u, s.answer t resp false accept fail = u ∧ u = State.promoteAll ((s.sansTxn t).issueTxn { t with retries := t.retries + 1 }) ∧
      (∃ w ∈ u.mp.txns ++ u.mp.waiting, w = { t with retries := t.retries + 1, slot := w.slot, epoch := w.epoch, fc := w.fc }) ∧
      u = { s with mp := u.mp, yrd := u.yrd } := by
  refine ⟨_, State.answer_reissues hwhole hresp hirq hretry, rfl, State.promoteAll_pends (State.issueTxn_pends ..), ?_⟩
  rw [State.promoteAll_frame, State.issueTxn_frame]
  rfl

end

end Sys2Proof.Machine

section
open Sys2Proof Sys2Proof.Machine

/-- Settles O48: an answer acts in the state without its transaction, and the promotion that follows keeps every transaction and all but the ports. -/
theorem managerResponsesAndTimeouts : Obligations.ManagerResponsesAndTimeouts := by
  intro s hI
  refine ⟨fun ifc id resp poison data hfrst haorst => ?_, fun hfe hask hlate => ?_, fun hnone => ?_, fun f hf hdue hprev hifc => ?_⟩
  · intro found rd wr rest serves again reissued
    have hpins : ¬(s.pins.fRst || s.pins.aoRst) = true := by simp [hfrst, haorst]
    have hrd {t : Txn} (ht : found false = some t) : rd = .next (s.answer t resp poison (fun s => s.readOkay t (slice data (t.pa % 64) t.len))
        (fun s => s.readFailed t poison)) := by
      have hfind : s.mp.find false ifc.toNat (bit id 11) (id.extractLsb' 5 6) (bits id 4 0) = some t := ht
      refine congrArg Host.Outcome.next ((if_neg hpins).trans ?_)
      rw [hfind]
    have hwr {t : Txn} (ht : found true = some t) : wr = .next (s.answer t resp false (fun s => s.writeAnswered t true)
        (fun s => s.writeAnswered t false)) := by
      have hfind : s.mp.find true ifc.toNat (bit id 11) (id.extractLsb' 5 6) (bits id 4 0) = some t := ht
      refine congrArg Host.Outcome.next ((if_neg hpins).trans ?_)
      rw [hfind]
    refine ⟨fun t ht ⟨hwhole, hacts⟩ => ?_, fun t ht ⟨hwhole, hacts⟩ => ?_, fun w r hwr hfound => ?_⟩
    · rw [hrd ht]
      refine ⟨?_, ?_, ?_⟩
      · rintro rfl rfl
        rw [State.answer_accepts hwhole hacts]
        refine ⟨_, rfl, rfl, fun k r hk hr => ?_⟩
        have hslot : (s.sansTxn t).residentSlot k = some r := hr
        rw [State.promoteAll_frame, State.readOkay, hk]
        exact State.masksArrived_read hslot hI.slots
      · rintro ⟨hresp, hirq, hretry⟩ rfl
        obtain ⟨u, hu, hpend⟩ := State.reissued_pends hwhole hresp hirq hretry
        exact ⟨u, congrArg Host.Outcome.next hu, hpend⟩
      · intro h
        rw [State.answer_fails hwhole hacts h]
        refine ⟨_, rfl, rfl, fun p k hown hk => ?_⟩
        rw [State.promoteAll_frame, State.readFailed, hk]
        refine (congrArg (fun q : Irq => q.pending.getLsbD 1) (State.spanArrived_irq ..)).trans ?_
        exact State.portFail_raises hown
    · rw [hwr ht]
      refine ⟨?_, ?_, ?_⟩
      · rintro rfl
        rw [State.answer_accepts hwhole hacts]
        refine ⟨_, rfl, rfl, fun v hv => ?_⟩
        have hend : ((s.sansTxn t).writeAnswered t true).promoteAll.vec (BitVec.ofNat 3 v) = ((s.sansTxn t).messageAnswered v true).vec (BitVec.ofNat 3 v) := by
          rw [State.promoteAll_frame, State.writeAnswered, hv]
          rfl
        rw [hend, State.messageAnswered_ok]
        exact ⟨rfl, rfl⟩
      · rintro ⟨hresp, hirq, hretry⟩
        obtain ⟨u, hu, hpend⟩ := State.reissued_pends hwhole hresp hirq hretry
        exact ⟨u, congrArg Host.Outcome.next hu, hpend⟩
      · intro h
        rw [State.answer_fails hwhole hacts (.inr h)]
        refine ⟨_, rfl, rfl, fun v hv => ?_⟩
        have hend : (((s.sansTxn t).portFail t).writeAnswered t false).promoteAll.vec (BitVec.ofNat 3 v) =
            (((s.sansTxn t).portFail t).messageAnswered v false).vec (BitVec.ofNat 3 v) := by
          rw [State.promoteAll_frame, State.writeAnswered, hv]
          rfl
        rw [hend, State.messageAnswered_failed]
        show some ((s.sansTxn t).portFail t).fc = _
        rw [State.portFail_frame]
        rfl
    · have hr : r = .next (s.unexpected w ifc.toNat (bit id 11) (id.extractLsb' 5 6) (bits id 4 0)) := by
        rcases hwr with ⟨rfl, rfl⟩ | ⟨rfl, rfl⟩
        · have hfind : s.mp.find false ifc.toNat (bit id 11) (id.extractLsb' 5 6) (bits id 4 0) = none := hfound
          refine congrArg Host.Outcome.next ((if_neg hpins).trans ?_)
          rw [hfind]
        · have hfind : s.mp.find true ifc.toNat (bit id 11) (id.extractLsb' 5 6) (bits id 4 0) = none := hfound
          refine congrArg Host.Outcome.next ((if_neg hpins).trans ?_)
          rw [hfind]
      rw [hr]
      refine ⟨fun hepoch hgone => ?_, fun hepoch => ?_⟩
      · have hdrop : s.unexpected w ifc.toNat (bit id 11) (id.extractLsb' 5 6) (bits id 4 0) =
            State.raise { s with mp := { s.mp with stray := s.mp.stray + 1 } } 0x001 :=
          (if_neg (not_not.mpr hepoch)).trans (if_neg (by simp [hgone]))
        rw [hdrop]
        refine ⟨_, rfl, ?_, ?_, ?_⟩
        · rw [State.raise_frame]
        · exact (State.raise_sets _ _ _ (by decide)).trans (by simp)
        · rw [State.raise_frame]
      · obtain ⟨p, hp⟩ : ∃ p, s.unexpected w ifc.toNat (bit id 11) (id.extractLsb' 5 6) (bits id 4 0) =
            State.drainOne { s with mp := { s.mp with late := s.mp.late + 1 } } p := ⟨_, if_pos hepoch⟩
        rw [hp]
        have hcounts := State.drainOne_counts { s with mp := { s.mp with late := s.mp.late + 1 } } p
        refine ⟨_, rfl, congrArg Prod.fst hcounts, congrArg Prod.snd hcounts, ?_⟩
        rw [State.drainOne_frame]
  · obtain ⟨t, ht, hdue⟩ := hlate
    have hany : s.mp.txns.any (fun t => t.fc + s.mp.drainLimit ≤ s.fc) = true := List.any_eq_true.mpr ⟨t, ht, decide_eq_true hdue⟩
    have hserves : s.fwc.state ≠ .outOfService := by
      simp only [State.feRuns, State.inRun, Bool.and_eq_true, decide_eq_true_eq] at hfe
      tauto
    refine congrArg Host.Outcome.next ((if_pos (by simp [hfe, hask, hany])).trans ?_)
    refine (if_neg (by simp [hask])).trans ((if_neg (by simp [hserves])).trans ?_)
    rw [hask]
    rfl
  · have hany : s.mp.txns.any (fun t => t.fc + s.mp.drainLimit ≤ s.fc) = false := by
      rw [List.any_eq_false]
      intro t ht
      simpa using hnone t ht
    exact congrArg Host.Outcome.next (if_neg (by simp [hany]))
  · have hdrain : exec .drainTimeout s = .next ((State.raise { s with
        mp := { s.mp with hung := s.mp.previous.foldl (fun h t => h ||| BitVec.ofNat 8 (2 ^ (t.ifc / 8))) s.mp.hung, drainFc := none, invertDue := false }
        fwc := { s.fwc with wholeBusy := none } } 0x001).enterOos 0x0B) := by
      refine congrArg Host.Outcome.next ?_
      rw [hf]
      exact if_pos (by simp [hdue, hprev])
    rw [hdrain]
    obtain ⟨hhung, hfc, hstate, hkeep⟩ := State.enterOos_leaves (State.raise { s with
        mp := { s.mp with hung := s.mp.previous.foldl (fun h t => h ||| BitVec.ofNat 8 (2 ^ (t.ifc / 8))) s.mp.hung, drainFc := none, invertDue := false }
        fwc := { s.fwc with wholeBusy := none } } 0x001) 0x0B
    rw [State.raise_mp] at hhung hfc
    obtain ⟨hold, hnew⟩ := hung_foldl s.mp.previous s.mp.hung
    refine ⟨_, rfl, fun t ht => ?_, fun j hj => ?_, hfc, hstate, hkeep 1 ((State.raise_sets _ _ _ (by decide)).trans (by simp))⟩
    · rw [hhung]
      exact hnew t ht (hifc t ht)
    · rw [hhung]
      exact hold j hj

end

namespace Sys2Proof.Machine

/-! ## An executor that takes its entry (R221) -/

section
variable {s : State} {e : Nat} {x : Entry}

theorem State.start_issues {kind : Nat} {f : State → Entry → State} (h : s.issues e x) (hkind : x.actKind = kind) :
    s.start e kind f = f (s.issue e) x := by
  obtain ⟨hx, hready, hrep, hfe⟩ := h
  unfold State.start
  rw [hx]
  exact if_pos (by simp [hkind, hready, hrep, hfe])

/-- The entry that has issued. -/
theorem State.issue_entry (hx : s.entry e = some x) : (s.issue e).entry e = some { x with state := .issued, startFc := s.fe.cycles } := by
  rw [State.issue, State.updEntry_same, hx]
  rfl

theorem State.report_entry {y : Entry} (st : BitVec 8) (prop : Bool) (hy : s.entry e = some y) (hrep : y.report = none) :
    (s.report e st prop).entry e = some { y with report := some (st, prop) } := by
  rw [State.report, State.updEntry_same, hy]
  simp [hrep]

end

theorem ofNat_pf {p : Packet} {n lo : Nat} : BitVec.ofNat (n + 1) (pf p (lo + n) lo) = p.extractLsb' lo (n + 1) := by
  refine BitVec.eq_of_toNat_eq ?_
  have hwidth : lo + n + 1 - lo = n + 1 := by omega
  simp [pf, bits, BitVec.extractLsb'_toNat, hwidth]

theorem pf_eq_iff {p : Packet} {m n lo : Nat} (h : m < 2 ^ (n + 1)) : pf p (lo + n) lo = m ↔ p.extractLsb' lo (n + 1) = BitVec.ofNat (n + 1) m := by
  rw [← ofNat_pf]
  have hlt : pf p (lo + n) lo < 2 ^ (n + 1) := by
    have hwidth : lo + n + 1 - lo = n + 1 := by omega
    rw [pf, bits, hwidth]
    exact Nat.mod_lt _ (Nat.two_pow_pos _)
  constructor
  · intro heq
    rw [heq]
  · intro heq
    have hnat := congrArg BitVec.toNat heq
    rwa [BitVec.toNat_ofNat, BitVec.toNat_ofNat, Nat.mod_eq_of_lt hlt, Nat.mod_eq_of_lt h] at hnat

/-! ## Contexts (R108, R185, R186) -/

section
variable {s : State} {p : Packet}

theorem State.createContext_busy (h : (s.ctx (p.extractLsb' 320 20)).state ≠ .free) : s.createContext p = (s, 0x02) := if_pos h

theorem State.createContext_malformed (h : (s.ctx (p.extractLsb' 320 20)).state = .free)
    (hpart : (tget {} s.yrd.groups (pf p 351 344)).partition ≠ p.extractLsb' 340 3) : s.createContext p = (s, 0x04) :=
  (if_neg (not_not.mpr h)).trans (if_pos hpart)

/-- The record that CONTEXT_CREATE writes. -/
def ctxRecord (p : Packet) : Context :=
  { state := .active, partition := p.extractLsb' 340 3, shareGroup := p.extractLsb' 344 8, jobTag := p.extractLsb' 384 32
    descPfn := p.extractLsb' 416 40, quota := p.extractLsb' 352 18 }

theorem State.createContext_makes (h : (s.ctx (p.extractLsb' 320 20)).state = .free)
    (hpart : (tget {} s.yrd.groups (pf p 351 344)).partition = p.extractLsb' 340 3) :
    s.createContext p = (s.updCtx (p.extractLsb' 320 20) (fun _ => ctxRecord p), 0x00) := by
  have hgroup : BitVec.ofNat 8 (pf p 351 344) = p.extractLsb' 344 8 := ofNat_pf (n := 7)
  refine (if_neg (not_not.mpr h)).trans ((if_neg (not_not.mpr hpart)).trans ?_)
  rw [ctxRecord, ← hgroup]

/-- A context that is not ACTIVE is not torn down. -/
theorem State.teardownWith_inactive {c : BitVec 20} (st : BitVec 8) (token killed : Bool) (h : (s.ctx c).state ≠ .active) :
    s.teardownWith c st token killed = s := if_pos (by simp [h])

/-! ## Queues (R116, R187) -/

theorem State.bindQueue_busy (h : (s.queue (p.extractLsb' 320 14)).state ≠ .free) : s.bindQueue p = (s, 0x02) := if_pos h

theorem State.bindQueue_malformed (h : (s.queue (p.extractLsb' 320 14)).state = .free) (hctx : (s.ctx (p.extractLsb' 336 20)).state ≠ .active) :
    s.bindQueue p = (s, 0x04) := (if_neg (not_not.mpr h)).trans (if_pos hctx)

/-- The record that QUEUE_BIND writes at `fc`. -/
def queueRecord (p : Packet) (fc : Nat) : Queue :=
  { state := .open_, ctx := p.extractLsb' 336 20, kernel := bit p 356, retire := bit p 357, cls := p.extractLsb' 358 2, diag := bit p 360
    ringLog2 := p.extractLsb' 361 5, cplLog2 := p.extractLsb' 366 5, tmoLog2 := p.extractLsb' 371 6, ringPfn := p.extractLsb' 384 40
    ringAttr := p.extractLsb' 424 8, cplPfn := p.extractLsb' 432 40, expSerial := p.extractLsb' 480 32, timerFc := fc }

theorem State.bindQueue_makes (h : (s.queue (p.extractLsb' 320 14)).state = .free) (hctx : (s.ctx (p.extractLsb' 336 20)).state = .active) :
    s.bindQueue p = (s.updQueue (p.extractLsb' 320 14) (fun _ => queueRecord p s.fc), 0x00) :=
  (if_neg (not_not.mpr h)).trans (if_neg (not_not.mpr hctx))

/-- An OPEN queue that is unbound drains (R116, R142). -/
theorem State.unbindQueue_open {e : Nat} {q : BitVec 14} (hw : tblWf {} s.queues = true) (h : (s.queue q).state = .open_) : s.unbindQueue e q =
    let d := s.updQueue q (fun y => { y with unbinds := y.unbinds ++ [e], state := .draining, cell := none, inl := [], fstate := .stopped
                                             block := .none_, units := [], turn := 0 })
    (d.drainQueue q).settle (s.queue q).ctx := by
  have hctx (f : Queue → Queue) (hf : ∀ y, (f y).ctx = y.ctx) : ((s.updQueue q f).queue q).ctx = (s.queue q).ctx := by
    rw [State.updQueue_same s q f hw, hf]
  refine (if_neg (by simp [h])).trans ?_
  dsimp only
  rw [hctx _ fun y => by split <;> [rfl; split <;> rfl]]
  rw [State.updQueue_congr]
  simp only [h, if_true]

end

end Sys2Proof.Machine

section
open Sys2Proof Sys2Proof.Machine

/-- Settles O45: each executor takes its READY entry, and what follows is the record it writes or the status of what forbids it. -/
theorem commandsThatTheLandingExecutes : Obligations.CommandsThatTheLandingExecutes := by
  intro s e x hI h
  obtain ⟨hx, -, hrep, -⟩ := id h
  have hentry := State.issue_entry hx
  refine ⟨fun st => State.report_entry st false hentry hrep, fun hk => ?_, fun hk => ?_, fun hk => ?_, fun hk => ?_, fun hk => ⟨fun hc => ?_, fun hc hp => ?_, fun hc hp => ?_⟩,
    fun hk => ⟨fun hc => ?_, fun hc hf => ?_, fun hc hf => ?_⟩, fun hk => ⟨fun hc => ?_, fun hc => ?_⟩,
    fun hk => ⟨fun hq => ?_, fun hq hc => ?_, fun hq hc => ?_⟩, fun hk => ⟨fun hq => ?_, fun hq => ?_⟩⟩
  · exact congrArg Host.Outcome.next (State.start_issues h hk)
  · exact congrArg Host.Outcome.next (State.start_issues h hk)
  · exact congrArg Host.Outcome.next (State.start_issues h hk)
  · exact congrArg Host.Outcome.next (State.start_issues h hk)
  · refine congrArg Host.Outcome.next ((State.start_issues h hk).trans ?_)
    rw [State.createContext_busy (s := s.issue e) hc]
  · refine congrArg Host.Outcome.next ((State.start_issues h hk).trans ?_)
    rw [State.createContext_malformed (s := s.issue e) hc hp]
  · refine ⟨((s.issue e).updCtx (x.pkt.extractLsb' 320 20) (fun _ => ctxRecord x.pkt)).report e 0x00 false,
      congrArg Host.Outcome.next ((State.start_issues h hk).trans ?_), rfl, fun j hj => ?_, ?_⟩
    · rw [State.createContext_makes (s := s.issue e) hc hp]
    · exact State.updCtx_other (s.issue e) (fun _ => ctxRecord x.pkt) hj
    · exact State.updCtx_same (s.issue e) _ (fun _ => ctxRecord x.pkt) hI.ctxs
  · exact congrArg Host.Outcome.next ((State.start_issues h hk).trans (if_pos hc))
  · exact congrArg Host.Outcome.next ((State.start_issues h hk).trans ((if_neg hc).trans (if_pos hf)))
  · exact congrArg Host.Outcome.next ((State.start_issues h hk).trans ((if_neg hc).trans (if_neg hf)))
  · refine congrArg Host.Outcome.next ((State.start_issues h hk).trans ?_)
    dsimp only
    rw [State.teardownWith_inactive (s := s.issue e) _ _ _ hc]
  · refine congrArg Host.Outcome.next ((State.start_issues h hk).trans ?_)
    have hwhy : decide (x.pkt.extractLsb' 344 8 ≠ (0x10 : BitVec 8)) = decide (pf x.pkt 351 344 ≠ 0x10) :=
      decide_eq_decide.mpr (not_congr (pf_eq_iff (n := 7) (by decide)).symm)
    dsimp only
    rw [hwhy]
  · refine congrArg Host.Outcome.next ((State.start_issues h hk).trans ?_)
    rw [State.bindQueue_busy (s := s.issue e) hq]
  · refine congrArg Host.Outcome.next ((State.start_issues h hk).trans ?_)
    rw [State.bindQueue_malformed (s := s.issue e) hq hc]
  · refine ⟨((s.issue e).updQueue (x.pkt.extractLsb' 320 14) (fun _ => queueRecord x.pkt s.fc)).report e 0x00 false,
      congrArg Host.Outcome.next ((State.start_issues h hk).trans ?_), rfl, fun j hj => ?_, ?_⟩
    · rw [State.bindQueue_makes (s := s.issue e) hq hc]
      rfl
    · exact State.updQueue_other (s.issue e) (fun _ => queueRecord x.pkt s.fc) hj
    · exact State.updQueue_same (s.issue e) _ (fun _ => queueRecord x.pkt s.fc) hI.queues
  · exact congrArg Host.Outcome.next ((State.start_issues h hk).trans (if_pos hq))
  · exact congrArg Host.Outcome.next ((State.start_issues h hk).trans (State.unbindQueue_open (s := s.issue e) hI.queues hq))

end

namespace Sys2Proof.Machine

/-! ## What the block has noted

A pending source stays pending, the first error of a link stays noted, the Deck's state stays what it is and no chunk comes to wait
for line locks, whatever a reset, a teardown or a recovery does. Most operations leave the interrupt controller and the clusters alone
altogether. -/

/-- The interrupt controller, the clusters, the Deck and the queue for line locks. -/
def State.panel (s : State) : Irq × Tbl Cluster × Dck × List (Nat × Nat) := (s.irq, s.clusters, s.dck, s.hau.lockQueue)

structure State.Notes (s t : State) : Prop where
  pending : ∀ n, s.irq.pending.getLsbD n = true → t.irq.pending.getLsbD n = true
  wf : tblWf {} s.clusters = true → tblWf {} t.clusters = true
  err : tblWf {} s.clusters = true → ∀ d v, (s.cluster d).err = some v → (t.cluster d).err = some v
  dck : t.dck = s.dck
  locks : ∀ p ∈ t.hau.lockQueue, p ∈ s.hau.lockQueue

section
variable {s t u : State}

theorem State.Notes.rfl : s.Notes s := ⟨fun _ h => h, fun h => h, fun _ _ _ h => h, Eq.refl _, fun _ h => h⟩

theorem State.Notes.trans (h : s.Notes t) (h' : t.Notes u) : s.Notes u :=
  ⟨fun n hn => h'.pending n (h.pending n hn), fun hw => h'.wf (h.wf hw), fun hw d v hv => h'.err (h.wf hw) d v (h.err hw d v hv), h'.dck.trans h.dck,
    fun p hp => h.locks p (h'.locks p hp)⟩

theorem State.Notes.after (h' : t.Notes u) (h : s.Notes t) : s.Notes u := h.trans h'

theorem State.Notes.of_panel (h : t.panel = s.panel) : s.Notes t := by
  simp only [State.panel, Prod.mk.injEq] at h
  obtain ⟨hirq, hclusters, hdck, hlocks⟩ := h
  refine ⟨fun n hn => ?_, fun hw => ?_, fun _ d v hv => ?_, hdck, fun p hp => hlocks ▸ hp⟩
  · rw [hirq, hn]
  · rw [hclusters, hw]
  · rw [State.cluster, hclusters]
    exact hv

theorem State.Notes.raise {n : Nat} : s.Notes (s.raise n) := by
  refine ⟨fun m hm => State.raise_keeps hm, fun hw => ?_, fun _ d v hv => ?_, State.raise_dck .., fun p hp => ?_⟩
  · rw [State.raise_clusters, hw]
  · rw [State.cluster, State.raise_clusters]
    exact hv
  · rwa [State.raise_hau] at hp

theorem State.Notes.updCluster {c : BitVec 6} {f : Cluster → Cluster} (hf : ∀ x v, x.err = some v → (f x).err = some v) : s.Notes (s.updCluster c f) := by
  refine ⟨fun _ h => h, fun hw => tupd_wf _ _ _ _ hw, fun hw d v hv => ?_, Eq.refl _, fun _ h => h⟩
  by_cases hd : d = c
  · subst hd
    rw [State.updCluster_same s d f hw]
    exact hf _ _ hv
  · rw [State.updCluster_other s f hd]
    exact hv

theorem State.Notes.ite {p : Prop} [Decidable p] (ht : s.Notes t) (hu : s.Notes u) : s.Notes (if p then t else u) := by
  split
  · exact ht
  · exact hu

theorem State.Notes.each {α : Type} {f : State → α → State} (hf : ∀ (s : State) a, s.Notes (f s a)) {l : List α} : s.Notes (s.each l f) := by
  induction l generalizing s with
  | nil => exact State.Notes.rfl
  | cons a l ih => exact (hf s a).trans ih

/-- A read of a mapped table through a projection that the map keeps. -/
theorem tget_tmap_keeps {α β : Type} [DecidableEq α] (g : α → β) (d : α) (f : Nat → α → α) (hf : ∀ k x, g (f k x) = g x) (k : Nat) {t : Tbl α}
    (h : tblWf d t = true) : g (tget d (tmap d f t) k) = g (tget d t k) := by
  have go : ∀ (t : Tbl α) (n : Nat), risesFrom n t → g (tget d (tmap d f t) k) = g (tget d t k) := by
    intro t
    induction t with
    | nil => exact fun _ _ => Eq.refl _
    | cons p r ih =>
      obtain ⟨j, v⟩ := p
      intro n ⟨hn, hr⟩
      have hrest := ih (j + 1) hr
      by_cases hj : j = k
      · subst hj
        by_cases hv : f j v = d
        · have hbelow : tget d r j = d := tget_below d j (j + 1) r (Nat.lt_succ_self j) hr
          rw [hbelow, ← hv, hf] at hrest
          simpa [tmap, hv, tget] using hrest
        · simp [tmap, hv, tget, hf]
      · by_cases hv : f j v = d
        · simpa [tmap, hv, tget, hj] using hrest
        · simpa [tmap, hv, tget, hj] using hrest
  exact go t 0 ((tblWf_iff d t).mp h).1

theorem State.Notes.tmap {f : Nat → Cluster → Cluster} (hf : ∀ k x, (f k x).err = x.err) (hirq : t.irq = s.irq) (ht : t.clusters = tmap {} f s.clusters)
    (hdck : t.dck = s.dck) (hlocks : t.hau.lockQueue = s.hau.lockQueue) : s.Notes t := by
  refine ⟨fun n hn => ?_, fun hw => ?_, fun hw d v hv => ?_, hdck, fun p hp => ?_⟩
  · rw [hirq, hn]
  · rw [ht]
    exact tmap_wf _ _ _ hw
  · rw [State.cluster, ht, tget_tmap_keeps Cluster.err {} f hf d.toNat hw]
    exact hv
  · exact hlocks ▸ hp

end

/-! ## Operations that leave the panel alone -/

section
variable (s : State)

@[simp] theorem State.report_panel (e : Nat) (st : BitVec 8) (p : Bool) : (s.report e st p).panel = s.panel := rfl

theorem State.reports_panel {α : Type} (l : List α) (e : α → Nat) (st : BitVec 8) (p : Bool) : (s.each l (fun s a => s.report (e a) st p)).panel = s.panel :=
  State.each_keeps State.panel _ _ _ fun _ _ => rfl

@[simp] theorem State.issueTxn_panel (t : Txn) : (s.issueTxn t).panel = s.panel := by rw [State.issueTxn_frame]; rfl

@[simp] theorem State.trace_panel (cls proc event : Nat) (args : List Nat) : (s.trace cls proc event args).panel = s.panel := by
  rw [State.trace_frame]
  rfl

theorem State.setSlice_panel (c : BitVec 20) (i : Nat) (v : SliceState) : (s.setSlice c i v).panel = s.panel := by
  unfold State.setSlice
  split <;> rfl

theorem State.dropSlice_panel (e : Nat) : (s.dropSlice e).panel = s.panel := by
  unfold State.dropSlice
  split
  · split
    · exact State.setSlice_panel ..
    · rfl
  · rfl

theorem State.tearContext_panel (c : BitVec 20) (st : BitVec 8) (b : Bool) : (s.tearContext c st b).panel = s.panel := by
  have hqueues (u : State) (l : List (BitVec 14)) : (u.each l (fun s q => s.failQueueAt q)).panel = u.panel :=
    State.each_keeps State.panel _ _ _ fun _ _ => rfl
  have hfe (u : State) (f : Fe) (p : Prop) [Decidable p] : (if p then { u with fe := f } else u : State).panel = u.panel := by split <;> rfl
  unfold State.tearContext
  extract_lets tag t u lnd v
  have hv : v.panel = u.panel := rfl
  exact (hfe v _ _).trans (hv.trans (hqueues t _))

theorem State.hauLog_eq (k : Nat) (x : Stream) (st : BitVec 8) : ∃ w, s.hauLog k x st = { s with hau := { s.hau with errLog := w } } := ⟨_, rfl⟩

theorem State.hauLog_panel (k : Nat) (x : Stream) (st : BitVec 8) : (s.hauLog k x st).panel = s.panel := by
  obtain ⟨w, hw⟩ := s.hauLog_eq k x st
  rw [hw]
  rfl

theorem State.stopStreams_notes (c : BitVec 20) (st : BitVec 8) (killed : Bool) : s.Notes (s.stopStreams c st killed) := by
  have hends (kind : StreamKind) (e : Nat) (u : State) (r : BitVec 8 × Bool) : (match kind with
      | .copy l => if r.2 then u else u.each (u.copyWaiters l) (fun s e => s.report e r.1 r.2)
      | _ => u.report e r.1 r.2 : State).panel = u.panel := by
    split
    · split
      · rfl
      · exact State.reports_panel ..
    · rfl
  have hcopies (kind : StreamKind) (u : State) : (match kind with
      | .copy l => u.each (u.copyWaiters l) (fun s e => s.report e st false)
      | _ => u : State).panel = u.panel := by
    split
    · exact State.reports_panel ..
    · rfl
  unfold State.stopStreams
  extract_lets mine done t parked u gone v hau xlt
  have ht : t.panel = s.panel := State.each_keeps State.panel _ _ _ fun _ _ => (hends _ _ _ _).trans (State.hauLog_panel ..)
  have hu : u.panel = t.panel := State.each_keeps State.panel _ _ _ fun _ _ => (hends _ _ _ _).trans (State.hauLog_panel ..)
  have hv : v.panel = u.panel := State.each_keeps State.panel _ _ _ fun _ _ => hcopies _ _
  exact .trans (.of_panel (hv.trans (hu.trans ht))) ⟨fun _ h => h, fun h => h, fun _ _ _ h => h, Eq.refl _, fun _ h => List.mem_of_mem_filter h⟩

theorem State.stopOthers_panel (c : BitVec 20) (st : BitVec 8) : (s.stopOthers c st).panel = s.panel :=
  State.each_keeps State.panel _ _ _ fun _ _ => rfl

theorem State.fetchPages_panel (l : Launch) : (s.fetchPages l).panel = s.panel := by
  refine State.each_keeps State.panel _ _ _ fun u p => ?_
  split
  · rfl
  · exact State.issueTxn_panel ..

@[simp] theorem State.writeCpl_panel (q : BitVec 14) (n : W32) (st op : BitVec 8) (d : Bool) (a b : Nat) : (s.writeCpl q n st op d a b).panel = s.panel :=
  State.issueTxn_panel ..

theorem State.optionalCpl_panel (q : BitVec 14) (n : W32) (st op : BitVec 8) (f : Nat) : (s.optionalCpl q n st op f).panel = s.panel := by
  unfold State.optionalCpl
  dsimp only
  split
  · rfl
  · split
    · exact State.writeCpl_panel ..
    · rfl

theorem State.applyUpdates_panel (n : BitVec 16) (v : W64) (late : Bool) (a b : BlazeRun) : (s.applyUpdates n v late a b).panel = s.panel := by
  unfold State.applyUpdates
  dsimp only
  split
  · rfl
  · split <;> rfl

theorem State.drainCtx_panel (c : BitVec 20) : (s.drainCtx c).panel = s.panel := by
  unfold State.drainCtx
  dsimp only
  split
  · rfl
  · exact State.reports_panel _ _ (fun e => e) _ _

theorem State.dumpWrite_panel (k pa len : Nat) (data : List Byte) (p : List Bool) : (s.dumpWrite k pa len data p).panel = s.panel :=
  State.issueTxn_panel ..

theorem State.dumpPage_panel (k off len p : Nat) : (s.dumpPage k off len p).panel = s.panel := by
  unfold State.dumpPage
  dsimp only
  split
  · rfl
  · refine (State.dumpWrite_panel ..).trans ?_
    split <;> rfl

theorem State.dumpBody_panel : s.dumpBody.panel = s.panel :=
  State.each_keeps State.panel _ _ _ fun _ _ => State.each_keeps State.panel _ _ _ fun _ _ => State.dumpPage_panel ..

theorem State.dumpClose_panel : s.dumpClose.panel = s.panel := by
  unfold State.dumpClose
  split
  · rfl
  · split
    · rfl
    · exact State.dumpWrite_panel ..

theorem State.startDump_panel (c : BitVec 8) : (s.startDump c).panel = s.panel := by
  unfold State.startDump
  split
  · rfl
  · dsimp only
    split
    · exact (State.dumpClose_panel _).trans (State.dumpBody_panel _)
    · exact State.dumpWrite_panel ..

theorem State.endRestart_panel (c : BitVec 6) : (s.endRestart c).panel = s.panel := by
  unfold State.endRestart
  dsimp only
  split <;> rfl

theorem State.ask_panel (k : BitVec 4) (c : BitVec 8) : (s.ask k c).panel = s.panel := by
  unfold State.ask
  split
  · rfl
  · split <;> rfl

end

/-! ## Operations that keep what is noted -/

section
variable {s : State}

theorem State.recordError_notes {n : BitVec 16} {a b : BlazeRun} : s.Notes (s.recordError n a b) := by
  unfold State.recordError
  dsimp only
  refine .ite (.trans (.of_panel ?_) .raise) (.ite (.of_panel ?_) .rfl) <;> rfl

theorem State.blazeUpdate_notes {n : BitVec 16} {u : BlazeUp} : s.Notes (s.blazeUpdate n u) := by
  unfold State.blazeUpdate
  dsimp only
  refine .trans (.of_panel ?_) State.recordError_notes
  split
  · rfl
  · exact State.applyUpdates_panel ..

theorem State.passRejection_notes {q : BitVec 14} {r : Rejection} : s.Notes (s.passRejection q r) := by
  rw [State.passRejection_eq]
  refine .trans (t := s.passBlaze (s.queue q).ctx r) ?_ (.of_panel ?_)
  · unfold State.passBlaze
    split
    · exact .rfl
    · exact State.blazeUpdate_notes
  · unfold State.passCpl
    split
    · exact State.writeCpl_panel ..
    · split
      · exact State.optionalCpl_panel ..
      · rfl

theorem State.drainQueue_notes {q : BitVec 14} : s.Notes (s.drainQueue q) := by
  unfold State.drainQueue
  dsimp only
  refine .ite (.trans (t := s.each (s.queue q).rejections (fun s r => s.passRejection q r)) (.each fun _ _ => State.passRejection_notes) (.of_panel ?_)) .rfl
  exact State.reports_panel _ _ (fun e => e) _ _

theorem State.settle_notes {c : BitVec 20} : s.Notes (s.settle c) :=
  .trans (.each fun _ _ => State.drainQueue_notes) (.of_panel (State.drainCtx_panel ..))

theorem tearCluster_err (c : BitVec 20) (x : Cluster) : (tearCluster c x).err = x.err := by
  have hhold : (if x.hold = some c then { x with hold := none } else x).err = x.err := by split <;> rfl
  unfold tearCluster
  extract_lets y
  have hy : y.err = x.err := hhold
  clear_value y
  split
  · exact hy
  · split
    · split <;> exact hy
    · exact hy

theorem State.stopClusters_notes {c : BitVec 20} {st : BitVec 8} : s.Notes (s.stopClusters c st) := by
  unfold State.stopClusters
  extract_lets mine idle t skipped u v
  have ht : t.panel = s.panel := State.reports_panel ..
  have hu : u.panel = t.panel := State.reports_panel _ _ (fun e => e) _ _
  have hv : v.panel = u.panel := by
    show State.panel (match u.residentSlot c with | some r => _ | none => u) = _
    split <;> rfl
  refine .trans (.of_panel (hv.trans (hu.trans ht))) ?_
  clear_value v
  exact .tmap (f := fun _ x => tearCluster c { x with deque := x.deque.filter (fun e => !mine e), chainWait := x.chainWait.filter (fun e => !mine e), recovery := x.recovery.map (skipSuspects mine) })
    (fun _ x => tearCluster_err c _) (Eq.refl _) (Eq.refl _) (Eq.refl _) (Eq.refl _)

theorem State.teardownWith_notes {c : BitVec 20} {st : BitVec 8} {token killed : Bool} : s.Notes (s.teardownWith c st token killed) := by
  unfold State.teardownWith
  have hstreams : s.Notes ((s.tearContext c st token).stopStreams c st killed) := .after (State.stopStreams_notes ..) (.of_panel (State.tearContext_panel ..))
  exact .ite .rfl (((hstreams.trans State.stopClusters_notes).trans (.of_panel (State.stopOthers_panel ..))).trans State.settle_notes)

theorem State.teardown_notes {c : BitVec 20} {st : BitVec 8} : s.Notes (s.teardown c st) := State.teardownWith_notes

theorem State.flushEnds_notes {c : BitVec 6} : s.Notes (s.flushEnds c) :=
  .trans (t := s.updCluster c (fun x => { x with heldEnds := [] })) (.updCluster fun _ _ h => h) (.of_panel (State.reports_panel _ _ (fun e => e) _ _))

theorem State.cruise_notes : s.Notes s.cruise := .of_panel (Eq.refl _)

theorem State.leaveService_notes {c : BitVec 6} : s.Notes (s.leaveService c) := by
  unfold State.leaveService
  exact .ite (.after State.cruise_notes (.after .raise (.updCluster fun _ _ h => h))) .rfl

theorem State.returnService_notes {c : BitVec 6} : s.Notes (s.returnService c) := by
  unfold State.returnService
  exact .ite .rfl (.after State.cruise_notes (.updCluster fun _ _ h => h))

theorem State.count_notes {i : Nat} : s.Notes (s.count i) := .of_panel (Eq.refl _)

theorem State.logHw_notes {event : BitVec 16} {st : BitVec 8} {c : Option (BitVec 20)} {q : Option (BitVec 14)} {d : Nat} :
    s.Notes (s.logHw event st c q d) := .of_panel (Eq.refl _)

theorem State.rcvStatus_notes {k : BitVec 4} {cause : BitVec 8} {c : BitVec 6} : s.Notes (s.rcvStatus k cause c) := .of_panel (Eq.refl _)

theorem State.holdCore_notes {p : Nat} : s.Notes (s.holdCore p) := .of_panel (Eq.refl _)

theorem State.updProc_notes {p : Nat} {f : Proc → Proc} : s.Notes (s.updProc p f) := .of_panel (Eq.refl _)

theorem State.updEntry_notes {e : Nat} {f : Entry → Entry} : s.Notes (s.updEntry e f) := .of_panel (Eq.refl _)

theorem State.noteFlag_notes {g : HwFlag} : s.Notes (s.noteFlag g) := .of_panel (Eq.refl _)

theorem State.report_notes {e : Nat} {st : BitVec 8} {p : Bool} : s.Notes (s.report e st p) := .of_panel (Eq.refl _)

theorem State.clusterReset_notes {c : BitVec 6} {cause : BitVec 8} : s.Notes (s.clusterReset c cause) := by
  unfold State.clusterReset
  extract_lets x t u v drop mp w r
  have ht : s.Notes t := .after State.count_notes (.after State.logHw_notes (.after State.rcvStatus_notes State.flushEnds_notes))
  have hu : t.Notes u := .after .raise State.leaveService_notes
  have hv : u.Notes v := by
    show u.Notes (match x.ctx, x.slice with | some k, some i => _ | _, _ => u)
    split
    · exact .of_panel (State.setSlice_panel ..)
    · exact .rfl
  have hw : v.Notes w := .of_panel (Eq.refl _)
  have hr : w.Notes r := .ite (.updCluster fun _ _ h => h) (.updCluster fun _ _ h => h)
  exact .after State.holdCore_notes ((((ht.trans hu).trans hv).trans hw).trans hr)

theorem State.setFw_notes {x : FwState} : s.Notes (s.setFw x) := by
  unfold State.setFw
  exact .ite .rfl (.after .raise (.of_panel (Eq.refl _)))

theorem State.startDump_notes {c : BitVec 8} : s.Notes (s.startDump c) := .of_panel (State.startDump_panel s c)

theorem State.enterOos_notes {c : BitVec 8} : s.Notes (s.enterOos c) := by
  unfold State.enterOos
  extract_lets t u v fwc w
  have ht : s.Notes t := .after .raise State.setFw_notes
  have hu : t.Notes u := .after State.rcvStatus_notes State.logHw_notes
  have hw : v.Notes w := .tmap (f := fun _ x => { x.linkDown with recovery := none, hangWait := none }) (fun _ _ => Eq.refl _) (Eq.refl _) (Eq.refl _) (Eq.refl _) (Eq.refl _)
  exact .ite .rfl (.after State.startDump_notes (((ht.trans hu).trans State.count_notes).trans hw))

theorem State.counted_notes {f : State → State} (hf : ∀ t : State, t.Notes (f t)) : s.Notes (s.counted f) :=
  .ite .rfl (.ite State.enterOos_notes (.after (hf _) (.of_panel (Eq.refl _))))

theorem State.startHang_notes {c : BitVec 6} {cause : BitVec 8} {fails : Nat} : s.Notes (s.startHang c cause fails) := by
  unfold State.startHang
  refine .ite (.updCluster fun _ _ h => h) (.after (State.counted_notes fun t => ?_) (.ite .rfl (.of_panel (State.endRestart_panel ..))))
  dsimp only
  split
  · exact .after (.updCluster fun _ _ h => h) (.after (.each fun _ _ => .of_panel (State.dropSlice_panel ..)) State.clusterReset_notes)
  · split
    · exact .after (.updCluster fun _ _ h => h) State.clusterReset_notes
    · exact .after State.teardown_notes (.after State.report_notes (.after (.updCluster fun _ _ h => h) State.clusterReset_notes))

theorem State.returnLaunch_notes {e : Nat} : s.Notes (s.returnLaunch e) := by
  unfold State.returnLaunch
  split
  · exact .rfl
  · split
    · split
      · exact .ite (.after State.updEntry_notes (.updCluster fun _ _ h => h)) (.of_panel (Eq.refl _))
      · exact .of_panel (Eq.refl _)
    · exact .of_panel (Eq.refl _)

theorem State.linkLost_notes {c : BitVec 6} : s.Notes (s.linkLost c) := by
  unfold State.linkLost
  split
  · exact .rfl
  · exact .after .raise (.after (.each fun _ _ => State.returnLaunch_notes) (.updCluster fun _ _ h => h))

theorem State.failTest_notes {c : BitVec 6} : s.Notes (s.failTest c) := by
  unfold State.failTest
  split
  · exact .rfl
  · exact .after State.report_notes (.updCluster fun _ _ h => h)

/-- What a protocol error does once it is recorded (R101). -/
def State.errFollows (s : State) (c : BitVec 6) (code : BitVec 8) (reset : Bool) : State :=
  let x := s.cluster c
  if x.inTest then s.failTest c
  else if code = 0x07 || code = 0x09 then
    (s.leaveService c).updCluster c (fun x => { x.linkReset.linkDown with link := .out, startFail := true })
  else match x.recovery with
    | some r =>
      if reset && 1 ≤ r.fails || code = 0x08 then s.linkLost c else s.startHang c 0x02 (b2n reset)
    | none => s.startHang c 0x02 (b2n reset)

/-- The record of a protocol error (R101). -/
def State.errRecorded (s : State) (c : BitVec 6) (code : BitVec 8) : State :=
  ((s.updCluster c (fun x => { x with err := some (x.err.getD code) })).noteFlag (.elinkErr c.toNat)).raise (0x200 + c.toNat)

theorem State.protocolError_eq (c : BitVec 6) (code : BitVec 8) (reset : Bool) :
    s.protocolError c code reset = (s.errRecorded c code).errFollows c code reset := Eq.refl _

theorem State.errFollows_notes {c : BitVec 6} {code : BitVec 8} {reset : Bool} : s.Notes (s.errFollows c code reset) := by
  unfold State.errFollows
  refine .ite State.failTest_notes (.ite (.after (.updCluster fun _ _ h => h) State.leaveService_notes) ?_)
  split
  · exact .ite State.linkLost_notes State.startHang_notes
  · exact State.startHang_notes

theorem State.errRecorded_notes {c : BitVec 6} {code : BitVec 8} : s.Notes (s.errRecorded c code) := by
  refine .after .raise (.after State.noteFlag_notes (.updCluster fun x v h => ?_))
  dsimp only
  rw [h]
  rfl

theorem State.protocolError_notes {c : BitVec 6} {code : BitVec 8} {reset : Bool} : s.Notes (s.protocolError c code reset) :=
  .after State.errFollows_notes State.errRecorded_notes

/-- A protocol error stays noted: the first code of the link, and its source (R101). -/
theorem State.errRecorded_noted {c : BitVec 6} (code : BitVec 8) (hw : tblWf {} s.clusters = true) {t : State} (h : (s.errRecorded c code).Notes t) :
    (t.cluster c).err = some ((s.cluster c).err.getD code) ∧ t.irq.pending.getLsbD (0x200 + c.toNat) = true := by
  have hc : (s.errRecorded c code).clusters = (s.updCluster c (fun x => { x with err := some (x.err.getD code) })).clusters := State.raise_clusters ..
  refine ⟨h.err ?_ c _ ?_, h.pending _ ?_⟩
  · rw [hc]
    exact tupd_wf _ _ c.toNat (fun x => { x with err := some (x.err.getD code) }) hw
  · rw [State.cluster, hc]
    exact congrArg Cluster.err (State.updCluster_same s c (fun x => { x with err := some (x.err.getD code) }) hw)
  · refine (State.raise_sets _ _ _ ?_).trans (by simp)
    have := c.isLt
    omega

theorem State.bindBoot_notes : s.Notes s.bindBoot := .of_panel (Eq.refl _)

theorem State.settleStart_notes : s.Notes s.settleStart := by
  unfold State.settleStart
  refine .ite .rfl ?_
  split
  · exact .after State.setFw_notes (.of_panel (Eq.refl _))
  · refine .after State.bindBoot_notes (.after State.cruise_notes (.after (.each fun t c => ?_) (.of_panel (Eq.refl _))))
    exact .ite (.ite (.after (.updCluster fun _ _ h => h) (.updCluster fun _ _ h => h)) (.after (.updCluster fun _ _ h => h) (.updCluster fun _ _ h => h)))
      State.protocolError_notes

/-! ## Processors that fail (R475, R476) -/

theorem State.mbxDone_notes {page st : BitVec 8} {resp : W512} : s.Notes (s.mbxDone page st resp) := by
  have hended : (s.ended page st resp).panel = s.panel := State.trace_panel ..
  rw [State.mbxDone_eq]
  exact .ite (.after .raise (.of_panel hended)) (.of_panel hended)

theorem State.abandonEntry_notes {reason : BitVec 4} : s.Notes (s.abandonEntry reason) := by
  unfold State.abandonEntry
  split
  · exact .rfl
  · refine .after .raise ?_
    split
    · exact .after State.mbxDone_notes (.of_panel (State.trace_panel ..))
    · exact .of_panel (State.trace_panel ..)

theorem State.failEntry_notes : s.Notes s.failEntry := by
  unfold State.failEntry
  extract_lets begun w t pwr
  have ht : s.Notes t := .after State.abandonEntry_notes (.of_panel (Eq.refl _))
  exact .ite .rfl (.ite (ht.trans (.of_panel (Eq.refl _))) ht)

theorem State.notRestarted_notes {p : Nat} : s.Notes (s.notRestarted p) :=
  .ite (.of_panel (State.ask_panel ..)) (.ite (.of_panel (State.ask_panel ..)) State.startHang_notes)

theorem State.releaseHeld_notes {p : Nat} : s.Notes (s.releaseHeld p) := by
  unfold State.releaseHeld
  split
  · exact .rfl
  · refine ⟨fun n hn => ?_, fun hw => hw, fun _ _ _ h => h, Eq.refl _, fun _ h => h⟩
    show BitVec.getLsbD (s.irq.pending ||| _) n = true
    rw [BitVec.getLsbD_or, hn]
    exact Bool.true_or _

theorem State.failProc_noted {p : Nat} {cause : BitVec 4} : (s.raise 0x003).Notes (s.failProc p cause) := by
  unfold State.failProc
  extract_lets again t u
  have hu : (s.raise 0x003).Notes u := .after State.updProc_notes State.releaseHeld_notes
  have hcore (v : State) : v.Notes (((v.holdCore p).count (restartCounter p)).updProc p (fun x => { x with restarts := x.restarts + 1 })) :=
    .after State.updProc_notes (.after State.count_notes State.holdCore_notes)
  refine .ite (.after (.of_panel (State.ask_panel ..)) hu) (.ite (.after State.notRestarted_notes hu) (.after (State.counted_notes fun v => ?_) hu))
  exact .ite (.after State.failEntry_notes (hcore v)) (hcore v)

/-- A processor that fails leaves source 0x003 pending (R475). -/
theorem State.failProc_raises (p : Nat) (cause : BitVec 4) : (s.failProc p cause).irq.pending.getLsbD 0x003 = true :=
  State.failProc_noted.pending 3 ((State.raise_sets s 3 3 (by decide)).trans (by simp))

end

end Sys2Proof.Machine

namespace Sys2Proof.Machine

/-! ## The state of the start (R471, R472) -/

section
variable (s : State)

theorem State.setFw_fwc (x : FwState) : (s.setFw x).fwc = { s.fwc with state := x } := by
  unfold State.setFw
  split
  · next h => rw [← h]
  · rw [State.raise_fwc]

theorem State.refuseStart_fwc (r : BitVec 8) : (s.refuseStart r).fwc = { s.fwc with reason := r, state := .refused } := State.setFw_fwc ..

/-- What the acceptance of a bundle leaves alone of the firmware's state. -/
def State.startKept (s : State) : Bool × List (HostAccess × Nat) := (s.fwc.keyProvisioned, s.fwc.mbxWait)

theorem State.firmwareTargets_startKept : s.firmwareTargets.startKept = s.startKept := by
  have hroutes (t : State) (n : Nat) (l : List Nat) : (t.each l (fun s k => s.firmwareRoute n k)).startKept = t.startKept :=
    State.each_keeps State.startKept _ _ _ fun _ _ => rfl
  have hprocs (t : State) (n : Nat) (l : List Nat) :
      (t.each l (fun s p => s.updProc p (fun y => { y with enable := Config.firmwareEnable n p }))).startKept = t.startKept :=
    State.each_keeps State.startKept _ _ _ fun _ _ => rfl
  have hfree : ({ s with free := s.free + 1 } : State).startKept = s.startKept := rfl
  unfold State.firmwareTargets
  generalize List.range 0x3FF = l
  extract_lets n t
  exact (hprocs t n _).trans ((hroutes _ n l).trans hfree)

/-- The clusters' links are reset once STATE is STARTING (R565). -/
theorem State.startLinks_fwc (l : List (BitVec 6)) :
    ((s.setFw .starting).each l (fun s c => s.updCluster c Cluster.linkReset)).fwc = { s.fwc with state := .starting } :=
  (State.each_keeps State.fwc _ l (fun s c => s.updCluster c Cluster.linkReset) fun _ _ => rfl).trans (State.setFw_fwc ..)

/-- A bundle that is accepted makes STATE STARTING (R472). -/
theorem State.acceptBundle_starts (b : List Byte) : (s.acceptBundle b).fwc.state = .starting ∧ (s.acceptBundle b).startKept = s.startKept := by
  unfold State.acceptBundle
  extract_lets l t fwc u v w x
  have hv : v.startKept = s.startKept := by
    refine (State.each_keeps State.startKept _ _ _ fun r p => ?_).trans rfl
    split <;> rfl
  have hw : w.startKept = s.startKept := (State.firmwareTargets_startKept v).trans hv
  clear_value w
  have hfwc := State.startLinks_fwc w x.allClusters
  refine ⟨congrArg Fwc.state hfwc, ?_⟩
  rw [State.startKept, hfwc]
  exact hw

/-! ## The check of the bundle (R472, R473) -/

/-- No key hash is fused. -/
def State.keyUnset (s : State) : Bool := decide (s.pins.keyHash = 0) || decide (s.pins.keyHash = BitVec.allOnes 384)

/-- The state in which the checks of the bundle are made. -/
def State.bundleRead (s : State) : State := State.dropRead { s with fwc := { s.fwc with keyProvisioned := !s.keyUnset } } none

/-- The bundle that the checks look at: none where nothing is to be read. -/
def State.bundleImage (s : State) : Option (Option (List Byte)) :=
  if s.keyUnset || s.fwc.bundlePages = 0 then some none else s.fwc.imageRead none

variable {s}

theorem State.bundleImage_unset (h : s.keyUnset = true) : s.bundleImage = some none := if_pos (by simp [h])

theorem State.bundleImage_none (h : s.fwc.bundlePages = 0) : s.bundleImage = some none := if_pos (by simp [h])

theorem State.bundleImage_read (hkey : s.keyUnset = false) (hpages : s.fwc.bundlePages ≠ 0) : s.bundleImage = s.fwc.imageRead none :=
  if_neg (by simpa [hkey] using hpages)

theorem State.checkBundle_waits (h : s.bundleImage = none) : s.checkBundle = s := by
  unfold State.checkBundle
  extract_lets unset image
  have himage : image = none := h
  rw [himage]

theorem State.checkBundle_refuses {b : Option (List Byte)} {r : BitVec 8} (hver : s.fwc.state = .verifying) (hrun : s.inRun = true)
    (h : s.bundleImage = some b) (hfault : s.bundleRead.bundleFault b = some r) : s.checkBundle = s.bundleRead.refuseStart r := by
  unfold State.checkBundle
  extract_lets unset image fwc t
  have himage : image = some b := h
  rw [himage]
  refine (if_neg (by simp [hver, hrun])).trans ?_
  have ht : t.bundleFault b = _ := hfault
  rw [ht]
  rfl

theorem State.checkBundle_accepts {b : List Byte} (hver : s.fwc.state = .verifying) (hrun : s.inRun = true)
    (h : s.bundleImage = some (some b)) (hfault : s.bundleRead.bundleFault (some b) = none) : s.checkBundle = (s.bundleRead.acceptBundle b).mbxServe := by
  unfold State.checkBundle
  extract_lets unset image fwc t
  have himage : image = some (some b) := h
  rw [himage]
  refine (if_neg (by simp [hver, hrun])).trans ?_
  have ht : t.bundleFault (some b) = _ := hfault
  rw [ht]
  rfl

theorem State.bundleFault_unset {b : Option (List Byte)} (h : s.keyUnset = true) : s.bundleFault b = some 0x01 := if_pos h

theorem State.bundleFault_unread (h : s.keyUnset = false) : s.bundleFault none = some 0x02 := if_neg (Bool.eq_false_iff.mp h)

theorem State.bundleFault_form {b : List Byte} (h : s.keyUnset = false) (hpages : s.fwc.bundlePages ≠ 0)
    (hform : bundleForm b (4096 * s.fwc.bundlePages.toNat) = false) : s.bundleFault (some b) = some 0x03 :=
  (if_neg (Bool.eq_false_iff.mp h)).trans ((if_neg hpages).trans (if_pos (by simp [hform])))

/-! ## What an alert leaves alone (R476) -/

/-- What a record of the firmware log leaves alone. -/
def State.alertKept (s : State) : Res × Yrd × Pwr × List (HostAccess × Nat) × Tbl Proc := (s.res, s.yrd, s.pwr, s.fwc.mbxWait, s.fwc.procs)

theorem State.fwRecord_alertKept (proc level event : Nat) (args : List Nat) : (s.fwRecord proc level event args).alertKept = s.alertKept := by
  unfold State.fwRecord
  extract_lets f n a t b fwc
  have ht : t.alertKept = s.alertKept := by
    show State.alertKept (if level = 0 then _ else s) = _
    split <;> rfl
  split
  · refine Eq.trans ?_ ht
    by_cases hlevel : level ≤ 1
    · rw [if_pos hlevel]
      rfl
    · rw [if_neg hlevel]
      rfl
  · rw [State.ringWrite_unregulated]
    exact ht

theorem State.fwAlert_alertKept (proc event : Nat) (args : List Nat) : (s.fwAlert proc event args).alertKept = s.alertKept :=
  State.fwRecord_alertKept (s := s.freshWord.2) ..

theorem State.evictions_none (h : ∀ x ∈ s.res.slots, x.2.state ≠ .evicting) : s.evictions = s := by
  have hnone : s.res.slots.filter (fun p => p.2.state = .evicting) = [] := by
    rw [List.filter_eq_nil_iff]
    simpa using h
  rw [State.evictions, hnone]
  rfl

theorem State.mbxServe_none (h : s.fwc.mbxWait = []) : s.mbxServe = s := by
  unfold State.mbxServe
  rw [h]
  show ({ s with fwc := { s.fwc with mbxWait := [] } } : State) = s
  rw [← h]

theorem State.nextPoll_none (h : s.pwr.later = []) : s.nextPoll = s := by
  unfold State.nextPoll
  rw [h]

end

end Sys2Proof.Machine

section
open Sys2Proof Sys2Proof.Machine

/-- Settles O56: the checks of the bundle are made in their order, and a processor's failure raises its source, which nothing after it takes back. -/
theorem firmwareStartsFailsAndRestarts : Obligations.FirmwareStartsFailsAndRestarts := by
  intro s hI
  refine ⟨fun hver hrun hof => ?_, fun hver hrun => ?_, fun p cause => ?_⟩
  · refine ⟨_, congrArg Host.Outcome.next (if_pos (by simp [hver, hrun, hof])), rfl, fun h0 h1 hpages hreads => ?_⟩
    have hask : s.readBundle = s.fwAsk { page := none, pa := 4096 * s.fwc.bundlePfn.toNat, len := 0 } 0 256 false :=
      if_neg (by
        rw [decide_eq_false h0, decide_eq_false h1, decide_eq_false hpages]
        exact Bool.false_ne_true)
    rw [hask, State.fwAsk_reads _ _ _ _ _ hreads]
    exact ⟨_, rfl, rfl, rfl⟩
  · intro none_ c run refused
    have hkey : s.keyUnset = decide none_ := (Bool.decide_or ..).symm
    have hc : s.bundleRead = c := by
      rw [State.bundleRead, hkey]
    have hrefused {b : Option (List Byte)} {r : BitVec 8} (hb : s.bundleImage = some b) (hfault : c.bundleFault b = some r) : refused r := by
      have hdone : run = .next (c.refuseStart r) := by
        rw [← hc] at hfault ⊢
        exact congrArg Host.Outcome.next (State.checkBundle_refuses hver hrun hb hfault)
      refine ⟨_, hdone, rfl, ?_, ?_, ?_⟩ <;> rw [State.refuseStart_fwc]
      rfl
    have hset (h : ¬none_) : s.keyUnset = false := hkey.trans (decide_eq_false h)
    refine ⟨fun h => ?_, fun h hpages => ?_, fun h hpages => ⟨fun hnone => ?_, fun hfail => ?_, fun b hb => ⟨fun hform => ?_, fun r hr => ?_, fun hok => ?_⟩⟩⟩
    · have hun : s.keyUnset = true := hkey.trans (decide_eq_true h)
      exact hrefused (State.bundleImage_unset hun) (State.bundleFault_unset (s := c) hun)
    · exact hrefused (State.bundleImage_none hpages) (State.bundleFault_unread (s := c) (hset h))
    · exact congrArg Host.Outcome.next (State.checkBundle_waits ((State.bundleImage_read (hset h) hpages).trans hnone))
    · exact hrefused ((State.bundleImage_read (hset h) hpages).trans hfail) (State.bundleFault_unread (s := c) (hset h))
    · exact hrefused ((State.bundleImage_read (hset h) hpages).trans hb) (State.bundleFault_form (s := c) (hset h) hpages hform)
    · exact hrefused ((State.bundleImage_read (hset h) hpages).trans hb) hr
    · have hdone : run = .next ((c.acceptBundle b).mbxServe) := by
        rw [← hc] at hok ⊢
        exact congrArg Host.Outcome.next (State.checkBundle_accepts hver hrun ((State.bundleImage_read (hset h) hpages).trans hb) hok)
      obtain ⟨hstate, hkept⟩ := State.acceptBundle_starts c b
      simp only [State.startKept, Prod.mk.injEq] at hkept
      obtain ⟨hprov, hwait⟩ := hkept
      refine ⟨_, hdone, rfl, fun hnone => ?_⟩
      rw [State.mbxServe_none (hwait.trans hnone)]
      exact ⟨hstate, hprov.trans (by simp [c, State.dropRead, h])⟩
  · intro contain fails
    refine ⟨fun h => ⟨_, congrArg Host.Outcome.next (if_pos ?_), rfl, State.failProc_raises ..⟩, fun h => congrArg Host.Outcome.next (if_neg ?_),
      fun elapsed hp hoff hwatch => ⟨fun hdue => ⟨_, congrArg Host.Outcome.next (if_pos ?_), rfl, State.failProc_raises ..⟩,
        fun hearly => congrArg Host.Outcome.next (if_neg ?_)⟩,
      fun hsec hsched hstate => ⟨fun hdue => congrArg Host.Outcome.next (if_pos ?_), fun hearly => congrArg Host.Outcome.next (if_neg ?_)⟩,
      fun rest horder hstate hsec hrun hfe => ⟨fun hlost => ?_, fun hkept hlow hcause hfc => ?_⟩⟩
    · simpa [fails, contain, or_assoc] using h
    · simpa [fails, contain, or_assoc] using h
    · simp only [hp, hoff, hdue, decide_true, Bool.true_and, Bool.and_true, ne_eq, not_false_eq_true]
      exact hwatch
    · simp [Nat.not_le.mpr hearly]
    · simpa [hstate, hsec, hsched] using hdue
    · simpa [hstate, hsec, hsched] using hearly
    · refine congrArg Host.Outcome.next ?_
      rw [horder]
      exact (if_neg (by simp [hstate, hsec, hrun, hfe])).trans (if_pos hlost)
    · intro r
      have hcond : ((s.proc p.toNat).restartFc = BitVec.ofNat 32 (s.proc p.toNat).failFc && (s.proc p.toNat).cause ≠ 0 : Bool) = true := by simpa [hfc] using hcause
      have hdone : exec (.processorRestart p) s = .next
          (r.fwAlert p.toNat 0x0001 [p.toNat, (s.proc p.toNat).cause.toNat, s.fc - (s.proc p.toNat).failFc]).evictions.windowsGo.mbxServe.nextPoll := by
        refine congrArg Host.Outcome.next ?_
        rw [horder]
        refine (if_neg (by simp [hstate, hsec, hrun, hfe])).trans ((if_neg (by simp [hkept])).trans ?_)
        extract_lets x failed fwc u v w a
        have hv : w = r.fwAlert p.toNat 0x0001 [p.toNat, (s.proc p.toNat).cause.toNat, s.fc - (s.proc p.toNat).failFc] := if_pos hcond
        have ha : a = w := if_neg (Nat.not_le.mpr hlow)
        rw [ha, hv]
      refine ⟨_, hdone, fun hwin hslots hwait hlater => ?_, rfl⟩
      have hkept := State.fwAlert_alertKept (s := r) p.toNat 0x0001 [p.toNat, (s.proc p.toNat).cause.toNat, s.fc - (s.proc p.toNat).failFc]
      simp only [State.alertKept, Prod.mk.injEq] at hkept
      obtain ⟨hres, hyrd, hpwr, hmbx, hprocs⟩ := hkept
      generalize r.fwAlert p.toNat 0x0001 [p.toNat, (s.proc p.toNat).cause.toNat, s.fc - (s.proc p.toNat).failFc] = t at *
      rw [State.evictions_none (by rw [hres]; exact hslots), State.windowsGo_none (by rw [hyrd]; exact hwin), State.mbxServe_none (hmbx.trans hwait),
        State.nextPoll_none (by rw [hpwr]; exact hlater), State.proc, hprocs]
      exact congrArg Proc.state (State.updProc_same { s with fwc := { s.fwc with failedOrder := rest } } p.toNat (fun y => { y with state := .running }) hI.procs)

end

namespace Sys2Proof.Machine

section
variable {s : State}

/-! ## The answers of the engine link (R84, R87, R91) -/

theorem State.updCluster_congr {c : BitVec 6} {f g : Cluster → Cluster} (h : f (s.cluster c) = g (s.cluster c)) : s.updCluster c f = s.updCluster c g :=
  congrArg (fun x => ({ s with clusters := tset {} s.clusters c.toNat x } : State)) h

theorem State.updCluster_cluster {c : BitVec 6} (f : Cluster → Cluster) (hw : tblWf {} s.clusters = true) :
    (s.updCluster c f).cluster c = f (s.cluster c) := State.updCluster_same s c f hw

/-- With no window and no eviction going on, the units that an answer sets going change nothing. -/
theorem State.onward_quiet {t : State} (hwin : t.yrd.windows = []) (hslots : ∀ p ∈ t.res.slots, p.2.state ≠ .evicting) : t.evictions.windowsGo = t := by
  rw [State.evictions_none hslots, State.windowsGo_none hwin]

theorem State.failLaunch_none {c : BitVec 6} (h : (s.cluster c).tokenFail = false) : s.failLaunch c = s := by
  unfold State.failLaunch
  extract_lets x
  have hx : x.tokenFail = false := h
  split
  · exact if_neg (by simp [hx])
  · rfl

theorem bits_token_seq (x : W64) (lo : Nat) : bits x (lo + 15) lo % 4096 = bits x (lo + 11) lo := by
  rw [bits, bits, show lo + 15 + 1 - lo = 16 by omega, show lo + 11 + 1 - lo = 12 by omega]
  omega

theorem bits_token_status (x : W64) (lo : Nat) : bits x (lo + 15) lo / 2 ^ 13 = bits x (lo + 15) (lo + 13) := by
  rw [bits, bits, show lo + 15 + 1 - lo = 16 by omega, show lo + 15 + 1 - (lo + 13) = 3 by omega, Nat.shiftRight_add, Nat.shiftRight_eq_div_pow _ 13]
  omega

theorem State.doneLane_ends {c : BitVec 6} {k i tok : Nat} {o : EngOp} (hrst : (s.cluster c).rstN = true) (hloop : (s.cluster c).link ≠ .loopback)
    (hi : (s.cluster c).ops.findIdx? (fun o => o.cls = k) = some i) (ho : (s.cluster c).ops[i]? = some o) (hseq : o.seq.toNat = tok % 4096)
    (hst : tok / 2 ^ 13 = 0) : s.doneLane c (s.cluster c).epoch k tok = s.updCluster c (fun x => { x with ops := x.ops.eraseIdx i }) := by
  unfold State.doneLane
  extract_lets x st
  rw [if_neg (by simp [x, hrst]), if_neg hloop, hi]
  dsimp only
  rw [ho]
  dsimp only
  rw [if_neg (not_not_intro hseq)]
  have hzero : st = 0 := hst
  rw [if_neg (by omega)]
  simp only [hzero, ne_eq, not_true_eq_false, decide_false, Bool.or_false, if_false]

theorem Cluster.sendDescs_none {x : Cluster} (h : x.descQ = []) : x.sendDescs = x := by
  unfold Cluster.sendDescs
  rw [h]
  split <;> rfl

theorem Cluster.loopOne_none {x : Cluster} (h : x.loop = none) : x.loopOne = x := by
  unfold Cluster.loopOne
  rw [h]

theorem Cluster.loopSend_none {x : Cluster} (h : x.loop = none) : x.loopSend = x :=
  List.foldlRecOn (motive := fun y => y = x) _ _ rfl fun y hy _ _ => by rw [hy, Cluster.loopOne_none h]

theorem Cluster.credited_plain (x : Cluster) (g : List Nat) (hdesc : x.descQ = []) (hloop : x.loop = none) :
    Cluster.loopSend (Cluster.sendDescs { x with credits := g }) = { x with credits := g } :=
  (congrArg Cluster.loopSend (Cluster.sendDescs_none (x := { x with credits := g }) hdesc)).trans (Cluster.loopSend_none (x := { x with credits := g }) hloop)

theorem Cluster.loopOne_loops {x : Cluster} (h : x.link = .loopback ∧ x.loop ≠ none) : x.loopOne.link = .loopback ∧ x.loopOne.loop ≠ none := by
  unfold Cluster.loopOne
  split
  · exact h
  · split
    · exact h
    · split
      · exact ⟨h.1, Option.some_ne_none _⟩
      · split
        · exact ⟨h.1, Option.some_ne_none _⟩
        · exact h

theorem Cluster.loopBegin_loops (caps : List W32) (x : Cluster) : (x.loopBegin caps).link = .loopback ∧ (x.loopBegin caps).loop ≠ none :=
  List.foldlRecOn (motive := fun y : Cluster => y.link = .loopback ∧ y.loop ≠ none) _ _ ⟨rfl, Option.some_ne_none _⟩
    fun _ hy _ _ => Cluster.loopOne_loops hy

theorem State.enableDone_plain {c : BitVec 6} (hw : tblWf {} s.clusters = true) (h : (s.cluster c).switch = none) :
    s.enableDone c = s.updCluster c (fun x => { x with link := .active, credits := (List.range 5).map (capCredit s.fwc.caps) }) := by
  unfold State.enableDone
  extract_lets t
  have ht : (t.cluster c).switch = none := (congrArg Cluster.switch (State.updCluster_same s c _ hw)).trans h
  rw [ht]

theorem State.saveDone_plain {c : BitVec 6} (h : (s.cluster c).switch = none) (hbeats : (s.cluster c).beats = capBeats s.fwc.caps) :
    s.saveDone c = s.updCluster c (fun x => { x with link := .held }) := by
  unfold State.saveDone
  extract_lets x
  rw [if_neg (not_not_intro hbeats), h]

theorem State.restoreDone_plain {c : BitVec 6} (hw : tblWf {} s.clusters = true) (h : (s.cluster c).switch = none) :
    s.restoreDone c = s.updCluster c (fun x => { x with link := .held, restores := x.restores + 1, switch := x.switch.map (fun w => { w with phase := .enabling }) }) := by
  unfold State.restoreDone
  rw [State.tryEnable, State.updCluster_same s c _ hw]
  dsimp only
  rw [h]
  rfl

theorem State.clearDone_plain {c : BitVec 6} (h : (s.cluster c).switch = none) (hrec : (s.cluster c).recovery = none) (htest : (s.cluster c).inTest = false) :
    s.clearDone c = s.updCluster c (fun x => { x with link := .held }) := by
  unfold State.clearDone
  extract_lets x t
  have hx : x.inTest = false := htest
  have hr : x.recovery = none := hrec
  have hsw : x.switch = none := h
  rw [if_neg (by simp [hx]), hr, hsw]

/-- What the answer of a command does (R91): `s` is the state with the command no longer outstanding, `n` the number of capability words before it. -/
def State.answered (s : State) (c : BitVec 6) (data : W32) (n code : Nat) : State :=
  if code = ctCapRead then
    let s := s.updCluster c (fun x => { x with caps := x.caps ++ [data] })
    if n + 1 < 64 then s.updCluster c (Cluster.sendCtrl ctCapRead (n + 1)) else s.capsRead c
  else if code = ctEnable then s.enableDone c
  else if code = ctSave then s.saveDone c
  else if code = ctRestore then (s.updCluster c (fun x => { x with down := [] })).restoreDone c
  else if code = ctClear then s.clearDone c
  else if code = ctLoopOn then s.updCluster c (Cluster.loopBegin s.fwc.caps)
  else s.updCluster c (fun x => Cluster.sendCtrl ctClear 0 { x with link := .held })

theorem exec_ctrlResponse_answered {c : BitVec 6} {cmd : BitVec 32} (data : W32) (h : (s.cluster c).ctrl = some cmd) :
    exec (.ctrlResponse c data false) s
      = .next ((s.updCluster c (fun x => { x with ctrl := none })).answered c data (s.cluster c).caps.length (bits cmd 31 24)).evictions.windowsGo := by
  rw [exec, execCtrlResponse, h]
  rfl

theorem exec_ctrlResponse_refused {c : BitVec 6} {cmd : BitVec 32} (data : W32) (h : (s.cluster c).ctrl = some cmd) :
    exec (.ctrlResponse c data true) s = .next ((s.protocolError c 0x0C false).settleStart).evictions.windowsGo := by
  rw [exec, execCtrlResponse, h]
  rfl

theorem exec_ctrlResponse_late {c : BitVec 6} (data : W32) (err : Bool) (h : (s.cluster c).ctrl = none) (hrst : (s.cluster c).rstN = true) :
    exec (.ctrlResponse c data err) s = .next (s.dropLate c).evictions.windowsGo := by
  rw [exec, execCtrlResponse, h]
  exact congrArg (fun t : State => Host.Outcome.next t.evictions.windowsGo) (if_pos hrst)

end

end Sys2Proof.Machine

section
open Sys2Proof Sys2Proof.Machine

/-- Settles O54: a token, a credit and an answer change their cluster as their command asks; an error is noted with its first code and raises the link's source. -/
theorem theEngineLinkTakesAnswersAndErrors : Obligations.TheEngineLinkTakesAnswersAndErrors := by
  intro s c hI x upd becomes fails quiet
  have hw : tblWf {} s.clusters = true := hI.clusters
  have hbecomes {o : Host.Outcome State Fault Refusal} {f : Cluster → Cluster} {y : Cluster} (h : o = .next (s.updCluster c f)) (hy : f x = y) : becomes o y :=
    ⟨_, h, (State.updCluster_same s c f hw).trans hy, fun d hd => State.updCluster_other s f hd, rfl⟩
  have hfails {o : Host.Outcome State Fault Refusal} {code : BitVec 8} {u : State} (h : o = .next u) (hu : (s.errRecorded c code).Notes u) : fails o code u :=
    ⟨u, h, rfl, fun _ => State.errRecorded_noted code hw hu⟩
  have herr {code : BitVec 8} {reset : Bool} : (s.errRecorded c code).Notes (s.protocolError c code reset).settleStart := .after State.settleStart_notes State.errFollows_notes
  have hfree {pools : BitVec 5} (hroom : ∀ k, k < 5 → pools.getLsbD k = true → nth x.credits k < capCredit s.fwc.caps k) :
      ¬(List.range 5).any (fun k => pools.getLsbD k && decide (capCredit s.fwc.caps k ≤ nth (s.cluster c).credits k)) = true := by
    simpa using hroom
  refine ⟨fun valid data epoch hrst => ⟨fun hlate => ?_, fun hnow => ?_, fun k i o hnow hloop hfail hk hvalid hi ho hseq hst => ?_⟩,
    fun pools hans => ⟨fun hover => ?_, fun hroom => ⟨?_, fun hdesc hloop => ?_⟩⟩, fun data => ?_, fun hl => ?_, fun hl => ?_, fun ha => ?_,
    fun elapsed hl => ⟨fun hdue => ?_, fun hearly => ?_⟩, fun elapsed cmd hctrl => ⟨fun hdue hruns => ?_, fun hearly => ?_⟩⟩
  · exact hbecomes (congrArg Host.Outcome.next ((if_neg (by simp [x, hrst])).trans (if_pos hlate))) rfl
  · exact congrArg Host.Outcome.next ((if_neg (by simp [x, hrst])).trans (if_neg (not_not_intro hnow)))
  · have hlanes : (List.range 4).filter (fun j => valid.getLsbD j) = [k] := by
      rw [hvalid]
      interval_cases k <;> decide
    have hrun : exec (.doneToken c valid data epoch) s = .next (s.updCluster c (fun y => Cluster.settle { y with ops := y.ops.eraseIdx i })) := by
      refine congrArg Host.Outcome.next ((if_neg (by simpa using hrst)).trans ((if_neg (not_not_intro hnow)).trans ?_))
      rw [hlanes, hnow]
      refine (congrArg (fun t : State => (t.updCluster c Cluster.settle).failLaunch c) (State.doneLane_ends hrst hloop hi ho ?_ ?_)).trans ?_
      · exact hseq.trans (bits_token_seq ..).symm
      · exact (bits_token_status ..).trans hst
      · rw [State.updCluster_twice s c _ _ hw]
        exact State.failLaunch_none ((congrArg Cluster.tokenFail (State.updCluster_same s c _ hw)).trans hfail)
    have hcl := State.updCluster_same s c (fun y => Cluster.settle { y with ops := y.ops.eraseIdx i }) hw
    exact ⟨_, hrun, (congrArg Cluster.ops hcl).trans rfl, (congrArg Cluster.sigs hcl).trans rfl, (congrArg Cluster.tokenFail hcl).trans hfail, fun d hd => State.updCluster_other s _ hd, rfl⟩
  · refine hfails (congrArg Host.Outcome.next ((if_neg (by simp [x, hans])).trans (if_pos ?_))) State.errFollows_notes
    obtain ⟨k, hk, hpool, hfull⟩ := hover
    exact List.any_eq_true.mpr ⟨k, List.mem_range.mpr hk, by simpa [hpool] using hfull⟩
  · exact congrArg Host.Outcome.next ((if_neg (by simpa using hans)).trans ((if_neg (hfree hroom)).trans (State.updCluster_congr rfl)))
  · refine hbecomes (f := fun x => Cluster.loopSend (Cluster.sendDescs { x with credits := (List.range 5).map (fun k => nth x.credits k + b2n (pools.getLsbD k)) }))
      (congrArg Host.Outcome.next ((if_neg (by simpa using hans)).trans (if_neg (hfree hroom)))) ?_
    exact Cluster.credited_plain x _ hdesc hloop
  · intro on run heard does
    have hshow (hq : quiet) (f : Cluster → Cluster) : (on (s.updCluster c f)).cluster c = f x := by
      have hon : on (s.updCluster c f) = s.updCluster c f := State.onward_quiet hq.1 hq.2
      rw [hon, State.updCluster_same s c f hw]
    refine ⟨fun hnone hrst => ⟨_, exec_ctrlResponse_late data false hnone hrst, rfl, fun hq => hshow hq _⟩, fun cmd hcmd => ⟨exec_ctrlResponse_refused data hcmd, ?_⟩⟩
    have heq : run = .next (on (heard.answered c data x.caps.length (bits cmd 31 24))) := exec_ctrlResponse_answered data hcmd
    have hcl : heard.cluster c = { x with ctrl := none } := State.updCluster_same s c (fun y => { y with ctrl := none }) hw
    have hwh : tblWf {} heard.clusters = true := tupd_wf {} s.clusters c.toNat (fun y => { y with ctrl := none }) hw
    have htwice (f : Cluster → Cluster) : heard.updCluster c f = s.updCluster c (fun y => f { y with ctrl := none }) := State.updCluster_twice s c _ f hw
    refine ⟨fun hcode hmore => ?_, fun hcode hfull => ?_, fun hcode => ?_, fun hcode => ?_, fun hcode => ?_, fun hcode => ?_, fun hcode => ?_, fun hcode => ?_⟩ <;>
      rw [hcode] at heq
    · refine ⟨_, heq.trans (congrArg (fun t => Host.Outcome.next (on t)) (if_pos hmore)), ?_, fun hq => ?_⟩
      · rw [htwice, State.updCluster_twice s c _ _ hw]
      · rw [htwice, State.updCluster_twice s c _ _ hw, hshow hq]
        exact ⟨rfl, rfl⟩
    · refine heq.trans (congrArg (fun t => Host.Outcome.next (on t)) ((if_neg (Nat.not_lt.mpr hfull)).trans ?_))
      rw [htwice]
    · refine ⟨_, heq, rfl, fun hq hsw => ?_⟩
      have hdone : heard.answered c data x.caps.length ctEnable = _ := State.enableDone_plain hwh ((congrArg Cluster.switch hcl).trans hsw)
      rw [hdone, htwice, hshow hq]
      rfl
    · refine ⟨_, heq, rfl, fun hq hsw hbeats => ?_⟩
      have hdone : heard.answered c data x.caps.length ctSave = _ := State.saveDone_plain ((congrArg Cluster.switch hcl).trans hsw) ((congrArg Cluster.beats hcl).trans hbeats)
      rw [hdone, htwice, hshow hq]
    · have hdown : heard.updCluster c (fun y => { y with down := [] }) = upd (fun y => { y with ctrl := none, down := [] }) := htwice _
      refine ⟨_, heq.trans (congrArg (fun t : State => Host.Outcome.next (on (t.restoreDone c))) hdown), rfl, fun hq hsw => ?_⟩
      have hswd : ((upd (fun y => { y with ctrl := none, down := [] })).cluster c).switch = none :=
        (congrArg Cluster.switch (State.updCluster_same s c (fun y => { y with ctrl := none, down := [] }) hw)).trans hsw
      rw [State.restoreDone_plain (tupd_wf {} s.clusters c.toNat (fun y => { y with ctrl := none, down := [] }) hw) hswd]
      refine Eq.trans (congrArg (fun t : State => (on t).cluster c) (State.updCluster_twice s c _ _ hw)) ?_
      rw [hshow hq, hsw]
      rfl
    · refine ⟨_, heq, rfl, fun hq hsw hrec htest => ?_⟩
      have hdone : heard.answered c data x.caps.length ctClear = _ :=
        State.clearDone_plain ((congrArg Cluster.switch hcl).trans hsw) ((congrArg Cluster.recovery hcl).trans hrec) ((congrArg Cluster.inTest hcl).trans htest)
      rw [hdone, htwice, hshow hq]
    · refine ⟨_, heq.trans (congrArg (fun t => Host.Outcome.next (on t)) (htwice _)), rfl, fun hq => ?_⟩
      rw [hshow hq]
      exact Cluster.loopBegin_loops ..
    · refine ⟨_, heq.trans (congrArg (fun t => Host.Outcome.next (on t)) (htwice _)), rfl, fun hq => ?_⟩
      rw [hshow hq]
      exact ⟨rfl, rfl⟩
  · exact hbecomes (f := fun x => Cluster.sendCtrl ctCapRead 0 { x with link := .caps }) (congrArg Host.Outcome.next (if_pos hl)) rfl
  · exact congrArg Host.Outcome.next (if_neg hl)
  · exact hfails (congrArg Host.Outcome.next (if_pos ha)) herr
  · exact hfails (congrArg Host.Outcome.next (if_pos (by simpa [hdue] using hl))) herr
  · exact congrArg Host.Outcome.next (if_neg (by simp [Nat.not_lt.mpr hearly]))
  · refine hfails ?_ herr
    have hc : (s.cluster c).ctrl = some cmd := hctrl
    rw [Sys2Proof.Machine.exec, execCtrlTimeout, hc]
    exact congrArg Host.Outcome.next (if_pos ((Bool.and_eq_true ..).mpr ⟨decide_eq_true hdue, hruns⟩))
  · have hc : (s.cluster c).ctrl = some cmd := hctrl
    rw [Sys2Proof.Machine.exec, execCtrlTimeout, hc]
    exact congrArg Host.Outcome.next (if_neg fun h => Nat.not_lt.mpr hearly (of_decide_eq_true ((Bool.and_eq_true ..).mp h).1))

end

namespace Sys2Proof.Machine

/-! ## While no window is open and nothing is evicted -/

theorem mem_tset {α : Type} [DecidableEq α] {d : α} {k : Nat} {v : α} {p : Nat × α} : ∀ {t : Tbl α}, p ∈ tset d t k v → p ∈ t ∨ p.2 = v := by
  intro t
  induction t with
  | nil =>
    unfold tset
    split <;> simp +contextual
  | cons q r ih =>
    obtain ⟨j, w⟩ := q
    unfold tset
    split
    · split
      · exact fun h => .inl (List.mem_cons_of_mem _ h)
      · exact fun h => (List.mem_cons.mp h).elim (fun h => .inr (congrArg Prod.snd h)) (fun h => .inl (List.mem_cons_of_mem _ h))
    · split
      · split
        · exact .inl
        · exact fun h => (List.mem_cons.mp h).elim (fun h => .inr (congrArg Prod.snd h)) .inl
      · exact fun h => (List.mem_cons.mp h).elim (fun h => .inl (h ▸ List.mem_cons_self)) fun h => (ih h).imp_left (List.mem_cons_of_mem _)

theorem tget_of_all {α : Type} {P : α → Prop} {d : α} {k : Nat} (hd : P d) : ∀ {t : Tbl α}, (∀ p ∈ t, P p.2) → P (tget d t k) := by
  intro t
  induction t with
  | nil => exact fun _ => hd
  | cons q r ih =>
    intro h
    unfold tget
    split
    · exact h _ List.mem_cons_self
    · exact ih fun p hp => h p (List.mem_cons_of_mem _ hp)

/-- What all the values of a table have, they have after an update that keeps it. -/
theorem tupd_all {α : Type} [DecidableEq α] {P : α → Prop} {d : α} {t : Tbl α} {k : Nat} {f : α → α} (hd : P d) (hf : ∀ x, P x → P (f x))
    (h : ∀ p ∈ t, P p.2) : ∀ p ∈ tupd d t k f, P p.2 :=
  fun p hp => (mem_tset hp).elim (h p) fun hv => hv ▸ hf _ (tget_of_all hd h)

/-- No window is open and no context is being evicted, so an answer of a cluster sets neither of them going. -/
def State.calm (s : State) : Prop := s.windowKeys = [] ∧ ∀ p ∈ s.res.slots, p.2.state ≠ .evicting

section
variable {s : State}

theorem State.calm_of (hwin : s.yrd.windows = []) (hslots : ∀ p ∈ s.res.slots, p.2.state ≠ .evicting) : s.calm :=
  ⟨by rw [State.windowKeys, hwin]; rfl, hslots⟩

theorem State.calm.onward (h : s.calm) : s.evictions.windowsGo = s := State.onward_quiet (List.map_eq_nil_iff.mp h.1) h.2

theorem State.calm.updCluster (h : s.calm) (c : BitVec 6) (f : Cluster → Cluster) : (s.updCluster c f).calm := h

theorem State.calm.updCtx (h : s.calm) (k : BitVec 20) (f : Context → Context) : (s.updCtx k f).calm := h

theorem State.calm.updRes (h : s.calm) (r : Nat) {f : ResSlot → ResSlot} (hf : ∀ x, (f x).state = x.state) : (s.updRes r f).calm :=
  ⟨h.1, tupd_all (P := fun x : ResSlot => x.state ≠ .evicting) (by decide) (fun x hx => (hf x).symm ▸ hx) h.2⟩

theorem State.calm.issueTxn (h : s.calm) (t : Txn) : (s.issueTxn t).calm := by
  refine ⟨(State.issueTxn_windowKeys ..).trans h.1, ?_⟩
  rw [State.issueTxn_frame]
  exact h.2

theorem State.calm.mpRead (h : s.calm) (part : Option (BitVec 3)) (source : BitVec 6) (pa len : Nat) (prot : BitVec 3) (cache qos : BitVec 4) (p : Purpose) :
    (s.mpRead part source pa len prot cache qos p).calm := h.issueTxn _

theorem State.calm.setSlice (h : s.calm) (k : BitVec 20) (i : Nat) (v : SliceState) : (s.setSlice k i v).calm := by
  unfold State.setSlice
  split
  · exact h.updRes _ fun _ => rfl
  · exact h

theorem State.calm.takeSlice (h : s.calm) (c : BitVec 6) (k : BitVec 20) (i : Nat) : (s.takeSlice c k i).calm := by
  unfold State.takeSlice
  extract_lets a b
  have hb : b.calm := by
    show State.calm (match a.residentSlot k with | some r => _ | none => a)
    split
    · exact State.calm.updRes (h.setSlice ..) _ fun _ => rfl
    · exact h.setSlice ..
  exact hb

/-! ## What the manager ports are asked for -/

/-- A transaction is issued as it is, or waits as it is; only its slot, epoch and instant are given at the issue. -/
theorem State.issueTxn_holds (t : Txn) : ∃ w ∈ (s.issueTxn t).mp.txns ++ (s.issueTxn t).mp.waiting,
    (w.purpose, w.write, w.pa, w.len, w.data) = (t.purpose, t.write, t.pa, t.len, t.data) := by
  unfold State.issueTxn
  split
  · next k _ _ =>
    refine ⟨{ t with slot := k, epoch := s.mp.epoch, fc := s.fc }, ?_, rfl⟩
    rw [State.sendTxn, State.drawBucket_mp]
    simp
  · exact ⟨t, by simp, rfl⟩

theorem State.issueTxn_keeps (t : Txn) {w : Txn} (h : w ∈ s.mp.txns ++ s.mp.waiting) : w ∈ (s.issueTxn t).mp.txns ++ (s.issueTxn t).mp.waiting := by
  have h := List.mem_append.mp h
  unfold State.issueTxn
  split
  · rw [State.sendTxn, State.drawBucket_mp]
    simpa [or_assoc, or_left_comm] using h.imp_right .inr
  · simpa [or_assoc] using h.imp_right .inl

theorem State.mpRead_holds (s : State) (part : Option (BitVec 3)) (source : BitVec 6) (pa len : Nat) (prot : BitVec 3) (cache qos : BitVec 4) (p : Purpose) :
    ∃ w ∈ (s.mpRead part source pa len prot cache qos p).mp.txns ++ (s.mpRead part source pa len prot cache qos p).mp.waiting,
      (w.purpose, w.write, w.len) = (p, false, len) := by
  obtain ⟨w, hmem, hw⟩ := State.issueTxn_holds (s := s)
    { write := false, ifc := s.route part pa, epoch := s.mp.epoch, source, slot := 0, pa, len, prot, cache, qos, retries := 0, data := [], part, purpose := p, fc := s.fc }
  simp only [Prod.mk.injEq] at hw
  obtain ⟨hpurpose, hwrite, -, hlen, -⟩ := hw
  exact ⟨w, hmem, by rw [hpurpose, hwrite, hlen]⟩

/-! ## The clusters behind a switch (R452 to R456, R462) -/

theorem State.issueTxn_cluster (t : Txn) (c : BitVec 6) : (s.issueTxn t).cluster c = s.cluster c := by rw [State.issueTxn_frame]; rfl

theorem State.restoreIn_cluster (c d : BitVec 6) (k : BitVec 20) (i off len : Nat) : (s.restoreIn c k i off len).cluster d = s.cluster d :=
  State.issueTxn_cluster ..

theorem State.calm.restoreIn (h : s.calm) (c : BitVec 6) (k : BitVec 20) (i off len : Nat) : (s.restoreIn c k i off len).calm := h.issueTxn _

theorem State.restoreMore_cluster (c d : BitVec 6) : (s.restoreMore c).cluster d = s.cluster d := by
  unfold State.restoreMore
  extract_lets x
  split
  · split
    · exact State.restoreIn_cluster ..
    · rfl
  · rfl

theorem State.calm.restoreMore (h : s.calm) (c : BitVec 6) : (s.restoreMore c).calm := by
  unfold State.restoreMore
  extract_lets x
  split
  · split
    · exact h.restoreIn ..
    · exact h
  · exact h

theorem State.takeSlice_clusters (c : BitVec 6) (k : BitVec 20) (i : Nat) :
    (s.takeSlice c k i).clusters = (s.updCluster c (fun x => { x with ctx := some k, slice := some i })).clusters := by
  unfold State.takeSlice
  extract_lets a b
  have ha : a.clusters = s.clusters := by
    show (s.setSlice k i .held).clusters = _
    unfold State.setSlice
    split <;> rfl
  have hb : b.clusters = s.clusters := by
    refine Eq.trans ?_ ha
    show State.clusters (match a.residentSlot k with | some r => _ | none => a) = _
    split <;> rfl
  exact congrArg (fun t => tupd {} t c.toNat (fun x : Cluster => { x with ctx := some k, slice := some i })) hb

theorem State.takeSlice_cluster (c : BitVec 6) (k : BitVec 20) (i : Nat) (hw : tblWf {} s.clusters = true) :
    (s.takeSlice c k i).cluster c = { s.cluster c with ctx := some k, slice := some i } := by
  rw [State.cluster, State.takeSlice_clusters]
  exact State.updCluster_same s c (fun x => { x with ctx := some k, slice := some i }) hw

theorem State.takeSlice_wf (c : BitVec 6) (k : BitVec 20) (i : Nat) (hw : tblWf {} s.clusters = true) : tblWf {} (s.takeSlice c k i).clusters = true := by
  rw [State.takeSlice_clusters]
  exact tupd_wf {} s.clusters c.toNat (fun x => { x with ctx := some k, slice := some i }) hw

theorem State.calm.readHeader (h : s.calm) (c : BitVec 6) (k : BitVec 20) (i : Nat) (w : Switch) : (s.readHeader c k i w).calm :=
  State.calm.restoreIn ((h.takeSlice c k i).updCluster ..) ..

theorem State.readHeader_cluster (c : BitVec 6) (k : BitVec 20) (i : Nat) (w : Switch) (hw : tblWf {} s.clusters = true) :
    (s.readHeader c k i w).cluster c
      = { s.cluster c with ctx := some k, slice := some i, header := [], switch := some { w with phase := .header, inSlice := some i } } := by
  refine (State.restoreIn_cluster ..).trans ((State.updCluster_same _ c _ (State.takeSlice_wf c k i hw)).trans ?_)
  rw [State.takeSlice_cluster c k i hw]

theorem State.updCluster_wf (c : BitVec 6) (f : Cluster → Cluster) (hw : tblWf {} s.clusters = true) : tblWf {} (s.updCluster c f).clusters = true :=
  tupd_wf {} s.clusters c.toNat f hw

/-- Writing a part of a slice touches of its cluster only the rows that were lost, and asks for the write. -/
theorem State.saveOut_cluster (c : BitVec 6) (k : BitVec 20) (i off : Nat) (data : List Byte) (hw : tblWf {} s.clusters = true) :
    (s.saveOut c k i off data).cluster c = { s.cluster c with upLost := [] } :=
  (State.issueTxn_cluster ..).trans (State.updCluster_same s c (fun x => { x with upLost := [] }) hw)

theorem State.saveOut_holds (c : BitVec 6) (k : BitVec 20) (i off : Nat) (data : List Byte) :
    ∃ w ∈ (s.saveOut c k i off data).mp.txns ++ (s.saveOut c k i off data).mp.waiting,
      (w.purpose, w.write, w.pa, w.len, w.data) = (.saveWrite c k i, true, s.slicePa k i off, data.length, data) := State.issueTxn_holds _

theorem State.saveOut_wf (c : BitVec 6) (k : BitVec 20) (i off : Nat) (data : List Byte) (hw : tblWf {} s.clusters = true) :
    tblWf {} (s.saveOut c k i off data).clusters = true := by
  rw [State.saveOut, State.mpWrite, State.issueTxn_frame]
  exact tupd_wf {} s.clusters c.toNat (fun x => { x with upLost := [] }) hw

theorem State.writeRecord_cluster (c : BitVec 6) (k : BitVec 20) (i : Nat) (hw : tblWf {} s.clusters = true) :
    (s.writeRecord c k i none).cluster c = { s.cluster c with upLost := [] } ∧ tblWf {} (s.writeRecord c k i none).clusters = true := by
  unfold State.writeRecord
  dsimp only
  split
  · exact ⟨(State.saveOut_cluster _ _ _ _ _ (State.saveOut_wf _ _ _ _ _ hw)).trans (by rw [State.saveOut_cluster _ _ _ _ _ hw]),
      State.saveOut_wf _ _ _ _ _ (State.saveOut_wf _ _ _ _ _ hw)⟩
  · exact ⟨State.saveOut_cluster _ _ _ _ _ hw, State.saveOut_wf _ _ _ _ _ hw⟩

theorem State.writeRecord_holds (c : BitVec 6) (k : BitVec 20) (i : Nat) :
    ∃ w ∈ (s.writeRecord c k i none).mp.txns ++ (s.writeRecord c k i none).mp.waiting,
      w.purpose = .saveWrite c k i ∧ w.write = true ∧ w.pa = s.slicePa k i 0 := by
  have hpick {t : State} (h : ∃ w ∈ t.mp.txns ++ t.mp.waiting, ∃ n d, (w.purpose, w.write, w.pa, w.len, w.data) = (.saveWrite c k i, true, s.slicePa k i 0, n, d)) :
      ∃ w ∈ t.mp.txns ++ t.mp.waiting, w.purpose = .saveWrite c k i ∧ w.write = true ∧ w.pa = s.slicePa k i 0 := by
    obtain ⟨w, hmem, n, d, hw⟩ := h
    simp only [Prod.mk.injEq] at hw
    obtain ⟨hpurpose, hwrite, hpa, -⟩ := hw
    exact ⟨w, hmem, hpurpose, hwrite, hpa⟩
  unfold State.writeRecord
  dsimp only
  split
  · obtain ⟨w, hmem, hw⟩ := State.saveOut_holds (s := s) c k i 0 (s.sliceHeader k none)
    exact hpick ⟨w, State.issueTxn_keeps _ hmem, _, _, hw⟩
  · obtain ⟨w, hmem, hw⟩ := State.saveOut_holds (s := s) c k i 0 (s.sliceHeader k none ++ List.replicate 0xE00 0)
    exact hpick ⟨w, hmem, _, _, hw⟩

/-- What a yielded switch that is not torn down does at its SWITCH_OUT (R454). -/
def State.switchedOut (s : State) (c : BitVec 6) (w : Switch) : State :=
  match (s.cluster c).ctx, (s.cluster c).slice with
  | some k, some i =>
    let t := s.writeRecord c k i (s.cluster c).active
    let t := match (s.cluster c).active with
      | some l => t.updEntry l.entry (fun e => { e with slice := some i })
      | none => t
    t.updCluster c (fun x => Cluster.sendCtrl ctSave 0 { x with
      swCause := if w.cause = .quiet then x.swCause else w.cause
      switch := some { w with phase := .saving, outSlice := some i } })
  | _, _ => s.updCluster c (fun x => { x with ctx := none, switch := some { w with phase := .saved } })

theorem State.switchedOut_none {c : BitVec 6} {w : Switch} (h : (s.cluster c).ctx = none) :
    s.switchedOut c w = s.updCluster c (fun x => { x with ctx := none, switch := some { w with phase := .saved } }) := by
  unfold State.switchedOut
  rw [h]

theorem State.switchedOut_idle {c : BitVec 6} {w : Switch} {k : BitVec 20} {i : Nat} (hctx : (s.cluster c).ctx = some k) (hslice : (s.cluster c).slice = some i)
    (hact : (s.cluster c).active = none) : s.switchedOut c w = (s.writeRecord c k i none).updCluster c (fun x => Cluster.sendCtrl ctSave 0 { x with
      swCause := if w.cause = .quiet then x.swCause else w.cause, switch := some { w with phase := .saving, outSlice := some i } }) := by
  unfold State.switchedOut
  rw [hctx, hslice, hact]

theorem exec_switchOut {c : BitVec 6} {w : Switch} (hsw : (s.cluster c).switch = some w) (hph : w.phase = .yielded) (hlink : (s.cluster c).link = .held)
    (hctrl : (s.cluster c).ctrl = none) :
    exec (.switchOut c) s = .next (if w.suppressed = true then s.updCluster c (fun x => Cluster.sendCtrl ctClear 0 { x with
        clears := x.clears + 1, swCause := .teardown, switch := some { w with phase := .clearing } }) else s.switchedOut c w) := by
  rw [exec, execSwitchOut, hsw]
  exact congrArg Host.Outcome.next (if_neg (by simp [hph, hlink, hctrl]))

/-- What the answer FLUSHED does to the oldest SYNC request (R89). -/
def State.flushAnswered (s : State) (c : BitVec 6) (msg : W32) : State :=
  match (s.cluster c).sync with
  | [] => s.protocolError c 0x0D false
  | r :: rest =>
    if r.yield || !r.taken || decide (msg.extractLsb' 0 16 ≠ r.tag) then s.protocolError c 0x0D false
    else (s.updCluster c (fun x => { x with
      sync := rest
      active := if r.final then x.active.map (fun l => { l with flushDone := true }) else x.active
      sigs := if r.final then x.sigs else x.sigs.map (fun g => if g.tag = some r.tag then { g with tag := none } else g) })).passSignals c

/-- What the answer YIELDED does to the oldest SYNC request (R89). -/
def State.yieldAnswered (s : State) (c : BitVec 6) (msg : W32) : State :=
  match (s.cluster c).sync with
  | [] => s.protocolError c 0x0D false
  | r :: rest =>
    if !r.yield || !r.taken || decide (msg.extractLsb' 0 16 ≠ r.tag) then s.protocolError c 0x0D false
    else
      let t := s.updCluster c (fun x => { x with
        sync := rest, link := .held
        switch := x.switch.map (fun w => if w.phase = .yielding then { w with phase := .yielded } else w) })
      if (s.cluster c).recovery.isSome && (s.cluster c).switch.isNone then t.updCluster c (Cluster.sendCtrl ctClear 0) else t

section
variable {c : BitVec 6} {msg : W32} {r : SyncReq} {rest : List SyncReq}

theorem State.flushAnswered_none (msg : W32) (h : (s.cluster c).sync = []) : s.flushAnswered c msg = s.protocolError c 0x0D false := by
  unfold State.flushAnswered
  rw [h]

theorem State.yieldAnswered_none (msg : W32) (h : (s.cluster c).sync = []) : s.yieldAnswered c msg = s.protocolError c 0x0D false := by
  unfold State.yieldAnswered
  rw [h]

theorem State.flushAnswered_final (h : (s.cluster c).sync = r :: rest) (hyield : r.yield = false) (htaken : r.taken = true) (htag : msg.extractLsb' 0 16 = r.tag)
    (hfinal : r.final = true) : s.flushAnswered c msg
      = (s.updCluster c (fun x => { x with sync := rest, active := x.active.map (fun l => { l with flushDone := true }) })).passSignals c := by
  unfold State.flushAnswered
  rw [h]
  refine (if_neg (by simp [hyield, htaken, htag])).trans ?_
  simp only [hfinal, if_true]

theorem State.flushAnswered_signals (h : (s.cluster c).sync = r :: rest) (hyield : r.yield = false) (htaken : r.taken = true) (htag : msg.extractLsb' 0 16 = r.tag)
    (hfinal : r.final = false) : s.flushAnswered c msg
      = (s.updCluster c (fun x => { x with sync := rest, sigs := x.sigs.map (fun g => if g.tag = some r.tag then { g with tag := none } else g) })).passSignals c := by
  unfold State.flushAnswered
  rw [h]
  refine (if_neg (by simp [hyield, htaken, htag])).trans ?_
  simp only [hfinal, Bool.false_eq_true, if_false]

theorem State.yieldAnswered_held (h : (s.cluster c).sync = r :: rest) (hyield : r.yield = true) (htaken : r.taken = true) (htag : msg.extractLsb' 0 16 = r.tag)
    (hrec : (s.cluster c).recovery = none) : s.yieldAnswered c msg = s.updCluster c (fun x => { x with
      sync := rest, link := .held, switch := x.switch.map (fun w => if w.phase = .yielding then { w with phase := .yielded } else w) }) := by
  unfold State.yieldAnswered
  rw [h]
  exact (if_neg (by simp [hyield, htaken, htag])).trans (if_neg (by simp [hrec]))

end

theorem toBytes_length (n v : Nat) : (toBytes n v).length = n := by
  induction n generalizing v with
  | zero => rfl
  | succ n ih => exact congrArg Nat.succ (ih _)

/-- The first of some beats is the first 128 bytes of what they make. -/
theorem flatten_toBytes_take {l : List (BitVec 1024)} (h : l ≠ []) : ((l.map (fun d => toBytes 128 d.toNat)).flatten).take 128 = toBytes 128 (l.headD 0).toNat := by
  cases l with
  | nil => exact absurd rfl h
  | cons d l =>
    rw [List.map_cons, List.flatten_cons, List.headD_cons]
    exact List.take_left' (toBytes_length ..)

/-- What the gathered save beats do when they are 32, or the last (R368). -/
def State.beatsOut (s : State) (c : BitVec 6) (n : Nat) (up : List (BitVec 1024)) : State :=
  let t := s.updCluster c (fun x => { x with beats := n, up := [] })
  match (s.cluster c).switch, (s.cluster c).ctx with
  | some w, some k =>
    if w.suppressed then t
    else t.saveOut c k (w.outSlice.getD 0) (0x30000 + 128 * (n - up.length)) (up.map (fun d => toBytes 128 d.toNat)).flatten
  | _, _ => t

theorem State.beatsOut_saves {c : BitVec 6} {n : Nat} {up : List (BitVec 1024)} {w : Switch} {k : BitVec 20} (hsw : (s.cluster c).switch = some w)
    (hctx : (s.cluster c).ctx = some k) (hsup : w.suppressed = false) :
    s.beatsOut c n up = (s.updCluster c (fun x => { x with beats := n, up := [] })).saveOut c k (w.outSlice.getD 0) (0x30000 + 128 * (n - up.length))
      (up.map (fun d => toBytes 128 d.toNat)).flatten := by
  unfold State.beatsOut
  rw [hsw, hctx]
  exact if_neg (Bool.eq_false_iff.mp hsup)

/-- What a save beat that comes where it should does (R95, R368). -/
def State.beatTaken (s : State) (c : BitVec 6) (data : BitVec 1024) (last : Bool) : State :=
  let up := (s.cluster c).up ++ [data]
  let n := (s.cluster c).beats + 1
  if last || up.length = 32 then s.beatsOut c n up else s.updCluster c (fun x => { x with beats := n, up })

theorem State.passSignals_none {c : BitVec 6} (hw : tblWf {} s.clusters = true) (h : (s.cluster c).sigs = []) : (s.passSignals c).cluster c = s.cluster c := by
  unfold State.passSignals
  split
  · rfl
  · rw [h]
    refine (State.updCluster_same s c (fun x => { x with sigs := [] }) hw).trans ?_
    rw [← h]

end

end Sys2Proof.Machine

section
open Sys2Proof Sys2Proof.Machine

/-- Settles O53: each phase of a switch asks for what the next one needs; a wrong SYNC answer or beat is an error of the link. -/
theorem switchesSaveClearAndRestore : Obligations.SwitchesSaveClearAndRestore := by
  intro s c hI x upd becomes fails quiet
  have hw : tblWf {} s.clusters = true := hI.clusters
  have hbecomes {o : Host.Outcome State Fault Refusal} {f : Cluster → Cluster} {y : Cluster} (h : o = .next (s.updCluster c f)) (hy : f x = y) : becomes o y :=
    ⟨_, h, (State.updCluster_same s c f hw).trans hy, fun d hd => State.updCluster_other s f hd, rfl⟩
  have hfails {o : Host.Outcome State Fault Refusal} {code : BitVec 8} (h : o = .next (s.protocolError c code false)) : fails o code :=
    ⟨_, h, rfl, fun _ => State.errRecorded_noted code hw State.errFollows_notes⟩
  have hcalm (hq : quiet) : s.calm := State.calm_of hq.1 hq.2
  refine ⟨fun w hsw hph hlink hctrl => ?_, fun w hsw hlink hctrl => ?_, fun i hi => ?_, fun msg hrst => ?_, fun data last hlink hroom => ?_, fun hlink hbeats hdown => ?_⟩
  · intro run
    have hgo (o : State) (h : (if w.suppressed = true then s.updCluster c (fun x => Cluster.sendCtrl ctClear 0 { x with
          clears := x.clears + 1, swCause := .teardown, switch := some { w with phase := .clearing } })
        else s.switchedOut c w) = o) : run = .next o := by
      refine Eq.trans ?_ (congrArg Host.Outcome.next h)
      exact exec_switchOut hsw hph hlink hctrl
    refine ⟨fun hsup => hbecomes (hgo _ (if_pos hsup)) rfl, fun hsup hctx => ?_, fun k i hsup hctx hslice hact => ?_⟩
    · exact hbecomes (hgo _ ((if_neg (Bool.eq_false_iff.mp hsup)).trans (State.switchedOut_none hctx))) rfl
    · obtain ⟨hcl, hwf⟩ := State.writeRecord_cluster (s := s) c k i hw
      have hy := (State.updCluster_same (s.writeRecord c k i none) c (fun y => Cluster.sendCtrl ctSave 0 { y with
          swCause := if w.cause = .quiet then y.swCause else w.cause, switch := some { w with phase := .saving, outSlice := some i } }) hwf)
      exact ⟨_, hgo _ ((if_neg (Bool.eq_false_iff.mp hsup)).trans (State.switchedOut_idle hctx hslice hact)), rfl, (congrArg Cluster.link hy).trans rfl,
        (congrArg Cluster.beats hy).trans rfl, (congrArg Cluster.switch hy).trans rfl, State.writeRecord_holds ..⟩
  · intro run on
    have hsw' : (s.cluster c).switch = some w := hsw
    have hfree : ¬((s.cluster c).link ≠ .held || (s.cluster c).ctrl.isSome) = true := by
      rw [show (s.cluster c).link = .held from hlink, show (s.cluster c).ctrl = none from hctrl]
      decide
    have hrun : run = run := rfl
    conv_rhs at hrun =>
      unfold run
      rw [exec, execSwitchIn, hsw']
      dsimp only
      rw [if_neg hfree]
    have hshow {f : Cluster → Cluster} {t : State} (hq : t.calm) (hwt : tblWf {} t.clusters = true) : (t.updCluster c f).evictions.windowsGo.cluster c = f (t.cluster c) :=
      (congrArg (fun u : State => u.cluster c) (hq.updCluster c f).onward).trans (State.updCluster_same t c f hwt)
    refine ⟨fun hph hinto => ?_, fun k r hph hinto hres hmask hreads => ?_, fun k r i hph hinto hres hmask hresume himage => ?_,
      fun k r i hph hinto hres hmask hresume himage hempty => ?_, fun hph hfail => ?_,
      fun k i hph hsup hfail hhead hctx hslice hresume => ?_⟩
    · rw [hph, hinto] at hrun
      exact ⟨_, hrun, rfl, fun hq => congrArg Cluster.switch (hshow (t := s.freshWord.2) (hcalm hq) hw)⟩
    · rw [hph, hinto] at hrun
      dsimp only at hrun
      rw [hres] at hrun
      dsimp only at hrun
      rw [hmask, if_pos Bool.not_false, if_neg ?_] at hrun
      · refine ⟨_, hrun, rfl, fun hq => ?_⟩
        rw [((hcalm hq).mpRead ..).onward]
        obtain ⟨v, hmem, hv⟩ := s.mpRead_holds (some (s.ctx k).partition) (s.saveSource c) (s.slicePa k 0 0x200) 16 2 (arCache (s.saveAttr k)) 8 (.maskRead k)
        simp only [Prod.mk.injEq] at hv
        exact ⟨v, hmem, hv⟩
      · simp only [List.mem_append] at hreads
        simpa using ⟨fun t ht => hreads t (.inl ht), fun t ht => hreads t (.inr ht)⟩
    · rw [hph, hinto] at hrun
      dsimp only at hrun
      rw [hres] at hrun
      dsimp only at hrun
      rw [hmask, Bool.not_true, if_neg Bool.false_ne_true, hresume] at hrun
      dsimp only at hrun
      rw [himage] at hrun
      dsimp only at hrun
      refine ⟨_, hrun, rfl, fun hq => ?_⟩
      rw [((hcalm hq).readHeader ..).onward, State.readHeader_cluster c k i w hw]
      exact ⟨rfl, rfl, rfl⟩
    · rw [hph, hinto] at hrun
      dsimp only at hrun
      rw [hres] at hrun
      dsimp only at hrun
      rw [hmask, Bool.not_true, if_neg Bool.false_ne_true, hresume] at hrun
      dsimp only at hrun
      rw [himage] at hrun
      dsimp only at hrun
      rw [hempty] at hrun
      dsimp only at hrun
      refine ⟨_, hrun, by rw [hinto], fun hq => ?_⟩
      rw [hshow ((hcalm hq).takeSlice c k i) (State.takeSlice_wf c k i hw), State.takeSlice_cluster c k i hw]
      exact ⟨rfl, rfl, rfl⟩
    · rw [hph] at hrun
      dsimp only at hrun
      rw [if_pos ?_] at hrun
      · exact ⟨_, hrun, rfl, fun hq => congrArg Cluster.link (hshow (hcalm hq) hw)⟩
      · simpa [Option.isSome_iff_ne_none] using hfail
    · rw [hph] at hrun
      dsimp only at hrun
      rw [if_neg (by simp [hsup, hfail]), if_neg (by simpa using hhead), show (s.cluster c).ctx = some k from hctx, hslice] at hrun
      dsimp only at hrun
      rw [hresume] at hrun
      dsimp only at hrun
      refine ⟨fun hbad => ?_, fun hgood => ?_⟩
      · rw [Option.map_none, hbad, if_neg Bool.false_ne_true] at hrun
        exact hrun
      · rw [Option.map_none, hgood, if_pos rfl, ← hslice] at hrun
        refine ⟨_, hrun, rfl, fun hq => ?_⟩
        rw [(State.calm.restoreMore ((hcalm hq).updCluster ..) c).onward, State.restoreMore_cluster, State.updCluster_same s c _ hw]
        exact ⟨rfl, rfl, rfl⟩
  · refine hbecomes (f := fun x => { x with sync := listUpd x.sync i (fun r => { r with taken := true }) }) ?_ rfl
    have hi' : (s.cluster c).sync.findIdx? (fun r => !r.taken) = some i := hi
    rw [exec, execSyncRequestTaken, hi']
  · have hlate {i : Instr} (h : exec i s = .next (s.dropLate c)) : becomes (exec i s) { x with dropLate := x.dropLate + 1 } :=
      hbecomes (f := fun y => { y with dropLate := y.dropLate + 1 }) h rfl
    have hrst' : (s.cluster c).rstN = true := hrst
    have hflush {m : State} (h2 : bits msg 31 28 ≠ 2) (h15 : bits msg 31 28 ≠ 15) (hep : msg.extractLsb' 16 8 = x.epoch) (hlink : x.link ≠ .loopback)
        (h : (if bits msg 31 28 ≠ 1 then s.protocolError c (if x.link = .loopback then 0x0B else 0x0D) false else s.flushAnswered c msg) = m) :
        exec (.flushed c msg) s = .next m :=
      congrArg Host.Outcome.next ((if_neg (by simp [h2, h15, hrst'])).trans ((if_neg (not_not_intro hep)).trans ((if_neg fun h => hlink (by simp at h; exact h.1)).trans h)))
    have hyield {m : State} (h2 : bits msg 31 28 = 2) (hep : msg.extractLsb' 16 8 = x.epoch) (hlink : x.link ≠ .loopback) (h : s.yieldAnswered c msg = m) :
        exec (.yielded c msg) s = .next m :=
      congrArg Host.Outcome.next ((if_neg (by simp [h2, hrst'])).trans ((if_neg (not_not_intro hep)).trans ((if_neg hlink).trans h)))
    refine ⟨fun h2 h15 hep => ?_, fun h2 hep => ?_, fun h15 hep => ?_, fun h15 hep => ?_, fun h1 h2 h15 hep hlink => ?_, fun h1 hep hlink hnone => ?_,
      fun h2 hep hlink hnone => ?_, fun r rest hsync hep hlink htaken htag => ⟨fun h1 hflushes hfinal => ?_, fun h1 hflushes hfinal => ?_, fun h2 hyields hrec => ?_⟩⟩
    · exact hlate (congrArg Host.Outcome.next ((if_neg (by simp [h2, h15, hrst'])).trans (if_pos hep)))
    · exact hlate (congrArg Host.Outcome.next ((if_neg (by simp [h2, hrst'])).trans (if_pos hep)))
    · exact hlate (congrArg Host.Outcome.next ((if_neg (by simp [h15, hrst'])).trans (if_pos hep)))
    · exact hfails (congrArg Host.Outcome.next ((if_neg (by simp [h15, hrst'])).trans (if_neg (not_not_intro hep))))
    · exact hfails (hflush h2 h15 hep hlink ((if_pos h1).trans (by rw [if_neg hlink])))
    · exact hfails (hflush (by omega) (by omega) hep hlink ((if_neg (not_not_intro h1)).trans (State.flushAnswered_none msg hnone)))
    · exact hfails (hyield h2 hep hlink (State.yieldAnswered_none msg hnone))
    · refine ⟨_, hflush (by omega) (by omega) hep hlink ((if_neg (not_not_intro h1)).trans (State.flushAnswered_final hsync hflushes htaken htag hfinal)), rfl, fun hnone => ?_⟩
      have hy := State.updCluster_same s c (fun y => { y with sync := rest, active := y.active.map (fun l => { l with flushDone := true }) }) hw
      exact (State.passSignals_none (State.updCluster_wf c _ hw) ((congrArg Cluster.sigs hy).trans hnone)).trans hy
    · refine ⟨_, hflush (by omega) (by omega) hep hlink ((if_neg (not_not_intro h1)).trans (State.flushAnswered_signals hsync hflushes htaken htag hfinal)), rfl, fun hbusy => ?_⟩
      exact (congrArg (fun t : State => t.cluster c) (if_pos hbusy)).trans (State.updCluster_same s c _ hw)
    · exact hbecomes (hyield h2 hep hlink (State.yieldAnswered_held hsync hyields htaken htag hrec)) rfl
  · intro run fits
    have hl : (s.cluster c).link = .saving := hlink
    have hgo {m : State} (h : (if last ≠ decide ((s.cluster c).beats + 1 = capBeats s.fwc.caps) then s.protocolError c 0x06 false else s.beatTaken c data last) = m) :
        run = .next m := by
      refine congrArg Host.Outcome.next ((if_neg (by rw [hl]; decide)).trans ((if_neg ?_).trans h))
      rw [hl, decide_eq_false (Nat.not_lt.mpr hroom)]
      decide
    refine ⟨fun hmiss => hfails (hgo (if_pos hmiss)), fun hfit hlast hlen => ?_, fun w k hfit hend hsw hctx hsup => ?_⟩
    · exact hbecomes (hgo ((if_neg (not_not_intro hfit)).trans (if_neg (by simpa [hlast] using hlen)))) rfl
    · have hout : s.beatTaken c data last = _ := (if_pos (by simpa using hend)).trans (State.beatsOut_saves (s := s) (n := x.beats + 1) (up := x.up ++ [data]) hsw hctx hsup)
      have hy := State.updCluster_same s c (fun y => { y with beats := x.beats + 1, up := [] }) hw
      have hcl := (State.saveOut_cluster (s := s.updCluster c (fun y => { y with beats := x.beats + 1, up := [] })) c k (w.outSlice.getD 0) (0x30000 + 128 * (x.beats + 1 - (x.up ++ [data]).length))
        ((x.up ++ [data]).map (fun d => toBytes 128 d.toNat)).flatten (State.updCluster_wf c _ hw))
      refine ⟨_, hgo ((if_neg (not_not_intro hfit)).trans hout), rfl, (congrArg Cluster.beats hcl).trans (congrArg Cluster.beats hy),
        (congrArg Cluster.up hcl).trans (congrArg Cluster.up hy), ?_⟩
      obtain ⟨v, hmem, hv⟩ := State.saveOut_holds (s := s.updCluster c (fun y => { y with beats := x.beats + 1, up := [] })) c k (w.outSlice.getD 0)
        (0x30000 + 128 * (x.beats + 1 - (x.up ++ [data]).length)) ((x.up ++ [data]).map (fun d => toBytes 128 d.toNat)).flatten
      simp only [Prod.mk.injEq] at hv
      obtain ⟨hpurpose, -, -, -, hdata⟩ := hv
      refine ⟨v, hmem, hpurpose, ?_⟩
      rw [hdata]
      exact flatten_toBytes_take (by simp)
  · have hrun : exec (.restoreBeat c) s = .next ((upd (fun y => { y with beats := y.beats + 1, down := y.down.drop 1 })).restoreMore c) := by
      have hl : (s.cluster c).link = .restoring := hlink
      refine congrArg Host.Outcome.next ((if_neg (by rw [hl]; decide)).trans (if_pos ?_))
      have hd : (s.cluster c).down.isEmpty = false := by simpa using hdown
      have hb : (s.cluster c).beats < capBeats s.fwc.caps := hbeats
      rw [hl, hd, decide_eq_true hb]
      exact Bool.or_true _
    exact ⟨_, hrun, rfl, (State.restoreMore_cluster ..).trans (State.updCluster_same s c (fun y => { y with beats := y.beats + 1, down := y.down.drop 1 }) hw)⟩

end

namespace Sys2Proof.Machine

section
variable {s : State}

/-! ## The launch that is swapped in (R327, R330) -/

theorem State.fetchPages_clusters (l : Launch) : (s.fetchPages l).clusters = s.clusters := congrArg (fun p => p.2.1) (State.fetchPages_panel (s := s) l)

theorem State.issueTxn_entries (t : Txn) : (s.issueTxn t).lnd.entries = s.lnd.entries := by rw [State.issueTxn_frame]

theorem State.fetchPages_entries (l : Launch) : (s.fetchPages l).lnd.entries = s.lnd.entries := by
  refine State.each_keeps (fun t : State => t.lnd.entries) _ _ _ fun u p => ?_
  split
  · rfl
  · exact State.issueTxn_entries ..

/-- What a fetch for a chained launch leaves alone. -/
theorem State.fetchChain_keeps (e : Option Nat) : (s.fetchChain e).clusters = s.clusters ∧ (s.fetchChain e).lnd.entries = s.lnd.entries ∧
    (s.fetchChain e).windowKeys = s.windowKeys := by
  unfold State.fetchChain
  split
  · exact ⟨rfl, rfl, rfl⟩
  · split
    · split
      · exact ⟨State.fetchPages_clusters .., State.fetchPages_entries .., State.fetchPages_windowKeys ..⟩
      · exact ⟨rfl, rfl, rfl⟩
    · exact ⟨rfl, rfl, rfl⟩

/-- What sending descriptors leaves alone in its cluster. -/
def Cluster.sendsKept (x : Cluster) : Option Launch × Option Launch × Bool × Option Nat := (x.active, x.shadow, x.bank, x.chainNext)

theorem Cluster.sendDescs_kept (x : Cluster) : x.sendDescs.sendsKept = x.sendsKept := by
  unfold Cluster.sendDescs
  split
  · rfl
  · refine List.foldlRecOn (motive := fun y : Cluster => y.sendsKept = x.sendsKept) _ _ rfl fun y hy d _ => ?_
    split
    · exact hy
    · exact hy

theorem Launch.settle_key (l : Launch) (ops : List EngOp) : ((l.settle ops).entry, (l.settle ops).halted) = (l.entry, l.halted) := by
  unfold Launch.settle
  dsimp only
  split <;> rfl

/-- What a swap makes of its cluster: the launch is active in the other bank, and nothing is left in the shadow (R327). -/
structure Cluster.Swaps (l : Launch) (x y : Cluster) : Prop where
  shadow : y.shadow = none
  active : y.active.map (fun m => m.entry) = some l.entry
  bank : y.bank = !x.bank
  chain : y.chainNext = none

theorem Cluster.settle_sends_swaps {l m : Launch} {x y : Cluster} (hm : m.entry = l.entry) (h : y.sendsKept = (some m, none, !x.bank, none)) :
    Cluster.Swaps l x y.sendDescs.settle := by
  have hkept := (Cluster.sendDescs_kept y).trans h
  simp only [Cluster.sendsKept, Prod.mk.injEq] at hkept
  obtain ⟨hactive, hshadow, hbank, hchain⟩ := hkept
  refine ⟨hshadow, ?_, hbank, hchain⟩
  have hkey := congrArg Prod.fst (Launch.settle_key m y.sendDescs.ops)
  rw [Cluster.settle, hactive]
  exact congrArg some (hkey.trans hm)

theorem State.swapIn_swaps (c : BitVec 6) (l : Launch) : ∃ f : Cluster → Cluster, (s.swapIn c l).clusters = (s.updCluster c f).clusters ∧ ∀ x, Cluster.Swaps l x (f x) := by
  unfold State.swapIn
  extract_lets half beat p least l' t u
  refine ⟨_, (State.fetchChain_keeps ..).1.trans (show u.clusters = _ from rfl), fun x => ?_⟩
  exact Cluster.settle_sends_swaps (m := l') rfl rfl

theorem State.swapIn_entries (c : BitVec 6) (l : Launch) :
    (s.swapIn c l).lnd.entries = (s.updEntry l.entry (fun y => { y with place := .active c })).lnd.entries := (State.fetchChain_keeps ..).2.1

theorem State.swapIn_windowKeys (c : BitVec 6) (l : Launch) : (s.swapIn c l).windowKeys = s.windowKeys := (State.fetchChain_keeps ..).2.2

theorem State.swapIn_cluster (c : BitVec 6) (l : Launch) (hw : tblWf {} s.clusters = true) : Cluster.Swaps l (s.cluster c) ((s.swapIn c l).cluster c) := by
  obtain ⟨f, hf, hx⟩ := State.swapIn_swaps (s := s) c l
  have hc : (s.swapIn c l).cluster c = (s.updCluster c f).cluster c := congrArg (fun t : Tbl Cluster => tget ({} : Cluster) t c.toNat) hf
  rw [hc, State.updCluster_same s c f hw]
  exact hx _

theorem State.swapIn_wf (c : BitVec 6) (l : Launch) (hw : tblWf {} s.clusters = true) : tblWf {} (s.swapIn c l).clusters = true := by
  obtain ⟨f, hf, -⟩ := State.swapIn_swaps (s := s) c l
  rw [hf]
  exact State.updCluster_wf c f hw

theorem State.swapIn_other {c d : BitVec 6} (l : Launch) (h : d ≠ c) : (s.swapIn c l).cluster d = s.cluster d := by
  obtain ⟨f, hf, -⟩ := State.swapIn_swaps (s := s) c l
  exact (congrArg (fun t : Tbl Cluster => tget ({} : Cluster) t d.toNat) hf).trans (State.updCluster_other s f h)

theorem State.swapIn_entry (c : BitVec 6) (l : Launch) : (s.swapIn c l).entry l.entry = (s.entry l.entry).map (fun y => { y with place := .active c }) := by
  rw [State.entry, State.swapIn_entries]
  exact State.updEntry_same ..

/-! ## The bundle that is issued (R299) -/

theorem State.blazeUpdate_clusters (n : BitVec 16) (u : BlazeUp) : (s.blazeUpdate n u).clusters = s.clusters := by
  have hrec (t : State) (a b : BlazeRun) : (t.recordError n a b).clusters = t.clusters := by
    unfold State.recordError
    extract_lets word k
    split
    · exact State.raise_clusters ..
    · split <;> rfl
  unfold State.blazeUpdate
  dsimp only
  rw [hrec]
  split
  · rfl
  · exact congrArg (fun p => p.2.1) (State.applyUpdates_panel ..)

/-- The bundles a cluster has issued, and the stream of the last one (R299, R333). -/
def Cluster.issued (x : Cluster) : W32 × Nat := (x.bundles, x.lastStream)

/-- The clusters are in canonical form, and this one has issued what it had. -/
def State.issuedBy (s : State) (c : BitVec 6) (v : W32 × Nat) : Prop := tblWf {} s.clusters = true ∧ (s.cluster c).issued = v

theorem State.issuedBy.of_clusters {c : BitVec 6} {v : W32 × Nat} (h : s.issuedBy c v) {t : State} (ht : t.clusters = s.clusters) : t.issuedBy c v := by
  refine ⟨ht ▸ h.1, Eq.trans ?_ h.2⟩
  exact congrArg (fun u : Tbl Cluster => (tget ({} : Cluster) u c.toNat).issued) ht

theorem State.issuedBy.updCluster {c : BitVec 6} {v : W32 × Nat} (h : s.issuedBy c v) {f : Cluster → Cluster} (hf : ∀ x, (f x).issued = x.issued) :
    (s.updCluster c f).issuedBy c v :=
  ⟨State.updCluster_wf c f h.1, (congrArg Cluster.issued (State.updCluster_same s c f h.1)).trans ((hf _).trans h.2)⟩

theorem State.passSignal_issuedBy {c : BitVec 6} {v : W32 × Nat} (g : Sig) (h : s.issuedBy c v) : (s.passSignal c g).issuedBy c v := by
  unfold State.passSignal
  split
  · exact h
  · extract_lets k t
    have ht : t.issuedBy c v := h
    split
    · exact ht.updCluster fun _ => rfl
    · exact ht.of_clusters (State.blazeUpdate_clusters ..)

theorem State.passSignals_issuedBy {c : BitVec 6} {v : W32 × Nat} (h : s.issuedBy c v) : (s.passSignals c).issuedBy c v := by
  unfold State.passSignals
  split
  · exact h
  · extract_lets l now
    exact List.foldlRecOn (motive := fun t : State => t.issuedBy c v) now _ (h.updCluster fun _ => rfl) fun t ht g _ => State.passSignal_issuedBy g ht

theorem State.rtStarted_clusters (i : Nat) : (s.rtStarted i).clusters = s.clusters := by
  unfold State.rtStarted
  split
  · rfl
  · dsimp only
    split
    · rfl
    · exact State.raise_clusters ..

theorem State.firstIssue_clusters (i : Nat) : (s.firstIssue i).clusters = s.clusters := by
  unfold State.firstIssue
  split
  · rfl
  · split
    · rfl
    · dsimp only
      split
      · rfl
      · exact State.rtStarted_clusters ..

theorem Cluster.issueOps_issued (x : Cluster) (i : Nat) (l : List OpWord) : (x.issueOps i l).issued = x.issued := by
  unfold Cluster.issueOps
  split <;> rfl

theorem State.issueBundle_issued (c : BitVec 6) (l : Launch) (i t : Nat) (b : Bundle) (hw : tblWf {} s.clusters = true) :
    ((s.issueBundle c l i t b).cluster c).issued = ((s.cluster c).bundles + 1, i) := by
  unfold State.issueBundle
  extract_lets x half k sy popped ops scalar x1 l1 regs classes pair signal sig x2 x3 l2 x4 u
  have h1 : x1.issued = x.issued := Cluster.issueOps_issued ..
  have h2 : x2.issued = x.issued := by
    show (if _ then _ else x1 : Cluster).issued = _
    split
    · exact h1
    · exact h1
  have h3 : x3.issued = x.issued := by
    show (if _ then _ else x2 : Cluster).issued = _
    split
    · exact h2
    · exact h2
  have h4 : x4.issued = (x.bundles + 1, i) := congrArg (fun p : W32 × Nat => (p.1 + 1, i)) h3
  have hu : u.issuedBy c (x.bundles + 1, i) := ⟨State.updCluster_wf c _ hw, (congrArg Cluster.issued (State.updCluster_same s c (fun _ => x4.settle) hw)).trans h4⟩
  exact (State.passSignals_issuedBy (hu.of_clusters (State.firstIssue_clusters _))).2

/-! ## The launch that completes (R329) -/

/-- Charging a launch touches of its cluster only the instant of the charge. -/
theorem State.charge_cluster (c : BitVec 6) (hw : tblWf {} s.clusters = true) : ∃ f : Launch → Launch, (∀ m, ((f m).entry, (f m).halted) = (m.entry, m.halted)) ∧
    (s.charge c).cluster c = { s.cluster c with active := (s.cluster c).active.map f } := by
  have hid : s.cluster c = { s.cluster c with active := (s.cluster c).active.map id } := by rw [Option.map_id_fun, id]
  unfold State.charge
  split
  · exact ⟨id, fun _ => rfl, hid⟩
  · split
    · exact ⟨id, fun _ => rfl, hid⟩
    · exact ⟨fun l => { l with chargedFc := s.fc }, fun _ => rfl, State.updCluster_same _ c _ hw⟩

theorem State.charge_wf (c : BitVec 6) (hw : tblWf {} s.clusters = true) : tblWf {} (s.charge c).clusters = true := by
  unfold State.charge
  split
  · exact hw
  · split
    · exact hw
    · exact State.updCluster_wf (s := { s with yrd := _ }) c _ hw

theorem State.chainReady_frame (e : Nat) : s.chainReady e = { s with lnd := { s.lnd with entries := (s.chainReady e).lnd.entries }, hau := (s.chainReady e).hau } := by
  unfold State.chainReady
  split
  · split
    · rw [State.obtainCopy_frame]
      rfl
    · rfl
  · rfl

/-- An entry that becomes ready keeps its report. -/
theorem State.chainReady_report (e d : Nat) : ((s.chainReady e).entry d).map (fun z => z.report) = (s.entry d).map (fun z => z.report) := by
  unfold State.chainReady
  split
  · next y _ =>
    split
    · rw [State.obtainCopy_entry]
      by_cases hd : d = e
      · subst hd
        rw [State.updEntry_same]
        cases s.entry d <;> rfl
      · rw [State.updEntry_other _ _ hd]
    · rfl
  · rfl

/-- The chained launch, if there is one, becomes ready (R330). -/
def State.chainOn (s : State) (k : Option Nat) : State := match k with | some k => s.chainReady k | none => s

theorem State.chainOn_frame (k : Option Nat) : s.chainOn k = { s with lnd := { s.lnd with entries := (s.chainOn k).lnd.entries }, hau := (s.chainOn k).hau } := by
  unfold State.chainOn
  split
  · exact State.chainReady_frame ..
  · rfl

theorem State.chainOn_report (k : Option Nat) (d : Nat) : ((s.chainOn k).entry d).map (fun z => z.report) = (s.entry d).map (fun z => z.report) := by
  unfold State.chainOn
  split
  · exact State.chainReady_report ..
  · rfl

theorem State.chainOn_wf {k : Option Nat} (hw : tblWf {} s.clusters = true) : tblWf {} (s.chainOn k).clusters = true := by
  rw [State.chainOn_frame]
  exact hw

theorem State.completeLaunch_plain {c : BitVec 6} {l : Launch} (hrec : (s.cluster c).recovery = none) (hw : tblWf {} s.clusters = true)
    (hproc : (s.proc (3 + c.toNat)).state = .running) : s.completeLaunch c l
      = (((s.charge c).report l.entry 0x00 false).chainOn l.chain).updCluster c (fun x => { x with active := none, preempt := false, stall := 0, chainNext := l.chain }) := by
  unfold State.completeLaunch
  extract_lets t u v
  have hu : u = t.report l.entry 0x00 false := by
    refine if_pos ?_
    show (t.proc (3 + c.toNat)).state = .running
    rw [show t = s.charge c from rfl, State.charge_frame]
    exact hproc
  have hv : v = (t.report l.entry 0x00 false).chainOn l.chain := congrArg (fun w : State => w.chainOn l.chain) hu
  have hcl : v.clusters = t.clusters := by
    rw [hv, State.chainOn_frame]
    rfl
  have hrecv : (v.cluster c).recovery = none := by
    obtain ⟨f, -, hf⟩ := State.charge_cluster (s := s) c hw
    have hvc : v.cluster c = (s.charge c).cluster c := congrArg (fun u : Tbl Cluster => tget ({} : Cluster) u c.toNat) hcl
    rw [hvc, hf]
    exact hrec
  rw [hrecv, hv]

theorem State.calm.completeLaunch (h : s.calm) {c : BitVec 6} {l : Launch} (hrec : (s.cluster c).recovery = none) (hw : tblWf {} s.clusters = true)
    (hproc : (s.proc (3 + c.toNat)).state = .running) : (s.completeLaunch c l).calm := by
  rw [State.completeLaunch_plain hrec hw hproc]
  refine State.calm.updCluster ?_ _ _
  rw [State.chainOn_frame, State.charge_frame]
  exact h

/-- The final FLUSH request of a launch whose streams are done (R329). -/
theorem Cluster.flush_asked {x : Cluster} {l : Launch} (h : x.active = some l) :
    Cluster.sendSync false 15 true { x with active := x.active.map (fun l => { l with flushSent := true }) }
      = { x with sync := x.sync ++ [{ yield := false, classes := 15, tag := x.tag, taken := false, final := true }], tag := x.tag + 1
                 active := some { l with flushSent := true } } := by
  rw [h]
  rfl

/-! ## A chained launch and a stop (R177, R330, R447) -/

theorem State.keepChain_none {c : BitVec 6} (h : (s.cluster c).chainNext = none) : s.keepChain c = s := by
  unfold State.keepChain
  rw [h]

theorem active_halted (o : Option Launch) {f : Launch → Launch} (hf : ∀ m, ((f m).entry, (f m).halted) = (m.entry, m.halted)) :
    ((o.map f).map (fun l => { l with halted := true })).map (fun m => (m.entry, m.halted)) = o.map (fun m => (m.entry, true)) := by
  cases o with
  | none => rfl
  | some l => exact congrArg (fun p : Nat × Bool => some (p.1, true)) (hf l)

theorem State.calm_windows (h : s.yrd.windows = []) : s.windowKeys = [] := List.map_eq_nil_iff.mpr h

theorem State.issue_report_entry {e : Nat} {y : Entry} (st : BitVec 8) (prop : Bool) (he : s.entry e = some y) (hrep : y.report = none) :
    ((s.issue e).report e st prop).entry e = some { y with state := .issued, startFc := s.fe.cycles, report := some (st, prop) } := by
  rw [State.report, State.updEntry_same, State.issue, State.updEntry_same, he]
  simp [hrep]

/-- The YIELD request of a switch that stops (R447). -/
def Cluster.asksYield (x : Cluster) : Cluster :=
  Cluster.sendSync true 15 false { x with
    switch := x.switch.map (fun w => { w with phase := .yielding })
    active := x.active.map (fun l => { l with halted := true }) }

end

end Sys2Proof.Machine

section
open Sys2Proof Sys2Proof.Machine

/-- Settles O52: a launch is swapped in, issues, completes and hands over to its chained launch, and a stop asks for YIELD. -/
theorem launchesRunOnTheirCluster : Obligations.LaunchesRunOnTheirCluster := by
  intro s c hI x quiet
  have hw : tblWf {} s.clusters = true := hI.clusters
  have hcalm (hq : quiet) : s.calm := State.calm_of hq.1 hq.2
  refine ⟨fun l e hshadow he hstart hchain hissued hloaded hdump => ?_, fun stream cclk l hact hlink hfail hhang hdump hdesc hfresh => ?_,
    fun l hact hlink hdone hops hfail hhang hsw => ?_, fun e y hchain he => ?_, fun w hsw hph hlink => ?_⟩
  · have hrun : exec (.launchStart c) s = .next (s.swapIn c { l with suppress := if l.resumed then l.suppress else e.passed }) := by
      rw [exec, execLaunchStart, show (s.cluster c).shadow = some l from hshadow]
      dsimp only
      rw [he]
      exact congrArg Host.Outcome.next (if_pos (by simpa [hissued, hloaded, hdump] using ⟨hstart, hchain⟩))
    obtain ⟨hnone, hactive, hbank, -⟩ := State.swapIn_cluster (s := s) c { l with suppress := if l.resumed then l.suppress else e.passed } hw
    refine ⟨_, hrun, rfl, hnone, hactive, hbank, ?_, fun d hd => State.swapIn_other _ hd⟩
    rw [State.swapIn_entry (s := s) c { l with suppress := if l.resumed then l.suppress else e.passed }, he]
    rfl
  · intro half
    have hrun : exec (.bundleIssue c stream cclk) s = exec (.bundleIssue c stream cclk) s := rfl
    conv_rhs at hrun =>
      rw [exec, execBundleIssue, show (s.cluster c).active = some l from hact]
      dsimp only
    rw [if_neg ?_] at hrun
    · refine ⟨fun b hchosen hnext => ?_, fun hnone hmem => ?_⟩
      · have hchosen' : (s.cluster c).chosenStream l (capDescSlots s.fwc.caps / 2) cclk = some stream.toNat := hchosen
        rw [hchosen'] at hrun
        dsimp only at hrun
        rw [if_pos rfl, hnext] at hrun
        have hissued := State.issueBundle_issued (s := s) c l stream.toNat cclk b hw
        exact ⟨_, hrun, rfl, congrArg Prod.fst hissued, congrArg Prod.snd hissued⟩
      · have hnone' : (s.cluster c).chosenStream l (capDescSlots s.fwc.caps / 2) cclk = none := hnone
        rw [hnone'] at hrun
        dsimp only at hrun
        split at hrun
        · next hempty =>
          rw [hempty] at hmem
          exact absurd hmem List.not_mem_nil
        · next j rest hcons =>
          rw [if_pos (List.contains_iff_mem.mpr hmem)] at hrun
          exact ⟨_, hrun, State.updCluster_same s c _ hw, rfl⟩
    · have hl : (s.cluster c).link = .active := hlink
      have hf : (s.cluster c).tokenFail = false := hfail
      have hh : (s.cluster c).hangWait = none := hhang
      have hd : (s.cluster c).descQ = [] := hdesc
      simp [hl, hf, hh, hdump, hd]
      intro t ht
      cases hlast : t.last with
      | none => rfl
      | some k => exact decide_eq_true (hfresh t ht k hlast)
  · intro run
    have hrun : run = run := rfl
    conv_rhs at hrun =>
      unfold run
      rw [exec, execLaunchComplete, show (s.cluster c).active = some l from hact, show (s.cluster c).switch = none from hsw]
      dsimp only
    rw [if_neg ?_] at hrun
    · refine ⟨fun hsent hsync => ?_, fun hsent hflushed hsigs hbusy => ?_⟩
      · rw [hsent, if_pos Bool.not_false, if_pos hsync] at hrun
        refine ⟨_, hrun, rfl, fun hq => ?_⟩
        rw [((hcalm hq).updCluster c _).onward, State.updCluster_same s c _ hw]
        exact Cluster.flush_asked hact
      · rw [hsent, Bool.not_true, if_neg Bool.false_ne_true, if_pos ?_] at hrun
        · refine ⟨_, hrun, rfl, fun y hq hrec hproc he hreport => ?_⟩
          rw [((hcalm hq).completeLaunch hrec hw hproc).onward, State.completeLaunch_plain hrec hw hproc]
          have hcl := State.updCluster_same (((s.charge c).report l.entry 0x00 false).chainOn l.chain) c
            (fun x => { x with active := none, preempt := false, stall := 0, chainNext := l.chain }) (State.chainOn_wf (State.charge_wf c hw))
          refine ⟨congrArg Cluster.active hcl, congrArg Cluster.chainNext hcl, (State.chainOn_report ..).trans ?_⟩
          rw [State.report, State.updEntry_same, State.charge_frame]
          exact (congrArg (fun o : Option Entry => (o.map _).map _) he).trans (by simp [hreport])
        · have hs : (s.cluster c).sigs = [] := hsigs
          rw [hflushed, hs, hbusy]
          rfl
    · have hl : (s.cluster c).link = .active := hlink
      have ho : (s.cluster c).ops = [] := hops
      have hf : (s.cluster c).tokenFail = false := hfail
      have hh : (s.cluster c).hangWait = none := hhang
      simp only [hl, hdone, ho, hf, hh]
      decide
  · intro run cleared
    have hrun : run = run := rfl
    conv_rhs at hrun =>
      unfold run
      rw [exec, execChainedLaunchStart, show (s.cluster c).chainNext = some e from hchain]
      dsimp only
      rw [he]
      dsimp only
    refine ⟨fun hrep => ?_, fun hrep st hfailed => ?_, fun hrep hfailed hready => ?_, fun hrep hfailed hready hsw hstart hheld hdump => ?_,
      fun hrep hfailed hready hheld => ?_⟩
    · rw [if_pos (Option.isSome_iff_ne_none.mpr hrep)] at hrun
      exact hrun
    · rw [if_neg (by simp [hrep]), if_pos (by simp [hfailed]), hfailed] at hrun
      refine ⟨((cleared.issue e).report e st false).windowsGo, hrun, rfl, fun hwin => ?_⟩
      rw [State.windowsGo_none (s := (cleared.issue e).report e st false) hwin]
      exact ⟨State.issue_report_entry (s := cleared) st false he hrep, congrArg Cluster.chainNext (State.updCluster_same s c (fun z => { z with chainNext := none }) hw)⟩
    · rw [if_neg (by simp [hrep]), if_neg (by simp [hfailed]), if_pos (by simp [hready])] at hrun
      exact hrun
    · rw [if_neg (by simp [hrep]), if_neg (by simp [hfailed]), if_neg (by simp [hready]), if_pos ?_] at hrun
      · intro l
        refine ⟨fun hwait => ?_, fun hloaded => ?_⟩
        · exact hrun.trans (congrArg (fun t : State => Host.Outcome.next t.windowsGo) (if_pos (congrArg (!·) hwait)))
        · refine ⟨_, hrun.trans (congrArg (fun t : State => Host.Outcome.next t.windowsGo) (if_neg (ne_true_of_eq_false (congrArg (!·) hloaded)))), rfl, fun hwin => ?_⟩
          have hkeys : (((s.updEntry e (fun z => { z with state := .issued, phase := 1, startFc := s.fe.cycles })).swapIn c l).updCluster c
              (fun z => { z with shadow := x.shadow })).windowKeys = [] :=
            (State.swapIn_windowKeys c l).trans (State.calm_windows hwin)
          obtain ⟨-, hactive, hbank, hnext⟩ := State.swapIn_cluster (s := s.updEntry e (fun z => { z with state := .issued, phase := 1, startFc := s.fe.cycles })) c l hw
          have hcl := State.updCluster_same ((s.updEntry e (fun z => { z with state := .issued, phase := 1, startFc := s.fe.cycles })).swapIn c l) c
            (fun z => { z with shadow := x.shadow }) (State.swapIn_wf c l hw)
          have hentry := State.swapIn_entry (s := s.updEntry e (fun z => { z with state := .issued, phase := 1, startFc := s.fe.cycles })) c l
          rw [show l.entry = e from rfl, State.updEntry_same, he] at hentry
          rw [State.windowsGo_none (List.map_eq_nil_iff.mp hkeys)]
          exact ⟨(congrArg (fun z : Cluster => z.active.map (fun m => m.entry)) hcl).trans hactive, (congrArg Cluster.chainNext hcl).trans hnext,
            (congrArg Cluster.shadow hcl).trans rfl, (congrArg Cluster.bank hcl).trans hbank, congrArg (Option.map (fun z : Entry => (z.state, z.place))) hentry⟩
      · rw [hheld, hdump, show (s.cluster c).switch = none from hsw]
        unfold Cluster.canStart at hstart
        rw [hsw] at hstart
        exact (Bool.and_true _).trans ((Bool.and_true _).trans hstart)
    · rw [if_neg (by simp [hrep]), if_neg (by simp [hfailed]), if_neg (by simp [hready]), if_neg (by simp [hheld])] at hrun
      exact hrun
  · intro run yields
    have hrun : run = run := rfl
    conv_rhs at hrun =>
      unfold run
      rw [exec, execPreemptStop, show (s.cluster c).switch = some w from hsw]
      dsimp only
      rw [if_neg (by rw [hph, show (s.cluster c).link = .active from hlink]; decide)]
    refine ⟨fun l hact hsup hpre => ?_, fun l hact hstop hreached hops hsigs hsync => ?_, fun hact hchain hops hsync => ?_⟩
    · rw [show (s.cluster c).active = some l from hact] at hrun
      dsimp only at hrun
      rw [if_pos ?_] at hrun
      · exact ⟨_, hrun, State.updCluster_same s c _ hw, rfl⟩
      · rw [hsup, show (s.cluster c).preempt = false from hpre]
        rfl
    · rw [show (s.cluster c).active = some l from hact] at hrun
      dsimp only at hrun
      rw [if_neg ?_, if_pos ?_] at hrun
      · obtain ⟨f, hf, hcharged⟩ := State.charge_cluster (s := s) c hw
        have hcl := (State.updCluster_same (s.charge c) c Cluster.asksYield (State.charge_wf c hw)).trans (congrArg Cluster.asksYield hcharged)
        refine ⟨(s.charge c).updCluster c Cluster.asksYield, hrun, ⟨?_, congrArg Cluster.sync hcl, ?_, fun d hd => ?_⟩, ?_⟩
        · exact (congrArg Cluster.switch hcl).trans (congrArg (Option.map _) hsw)
        · refine (congrArg (fun z : Cluster => z.active.map (fun m => (m.entry, m.halted))) hcl).trans ?_
          exact active_halted _ hf
        · exact (State.updCluster_other _ _ hd).trans (State.charge_other s hd)
        · rw [State.charge_frame]
          rfl
      · rw [show (s.cluster c).ops = [] from hops, show (s.cluster c).sigs = [] from hsigs, decide_eq_true (show (s.cluster c).sync.length < 4 from hsync)]
        simpa using hreached
      · have hstop' : (s.cluster c).preempt = true ∨ w.suppressed = true := hstop
        obtain h | h := hstop' <;> simp [h]
    · rw [show (s.cluster c).active = none from hact, show (s.cluster c).chainNext = none from hchain] at hrun
      dsimp only [Option.bind] at hrun
      rw [if_neg (by simp), if_pos ?_, State.keepChain_none hchain] at hrun
      · have hcl := State.updCluster_same s c Cluster.asksYield hw
        refine ⟨s.updCluster c Cluster.asksYield, hrun, ⟨?_, congrArg Cluster.sync hcl, ?_, fun d hd => State.updCluster_other s _ hd⟩, rfl⟩
        · exact (congrArg Cluster.switch hcl).trans (congrArg (Option.map _) hsw)
        · refine (congrArg (fun z : Cluster => z.active.map (fun m => (m.entry, m.halted))) hcl).trans ?_
          exact (congrArg (fun o : Option Launch => (o.map (fun l => { l with halted := true })).map (fun m => (m.entry, m.halted))) Option.map_id'.symm).trans
            (active_halted x.active (f := fun l => l) fun _ => rfl)
      · rw [show (s.cluster c).ops = [] from hops, decide_eq_true (show (s.cluster c).sync.length < 4 from hsync)]
        rfl

end

namespace Sys2Proof.Machine

section
variable {s : State}

/-! ## Data that is lost leaves the Deck's rows and holds alone (R403, R404)

Each operation here reaches the contexts, entries, queues, Blazes and processors that the data belonged to, none the Deck. -/

theorem State.blazeUpdate_dck (n : BitVec 16) (u : BlazeUp) : (s.blazeUpdate n u).dck = s.dck := State.blazeUpdate_notes.dck

theorem State.teardown_dck (c : BitVec 20) (st : BitVec 8) : (s.teardown c st).dck = s.dck := State.teardown_notes.dck

theorem State.mbxDone_dck (m st : BitVec 8) (resp : W512) : (s.mbxDone m st resp).dck = s.dck := State.mbxDone_notes.dck

theorem State.failProc_dck (p : Nat) (cause : BitVec 4) : (s.failProc p cause).dck = s.dck := State.failProc_noted.dck.trans (State.raise_dck ..)

theorem State.fetchPages_dck (l : Launch) : (s.fetchPages l).dck = s.dck := congrArg (fun p => p.2.2.1) (State.fetchPages_panel (s := s) l)

theorem State.each_dck {α : Type} {l : List α} {f : State → α → State} (hf : ∀ (s : State) a, (f s a).dck = s.dck) : (s.each l f).dck = s.dck :=
  State.each_keeps State.dck s l f hf

theorem State.each_teardown_dck {α : Type} {l : List α} {k : α → BitVec 20} {st : BitVec 8} : (s.each l (fun s a => s.teardown (k a) st)).dck = s.dck :=
  State.each_dck fun _ _ => State.teardown_dck ..

theorem State.each_report_dck {α : Type} {l : List α} {e : α → Nat} {st : BitVec 8} {p : Bool} : (s.each l (fun s a => s.report (e a) st p)).dck = s.dck :=
  State.each_dck fun _ _ => rfl

theorem State.clearFor_dck (c : BitVec 6) : (s.clearFor c).dck = s.dck := rfl

theorem State.tryEnable_dck (c : BitVec 6) : (s.tryEnable c).dck = s.dck := by
  unfold State.tryEnable
  extract_lets x
  split
  · split
    · split
      · rfl
      · split <;> rfl
    · rfl
  · rfl

theorem State.restoreFailed_dck (c : BitVec 6) (st : BitVec 8) : (s.restoreFailed c st).dck = s.dck := by
  unfold State.restoreFailed
  extract_lets x t
  have ht : t.dck = s.dck := rfl
  split
  · exact (State.tryEnable_dck ..).trans ((State.teardown_dck ..).trans ht)
  · exact (State.tryEnable_dck ..).trans ht

theorem State.loseChannel_dck (c : BitVec 6) (row : Nat) : (s.loseChannel c row).1.dck = s.dck := by
  unfold State.loseChannel
  extract_lets x
  split
  · dsimp only
    split <;> rfl
  · split
    · exact State.restoreFailed_dck ..
    · rfl

theorem State.loseStaging_dck (engine off : Nat) : (s.loseStaging engine off).1.dck = s.dck := by
  unfold State.loseStaging
  extract_lets row c l at_ second t
  split
  · split
    · exact State.loseChannel_dck ..
    · rfl
  · split <;> rfl

theorem State.loseGraph_dck (row : Nat) : (s.loseGraph row).1.dck = s.dck := by
  unfold State.loseGraph
  extract_lets i t gs
  split
  · rfl
  · extract_lets k n l u open_ v hit w
    split
    · rfl
    · have hu : u.dck = s.dck := State.each_report_dck
      have hv : v.dck = s.dck := (State.each_keeps State.dck u open_ _ fun _ _ => State.updEntry_dck ..).trans hu
      have hw : w.dck = s.dck := hv
      dsimp only
      split
      · exact (State.teardown_dck ..).trans hw
      · exact hw

theorem State.loseShared_dck (row : Nat) : (s.loseShared row).1.dck = s.dck := by
  unfold State.loseShared
  extract_lets x t p r m
  split
  · rfl
  · rfl
  · split
    · rfl
    · exact State.teardown_dck ..
  · split
    · exact State.mbxDone_dck ..
    · rfl
  · split
    · rfl
    · exact State.failProc_dck ..

theorem State.pageLost_dck (p : Nat) : (s.pageLost p).dck = s.dck := (State.each_dck fun _ _ => State.fetchPages_dck _).trans rfl

theorem State.obtainCopy_dck (e : Nat) (x : Entry) : (s.obtainCopy e x).dck = s.dck := by rw [State.obtainCopy_frame]

theorem State.dropCopy_dck (k : OpCopy) : (s.dropCopy k).dck = s.dck := (State.each_dck fun _ _ => State.obtainCopy_dck ..).trans rfl

theorem State.loseData_dck (region off : Nat) : (s.loseData region off).1.dck = s.dck := by
  unfold State.loseData
  extract_lets row
  split
  · exact State.each_teardown_dck
  split
  · exact State.each_teardown_dck.trans State.each_report_dck
  split
  · exact State.each_dck fun _ _ => State.blazeUpdate_dck ..
  split
  · exact State.each_dck fun _ _ => State.teardown_dck ..
  split
  · rfl
  split
  · split
    · exact State.pageLost_dck _
    · dsimp only
      split
      · exact State.dropCopy_dck _
      · rfl
    · rfl
  split
  · exact State.loseStaging_dck ..
  split
  · exact State.loseGraph_dck _
  split
  · exact State.loseShared_dck _
  · rfl

/-- The rows that are lost and the stripes that are held (R394, R404). -/
def State.rows (s : State) : List (Nat × Nat) × List DeckHold := (s.dck.lostRows, s.dck.holds)

theorem State.logLost_logs (bank row region : Nat) (k : Option (BitVec 20)) :
    ∃ w, s.logLost bank row region k = State.raise { s with dck := { s.dck with errLog := w } } 0x002 := ⟨_, rfl⟩

theorem State.logLost_rows (bank row region : Nat) (k : Option (BitVec 20)) : (s.logLost bank row region k).rows = s.rows := by
  obtain ⟨w, hw⟩ := State.logLost_logs (s := s) bank row region k
  rw [hw, State.rows, State.raise_dck]
  rfl

theorem State.readLost_rows (bank row : Nat) : (s.readLost bank row).rows = s.rows := by
  unfold State.readLost
  split
  · rfl
  · extract_lets r t
    exact (State.logLost_rows ..).trans (congrArg (fun d : Dck => (d.lostRows, d.holds)) (State.loseData_dck ..))

theorem State.countWords_rows (bank n : Nat) : (s.countWords bank n).rows = s.rows := State.each_keeps State.rows _ _ _ fun _ _ => rfl

theorem State.countRebuild_rows (bank : Nat) : (s.countRebuild bank).rows = s.rows := by
  unfold State.countRebuild
  extract_lets n t
  split
  · rw [State.rows, State.raise_dck]
    rfl
  · rfl

/-! ## Rows that fail beside others (R402, R403) -/

theorem State.badBeside_none {bank row : Nat} {second : Option (BitVec 3)} (h : ∀ j, j / 8 = bank / 8 → j ≠ bank →
    second.map (·.toNat) ≠ some (j % 8) ∧ s.dck.failed.getLsbD j = false ∧ s.dck.lostRows.contains (j, row) = false) : s.badBeside bank row second = none := by
  refine List.find?_eq_none.mpr fun j hj => ?_
  obtain ⟨i, hi, rfl⟩ := List.mem_map.mp hj
  have hi := List.mem_range.mp hi
  by_cases hb : 8 * (bank / 8) + i = bank
  · simp [hb]
  · obtain ⟨hsecond, hfailed, hlost⟩ := h (8 * (bank / 8) + i) (by omega) hb
    simp only [hfailed, hlost, decide_eq_false hsecond, Bool.or_false, Bool.and_false]
    exact Bool.false_ne_true

theorem State.badBeside_some {bank row : Nat} {j : BitVec 3} (h : 8 * (bank / 8) + j.toNat ≠ bank) : ∃ k, s.badBeside bank row (some j) = some k := by
  refine Option.isSome_iff_exists.mp (List.find?_isSome.mpr ⟨8 * (bank / 8) + j.toNat, List.mem_map.mpr ⟨j.toNat, List.mem_range.mpr j.isLt, rfl⟩, ?_⟩)
  have hj : (8 * (bank / 8) + j.toNat) % 8 = j.toNat := by
    have := j.isLt
    omega
  simp [h, hj]

theorem State.markLost_lost (bank row : Nat) : (bank, row) ∈ (s.markLost bank row).dck.lostRows ∧ (s.markLost bank row).dck.holds = s.dck.holds := by
  unfold State.markLost
  split
  · next h => exact ⟨by simpa using h, rfl⟩
  · exact ⟨List.mem_append_right _ List.mem_cons_self, rfl⟩

theorem State.markLost_keeps {bank row : Nat} {x : Nat × Nat} (h : x ∈ s.dck.lostRows) : x ∈ (s.markLost bank row).dck.lostRows := by
  unfold State.markLost
  split
  · exact h
  · exact List.mem_append_left _ h

/-- A row that is lost with another stays lost, and nothing is held yet (R403). -/
theorem State.loseRow_keeps {bank row : Nat} {x : Nat × Nat} (h : x ∈ s.dck.lostRows) :
    x ∈ (s.loseRow bank row).dck.lostRows ∧ (s.loseRow bank row).dck.holds = s.dck.holds := by
  unfold State.loseRow
  split
  · exact ⟨h, rfl⟩
  · obtain ⟨hlost, hholds⟩ := Prod.mk.inj (State.logLost_rows (s := s.markLost bank row) bank row (s.build.rowRegion bank row).1 none)
    exact ⟨hlost ▸ State.markLost_keeps h, hholds.trans (State.markLost_lost bank row).2⟩

/-- A read that is rebuilt from the other rows leaves the rows and holds as they are; one with another bad row loses both (R402, R403). -/
theorem State.rebuildRow_rebuilds {bank row words : Nat} {second : Option (BitVec 3)} (h : (s.countWords bank words).badBeside bank row second = none) :
    (s.rebuildRow bank row words second).2 = false ∧ (s.rebuildRow bank row words second).1.rows = s.rows := by
  unfold State.rebuildRow
  extract_lets t
  rw [show t.badBeside bank row second = none from h]
  refine ⟨rfl, ?_⟩
  dsimp only
  split
  · exact State.countWords_rows ..
  · exact (State.countRebuild_rows _).trans (State.countWords_rows ..)

theorem State.rebuildRow_loses {bank row words k : Nat} {second : Option (BitVec 3)} (h : (s.countWords bank words).badBeside bank row second = some k) :
    (s.rebuildRow bank row words second).2 = true ∧ (bank, row) ∈ (s.rebuildRow bank row words second).1.dck.lostRows ∧
      (s.rebuildRow bank row words second).1.dck.holds = s.dck.holds := by
  unfold State.rebuildRow
  extract_lets t
  rw [show t.badBeside bank row second = some k from h]
  obtain ⟨hmem, hholds⟩ := State.markLost_lost (s := t) bank row
  obtain ⟨hkeeps, hsame⟩ := State.loseRow_keeps (bank := k) (row := row) hmem
  exact ⟨rfl, hkeeps, hsame.trans (hholds.trans (congrArg Prod.snd (State.countWords_rows (s := s) bank words)))⟩

/-- The rows and holds say what lies beside a row. -/
theorem State.countWords_badBeside (bank words row : Nat) (second : Option (BitVec 3)) (j : Nat) :
    (s.countWords j words).badBeside bank row second = s.badBeside bank row second := by
  have h : (s.countWords j words).dck = s.dck := State.each_keeps State.dck _ _ _ fun _ _ => rfl
  rw [State.badBeside, h]
  rfl

theorem State.mendRows_mem {l : List (Nat × Nat)} (x : Nat × Nat) : x ∈ (s.mendRows l).dck.lostRows ↔ x ∈ s.dck.lostRows ∧ x ∉ l := by
  simp [State.mendRows, List.mem_filter]

theorem State.begunAccess_found {bank row : Nat} {h : DeckHold} (hfind : s.dck.holds.find? (fun h => h.group = bank / 8 && h.stripe = row) = some h) :
    s.begunAccess bank row = if h.left ≤ 1 then State.mendRows { s with dck := { s.dck with holds := s.dck.holds.erase h } } h.mends
      else { s with dck := { s.dck with holds := { h with left := h.left - 1 } :: s.dck.holds.erase h } } := by
  rw [State.begunAccess, hfind]

/-- The accesses that a read of a bank in service costs (R394, R402). -/
def readCost : RowEcc → Nat
  | .uncorrectable _ _ _ => 8
  | _ => 1

theorem Dck.cost_read {d : Dck} {bank : Nat} {r : DeckReq} {ecc : RowEcc} (hop : r.op = .read) (hfailed : d.failed.getLsbD bank = false) :
    d.cost bank r ecc = readCost ecc := by
  unfold Dck.cost
  rw [hop]
  dsimp only
  rw [hfailed]
  cases ecc <;> rfl

section
variable {bank row : Nat} (hlost : s.dck.lostRows.contains (bank, row) = false) (hfailed : s.dck.failed.getLsbD bank = false)
include hlost hfailed

theorem State.readRow_clean : s.readRow bank row .clean = (s, false) := by
  unfold State.readRow
  rw [if_neg (Bool.eq_false_iff.mp hlost), hfailed]

theorem State.readRow_corrected {m : Nat} : s.readRow bank row (.corrected m) = (s.countWords bank m, false) := by
  unfold State.readRow
  rw [if_neg (Bool.eq_false_iff.mp hlost), hfailed]

theorem State.readRow_uncorrectable {first : BitVec 3} {m : Nat} {second : Option (BitVec 3)} :
    s.readRow bank row (.uncorrectable first m second) = s.rebuildRow bank row m second := by
  unfold State.readRow
  rw [if_neg (Bool.eq_false_iff.mp hlost), hfailed]

end

/-- What is lost when a read finds its row lost: a scrub logs it, another read loses the data (R404, R405). -/
def State.foundLost (s : State) (bank row : Nat) (scrub : Bool) : State :=
  if scrub then s.logLost bank row (s.build.rowRegion bank row).1 none else s.readLost bank row

theorem State.foundLost_rows (bank row : Nat) (scrub : Bool) : (s.foundLost bank row scrub).rows = s.rows := by
  unfold State.foundLost
  split
  · exact State.logLost_rows ..
  · exact State.readLost_rows ..

section
variable {bank row n : Nat} {scrub : Bool} {ecc : RowEcc} {t : State}

theorem State.deckRead_one (hn : n = 1) (h : s.readRow bank row ecc = (t, false)) : s.deckRead bank row n scrub ecc = t := by
  rw [State.deckRead, h, hn]
  rfl

theorem State.deckRead_lost (hn : n = 1) (h : s.readRow bank row ecc = (t, true)) : s.deckRead bank row n scrub ecc = t.foundLost bank row scrub := by
  rw [State.deckRead, h, hn]
  rfl

/-- A read that is rebuilt holds its stripe, and takes no other row or hold away. -/
theorem State.deckRead_held (hn : n = 8) {p : State × Bool} (h : s.readRow bank row ecc = p) :
    (s.deckRead bank row n scrub ecc).rows = (p.1.dck.lostRows, p.1.dck.holds ++ [⟨bank / 8, row, n - 1, []⟩]) := by
  obtain ⟨t, b⟩ := p
  rw [State.deckRead, h, hn]
  cases b with
  | false => rfl
  | true => exact State.foundLost_rows ..

end

/-- A scrub of a row that it cannot read, has lost already or reads without error changes nothing (R405). -/
theorem State.scrubRow_plain {bank row : Nat} {ecc : RowEcc} (h : s.dck.failed.getLsbD bank = true ∨ s.dck.open_.getLsbD (bank / 8) = false ∨
    s.dck.lostRows.contains (bank, row) = true ∨ ecc = .clean) : (s.scrubRow bank row ecc).1 = s := by
  unfold State.scrubRow
  dsimp only
  by_cases hskip : (s.dck.failed.getLsbD bank || !s.dck.open_.getLsbD (bank / 8) || s.dck.lostRows.contains (bank, row)) = true
  · rw [if_pos hskip]
  · rw [if_neg hskip]
    simp only [Bool.or_eq_true, not_or, Bool.not_eq_true, Bool.not_eq_true'] at hskip
    obtain ⟨⟨hfailed, hopen⟩, hlost⟩ := hskip
    have hclean : ecc = .clean := by
      obtain h | h | h | h := h
      · exact absurd (hfailed.symm.trans h) Bool.false_ne_true
      · exact absurd h hopen
      · exact absurd (hlost.symm.trans h) Bool.false_ne_true
      · exact h
    subst hclean
    rw [State.readRow_clean hlost hfailed]
    rfl

/-! ## Late writes (R407) -/

/-- What a late write of a stream does once it is logged. -/
def State.lateStream (s : State) (key : Nat) (k : BitVec 20) : State :=
  match s.stream key with
  | none => s
  | some x => if x.ctx = k then (s.updStream key (fun x => { x with fail := some (x.fail.getD 0x08) })).settleStream key else s

/-- What a late write of a save or of a restore does once it is logged. -/
def State.lateSwitch (s : State) (c : BitVec 6) (k : BitVec 20) : State :=
  match s.savedSlice c k with
  | some i => s.saveFailed k i 0x08
  | none => if (s.cluster c).restores_ k then s.restoreFailed c 0x08 else s

theorem State.lateStream_none {key : Nat} {k : BitVec 20} (h : s.stream key = none) : s.lateStream key k = s := by
  rw [State.lateStream, h]

theorem State.lateStream_fails {key : Nat} {k : BitVec 20} {x : Stream} (h : s.stream key = some x) (hctx : x.ctx = k) :
    s.lateStream key k = (s.updStream key (fun x => { x with fail := some (x.fail.getD 0x08) })).settleStream key := by
  rw [State.lateStream, h]
  exact if_pos hctx

/-- A stream with chunks in hand goes on. -/
theorem State.settleStream_busy {key : Nat} {x : Stream} (h : s.stream key = some x) (hchunks : x.chunks ≠ []) : s.settleStream key = s := by
  rw [State.settleStream, h]
  exact if_pos (by simpa using hchunks)

theorem State.lateLog_frame (k : BitVec 20) (group : BitVec 4) (gen : BitVec 8) (e : Nat) :
    s.lateLog k group gen e = { s with dck := { s.dck with lateLog := (s.lateLog k group gen e).dck.lateLog } } := rfl

/-- The fields of a word of the late-write log (R407). -/
theorem bits_lateWord {a b d e m : Nat} (hb : b < 2 ^ 4) (hd : d < 2 ^ 8) (he : e < 64) (hm : m < 2 ^ 20) {w : W64}
    (hw : w.toNat = a * 2 ^ 44 + b * 2 ^ 40 + d * 2 ^ 32 + e * 2 ^ 26 + m) : bits w 19 0 = m ∧ bits w 63 44 = a ∧ bits w 43 40 = b ∧ bits w 39 32 = d := by
  simp only [bits, hw, Nat.shiftRight_eq_div_pow]
  refine ⟨?_, ?_, ?_, ?_⟩ <;> omega

theorem State.lateLog_word (k : BitVec 20) (group : BitVec 4) (gen : BitVec 8) {e : Nat} (h : e < 64) : (s.lateLog k group gen e).dck.lateLog.toNat
    = k.toNat * 2 ^ 44 + group.toNat * 2 ^ 40 + gen.toNat * 2 ^ 32 + e * 2 ^ 26 + (s.dck.lateLog.toNat + 1) % 2 ^ 20 := by
  have hk := k.isLt
  have hg := group.isLt
  have hn := gen.isLt
  refine (BitVec.toNat_ofNat ..).trans (Nat.mod_eq_of_lt ?_)
  omega

theorem State.lateLog_logs (k : BitVec 20) (group : BitVec 4) (gen : BitVec 8) {e : Nat} (h : e < 64) :
    bits (s.lateLog k group gen e).dck.lateLog 19 0 = (s.dck.lateLog.toNat + 1) % 2 ^ 20 ∧ bits (s.lateLog k group gen e).dck.lateLog 63 44 = k.toNat ∧
      bits (s.lateLog k group gen e).dck.lateLog 43 40 = group.toNat ∧ bits (s.lateLog k group gen e).dck.lateLog 39 32 = gen.toNat :=
  bits_lateWord group.isLt gen.isLt h (Nat.mod_lt _ (by decide)) (State.lateLog_word k group gen h)

section
variable {group : BitVec 4} {gen : BitVec 8} {k : BitVec 20} (hgroup : group.toNat < s.build.deckGroups) (hgen : tget 0 s.dck.gens group.toNat ≠ gen)
include hgroup hgen

theorem not_lateSkipped : ¬(s.build.deckGroups ≤ group.toNat || decide (tget 0 s.dck.gens group.toNat = gen)) = true := by
  rw [decide_eq_false (Nat.not_le.mpr hgroup), decide_eq_false hgen]
  decide

theorem exec_lateWrite_stream (engine : BitVec 4) (slot : BitVec 6) :
    exec (.lateWrite group gen ⟨.stream engine slot, k⟩) s = .next ((s.lateLog k group gen engine.toNat).lateStream (64 * engine.toNat + slot.toNat) k) := by
  unfold exec execLateWrite
  dsimp only
  rw [if_neg (not_lateSkipped hgroup hgen)]
  rfl

theorem exec_lateWrite_save (c : BitVec 6) :
    exec (.lateWrite group gen ⟨.save c, k⟩) s = .next ((s.lateLog k group gen (c.toNat % s.build.haulEngines)).lateSwitch c k) := by
  unfold exec execLateWrite
  dsimp only
  rw [if_neg (not_lateSkipped hgroup hgen)]
  rfl

end

/-! ## An access that is granted (R394, R395) -/

/-- The access of a granted request in an open bank. -/
def State.accessGranted (s : State) (k : Nat) (r : DeckReq) (ecc : RowEcc) : State :=
  let row := r.row.toNat
  let n := s.dck.cost k r ecc
  match r.kind, r.op with
  | .begun, _ => s.begunAccess k row
  | kind, .read => State.deckRead { s with dck := { s.dck with lastGrant := (k, row, n) } } k row n (kind = .scrub) ecc
  | _, .write rows whole => State.deckWrite { s with dck := { s.dck with lastGrant := (k, row, n) } } k row n rows whole ecc

section
variable {bank : BitVec 7} {reqs : List DeckReq} {ecc : RowEcc} {r : DeckReq} (hgrant : s.dck.grant bank.toNat reqs = some r)
include hgrant

theorem exec_deckRowAccess_closed (h : ¬(bank.toNat / 8 < s.build.deckGroups ∧ s.dck.ready = true ∧ s.dck.open_.getLsbD (bank.toNat / 8) = true)) :
    exec (.deckRowAccess bank reqs ecc) s = .next s := by
  rw [exec, execDeckRowAccess]
  dsimp only
  rw [hgrant]
  refine congrArg Host.Outcome.next (if_pos ?_)
  by_cases hgroup : bank.toNat / 8 < s.build.deckGroups
  · cases hready : s.dck.ready with
    | false => simp
    | true => simpa [Nat.not_le.mpr hgroup, hgroup, hready] using h
  · simp [Nat.not_lt.mp hgroup]

variable (hopen : bank.toNat / 8 < s.build.deckGroups ∧ s.dck.ready = true ∧ s.dck.open_.getLsbD (bank.toNat / 8) = true)
include hopen

theorem exec_deckRowAccess_open : exec (.deckRowAccess bank reqs ecc) s = .next (s.accessGranted bank.toNat r ecc) := by
  obtain ⟨hgroup, hready, hopen⟩ := hopen
  rw [exec, execDeckRowAccess]
  dsimp only
  rw [hgrant]
  exact congrArg Host.Outcome.next (if_neg (by rw [decide_eq_false (Nat.not_le.mpr hgroup), hready, hopen]; decide))

theorem exec_deckRowAccess_begun (h : r.kind = .begun) : exec (.deckRowAccess bank reqs ecc) s = .next (s.begunAccess bank.toNat r.row.toNat) := by
  rw [exec_deckRowAccess_open hgrant hopen, State.accessGranted, h]

theorem exec_deckRowAccess_read (h : r.kind ≠ .begun) (hop : r.op = .read) : exec (.deckRowAccess bank reqs ecc) s
    = .next (State.deckRead { s with dck := { s.dck with lastGrant := (bank.toNat, r.row.toNat, s.dck.cost bank.toNat r ecc) } } bank.toNat r.row.toNat
      (s.dck.cost bank.toNat r ecc) (r.kind = .scrub) ecc) := by
  rw [exec_deckRowAccess_open hgrant hopen, State.accessGranted, hop]
  cases hk : r.kind with
  | begun => exact absurd hk h
  | _ => rfl

theorem exec_deckRowAccess_write {rows : BitVec 7} {whole : Bool} (h : r.kind ≠ .begun) (hop : r.op = .write rows whole) : exec (.deckRowAccess bank reqs ecc) s
    = .next (State.deckWrite { s with dck := { s.dck with lastGrant := (bank.toNat, r.row.toNat, s.dck.cost bank.toNat r ecc) } } bank.toNat r.row.toNat
      (s.dck.cost bank.toNat r ecc) rows whole ecc) := by
  rw [exec_deckRowAccess_open hgrant hopen, State.accessGranted, hop]
  cases hk : r.kind with
  | begun => exact absurd hk h
  | _ => rfl

end

end

end Sys2Proof.Machine

section
open Sys2Proof Sys2Proof.Machine

/-- Settles O55: an access does what its request and the codes ask, and what data is lost with two bad rows takes no row and no hold back. -/
theorem deckBanksAndScrubbing : Obligations.DeckBanksAndScrubbing := by
  intro s hI
  refine ⟨fun bank reqs ecc r hgrant => ?_, fun bank reqs ecc hnone => ?_, fun ecc => ?_, fun group gen k hgroup => ?_⟩
  · intro k row isOpen sound run n got held
    refine ⟨fun hclosed => exec_deckRowAccess_closed hgrant hclosed, fun hopen hkind rows whole hop => ?_, fun hopen hkind h hfind => ?_, fun hopen hkind hop => ?_⟩
    · have hrun : run = .next (got.deckWrite k row n rows whole ecc) := exec_deckRowAccess_write hgrant hopen hkind hop
      intro l
      refine ⟨fun hlen hwhole => ⟨_, hrun.trans (congrArg Host.Outcome.next (if_pos ?_)), fun x => State.mendRows_mem x, rfl⟩, fun hpart hclean => ?_⟩
      · exact (Bool.and_eq_true ..).mpr ⟨decide_eq_true hlen, hwhole⟩
      · refine ⟨_, hrun.trans (congrArg Host.Outcome.next (if_neg ?_)), ?_, ?_⟩
        · exact fun h => hpart (((Bool.and_eq_true ..).mp h).imp_left of_decide_eq_true)
        · rw [hclean]
          rfl
        · rw [hclean]
          rfl
    · have hrun : run = .next (s.begunAccess k row) := exec_deckRowAccess_begun hgrant hopen hkind
      rw [State.begunAccess_found hfind] at hrun
      refine ⟨_, hrun, fun hmore => if_neg (by omega), fun hlast => ?_⟩
      rw [if_pos hlast]
      exact ⟨rfl, fun x => State.mendRows_mem x, rfl⟩
    · have hrun : run = .next (got.deckRead k row n (r.kind = .scrub) ecc) := exec_deckRowAccess_read hgrant hopen hkind hop
      have hcost {e : RowEcc} (hecc : ecc = e) (hsound : sound) : n = readCost e := (Dck.cost_read hop hsound.2).trans (congrArg readCost hecc)
      refine ⟨fun hsound hclean => ?_, fun m hsound hecc => ?_, fun first m second hsound hecc hbeside => ?_, fun first m j hsound hecc hne => ?_,
        fun hlost hfailed hclean => ?_⟩
      · subst hclean
        exact hrun.trans (congrArg Host.Outcome.next (State.deckRead_one (hcost rfl hsound) (State.readRow_clean hsound.1 hsound.2)))
      · subst hecc
        exact hrun.trans (congrArg Host.Outcome.next (State.deckRead_one (hcost rfl hsound) (State.readRow_corrected (s := got) hsound.1 hsound.2)))
      · subst hecc
        have hn : n = 8 := hcost rfl hsound
        obtain ⟨hkept, hrows⟩ := State.rebuildRow_rebuilds (s := got) (bank := k) (row := row) (words := m) (second := second)
          ((State.countWords_badBeside ..).trans (State.badBeside_none hbeside))
        have hheld := State.deckRead_held (s := got) (scrub := decide (r.kind = .scrub)) hn (State.readRow_uncorrectable (s := got) (first := first) (m := m) (second := second) hsound.1 hsound.2)
        obtain ⟨hlost, hholds⟩ := Prod.mk.inj hheld
        obtain ⟨hlost', hholds'⟩ := Prod.mk.inj hrows
        exact ⟨_, hrun, hlost.trans hlost', hholds.trans (congrArg (· ++ [held []]) hholds'), hn⟩
      · subst hecc
        have hn : n = 8 := hcost rfl hsound
        obtain ⟨b, hb⟩ := State.badBeside_some (s := got) (row := row) hne
        obtain ⟨-, hmem, hholds'⟩ := State.rebuildRow_loses (s := got) (bank := k) (row := row) (words := m) (second := some j)
          ((State.countWords_badBeside ..).trans hb)
        have hheld := State.deckRead_held (s := got) (scrub := decide (r.kind = .scrub)) hn (State.readRow_uncorrectable (s := got) (first := first) (m := m) (second := some j) hsound.1 hsound.2)
        obtain ⟨hlost, hholds⟩ := Prod.mk.inj hheld
        exact ⟨_, hrun, hlost ▸ hmem, hholds.trans (congrArg (· ++ [held []]) hholds')⟩
      · subst hclean
        have hn : n = 1 := Dck.cost_read hop hfailed
        refine hrun.trans (congrArg Host.Outcome.next ((State.deckRead_lost (s := got) hn (if_pos hlost)).trans ?_))
        unfold State.foundLost
        simp only [decide_eq_true_eq]
        rfl
  · rw [exec, execDeckRowAccess]
    dsimp only
    rw [hnone]
  · intro d n due bank next
    have hcond : (s.dck.passLog2 = 0 || !s.dck.ready || decide (s.fc < s.dck.scrubFc + 2 ^ passLog s.dck.passLog2.toNat / s.build.deckRows)) = true ↔ ¬due := by
      show _ ↔ ¬(s.dck.passLog2 ≠ 0 ∧ s.dck.ready = true ∧ s.dck.scrubFc + 2 ^ passLog s.dck.passLog2.toNat / s.build.deckRows ≤ s.fc)
      generalize 2 ^ passLog s.dck.passLog2.toNat / s.build.deckRows = m
      rw [Bool.or_eq_true, Bool.or_eq_true, decide_eq_true_eq, decide_eq_true_eq, Bool.not_eq_true', ← Bool.not_eq_true, ← Nat.not_le]
      tauto
    refine ⟨fun hnot => congrArg Host.Outcome.next (if_pos (hcond.mpr hnot)), fun hdue hplain => ?_⟩
    refine congrArg Host.Outcome.next ((if_neg fun h => hcond.mp h hdue).trans ?_)
    dsimp only
    rw [State.scrubRow_plain hplain]
    show ({ s with dck := { d with scrubNext := next, scrubFc := s.fc, scrubbing := true, rebuilds := if next = 0 then (if next = 0 then [] else d.rebuilds) else d.rebuilds } } : State) = _
    split
    · rfl
    · rfl
  · intro logged
    refine ⟨fun hgen src => ?_, fun engine slot hgen => ?_, fun c hgen => ?_⟩
    · exact congrArg Host.Outcome.next (if_pos ((Bool.or_eq_true ..).mpr (.inr (decide_eq_true hgen))))
    · intro key run
      have hrun : run = .next ((s.lateLog k group gen engine.toNat).lateStream key k) := exec_lateWrite_stream hgroup hgen engine slot
      have hlog : logged (s.lateLog k group gen engine.toNat) := State.lateLog_logs k group gen (by omega)
      have hframe := State.lateLog_frame (s := s) k group gen engine.toNat
      generalize s.lateLog k group gen engine.toNat = u at hrun hlog hframe ⊢
      have hstreams : u.stream key = s.stream key := (congrArg (fun v : State => lget v.hau.streams key) hframe).trans rfl
      refine ⟨fun hnone => ⟨_, hrun.trans (congrArg Host.Outcome.next (State.lateStream_none (hstreams.trans hnone))), hlog, hframe⟩,
        fun x hx hctx hchunks => ?_, fun x hx hctx => ?_⟩
      · have hlate := State.lateStream_fails (hstreams.trans hx) hctx
        have hstream : (u.updStream key (fun y => { y with fail := some (y.fail.getD 0x08) })).stream key = some { x with fail := some (x.fail.getD 0x08) } := by
          rw [State.updStream_same, hstreams, hx]
          rfl
        refine ⟨_, hrun.trans (congrArg Host.Outcome.next (hlate.trans (State.settleStream_busy hstream hchunks))), hlog, hstream, ?_⟩
        obtain ⟨w, rfl⟩ : ∃ w, u = { s with dck := { s.dck with lateLog := w } } := ⟨_, hframe⟩
        rfl
      · exact hrun.trans (congrArg Host.Outcome.next (State.lateStream_fails (hstreams.trans hx) hctx))
    · intro run
      have hrun : run = .next ((s.lateLog k group gen (c.toNat % s.build.haulEngines)).lateSwitch c k) := exec_lateWrite_save hgroup hgen c
      have hlog : logged (s.lateLog k group gen (c.toNat % s.build.haulEngines)) :=
        State.lateLog_logs k group gen (Nat.lt_of_le_of_lt (Nat.mod_le ..) c.isLt)
      have hframe := State.lateLog_frame (s := s) k group gen (c.toNat % s.build.haulEngines)
      generalize s.lateLog k group gen (c.toNat % s.build.haulEngines) = u at hrun hlog hframe ⊢
      have hclusters : u.clusters = s.clusters := (congrArg State.clusters hframe).trans rfl
      have hmp : u.mp = s.mp := (congrArg State.mp hframe).trans rfl
      have hsaved : u.savedSlice c k = s.savedSlice c k := by
        unfold State.savedSlice State.cluster
        rw [hclusters, hmp]
      have hcluster : u.cluster c = s.cluster c := congrArg (fun t : Tbl Cluster => tget ({} : Cluster) t c.toNat) hclusters
      refine ⟨fun i hi => ?_, fun hnone hrest => ⟨_, ?_, hlog, hframe⟩⟩
      · rw [hrun, State.lateSwitch, hsaved.trans hi]
      · rw [hrun, State.lateSwitch, hsaved.trans hnone, hcluster]
        exact congrArg Host.Outcome.next (if_neg (Bool.eq_false_iff.mp hrest))

end

namespace Sys2Proof.Machine

/-! ## A Deck test that is issued while it runs (R549)

A block test is refused while another runs, but the refusal reads the running test's entry: where it is the entry's own, the
rows that the running test has found lost are forgotten with it. -/

theorem exec_selfTestDeck_again {s : State} {e : Nat} {x : Entry} (h : s.issues e x) (hkind : x.actKind = 0x29) (htarget : pf x.pkt 321 320 = 2)
    (hruns : s.fwc.selfTest = some e) : ∃ t, exec (.selfTestDeck (.execute e)) s = .next t ∧ t.dck.testLost = false := by
  have hblock : (s.issue e).blockTest e = (s.issue e).report e 0x02 false := by
    refine if_pos ?_
    show (decide ((s.issue e).userHeld ≠ 0) || s.fwc.selfTest.isSome) = true
    rw [hruns]
    exact Bool.or_true _
  refine ⟨{ (s.issue e).report e 0x02 false with dck := { s.dck with testLost := false } }, congrArg Host.Outcome.next ?_, rfl⟩
  refine (State.start_issues h hkind).trans ((if_pos htarget).trans ?_)
  dsimp only
  rw [hblock]
  exact if_pos hruns

/-- SELF_TEST with TARGET DECK, READY. -/
def readyDeckTest : Entry := { img := BitVec.ofNat 512 (0x29 * 2 ^ 136), pkt := BitVec.ofNat 2048 (2 * 2 ^ 320), state := .ready }

/-- The Deck test of entry 0 runs, has found a row lost, and is READY again. -/
def deckTestState : State :=
  { State.reset with
    lnd := { State.reset.lnd with entries := [(0, readyDeckTest)] }
    fwc := { State.reset.fwc with selfTest := some 0 }
    dck := { State.reset.dck with testLost := true } }

theorem deckTestState_inv : deckTestState.Inv := by
  have h := resetMeetsTheInvariant
  unfold Obligations.ResetMeetsTheInvariant at h
  obtain ⟨h, -⟩ := h
  exact { h with }

theorem deckTestState_issues : deckTestState.issues 0 readyDeckTest := ⟨rfl, rfl, rfl, by decide⟩

end Sys2Proof.Machine

section
open Sys2Proof Sys2Proof.Machine

/-- Refutes O46: the Deck test of entry 0 that is READY again while it runs is refused, but the row it had found lost is forgotten. -/
theorem not_invalidationsBlazeWritesAndSelfTests : ¬ Obligations.InvalidationsBlazeWritesAndSelfTests := by
  intro h
  obtain ⟨-, -, -, -, htest, -⟩ := h deckTestState 0 readyDeckTest deckTestState_inv
  obtain ⟨-, -, -, -, -, hdeck, -⟩ := htest deckTestState_issues (by decide +kernel)
  have htarget : pf readyDeckTest.pkt 321 320 = 2 := by decide +kernel
  obtain ⟨t, hrun, hlost⟩ := exec_selfTestDeck_again deckTestState_issues (by decide +kernel) htarget rfl
  have hrefused := hdeck htarget (.inr (by decide))
  rw [hrun] at hrefused
  have htrue : t.dck.testLost = true := congrArg (fun u : State => u.dck.testLost) (Host.Outcome.next.inj hrefused)
  exact absurd (hlost.symm.trans htrue) Bool.false_ne_true

end

namespace Sys2Proof.Machine

section
variable {s : State}

/-! ## A launch placed from a second record of its entry number (R268, R269)

Share placement goes over the Landing's records, and State.entry reads the first record of a number. A returned launch is
already ISSUED, so its placement moves every record of its number to the shadow bank and issues none. -/

theorem State.failLoaded_of_none_failed (f : Entry → Bool) (h : ∀ p ∈ s.lnd.entries, s.bindingFailed p.2 = none) : s.failLoaded f = s := by
  refine List.foldlRecOn (motive := fun u : State => u = s) _ _ rfl fun u hu p hp => ?_
  rw [hu, h p (List.mem_of_mem_filter hp)]

theorem State.beginSwitch_entries (c : BitVec 6) (cause : SwCause) (into : Option (BitVec 20)) (e : Option Nat) :
    (s.beginSwitch c cause into e).lnd = s.lnd := by
  unfold State.beginSwitch
  dsimp only
  split
  · rfl
  · exact State.trace_lnd ..

/-- A launch that is already ISSUED is moved, and keeps its state. -/
theorem State.place_entry_of_issued {c : BitVec 6} {e : Nat} {x : Entry} {share : Bool} (h : x.state = .issued) :
    ((s.place c e x share).entry e).map (fun y => y.state) = (s.entry e).map (fun y => y.state) := by
  have hmoved : ∀ f : Entry → Entry, (∀ y, (f y).state = y.state) →
      ((s.updEntry e f).entry e).map (fun y => y.state) = (s.entry e).map (fun y => y.state) := by
    intro f hf
    rw [State.updEntry_same, Option.map_map]
    exact congrFun (congrArg Option.map (funext hf)) _
  refine Eq.trans ?_ (hmoved (fun y => { y with place := .shadow c, phase := if y.kind = kChained then 1 else y.phase }) fun _ => rfl)
  unfold State.place
  rw [if_pos h]
  dsimp only
  split
  · exact congrArg (fun l => (lget l e).map (fun y => y.state)) (State.fetchPages_entries _)
  · exact congrArg (fun l => (lget l e).map (fun y => y.state))
      ((congrArg (fun n => n.entries) (State.beginSwitch_entries ..)).trans (State.fetchPages_entries _))

theorem State.placeShare_entry_of_issued {c : BitVec 6} {e : Nat} {x : Entry} (h : x.state = .issued) :
    ((s.placeShare c e x).entry e).map (fun y => y.state) = (s.entry e).map (fun y => y.state) := by
  unfold State.placeShare
  dsimp only
  split <;> exact State.place_entry_of_issued h

end

/-- A LAUNCH of an RT queue that was placed, has returned and keeps a LAUNCH slice. -/
def returnedLaunch : Entry := { img := BitVec.ofNat 512 (kLaunch * 2 ^ 136), cls := 1, state := .issued, place := .returned, slice := some 0 }

/-- Cluster 0 is free, context 0 is resident, and entry 0 has two records: one that is PENDING and a returned launch. -/
def twoRecordState : State :=
  { State.reset with
    ctxs := [(0, { state := .active, resident := true })]
    res := { State.reset.res with slots := [(0, { state := .resident })] }
    clusters := [(0, { inService := true })]
    yrd := { State.reset.yrd with groups := [(0, { weight := 0 })] }
    fwc := { State.reset.fwc with procs := [(3, { state := .running })] }
    lnd := { State.reset.lnd with
      entries := [(0, {}), (0, returnedLaunch)]
      bindings := [{ ctx := 0, program := 0, binding := 0, state := .ready }] } }

theorem twoRecordState_inv : twoRecordState.Inv := by
  have h := resetMeetsTheInvariant
  unfold Obligations.ResetMeetsTheInvariant at h
  obtain ⟨h, -⟩ := h
  exact { h with ctxs := by decide +kernel, clusters := by decide +kernel, slots := by decide +kernel, procs := by decide +kernel, groups := by decide +kernel }

theorem twoRecordState_failLoaded (f : Entry → Bool) : twoRecordState.failLoaded f = twoRecordState :=
  State.failLoaded_of_none_failed f (by decide +kernel)

theorem twoRecordState_shareFor : twoRecordState.shareFor 0 = [(0, returnedLaunch)] := by decide +kernel

/-- No group has credit. -/
theorem twoRecordState_roundPick (p : BitVec 3) (l : List (Nat × Entry)) : twoRecordState.roundPick p l = none := by
  refine List.findSome?_eq_none_iff.mpr fun g _ => if_neg ?_
  have hcredit : (tget {} twoRecordState.yrd.groups g).deficit = 0 := by
    show (if 0 = g then ({ weight := 0 } : ShareGroup) else {}).deficit = 0
    split <;> rfl
  rw [hcredit]
  exact Bool.eq_false_iff.mp (Bool.and_false _)

end Sys2Proof.Machine

section
open Sys2Proof Sys2Proof.Machine

/-- Refutes O50: with two records of entry 0, the returned launch that share placement takes is not the record that entry 0 reads, which stays PENDING. -/
theorem not_yarderPlacesDispatchesAndProbes : ¬ Obligations.YarderPlacesDispatchesAndProbes := by
  intro h
  obtain ⟨hshare, -⟩ := h twoRecordState 0 twoRecordState_inv (by decide +kernel)
  obtain ⟨-, -, hbyAge, -⟩ := hshare (by decide +kernel)
  rw [twoRecordState_failLoaded, twoRecordState_shareFor] at hbyAge
  obtain ⟨t, -, ht, -, hissued⟩ := hbyAge (twoRecordState_roundPick ..) (by decide +kernel) 0 returnedLaunch (by decide +kernel)
  have hstate := State.placeShare_entry_of_issued (s := twoRecordState) (c := 0) (e := 0) (x := returnedLaunch) rfl
  rw [← ht] at hstate
  have hfirst : (twoRecordState.entry 0).map (fun y => y.state) = some .pending := by decide +kernel
  rw [hfirst] at hstate
  have hmoved := congrArg (Option.map Prod.fst) hissued
  rw [Option.map_map] at hmoved
  exact absurd (hstate.symm.trans hmoved) (by decide)

end

namespace Sys2Proof.Machine

/-! ## The queue for line locks (R355)

Only a chunk whose translation has ended comes to wait for line locks. Reading and writing a chunk, its end, and the teardown, the
windows and the evictions that may follow let none in. -/

def State.NoNewLocks (s t : State) : Prop := ∀ p ∈ t.hau.lockQueue, p ∈ s.hau.lockQueue

section
variable {s t u : State}

theorem State.NoNewLocks.rfl : s.NoNewLocks s := fun _ h => h

theorem State.NoNewLocks.trans (h : s.NoNewLocks t) (h' : t.NoNewLocks u) : s.NoNewLocks u := fun p hp => h p (h' p hp)

theorem State.NoNewLocks.after (h' : t.NoNewLocks u) (h : s.NoNewLocks t) : s.NoNewLocks u := h.trans h'

theorem State.NoNewLocks.of_hau (h : t.hau = s.hau) : s.NoNewLocks t := fun p hp => by rwa [h] at hp

theorem State.NoNewLocks.of_panel (h : t.panel = s.panel) : s.NoNewLocks t := (State.Notes.of_panel h).locks

theorem State.NoNewLocks.ite {p : Prop} [Decidable p] (ht : s.NoNewLocks t) (hu : s.NoNewLocks u) : s.NoNewLocks (if p then t else u) := by
  split
  · exact ht
  · exact hu

theorem State.NoNewLocks.each {α : Type} {f : State → α → State} (hf : ∀ (s : State) a, s.NoNewLocks (f s a)) {l : List α} : s.NoNewLocks (s.each l f) := by
  induction l generalizing s with
  | nil => exact State.NoNewLocks.rfl
  | cons a l ih => exact (hf s a).trans ih

/-! ### Windows and evictions -/

theorem State.returnLaunch_hau (e : Nat) : (s.returnLaunch e).hau = s.hau := by
  unfold State.returnLaunch
  split
  · rfl
  · split
    · split
      · split <;> rfl
      · rfl
    · rfl

theorem State.withdrawShadow_hau (c : BitVec 6) : (s.withdrawShadow c).hau = s.hau := by
  unfold State.withdrawShadow
  split
  · rfl
  · exact State.returnLaunch_hau _

theorem State.beginSwitch_hau (c : BitVec 6) (cause : SwCause) (into : Option (BitVec 20)) (e : Option Nat) : (s.beginSwitch c cause into e).hau = s.hau := by
  unfold State.beginSwitch
  dsimp only
  split
  · rfl
  · exact State.trace_hau ..

theorem State.keepChain_hau (c : BitVec 6) : (s.keepChain c).hau = s.hau := by
  unfold State.keepChain
  split <;> rfl

theorem State.windowLoad_locks {n : Nat} {w : Window} {c : BitVec 6} {k : BitVec 20} : s.NoNewLocks (s.windowLoad n w c k) := by
  unfold State.windowLoad
  dsimp only
  split
  · exact .ite .rfl .rfl
  · refine .ite ?_ .rfl
    split
    · exact .rfl
    · refine .trans (t := State.fetchPages _ _) ?_ .rfl
      exact .after (.of_panel (State.fetchPages_panel ..)) .rfl

theorem State.windowGo_locks {n : Nat} : s.NoNewLocks (s.windowGo n) := by
  unfold State.windowGo
  split
  · exact .rfl
  · next w _ =>
    have hshadow : s.NoNewLocks (if (s.cluster (BitVec.ofNat 6 w.cluster)).shadowUntabled then s.withdrawShadow (BitVec.ofNat 6 w.cluster) else s) :=
      .ite (.of_hau (State.withdrawShadow_hau _)) .rfl
    refine .ite .rfl ?_
    split
    · exact .ite hshadow (.ite (.of_hau (State.withdrawShadow_hau _)) .rfl)
    · have hkeep := hshadow.trans (.of_hau (State.keepChain_hau (BitVec.ofNat 6 w.cluster)))
      refine .ite (.ite (.after State.windowLoad_locks hshadow) hshadow) ?_
      refine .ite (.after (.of_hau (State.beginSwitch_hau ..)) hshadow) ?_
      exact .ite (.after (.of_hau (State.beginSwitch_hau ..)) hkeep) (.after State.windowLoad_locks hkeep)

theorem State.windowsGo_locks : s.NoNewLocks s.windowsGo :=
  .ite .rfl (.each fun _ _ => State.windowGo_locks)

theorem State.beginLoad_locks {k : BitVec 20} {r : Nat} : s.NoNewLocks (s.beginLoad k r) :=
  .after (t := s.trace 1 procSched 0x0003 [k.toNat, r, 0, 0]) .rfl (.of_hau (State.trace_hau ..))

theorem State.startWaiting_locks : s.NoNewLocks s.startWaiting := by
  unfold State.startWaiting
  split
  · exact .after State.beginLoad_locks .rfl
  · exact .rfl

theorem State.freeResidency_locks {r : Nat} : s.NoNewLocks (s.freeResidency r) :=
  .after State.startWaiting_locks State.settle_notes.locks

theorem State.parkStreams_locks {k : BitVec 20} : s.NoNewLocks (s.parkStreams k) := .rfl

theorem State.evictStep_locks {r : Nat} : s.NoNewLocks (s.evictStep r) := by
  unfold State.evictStep
  refine .ite .rfl ?_
  refine .trans (.trans (.each fun u c => ?_) State.parkStreams_locks) (.ite .rfl (.ite (.of_hau (State.issueTxn_hau ..)) State.freeResidency_locks))
  refine .ite .rfl ?_
  split
  · exact .ite (.of_hau (State.withdrawShadow_hau _)) .rfl
  · exact .ite (.of_hau ((State.beginSwitch_hau ..).trans (State.withdrawShadow_hau _))) .rfl

theorem State.evictions_locks : s.NoNewLocks s.evictions := .each fun _ _ => State.evictStep_locks

/-! ### The end of a stream (R359, R364) -/

theorem State.obtainCopy_locks {e : Nat} {x : Entry} : s.NoNewLocks (s.obtainCopy e x) := .ite .rfl (.ite .rfl .rfl)

theorem State.reobtain_locks {k : BitVec 20} : s.NoNewLocks (s.reobtain k) := .each fun _ _ => State.obtainCopy_locks

theorem State.dropCopy_locks {k : OpCopy} : s.NoNewLocks (s.dropCopy k) := State.reobtain_locks

theorem State.cacheTrim_locks {n : Nat} : s.NoNewLocks (s.cacheTrim n) := by
  induction n generalizing s with
  | zero => exact .rfl
  | succ n ih =>
    unfold State.cacheTrim
    refine .ite .rfl ?_
    dsimp only
    split
    · exact .rfl
    · exact .after ih .rfl
    · exact .after ih State.dropCopy_locks
    · exact .after ih (.ite .rfl State.dropCopy_locks)

theorem State.copyPart_locks {e : Nat} {x : Stream} : s.NoNewLocks (s.copyPart e x) := by
  unfold State.copyPart
  split
  · exact .rfl
  · exact .ite State.reobtain_locks (.after State.reobtain_locks State.cacheTrim_locks)

theorem State.dropStream_locks {key : Nat} : s.NoNewLocks (s.dropStream key) := fun _ h => List.mem_of_mem_filter h

theorem State.endStream_locks {key : Nat} {x : Stream} : s.NoNewLocks (s.endStream key x) := by
  unfold State.endStream
  refine .trans (t := s.dropStream key) State.dropStream_locks ?_
  dsimp only
  split
  · exact .rfl
  · exact .after State.windowsGo_locks State.copyPart_locks
  · exact .rfl
  · exact .rfl

theorem State.hauLog_locks {key : Nat} {x : Stream} {st : BitVec 8} : s.NoNewLocks (s.hauLog key x st) := .of_panel (State.hauLog_panel ..)

theorem State.report_locks {e : Nat} {st : BitVec 8} {p : Bool} : s.NoNewLocks (s.report e st p) := .rfl

theorem State.failStream_locks {key : Nat} {x : Stream} {st : BitVec 8} : s.NoNewLocks (s.failStream key x st) := by
  have hlog : s.NoNewLocks (s.hauLog key x st) := State.hauLog_locks
  rw [State.failStream]
  generalize s.hauLog key x st = u at hlog ⊢
  refine .after State.teardown_notes.locks (.trans (t := u.dropStream key) (.after State.dropStream_locks hlog) ?_)
  split
  · exact .of_panel (State.reports_panel _ _ (fun l => l) _ _)
  · exact State.report_locks

theorem State.settleStream_locks {key : Nat} : s.NoNewLocks (s.settleStream key) := by
  unfold State.settleStream
  split
  · exact .rfl
  · next x _ =>
    refine .ite .rfl (.ite ?_ ?_)
    · extract_lets st u
      have hlog : s.NoNewLocks u := .after State.dropStream_locks State.hauLog_locks
      clear_value u
      split
      · exact hlog
      · exact hlog.trans State.report_locks
    · split
      · exact State.failStream_locks
      · exact .ite State.endStream_locks (.ite (.after State.evictions_locks State.parkStreams_locks) .rfl)

/-! ### The steps of a chunk (R360, R364) -/

theorem State.settleInvals_locks : s.NoNewLocks s.settleInvals :=
  .after (.each (α := Inval) (f := fun s v => s.report v.entry 0x00 false) fun _ _ => State.report_locks) .rfl

theorem State.epochDone_locks {k : BitVec 20} {e : BitVec 2} : s.NoNewLocks (s.epochDone k e) := by
  unfold State.epochDone
  refine .after State.settleInvals_locks ?_
  split <;> exact .rfl

theorem State.endChunk_locks {key n : Nat} : s.NoNewLocks (s.endChunk key n) := by
  unfold State.endChunk
  split
  · exact .rfl
  · split
    · exact .rfl
    · exact .after State.settleStream_locks (.after (.ite State.epochDone_locks .rfl) fun _ h => List.mem_of_mem_filter h)

theorem State.writePiece_locks {key : Nat} {x : Stream} {k : Chunk} {b : List Byte} {p : Piece} : s.NoNewLocks (s.writePiece key x k b p) :=
  .ite .rfl (.ite .rfl (.of_hau (State.issueTxn_hau ..)))

theorem State.dropCopies_locks {k : BitVec 20} {hit : W32 × Nat × Nat → Bool} {page : Nat → Bool} : s.NoNewLocks (s.dropCopies k hit page) :=
  State.reobtain_locks

theorem State.writeResult_locks {key : Nat} {x : Stream} {n : Nat} {b : List Byte} : s.NoNewLocks (s.writeResult key x n b) := by
  unfold State.writeResult
  split
  · exact .rfl
  · have hout {u : State} {p : Prop} [Decidable p] : u.NoNewLocks (if p then u.endChunk key n else u) := .ite State.endChunk_locks .rfl
    exact .after hout (.after State.dropCopies_locks (.after (.each fun _ _ => State.writePiece_locks) .rfl))

theorem State.fmtFlags_locks {x : Stream} {engine : Nat} {ovf flush : Bool} : s.NoNewLocks (s.fmtFlags x engine ovf flush) := by
  unfold State.fmtFlags
  refine .ite .rfl ?_
  extract_lets rise hau t u v
  have hv : s.NoNewLocks v := .trans (t := u) (.trans (t := t) .rfl (.ite .rfl .rfl)) (.ite .rfl .rfl)
  exact .ite (.after (.of_hau (State.raise_hau ..)) hv) hv

theorem State.chunkGo_locks {key n : Nat} : s.NoNewLocks (s.chunkGo key n) := by
  unfold State.chunkGo
  split
  · exact .rfl
  · split
    · exact .rfl
    · refine .ite .rfl (.ite State.endChunk_locks ?_)
      dsimp only
      split
      · exact .after State.writeResult_locks (.after State.fmtFlags_locks .rfl)
      · exact .after State.endChunk_locks .rfl

theorem State.readPiece_locks {key : Nat} {x : Stream} {k : Chunk} {p : Bool × Piece} : s.NoNewLocks (s.readPiece key x k p) :=
  .ite (.after .rfl (.ite .rfl .rfl)) (.after (.of_hau (State.issueTxn_hau ..)) .rfl)

theorem State.beginReads_locks {key n : Nat} : s.NoNewLocks (s.beginReads key n) := by
  unfold State.beginReads
  split
  · exact .rfl
  · split
    · exact .rfl
    · exact .after State.chunkGo_locks (.after (.each fun _ _ => State.readPiece_locks) .rfl)

end

end Sys2Proof.Machine

namespace Sys2Proof.Machine

theorem lget_lset_same {α : Type} (k : Nat) (v : α) : ∀ t : List (Nat × α), lget (lset t k v) k = some v
  | [] => if_pos rfl
  | (j, w) :: r => by
    unfold lset
    split
    · exact if_pos rfl
    · split
      · exact if_pos rfl
      · next hne _ => exact (if_neg hne).trans (lget_lset_same k v r)

section
variable {s : State} {e key : Nat}

/-! ## What the haul engines take (R359) -/

theorem State.stream_of_haulSlot {k : BitVec 20} (h : s.haulSlot k = some key) : s.stream key = none := by
  obtain ⟨n, -, hn⟩ := Option.bind_eq_some_iff.mp h
  obtain ⟨m, hm, rfl⟩ := Option.map_eq_some_iff.mp hn
  exact Option.isNone_iff_eq_none.mp (List.find?_some (p := fun k => (s.stream (64 * n + k)).isNone) hm)

/-- An operation is taken where the engines have room for it. -/
theorem State.slot_of_nextTake {t : Take} (h : s.nextTake = some t) : ∃ key, s.haulSlot t.ctx = some key := by
  obtain ⟨hmem, -⟩ := leastBy_spec _ _ _ h
  obtain ⟨-, hroom⟩ := List.mem_filter.mp hmem
  exact Option.isSome_iff_exists.mp hroom

theorem State.haulTake_into {t : Take} (h : s.haulSlot t.ctx = some key) : s.haulTake t = s.takeInto t key := by
  unfold State.haulTake
  rw [h]

theorem exec_haulTake {t : Take} (hfe : s.feRuns = true) (h : s.nextTake = some t) : exec .haulTake s = .next (s.haulTake t) := by
  refine congrArg Host.Outcome.next ((if_neg (by simp [hfe])).trans ?_)
  rw [h]

theorem State.placeStream_stream (y : Stream) : ∃ z, (s.placeStream key y).stream key = some z ∧ z.kind = y.kind ∧ z.entry = y.entry ∧ z.ctx = y.ctx ∧
    z.chunks = y.chunks := by
  refine ⟨_, lget_lset_same _ _ _, ?_⟩
  split <;> exact ⟨rfl, rfl, rfl, rfl⟩

/-- A stream of its own kind serves the entry that is taken. -/
theorem State.entryStream_takes {x : Entry} (hx : s.entry e = some x) : ∃ z, (s.entryStream e key x).stream key = some z ∧
    z.kind = (if x.actKind ≠ kHaul then .load else .haul) ∧ z.entry = e ∧ z.ctx = x.ctx ∧ z.chunks = [] ∧
    (s.entryStream e key x).entry e = some { x with state := .issued, startFc := s.fe.cycles } ∧
    s.entryStream e key x = { s with
      lnd := { s.lnd with entries := (s.entryStream e key x).lnd.entries }, hau := (s.entryStream e key x).hau } := by
  unfold State.entryStream
  extract_lets load h y
  obtain ⟨z, hz, hkind, hentry, hctx, hchunks⟩ := State.placeStream_stream (s := s.issue e) (key := key) y
  exact ⟨z, hz, hkind.trans (by simp [y, load]), hentry, hctx, hchunks, State.issue_entry hx, rfl⟩

/-! ## Chunks (R360 to R362) -/

theorem State.physicalChunk_stream {n : Nat} {x : Stream} : (s.physicalChunk key x).stream n = s.stream n := by
  have hkept (t : Txn) : (s.issueTxn t).stream n = s.stream n := congrArg (fun h : Hau => lget h.streams n) (State.issueTxn_hau ..)
  unfold State.physicalChunk
  dsimp only
  split <;> exact hkept _

/-- The access of a physical chunk is issued by its engine, at the stream's address. -/
theorem State.physicalChunk_issues {x : Stream} : ∃ w ∈ (s.physicalChunk key x).mp.txns ++ (s.physicalChunk key x).mp.waiting,
    w.source = BitVec.ofNat 6 (key / 64) ∧ w.pa = x.srcVa := by
  have hsent (t : Txn) : ∃ w ∈ (s.issueTxn t).mp.txns ++ (s.issueTxn t).mp.waiting, w.source = t.source ∧ w.pa = t.pa := by
    obtain ⟨w, hmem, hw⟩ := State.issueTxn_pends (s := s) t
    exact ⟨w, hmem, (congrArg Txn.source hw).trans rfl, (congrArg Txn.pa hw).trans rfl⟩
  unfold State.physicalChunk
  dsimp only
  split <;> exact hsent _

section
variable {engine : BitVec 4} {slot : BitVec 6} {x : Stream}

theorem exec_chunkStart_skip (hx : s.stream (64 * engine.toNat + slot.toNat) = some x)
    (hmay : s.chunkMayStart (64 * engine.toNat + slot.toNat) x = true) (hskip : x.next ∈ x.skip) :
    exec (.chunkStart engine slot) s = .next ((s.updStream (64 * engine.toNat + slot.toNat) (fun y => { y with next := y.next + 1 })).settleStream
      (64 * engine.toNat + slot.toNat)) := by
  refine congrArg Host.Outcome.next ?_
  dsimp only
  rw [hx]
  exact (if_neg (by simp [hmay])).trans (if_pos (by simp [hskip]))

/-- A stream whose next chunk may start translates none. -/
theorem State.translating_of_mayStart (hmay : s.chunkMayStart key x = true) : x.translating.isSome = false := by
  cases htr : x.translating with
  | none => rfl
  | some k => simp [State.chunkMayStart, htr] at hmay

end

/-! ## Line locks (R355) -/

theorem State.tryLocks_none {n : Nat} {x : Stream} {k : Chunk} (hx : s.stream key = some x) (hk : x.chunk n = some k)
    (h : ∃ a ∈ s.chunkLines x k, ∃ b ∈ s.hau.locks, b.1 = a) : s.tryLocks key n = none := by
  unfold State.tryLocks
  rw [hx]
  dsimp only
  rw [hk]
  exact if_pos (by simpa using h)

/-- The chunk that has its lines. -/
def State.lockLines (s : State) (key n : Nat) (lines : List Nat) : State :=
  { s with hau := { s.hau with
    locks := s.hau.locks ++ lines.map (fun a => (a, key, n))
    lockQueue := s.hau.lockQueue.filter (fun q => !(q.1 = key && q.2 = n)) } }

theorem State.tryLocks_some {n : Nat} {x : Stream} {k : Chunk} (hx : s.stream key = some x) (hk : x.chunk n = some k)
    (h : ∀ a ∈ s.chunkLines x k, ∀ b ∈ s.hau.locks, b.1 ≠ a) : s.tryLocks key n = some (s.lockLines key n (s.chunkLines x k)) := by
  unfold State.tryLocks
  rw [hx]
  dsimp only
  rw [hk]
  refine if_neg fun hheld => ?_
  obtain ⟨a, ha, hany⟩ := List.any_eq_true.mp hheld
  obtain ⟨b, hb, heq⟩ := List.any_eq_true.mp hany
  exact h a ha b hb (of_decide_eq_true heq)

/-- A chunk that has its lines waits for locks no more, whatever its reads lead to. -/
theorem State.lockLines_reads {n : Nat} {lines : List Nat} : (key, n) ∉ ((s.lockLines key n lines).beginReads key n).hau.lockQueue := by
  intro h
  obtain ⟨-, hne⟩ := List.mem_filter.mp (State.beginReads_locks _ h)
  simp at hne

section
variable {engine : BitVec 4} {slot : BitVec 6} {n : Nat} {rest : List (Nat × Nat)}

theorem exec_lineLockAcquire_some {t : State} (hfe : s.feRuns = true) (hqueue : s.hau.lockQueue = (64 * engine.toNat + slot.toNat, n) :: rest)
    (h : s.tryLocks (64 * engine.toNat + slot.toNat) n = some t) :
    exec (.lineLockAcquire engine slot) s = .next (t.beginReads (64 * engine.toNat + slot.toNat) n) := by
  refine congrArg Host.Outcome.next ?_
  rw [hqueue]
  refine (if_neg (by simp [hfe])).trans ?_
  rw [h]

theorem exec_lineLockAcquire_none (hfe : s.feRuns = true) (hqueue : s.hau.lockQueue = (64 * engine.toNat + slot.toNat, n) :: rest)
    (h : s.tryLocks (64 * engine.toNat + slot.toNat) n = none) : exec (.lineLockAcquire engine slot) s = .next s := by
  refine congrArg Host.Outcome.next ?_
  rw [hqueue]
  refine (if_neg (by simp [hfe])).trans ?_
  rw [h]

end

/-! ## A fault record that is written again (R438) -/

theorem State.writeRecordAt_xlt (r : FaultRec) : (s.writeRecordAt r).xlt = s.xlt := by
  rw [State.writeRecordAt, State.ringWrite, State.mpWrite, State.issueTxn_frame]

/-! ## The loader (R340, R341) -/

theorem State.traceLoad_lnd {c : BitVec 6} {x : Entry} {last st : Nat} : (s.traceLoad c x last st).lnd = s.lnd :=
  State.each_keeps State.lnd _ _ _ fun _ _ => State.trace_lnd ..

theorem State.traceLoad_entry {c : BitVec 6} {x : Entry} {last st : Nat} : (s.traceLoad c x last st).entry e = s.entry e :=
  congrArg (fun l : Lnd => lget l.entries e) State.traceLoad_lnd

/-- The binding of load `x` takes its image and pages. -/
def State.bindPages (s : State) (x : Entry) (m : Image) (pages : List Nat) : State :=
  { s with lnd := { s.lnd with
    freePages := s.lnd.freePages - BitVec.ofNat 24 ((m.size + 4095) / 4096)
    bindings := s.lnd.bindings.map (fun (y : Binding) => if x.ownBinding y then { y with image := m, pages } else y) } }

/-- What the loader does with a load whose image passes its checks (R340). -/
def State.loadImage (s : State) (e : Nat) (x : Entry) (c : BitVec 6) (m : Image) : State :=
  let n := (m.size + 4095) / 4096
  if s.lnd.freePages.toNat < n || (s.backingPages n).length < n then (s.traceLoad c x 10 0x09).rejectLoad e x 0x12 0
  else ((((s.traceLoad c x 10 0).updEntry e (fun y => { y with phase := 2, loader := some c })).bindPages x m (s.backingPages n)).writeImage
      x m (s.backingPages n))

/-- What the loader makes of the checks of an image. -/
def State.loaded (s : State) (e : Nat) (x : Entry) (c : BitVec 6) : Except (Nat × Nat) Image → State
  | .error (code, n) => (s.traceLoad c x (rejectStep code) 0x09).rejectLoad e x (BitVec.ofNat 8 code) (rejectRecord code n)
  | .ok m => s.loadImage e x c m

theorem exec_loaderRun {x : Entry} {c : BitVec 6} (hx : s.entry e = some x) (hkind : x.kind = kProgramLoad) (hstate : x.state = .issued)
    (hphase : x.phase = 1) (hrep : x.report = none) (htorn : x.torn = false) (hfe : s.feRuns = true) (hcore : s.loaderCore e x = some c) :
    exec (.loaderRun e) s = .next (s.loaded e x c (verifyImage x.staged s.fwc.caps)) := by
  refine congrArg Host.Outcome.next ?_
  rw [hx]
  refine (if_neg (by simp [hkind, hstate, hphase, hrep, htorn, hfe])).trans ?_
  rw [hcore]
  dsimp only
  cases verifyImage x.staged s.fwc.caps with
  | error p => rfl
  | ok m => rfl

/-- A load that is rejected is counted, and its entry ends with VERIFY_REJECT. -/
theorem State.rejectLoad_rejects {x y : Entry} {code : BitVec 8} {record : Nat} (hy : s.entry e = some y) (hrep : y.report = none) :
    (s.rejectLoad e x code record).entry e = some { y with report := some (0x09, false) } ∧
    (s.rejectLoad e x code record).lnd.rejects = s.lnd.rejects + 1 ∧ (s.rejectLoad e x code record).lnd.freePages = s.lnd.freePages := by
  unfold State.rejectLoad
  extract_lets p lnd u
  have hu : u.entry e = some y := hy
  have hcount : u.lnd.rejects = s.lnd.rejects + 1 := rfl
  have hpages : u.lnd.freePages = s.lnd.freePages := rfl
  clear_value u
  exact ⟨State.report_entry _ _ hu hrep, hcount, hpages⟩

theorem State.writeImage_keeps {x : Entry} {m : Image} {pages : List Nat} :
    (s.writeImage x m pages).lnd.entries = s.lnd.entries ∧ (s.writeImage x m pages).lnd.freePages = s.lnd.freePages ∧
    (s.writeImage x m pages).lnd.bindings = s.lnd.bindings := by
  have hkept : ∀ u : State, ∀ l : List (Nat × Nat), (u.each l (fun s p => s.ringWrite (some (s.ctx x.ctx).partition) 0 (4096 * (s.lnd.backPfn.toNat + p.1))
      (slice m.bytes (4096 * p.2) 4096) (.imageWrite x.ord))).lnd = u.lnd :=
    fun u l => State.each_keeps State.lnd _ _ _ fun _ _ => by rw [State.ringWrite, State.mpWrite, State.issueTxn_frame]
  unfold State.writeImage
  rw [hkept]
  exact ⟨rfl, rfl, rfl⟩

/-- A good image takes its pages, and its load goes on. -/
theorem State.loadImage_takes {x : Entry} {c : BitVec 6} {m : Image} (hfree : (m.size + 4095) / 4096 ≤ s.lnd.freePages.toNat)
    (hpages : (m.size + 4095) / 4096 ≤ (s.backingPages ((m.size + 4095) / 4096)).length) :
    (s.loadImage e x c m).lnd.entries = lupd s.lnd.entries e (fun y => { y with phase := 2, loader := some c }) ∧
    (s.loadImage e x c m).lnd.freePages = s.lnd.freePages - BitVec.ofNat 24 ((m.size + 4095) / 4096) ∧
    (s.loadImage e x c m).lnd.bindings = s.lnd.bindings.map (fun (y : Binding) =>
      if x.ownBinding y then { y with image := m, pages := s.backingPages ((m.size + 4095) / 4096) } else y) := by
  let u := (s.traceLoad c x 10 0).updEntry e (fun y => { y with phase := 2, loader := some c })
  obtain ⟨hentries, hleft, hbindings⟩ := State.writeImage_keeps (s := u.bindPages x m (s.backingPages ((m.size + 4095) / 4096))) (x := x) (m := m)
    (pages := s.backingPages ((m.size + 4095) / 4096))
  rw [State.loadImage, if_neg (by simpa using ⟨hfree, hpages⟩)]
  refine ⟨hentries.trans ?_, hleft.trans ?_, hbindings.trans ?_⟩
  · exact congrArg (fun l : Lnd => lupd l.entries e (fun y => { y with phase := 2, loader := some c })) State.traceLoad_lnd
  · have hfreePages : (s.traceLoad c x 10 0).lnd.freePages = s.lnd.freePages := congrArg Lnd.freePages State.traceLoad_lnd
    exact congrArg (fun w => w - BitVec.ofNat 24 ((m.size + 4095) / 4096)) hfreePages
  · have hu : (s.traceLoad c x 10 0).lnd.bindings = s.lnd.bindings := congrArg Lnd.bindings State.traceLoad_lnd
    exact congrArg (List.map (fun (y : Binding) =>
      if x.ownBinding y then { y with image := m, pages := s.backingPages ((m.size + 4095) / 4096) } else y)) hu

end

end Sys2Proof.Machine

section
open Sys2Proof Sys2Proof.Machine

/-- Settles O49: each clause is the operation's own step, once the state has been read; a chunk with its lines comes to wait for locks no
more, because only the end of a translation lets a chunk wait. -/
theorem haulEnginesTakeAndStartChunks : Obligations.HaulEnginesTakeAndStartChunks := by
  intro s _ hfe
  refine ⟨fun e x htake hx => ?_, fun i x htake => ?_, fun htake => ?_, fun engine slot => ?_, fun f r hf hr hdue hout => ?_, fun e x c hx hkind hstate hphase hrep htorn hcore => ?_⟩
  · obtain ⟨key, hslot⟩ := State.slot_of_nextTake htake
    have hrun := (exec_haulTake hfe htake).trans (congrArg Host.Outcome.next (State.haulTake_into hslot))
    constructor
    · intro hwrap
      obtain ⟨z, hz, -, hentry, hctx, hchunks, hissued, hframe⟩ := State.entryStream_takes (key := key) hx
      exact ⟨_, key, z, hrun.trans (congrArg Host.Outcome.next (if_neg (by simp [hwrap]))), hissued, State.stream_of_haulSlot hslot, hz, hentry, hctx, hchunks, hframe⟩
    · intro hwrap
      refine ⟨_, hrun.trans (congrArg Host.Outcome.next (if_pos hwrap)), rfl, rfl, fun hrep => ?_⟩
      obtain ⟨hreport, -⟩ := State.rejectLoad_rejects (x := x) (code := 0x13) (record := 0) (State.issue_entry hx) hrep
      rw [hreport]
      rfl
  · obtain ⟨key, hslot⟩ := State.slot_of_nextTake htake
    exact ⟨_, key, _, (exec_haulTake hfe htake).trans (congrArg Host.Outcome.next (State.haulTake_into hslot)), State.stream_of_haulSlot hslot,
      lget_lset_same _ _ _, rfl, rfl, rfl, rfl, rfl⟩
  · refine congrArg Host.Outcome.next ((if_neg (by simp [hfe])).trans ?_)
    rw [htake]
  · intro key
    refine ⟨fun x hx hmay => ?_, fun n rest x k hqueue hx hk => ?_⟩
    · intro chunk o run
      have hstart : x.next ∉ x.skip → run = .next (if x.kind.virtual then (if x.translating.isSome then o.epochTake x.ctx (s.epoch x.ctx)
          else (o.epochTake x.ctx (s.epoch x.ctx)).translateOn key) else o.physicalChunk key x) := by
        intro hskip
        refine congrArg Host.Outcome.next ?_
        dsimp only
        rw [show s.stream (64 * engine.toNat + slot.toNat) = some x from hx]
        exact (if_neg (by simp [key, hmay])).trans (if_neg (by simp [hskip]))
      refine ⟨fun hskip hchunks => ?_, exec_chunkStart_skip hx hmay, fun hskip hvirtual => ?_, fun hskip hphysical => ?_⟩
      · have hnext : (s.updStream key (fun y => { y with next := y.next + 1 })).stream key = some { x with next := x.next + 1 } := by
          rw [State.updStream_same, hx]
          rfl
        exact ⟨_, (exec_chunkStart_skip hx hmay hskip).trans (congrArg Host.Outcome.next (State.settleStream_busy hnext hchunks)), hnext, rfl⟩
      · exact (hstart hskip).trans (congrArg Host.Outcome.next ((if_pos hvirtual).trans (if_neg (by simp [State.translating_of_mayStart hmay]))))
      · refine ⟨_, (hstart hskip).trans (congrArg Host.Outcome.next (if_neg (by simp [hphysical]))), rfl, ?_, ?_⟩
        · rw [State.physicalChunk_stream, State.updStream_same, hx]
          rfl
        · obtain ⟨w, hw, hsource, hpa⟩ := State.physicalChunk_issues (s := o) (key := key) (x := x)
          refine ⟨w, hw, hsource.trans ?_, hpa⟩
          have hengine : key / 64 = engine.toNat := by omega
          rw [hengine]
          exact BitVec.eq_of_toNat_eq (by simp)
    · intro lines
      constructor
      · intro hfree
        exact ⟨_, _, exec_lineLockAcquire_some hfe hqueue (State.tryLocks_some hx hk hfree), rfl, rfl, State.lockLines_reads⟩
      · intro hheld
        exact exec_lineLockAcquire_none hfe hqueue (State.tryLocks_none hx hk hheld)
  · have hrun : exec .slashRingRetry s = .next (State.writeRecordAt { s with xlt := { s.xlt with failedFc := some s.fc } } r) := by
      refine congrArg Host.Outcome.next ?_
      rw [hf, hr]
      exact if_pos (by simpa [hdue, hfe, or_imp, forall_and] using hout)
    refine ⟨_, hrun, ?_, ?_, ?_, ?_⟩
    · rw [State.writeRecordAt_xlt]
    · rw [State.writeRecordAt_xlt]
      exact hr
    · rw [State.writeRecordAt_xlt]
    · exact State.issueTxn_mem ..
  · intro run
    have hstep := exec_loaderRun hx hkind hstate hphase hrep htorn hfe hcore
    refine ⟨fun code n herror => ?_, fun m hok => ?_⟩
    · rw [herror] at hstep
      have hentry : (s.traceLoad c x (rejectStep code) 0x09).entry e = some x := State.traceLoad_entry.trans hx
      obtain ⟨hreport, hcount, hpages⟩ := State.rejectLoad_rejects (x := x) (code := BitVec.ofNat 8 code) (record := rejectRecord code n) hentry hrep
      exact ⟨_, hstep, rfl, hreport, hcount.trans (congrArg (fun l : Lnd => l.rejects + 1) State.traceLoad_lnd),
        hpages.trans (congrArg Lnd.freePages State.traceLoad_lnd)⟩
    · intro n
      rw [hok] at hstep
      refine ⟨fun hfew => ?_, fun henough hpages hsmall => ?_⟩
      · have hentry : (s.traceLoad c x 10 0x09).entry e = some x := State.traceLoad_entry.trans hx
        obtain ⟨hreport, hcount, hkept⟩ := State.rejectLoad_rejects (x := x) (code := 0x12) (record := 0) hentry hrep
        exact ⟨_, hstep.trans (congrArg Host.Outcome.next (if_pos (by simpa using Or.inl hfew))), rfl, hreport,
          hcount.trans (congrArg (fun l : Lnd => l.rejects + 1) State.traceLoad_lnd), hkept.trans (congrArg Lnd.freePages State.traceLoad_lnd)⟩
      · obtain ⟨hentries, hfree, hbindings⟩ := State.loadImage_takes (e := e) (x := x) (c := c) henough hpages
        refine ⟨_, hstep, ?_, fun d hd => ?_, ?_, hbindings⟩
        · show lget (s.loadImage e x c m).lnd.entries e = _
          rw [hentries, lget_lupd_same, show lget s.lnd.entries e = some x from hx]
          rfl
        · show lget (s.loadImage e x c m).lnd.entries d = _
          rw [hentries, lget_lupd_ne _ _ _ hd]
          rfl
        · show (s.loadImage e x c m).lnd.freePages.toNat + n = _
          rw [hfree]
          have hn : (BitVec.ofNat 24 n).toNat = n := Nat.mod_eq_of_lt hsmall
          rw [BitVec.toNat_sub_of_le (BitVec.le_def.mpr (hn.trans_le henough)), hn]
          exact Nat.sub_add_cancel henough

end

namespace Sys2Proof.Machine

/-! ## A release whose entry a reclaim knows (R294, R123)

A graph that is released gives back its references, and the last reference of a retired object starts the object's reclaim, which takes
the entry that it belongs to into its next phase. Where that entry is the GRAPH_RELEASE itself, the release changes more of its entry than
its issue and its report. -/

/-- A READY GRAPH_RELEASE of graph 0 of context 0, in phase 1. -/
def phasedRelease : Entry := { img := BitVec.ofNat 512 (kGraphRelease * 2 ^ 136), state := .ready, phase := 1 }

/-- Graph 0 of context 0 is ready for its release, and the object of its one reference retires with entry 0. -/
def reclaimingState : State :=
  { State.reset with
    lnd := { State.reset.lnd with
      entries := [(0, phasedRelease)]
      graphs := [(0, { claimed := true, releasing := true, loaded := true, releases := [0], refs := [0] })] }
    xlt := { State.reset.xlt with retiring := [{ ctx := 0, handle := 0, entry := some 0, wr := false, rd := false }] } }

theorem reclaimingState_inv : reclaimingState.Inv := by
  have h := resetMeetsTheInvariant
  unfold Obligations.ResetMeetsTheInvariant at h
  obtain ⟨h, -⟩ := h
  exact { h with graphs := by decide +kernel }

/-- The phase of entry `e` after a step. -/
def phaseAfter (e : Nat) : Host.Outcome State Fault Refusal → Option Nat
  | .next t => (t.entry e).map (fun y => y.phase)
  | _ => none

theorem reclaimingState_phaseAfter : phaseAfter 0 (exec (.graphRelease (.execute 0)) reclaimingState) = some 2 := by decide +kernel

end Sys2Proof.Machine

section
open Sys2Proof Sys2Proof.Machine

/-- Refutes O47: a GRAPH_RELEASE whose own entry is to reclaim an object of the graph ends in another phase than it was READY in. -/
theorem not_loadsGraphsHaulsAndLaunchesExecute : ¬ Obligations.LoadsGraphsHaulsAndLaunchesExecute := by
  intro h
  obtain ⟨-, -, -, hrelease, -⟩ := h reclaimingState 0 phasedRelease reclaimingState_inv (by decide +kernel) (by decide +kernel)
  obtain ⟨hreleased, -⟩ := hrelease (by decide +kernel) (by decide +kernel) (by decide +kernel)
  obtain ⟨t, hrun, -, hentry⟩ := hreleased (by decide +kernel) (by decide +kernel) (by decide +kernel) (by decide +kernel) (by decide +kernel)
  have hphase : phaseAfter 0 (.next t) = some 2 := (congrArg (phaseAfter 0) hrun).symm.trans reclaimingState_phaseAfter
  have hkept : (t.entry 0).map (fun y => y.phase) = some 1 := by
    rw [hentry]
    rfl
  exact absurd (hkept.symm.trans hphase) (by decide)

end

namespace Sys2Proof.Machine

/-! ## The routine step (R154, R168, R202, R203)

Every opcode's routine is the same step of the state's own routine description. -/

section
variable {s : State} {t : BitVec 4} {op : Nat} {y : Routine}

/-- The records that the routine reads and has not read yet. -/
def State.recordsLeft (s : State) (t : BitVec 4) (y : Routine) : List (Nat × Nat) := y.notes.drop ((s.thread t).readsOf (fun g => g = 2 || g = 3))

/-- The parameter Blazes that the routine reads and has not read yet. -/
def State.blazesLeft (s : State) (t : BitVec 4) (y : Routine) : List (BitVec 16) := y.blazes.drop ((s.thread t).readsOf (fun g => g = 6))

theorem State.routine_const {f : State → Routine} : s.routine t op f = s.routine t op (fun _ => f s) := rfl

theorem exec_routine {i : Instr} {f : State → Routine} (h : exec i s = .next (s.routine t op f)) (hy : f s = y) :
    exec i s = .next (s.routine t op (fun _ => y)) := by
  rw [h, State.routine_const, hy]

theorem State.routine_reads {r : Nat × Nat} {l : List (Nat × Nat)} (hat : s.atRoutine t op = true) (h : s.recordsLeft t y = r :: l) :
    s.routine t op (fun _ => y) = s.readRecord t r.1 r.2 := by
  refine (if_neg (by simp [hat])).trans ?_
  rw [State.recordsLeft] at h
  dsimp only
  rw [h]

section
variable (hat : s.atRoutine t op = true) (hrec : s.recordsLeft t y = [])
include hat hrec

theorem State.routine_checks : s.routine t op (fun _ => y) = if y.bad then s.reject t 0x04 else
    if (s.resolveAll (s.queue (s.thread t).queue).ctx t y.handles 0).2 then (s.resolveAll (s.queue (s.thread t).queue).ctx t y.handles 0).1
    else (s.resolveAll (s.queue (s.thread t).queue).ctx t y.handles 0).1.routineEnd t y := by
  refine (if_neg (by simp [hat])).trans ?_
  rw [State.recordsLeft] at hrec
  dsimp only
  rw [hrec]

/-- Records read, no condition failed and every handle cached, the routine ends. -/
theorem State.routine_ends (hbad : y.bad = false) (hdone : (s.resolveAll (s.queue (s.thread t).queue).ctx t y.handles 0).2 = false) :
    s.routine t op (fun _ => y) = (s.resolveAll (s.queue (s.thread t).queue).ctx t y.handles 0).1.routineEnd t y :=
  (State.routine_checks hat hrec).trans ((if_neg (by simp [hbad])).trans (if_neg (by simp [hdone])))

end

theorem State.routineEnd_reads {n : BitVec 16} {l : List (BitVec 16)} (hpast : y.range (y.handles.map (s.threadObj t)) = false)
    (h : s.blazesLeft t y = n :: l) : s.routineEnd t y =
    (s.updThread t (fun x => { x with reject := s.paramBlazes (s.queue (s.thread t).queue).ctx [n] })).readRecord t 6 n.toNat := by
  refine (if_neg (by simp [hpast])).trans ?_
  rw [State.blazesLeft] at h
  rw [h]

theorem State.routineEnd_admits (hpast : y.range (y.handles.map (s.threadObj t)) = false) (h : s.blazesLeft t y = []) : s.routineEnd t y =
    (s.updThread t (fun x => { x with img := headerImage x.pkt ||| y.payload (s.refOf t) })).admitPacket t y.kind y.n y.acts y.ta := by
  refine (if_neg (by simp [hpast])).trans ?_
  rw [State.blazesLeft] at h
  rw [h]

/-- A record that is read makes its thread wait for the Deck. -/
theorem State.readRecord_waits (region key : Nat) (hw : tblWf {} s.uc.threads = true) : ((s.readRecord t region key).thread t).trap = some .deckWait :=
  congrArg Thread.trap (State.park_thread_same (s := s.updThread t (fun x => { x with reads := x.reads ++ [(region, key, s.lnd.commits)] })) t .deckWait
    (tupd_wf _ _ t.toNat (fun x : Thread => { x with reads := x.reads ++ [(region, key, s.lnd.commits)] }) hw))

end

end Sys2Proof.Machine

section
open Sys2Proof Sys2Proof.Machine

/-- Settles O43: each of the opcodes runs the one routine step with its own description, and the step's branches are the clauses. -/
theorem routinesCheckAndAdmitTheirPacket : Obligations.RoutinesCheckAndAdmitTheirPacket := by
  intro s t hI pkt c target rows p hp hat hcond y run
  have hrows : ∀ p ∈ rows, p.2.2.2 → Sys2Proof.Machine.exec p.2.1 s = .next (s.routine t p.1 (fun _ => p.2.2.1)) := by
    simp only [rows, List.forall_mem_cons]
    refine ⟨fun _ => exec_routine rfl rfl, fun _ => exec_routine rfl rfl, fun _ => exec_routine rfl rfl, fun _ => exec_routine rfl rfl, fun _ => exec_routine rfl rfl,
      fun _ => exec_routine rfl rfl, fun _ => exec_routine rfl rfl, fun _ => exec_routine rfl rfl, fun _ => exec_routine rfl rfl, fun _ => exec_routine rfl rfl,
      fun _ => exec_routine rfl rfl, fun _ => exec_routine rfl rfl, fun _ => exec_routine rfl rfl, fun _ => exec_routine rfl rfl, fun _ => exec_routine rfl rfl,
      fun _ => exec_routine rfl rfl, fun _ => exec_routine rfl rfl, fun _ => exec_routine rfl rfl, fun h => ?_, fun h => ?_, fun h => ?_, List.forall_mem_nil _⟩
    · exact congrArg Host.Outcome.next ((if_pos (by simpa [target] using h)).trans State.routine_const)
    · exact congrArg Host.Outcome.next ((if_pos (by simpa [target] using h)).trans State.routine_const)
    · exact congrArg Host.Outcome.next ((if_pos (by simpa [target] using h)).trans State.routine_const)
  have hrun : run = .next (s.routine t p.1 (fun _ => y)) := hrows p hp hcond
  intro r u past records blazes a q
  have hu : u.Inv := State.resolveAll_inv _ _ _ _ _ hI
  have hends : records = [] → y.bad = false → r.2 = false → run = .next (u.routineEnd t y) :=
    fun hrec hbad hdone => hrun.trans (congrArg Host.Outcome.next (State.routine_ends hat hrec hbad hdone))
  have hadmits (hrec : records = []) (hbad : y.bad = false) (hdone : r.2 = false) (hpast : past = false) (hblazes : blazes = []) :
      run = .next (a.admitPacket t y.kind y.n y.acts y.ta) :=
    (hends hrec hbad hdone).trans (congrArg Host.Outcome.next (State.routineEnd_admits hpast hblazes))
  refine ⟨fun k l hrec => ?_, fun hrec hbad => ?_, fun hrec hbad hmore => ?_, fun hrec hbad hdone hpast => ?_, fun hrec hbad hdone hpast n l hblazes => ?_,
    hadmits, fun hrec hbad hdone hpast hblazes htrap hopen hconflict hfails hbound => ?_⟩
  · exact ⟨_, hrun.trans (congrArg Host.Outcome.next (State.routine_reads hat hrec)), rfl, State.readRecord_waits _ _ hI.threads⟩
  · exact hrun.trans (congrArg Host.Outcome.next ((State.routine_checks hat hrec).trans (if_pos hbad)))
  · exact hrun.trans (congrArg Host.Outcome.next ((State.routine_checks hat hrec).trans ((if_neg (by simp [hbad])).trans (if_pos hmore))))
  · exact (hends hrec hbad hdone).trans (congrArg Host.Outcome.next (if_pos hpast))
  · exact (hends hrec hbad hdone).trans (congrArg Host.Outcome.next (State.routineEnd_reads hpast hblazes))
  · obtain ⟨hserial, hrp, hfree⟩ := State.commit_consumes (s := a) t y.kind y.n y.acts y.ta (State.updThread_inv _ _ hu)
    exact ⟨_, (hadmits hrec hbad hdone hpast hblazes).trans (congrArg Host.Outcome.next
      (State.admitPacket_commits ⟨htrap, hopen, hconflict⟩ hfails hbound)), rfl, hserial, hrp, hfree⟩

end

namespace Sys2Proof.Machine

section
variable {s : State} {t : BitVec 4}

/-! ## The ends of a trap (R206) -/

theorem exec_deckWait (htrap : (s.thread t).trap = some .deckWait) : exec (.deckWait t) s = .next (
    let u := s.updThread t (fun x => { x with trap := none, drd := none })
    let v := match (s.thread t).drd with | some (r, w) => u.uSet t r w | none => u
    match (s.thread t).reject with | some st => v.reject t st | none => v) :=
  congrArg Host.Outcome.next (if_pos htrap)

/-- The Deck's word goes into its register as the trap clears (R201). -/
theorem exec_deckWait_word {r : Nat} {v : W64} (hI : s.Inv) (htrap : (s.thread t).trap = some .deckWait) (hreject : (s.thread t).reject = none)
    (hdrd : (s.thread t).drd = some (r, v)) : exec (.deckWait t) s = .next (s.updThread t (fun x => { x with
      trap := none, drd := none, regs := if 0 < r ∧ r < 24 then x.regs.setIfInBounds r v else x.regs })) := by
  rw [exec_deckWait htrap, hreject, hdrd]
  refine congrArg Host.Outcome.next ((State.updThread_twice _ _ _ _ hI.threads).trans ?_)
  simp

/-- A microword that cannot be corrected is noted, and asks for a front-end reset (R195). -/
theorem State.ucUncorr_notes (hu : s.uc.csUncorr = false) (hserv : s.fwc.state ≠ .outOfService) (hnew : ∀ a ∈ s.fwc.asked, a.1 ≠ kindFrontEnd) :
    s.ucUncorr.irq.pending.getLsbD 0x00D = true ∧ s.ucUncorr = { s with
      uc := { s.uc with csUncorr := true }, fwc := { s.fwc with asked := s.fwc.asked ++ [(kindFrontEnd, 0x04)] }
      irq := { s.irq with pending := s.ucUncorr.irq.pending }, pwr := s.ucUncorr.pwr
      fe := { s.fe with flagsFc := s.ucUncorr.fe.flagsFc, flagsSet := s.ucUncorr.fe.flagsSet } } := by
  have hraised := State.raise_frame { s with uc := { s.uc with csUncorr := true } } 0x00D
  have hsets := State.raise_sets { s with uc := { s.uc with csUncorr := true } } 0x00D 0x00D (by decide)
  rw [State.ucUncorr_first hu hserv hnew]
  generalize State.raise { s with uc := { s.uc with csUncorr := true } } 0x00D = r at hraised hsets ⊢
  refine ⟨hsets.trans (by simp), ?_⟩
  rw [hraised]
  rfl

end

end Sys2Proof.Machine

section
open Sys2Proof Sys2Proof.Machine

/-- Settles O42: each trap's end is its step's own branch, and the faults are those of the control store. -/
theorem trapsResumeTheirThread : Obligations.TrapsResumeTheirThread := by
  intro s t hI th free
  refine ⟨fun hreject => ⟨fun htrap => ?_, fun htrap hmiss => ?_, fun htrap hturn => ?_, fun htrap => ?_⟩, fun st hreject htrap hdrd => ?_,
    fun htrap hlock => ?_, fun htrap hmiss => ?_, fun htrap hheld => ?_, fun htrap hlock => ?_, fun hfe hchosen hrun => ?_,
    fun hfe hchosen hfirst hserv hnew => ?_, fun hbusy htrap hreject hop hcount => ?_⟩
  · cases hdrd : th.drd with
    | none =>
      rw [exec_deckWait htrap, show (s.thread t).reject = none from hreject, show (s.thread t).drd = none from hdrd]
    | some p => exact exec_deckWait_word hI htrap hreject hdrd
  · refine congrArg Host.Outcome.next ((if_pos (by simpa using ⟨htrap, hmiss⟩)).trans ?_)
    dsimp only
    rw [show (s.thread t).reject = none from hreject]
  · refine congrArg Host.Outcome.next ((if_pos (by simpa using ⟨htrap, hturn⟩)).trans ?_)
    dsimp only
    rw [show (s.thread t).reject = none from hreject]
  · refine congrArg Host.Outcome.next ((if_pos htrap).trans ?_)
    dsimp only
    rw [show (s.thread t).reject = none from hreject]
  · rw [exec_deckWait htrap, hreject, hdrd]
  · exact congrArg Host.Outcome.next (if_pos (by simpa using ⟨htrap, hlock⟩))
  · exact congrArg Host.Outcome.next (if_neg (by simpa using fun _ => hmiss))
  · exact congrArg Host.Outcome.next (if_neg (by simp [hheld]))
  · exact congrArg Host.Outcome.next (if_neg fun h => hlock (by simpa using Bool.and_elim_right h))
  · refine congrArg Host.Outcome.next ((if_neg (by simp [hfe, hchosen])).trans ((if_neg Bool.false_ne_true).trans (if_pos ?_)))
    simpa using hrun
  · obtain ⟨hpending, hframe⟩ := State.ucUncorr_notes hfirst hserv hnew
    exact ⟨_, congrArg Host.Outcome.next ((if_neg (by simp [hfe, hchosen])).trans (if_pos rfl)), hpending, hframe⟩
  · refine congrArg Host.Outcome.next (if_pos ?_)
    simpa using ⟨⟨⟨⟨hbusy, htrap⟩, hreject⟩, hop⟩, hcount⟩

end
